-- ==== Sys2Proof/Word.lean ====
section
/-! DEFINITION. Word.lean: the register word, the byte, and the sparse list that holds every addressed memory of the block. -/

namespace Sys2Proof

/-- A register, a signal, a program word: 32 bits, bit 0 the least significant (ch. 0, Notation). -/
abbrev Word := BitVec 32

/-- A byte of the embedded store (R549). -/
abbrev Byte := BitVec 8

/-- An addressed memory: (key, word) pairs, keys strictly rising, no entry equal to what an unlisted key reads as. -/
abbrev Sparse := List (Nat × Word)

end Sys2Proof
end

