-- ==== Sys2Proof/Syntax.lean ====
section
/-! DEFINITION. Syntax.lean: the commands the SV6480 takes, one constructor per row of spec/opcode_table.json. -/

namespace Sys2Proof

/-- Who makes a sequencer request (R201): a host write of MAST[m].SEQ_CMD with the word w, or the SEQ instruction at the pc of context c. -/
inductive SeqOrigin where
  | host (m : Fin 16) (w : Word)
  | ctx (c : Fin 64)
  deriving DecidableEq, Repr

/-- Who gives a cell or calendar command: a host write of the command register, or the instruction at the pc of context c. -/
inductive CmdOrigin where
  | host (w : Word)
  | ctx (c : Fin 64)
  deriving DecidableEq, Repr

/-- How a host transaction ended at HSEL_N rise (R509–R511): between words, in its header or signal-ID half-word, or after `bits` bits of a word, whose bits sent are the low bits of `w`. -/
inductive Cut where
  | clean
  | header
  | word (bits : Fin 32) (w : Word)
  deriving DecidableEq, Repr

/-- A ring frame: the header fields its class and type leave open (R434), and its payload words. -/
structure Frame where
  /-- Lane of origin: false CW, true CCW. -/
  dir : Bool
  src : BitVec 5
  dst : BitVec 6
  hops : BitVec 6
  seq : BitVec 8
  cycle : BitVec 16
  words : List Word
  deriving DecidableEq, Repr

/-- What a receiver's signal detector shows: the port, and whether a signal is present (R426, LK_PORTq.SIG). -/
structure SignalSeen where
  port : Fin 2
  present : Bool
  deriving DecidableEq, Repr

/-- The supplies, in mV (R569). -/
structure Supplies where
  vdd : Nat
  vddio : Nat
  vdda : Nat
  deriving DecidableEq, Repr

/-- What the clock monitor sees of a clock (R566): its code, for how many ROSC cycles it has had no edge, its count over the last 64 ROSC cycles, and for how many
taps root ÷ 40 and the reference have differed by more than 0.1 %. -/
structure ClockSeen where
  clock : Fin 7
  still : Nat
  count : Nat
  apart : Nat
  deriving DecidableEq, Repr

/-- The port a register is written through: the host port or JTAG (R537, R546). -/
inductive WritePort where
  | host | jtag
  deriving DecidableEq, Repr

/-- A register address as a port names it. -/
structure PortAddr where
  port : WritePort
  addr : BitVec 13
  deriving DecidableEq, Repr

/-- Why a received frame is dropped (R435, R437). -/
inductive FrameErr where
  | code | crc | eof | reserved
  /-- A K symbol in any other combination outside a frame: a code error, and no frame is dropped (R422). -/
  | stray
  deriving DecidableEq, Repr

/-- A TIME-class frame as received: its ring header, and the PTP header fields that are checked or used (R461–R463). -/
structure TimeFrame where
  hdr : Frame
  /-- TYPE bit 4 of a Sync: the mizzen domain slot. -/
  mizzen : Bool
  version : BitVec 4
  twoStep : Bool
  dom : BitVec 8
  /-- correctionField, ns × 2^16, two's complement. -/
  corr : BitVec 64
  seqId : BitVec 16
  /-- originTimestamp of a Sync. -/
  sec : BitVec 48
  ns : BitVec 32
  /-- The fields that a receiver ignores and a transparent clock forwards unchanged (R463): ptpTimescale, the clockIdentity and portNumber of
  sourcePortIdentity, controlField, logMessageInterval. -/
  ptpTs : Bool := false
  clockId : BitVec 64 := 0#64
  portNo : BitVec 16 := 0#16
  control : BitVec 8 := 0#8
  logInt : BitVec 8 := 0#8
  /-- requestingPortIdentity of a Pdelay_Resp: clockIdentity and portNumber (R462). -/
  reqClock : BitVec 64 := 0#64
  reqPort : BitVec 16 := 0#16
  deriving DecidableEq, Repr

/-- What the comparator of the floating phase shows when a crossing is looked for (R164): its output level, and how many taps ago it reached it. -/
structure ZcSeen where
  level : Bool
  age : Nat
  deriving DecidableEq, Repr

/-- The commands. Every one carries `dt`, the taps (1/15.36 GHz, R42) that have passed since the command before it; then its own operands. -/
inductive Instr where
  /-- PWM_BOUNDARY (R23). A mast's counter reaches a boundary: the due shadow entry or untagged commit loads as one set, and the period-start work runs. -/
  | pwmBoundary (dt : Nat) (m : Fin 16)
  /-- AUXT_INSTANT (R82). An AUXT channel reaches its planned or fixed instant and starts the ADC-S conversion or ADC-P sequence routed to it. -/
  | auxtInstant (dt : Nat) (m : Fin 16) (ch : Fin 5)
  /-- ADC_S_CONVERSION_DONE (R96). An ADC-S conversion delivers its code, which is taken as S1, S2 or the offset sample. -/
  | adcSConversionDone (dt : Nat) (m : Fin 16) (code : BitVec 14)
  /-- ADC_S_HELD_START (R96). A start that was held while ADC-S was converting begins once the converter is free. -/
  | adcSHeldStart (dt : Nat) (m : Fin 16)
  /-- ADC_P_SLOT_DONE (R97). A slot of an ADC-P sequence completes its conversion. -/
  | adcPSlotDone (dt : Nat) (m : Fin 16) (code : BitVec 12)
  /-- ADC_P_HELD_SEQUENCE (R99). An ADC-P sequence start that was held begins when the running sequence ends. -/
  | adcPHeldSequence (dt : Nat) (m : Fin 16)
  /-- SAMPLE_SET_RELEASE (R20). The last sample of a period is calibrated and the sample set is released, becomes visible and triggers the loop context. -/
  | sampleSetRelease (dt : Nat) (m : Fin 16)
  /-- BLANKING_WINDOW_END (R331). A blanking window closes, and a comparator or trip pin that is still asserted acts. -/
  | blankingWindowEnd (dt : Nat) (m : Fin 16)
  /-- PWM_RUN_SET (R52). A write setting PWM_CTL.RUN starts the timebase, with B(0) after 16 cycles or on the anchor grid. -/
  | pwmRunSet (dt : Nat) (m : Fin 16) (w : Word)
  /-- PWM_RUN_CLEAR (R53). A write clearing RUN stops the counter at the next boundary, unless the sequencer has the outputs enabled. -/
  | pwmRunClear (dt : Nat) (m : Fin 16) (w : Word)
  /-- PWM_COMMIT (R72). A host write of PWM_COMMIT copies the staging set, optionally with SHEET, into the shadow set as an untagged commit. -/
  | pwmCommit (dt : Nat) (m : Fin 16) (w : Word)
  /-- BOSUN_SLOT (R394). A 20.833 µs slot of the bosun round begins and does its sensor, evaluation or publication work and its calibration visit. -/
  | bosunSlot (dt : Nat) (code : Word) (early : BitVec 2)
  /-- FAST_CALIBRATION_DONE (R62). The fast delay-line calibration after PLL lock completes with every line valid. -/
  | fastCalibrationDone (dt : Nat)
  /-- WINDOW_RECOVERY_START (R122). Four consecutive periods with SHUNT_VALID = 0 start window recovery. -/
  | windowRecoveryStart (dt : Nat) (m : Fin 16)
  /-- WINDOW_RECOVERY_END (R122). Sixteen consecutive periods with PLAN_OK end window recovery. -/
  | windowRecoveryEnd (dt : Nat) (m : Fin 16)
  /-- XCHK_TEST_START (R126). The cross-check interval elapses and a shunt/in-line test starts, or is skipped. -/
  | xchkTestStart (dt : Nat) (m : Fin 16)
  /-- XCHK_TEST_END (R128). A cross-check test ends with PASS, FAIL or INCONCLUSIVE, and may trim a gain. -/
  | xchkTestEnd (dt : Nat) (m : Fin 16)
  /-- HALL_CODE_ACCEPTED (R156). A Hall code change that has stayed stable for FILT cycles is accepted and decoded. -/
  | hallCodeAccepted (dt : Nat) (m : Fin 16)
  /-- HALL_ILLEGAL_TIMEOUT (R158). An illegal Hall code has stayed accepted for 100 µs, and ESTIMATOR is raised. -/
  | hallIllegalTimeout (dt : Nat) (m : Fin 16)
  /-- HALL_TIMEOUT (R159). No Hall change for the timeout sets the speed to zero and the angle to the sector centre. -/
  | hallTimeout (dt : Nat) (m : Fin 16)
  /-- QUAD_EDGE (R160). An accepted encoder edge moves QUAD_POS, or an illegal sample sets QUAD_ERR. -/
  | quadEdge (dt : Nat) (m : Fin 16)
  /-- QUAD_INDEX (R161). The rising edge of Z resets the position count and checks it. -/
  | quadIndex (dt : Nat) (m : Fin 16)
  /-- ADVANCED_ANGLE_CHECK (R148). The advanced angle is evaluated every 8 SPARCLK cycles and may issue a step event. -/
  | advancedAngleCheck (dt : Nat) (m : Fin 16)
  /-- STEP_WR (R149). A write of COM_CTL.STEP_WR forces a step event, or is refused. -/
  | stepWr (dt : Nat) (m : Fin 16) (w : Word)
  /-- ZERO_CROSSING_ACCEPTED (R164). A floating-phase crossing passes its filter and schedules the next step. -/
  | zeroCrossingAccepted (dt : Nat) (m : Fin 16) (seen : ZcSeen)
  /-- ZC_STEP_TIMER (R166). The step delay scheduled after a crossing elapses and the step event is issued. -/
  | zcStepTimer (dt : Nat) (m : Fin 16)
  /-- ZC_MISS (R167). No crossing within 1.5 × STEP_T forces a step and counts ZC_MISS_RUN. -/
  | zcMiss (dt : Nat) (m : Fin 16)
  /-- LUFF_TRANSFER_END (R151). A transfer's n_eff periods elapse and the new step's mask applies. -/
  | luffTransferEnd (dt : Nat) (m : Fin 16)
  /-- CORRELATOR_WINDOW_END (R182). A correlator window ends and yields an angle error, or an invalid window. -/
  | correlatorWindowEnd (dt : Nat) (m : Fin 16)
  /-- POLARITY_PULSE_END (R183). A saturation pulse or zero vector of the polarity sequence ends by period count or current. -/
  | polarityPulseEnd (dt : Nat) (m : Fin 16)
  /-- SEQ_START (R202). A START request, from SEQ_CMD, the SEQ instruction or a calendar action, acts on the sequencer. -/
  | seqStart (dt : Nat) (o : SeqOrigin)
  /-- SEQ_STOP (R214). A STOP request with its mode acts on the sequencer. -/
  | seqStop (dt : Nat) (o : SeqOrigin)
  /-- SEQ_CLEAR (R202). A CLEAR request leaves FAULT when no serious record is pending. -/
  | seqClear (dt : Nat) (o : SeqOrigin)
  /-- BRAKE_PULSE_END (R208). An active-short-circuit pulse ends by BRK_ON count or by BRK_I current, and the pause starts. -/
  | brakePulseEnd (dt : Nat) (m : Fin 16)
  /-- BRAKE_PAUSE_END (R209). A braking pause ends, speed is measured, and braking continues or ends. -/
  | brakePauseEnd (dt : Nat) (m : Fin 16)
  /-- ALIGN_TIMEOUT (R213). ALIGN_T elapses and the sequencer enters RUN with forced steps. -/
  | alignTimeout (dt : Nat) (m : Fin 16)
  /-- STOP_TIMEOUT (R215). STOPPING has lasted STOP_TMO, and the outputs are disabled. -/
  | stopTimeout (dt : Nat) (m : Fin 16)
  /-- TACK_DWELL_END (R218). The dwell at zero speed of a tack ends. -/
  | tackDwellEnd (dt : Nat) (m : Fin 16)
  /-- STALL_EVENT (R227). Stall sets have lasted STALL_T, starting a jam reversal or raising STALL. -/
  | stallEvent (dt : Nat) (m : Fin 16)
  /-- JAM_HOLD_END (R227). The reversal hold of JAM_T ends and the target returns to SPD_TGT. -/
  | jamHoldEnd (dt : Nat) (m : Fin 16)
  /-- JAM_COUNT_CLEAR (R227). 10 s in RUN without a stall event returns JAM_COUNT to 0. -/
  | jamCountClear (dt : Nat) (m : Fin 16)
  /-- CMD_PIN_EDGE (R223). A rising edge on a command pin in DUTY or FREQ mode is timed. -/
  | cmdPinEdge (dt : Nat) (m : Fin 16) (rising : Bool)
  /-- COMMAND_LOSS (R225). An invalid command input has lasted LOSS_T; CMD_VALID clears and the loss policy acts. -/
  | commandLoss (dt : Nat) (m : Fin 16)
  /-- CONTEXT_DISPATCH (R240). A runnable context takes a lane, pre-empting a lower class if needed, and starts or resumes its activation. -/
  | contextDispatch (dt : Nat) (c : Fin 64)
  /-- QUANTUM_EXPIRY (R241). A NORMAL or BACKGROUND context has issued its quantum and returns to RUNNABLE behind its class. -/
  | quantumExpiry (dt : Nat) (c : Fin 64)
  /-- BUDGET_EXCEEDED (R243). An activation reaches its issue budget; BOVR is set, ENG_BUDGET raised and POL applied. -/
  | budgetExceeded (dt : Nat) (c : Fin 64)
  /-- SIGNAL_ACCESS_COMPLETE (R246). A waiting signal access completes and the blocked context becomes runnable. -/
  | signalAccessComplete (dt : Nat) (c : Fin 64)
  /-- SIGNAL_ACCESS_TIMEOUT (R247). A signal access has waited SIG_TMO and is abandoned, with NaN and U for a read. -/
  | signalAccessTimeout (dt : Nat) (c : Fin 64)
  /-- INSTRUCTION_RESULT_READY (R286). A long-latency result lands and the context blocked on it becomes runnable. -/
  | instructionResultReady (dt : Nat) (c : Fin 64)
  /-- ETMR_EXPIRY (R239). An engine timer's period elapses and triggers its context. -/
  | etmrExpiry (dt : Nat) (n : Fin 8)
  /-- DOORBELL (R235). A host write of DOORBELL triggers the named context with kind DOORBELL. -/
  | doorbell (dt : Nat) (w : Word)
  /-- CTX_ENABLE (R233). CTX_CMD ENABLE moves a disabled context to WAITING. -/
  | ctxEnable (dt : Nat) (w : Word)
  /-- CTX_DISABLE (R234). CTX_CMD DISABLE ends any activation and disables the context. -/
  | ctxDisable (dt : Nat) (w : Word)
  /-- CTX_HALT (R274). CTX_CMD HALT halts the context at its next boundary, or is refused. -/
  | ctxHalt (dt : Nat) (w : Word)
  /-- CTX_RESUME (R275). CTX_CMD RESUME returns a halted context to RUNNABLE. -/
  | ctxResume (dt : Nat) (w : Word)
  /-- CTX_STEP (R275). CTX_CMD STEP issues one instruction of a halted context and halts it again. -/
  | ctxStep (dt : Nat) (w : Word)
  /-- CTX_RESTART (R233). CTX_CMD RESTART moves a faulted context to WAITING. -/
  | ctxRestart (dt : Nat) (w : Word)
  /-- LANE_PARITY_ERROR (R265). A parity error in a lane's pipeline or fetch buffer faults the lane and raises LANE_FAULT. -/
  | laneParityError (dt : Nat) (n : Fin 4)
  /-- LANE_ISSUE_TIMEOUT (R265). 4,096 ENGCLK cycles without an issue while holding a running context fault the lane. -/
  | laneIssueTimeout (dt : Nat) (n : Fin 4)
  /-- CONTEXT_PARITY_ERROR (R268). A parity error in a context's registers puts it in FAULTED with cause 4. -/
  | contextParityError (dt : Nat) (c : Fin 64)
  /-- ILLEGAL_INSTRUCTION (R283). An illegal or reserved encoding is issued and faults the context with cause 1. -/
  | illegalInstruction (dt : Nat) (c : Fin 64)
  /-- CELL_STEP (R252). A cell is stepped with an input and returns its output, by its guard and mode. The operand `parity` of the cell rows: the cell unit finds a parity error in the cell (R268); it means nothing for a host command. -/
  | cellStep (dt : Nat) (c : Fin 64) (parity : Bool)
  /-- CELL_HOLD (R259). HOLD returns U1 and updates the input history. -/
  | cellHold (dt : Nat) (c : Fin 64) (parity : Bool)
  /-- CELL_PRESET (R259). PRESET sets U1 and presets the cell state bumplessly. -/
  | cellPreset (dt : Nat) (c : Fin 64) (parity : Bool)
  /-- CELL_SETMAN (R259). SETMAN sets the manual value and puts the cell in MANUAL. -/
  | cellSetman (dt : Nat) (c : Fin 64) (parity : Bool)
  /-- CELL_READ (R259). READ returns U1. -/
  | cellRead (dt : Nat) (c : Fin 64) (parity : Bool)
  /-- CELL_OPEN (R254). OPEN, by instruction or CELL_CMD, sets the cell's guard OPEN. -/
  | cellOpen (dt : Nat) (o : CmdOrigin) (parity : Bool)
  /-- CELL_CLOSE (R256). CLOSE checks the coefficients and closes the cell bumplessly, or is refused. -/
  | cellClose (dt : Nat) (o : CmdOrigin) (parity : Bool)
  /-- CELL_AUTO (R258). AUTO returns the cell from MANUAL, with the preset at the next step. -/
  | cellAuto (dt : Nat) (o : CmdOrigin) (parity : Bool)
  /-- CELL_MANUAL (R257). CELL_CMD MANUAL puts the cell in MANUAL. -/
  | cellManual (dt : Nat) (w : Word)
  /-- CELL_CLEAR (R250). CELL_CMD CLEAR zeroes words 10–15 of an open cell. -/
  | cellClear (dt : Nat) (w : Word)
  /-- CELL_DATA_WRITE (R254). A host write of a cell word is applied or refused by the guard and role. -/
  | cellDataWrite (dt : Nat) (w : Word)
  /-- PRG_DATA_WRITE (R271). A program word is written through the port, or refused while its bank is in use. -/
  | prgDataWrite (dt : Nat) (w : Word)
  /-- TAB_DATA_WRITE (R272). A table memory word is written through the port. -/
  | tabDataWrite (dt : Nat) (w : Word)
  /-- SIG_DATA_WRITE (R272). A signal is written through SIG_DATA under the signal rules. -/
  | sigDataWrite (dt : Nat) (w : Word)
  /-- SIG_DATA_READ (R272). A signal is read through SIG_DATA, with auto-increment. -/
  | sigDataRead (dt : Nat)
  /-- TRACE_ENABLE (R264). Setting TRC_CTL.EN empties the buffer and arms capture. -/
  | traceEnable (dt : Nat) (w : Word)
  /-- ADD (R300). Integer addition. -/
  | add (dt : Nat) (c : Fin 64)
  /-- SUB (R300). Integer subtraction. -/
  | sub (dt : Nat) (c : Fin 64)
  /-- MUL (R300). Integer multiplication, low 32 bits. -/
  | mul (dt : Nat) (c : Fin 64)
  /-- AND (R300). Bitwise AND. -/
  | and (dt : Nat) (c : Fin 64)
  /-- OR (R300). Bitwise OR. -/
  | or (dt : Nat) (c : Fin 64)
  /-- XOR (R300). Bitwise XOR. -/
  | xor (dt : Nat) (c : Fin 64)
  /-- SHL (R301). Shift left. -/
  | shl (dt : Nat) (c : Fin 64)
  /-- SHR (R301). Logical shift right. -/
  | shr (dt : Nat) (c : Fin 64)
  /-- SAR (R301). Arithmetic shift right. -/
  | sar (dt : Nat) (c : Fin 64)
  /-- MIN (R300). Signed minimum. -/
  | min (dt : Nat) (c : Fin 64)
  /-- MAX (R300). Signed maximum. -/
  | max (dt : Nat) (c : Fin 64)
  /-- BFX (R301). Bit-field extract. -/
  | bfx (dt : Nat) (c : Fin 64)
  /-- BFI (R301). Bit-field insert. -/
  | bfi (dt : Nat) (c : Fin 64)
  /-- CMP (R300). Integer compare, setting flags. -/
  | cmp (dt : Nat) (c : Fin 64)
  /-- MOV (R300). Register copy. -/
  | mov (dt : Nat) (c : Fin 64)
  /-- MOVI (R302). Load a sign-extended immediate. -/
  | movi (dt : Nat) (c : Fin 64)
  /-- ADDI (R302). Add a sign-extended immediate. -/
  | addi (dt : Nat) (c : Fin 64)
  /-- MOVHI (R302). Load an immediate into the upper 20 bits. -/
  | movhi (dt : Nat) (c : Fin 64)
  /-- CMPI (R302). Compare with an immediate. -/
  | cmpi (dt : Nat) (c : Fin 64)
  /-- LIT (R302). Load a 32-bit literal from the second word. -/
  | lit (dt : Nat) (c : Fin 64)
  /-- FADD (R303). Binary32 addition. -/
  | fadd (dt : Nat) (c : Fin 64)
  /-- FSUB (R303). Binary32 subtraction. -/
  | fsub (dt : Nat) (c : Fin 64)
  /-- FMUL (R303). Binary32 multiplication. -/
  | fmul (dt : Nat) (c : Fin 64)
  /-- FMA (R303). Fused multiply-add. -/
  | fma (dt : Nat) (c : Fin 64)
  /-- FMIN (R296). Binary32 minimum. -/
  | fmin (dt : Nat) (c : Fin 64)
  /-- FMAX (R296). Binary32 maximum. -/
  | fmax (dt : Nat) (c : Fin 64)
  /-- FABS (R303). Binary32 absolute value. -/
  | fabs (dt : Nat) (c : Fin 64)
  /-- FNEG (R303). Binary32 negation. -/
  | fneg (dt : Nat) (c : Fin 64)
  /-- FCLAMP (R304). Clamp to limits, setting L. -/
  | fclamp (dt : Nat) (c : Fin 64)
  /-- FCMP (R296). Binary32 compare, setting flags. -/
  | fcmp (dt : Nat) (c : Fin 64)
  /-- FCVT (R297). Conversion between binary32 and integers. -/
  | fcvt (dt : Nat) (c : Fin 64)
  /-- FDIV (R303). Binary32 division. -/
  | fdiv (dt : Nat) (c : Fin 64)
  /-- FSQRT (R303). Binary32 square root. -/
  | fsqrt (dt : Nat) (c : Fin 64)
  /-- FSINCOS (R298). Sine and cosine into a register pair. -/
  | fsincos (dt : Nat) (c : Fin 64)
  /-- FATAN2 (R298). Two-argument arctangent. -/
  | fatan2 (dt : Nat) (c : Fin 64)
  /-- FROT (R304). Rotation of a vector by an angle. -/
  | frot (dt : Nat) (c : Fin 64)
  /-- FWRAP (R298). Angle reduction to (−π, +π]. -/
  | fwrap (dt : Nat) (c : Fin 64)
  /-- B_COND (R306). Conditional branch on the flags. -/
  | bCond (dt : Nat) (c : Fin 64)
  /-- CALL (R305). Subroutine call, with the return address in v15. -/
  | call (dt : Nat) (c : Fin 64)
  /-- JR (R305). Jump to a register address. -/
  | jr (dt : Nat) (c : Fin 64)
  /-- END (R288). Ends the activation once outstanding work completes. -/
  | endAct (dt : Nat) (c : Fin 64)
  /-- NOP (R305). No operation. -/
  | nop (dt : Nat) (c : Fin 64)
  /-- LDS (R307). Load a signal by ID. -/
  | lds (dt : Nat) (c : Fin 64)
  /-- STS (R307). Store a signal by ID. -/
  | sts (dt : Nat) (c : Fin 64)
  /-- LDSI (R307). Load a signal by register-based ID. -/
  | ldsi (dt : Nat) (c : Fin 64)
  /-- STSI (R307). Store a signal by register-based ID. -/
  | stsi (dt : Nat) (c : Fin 64)
  /-- LDT (R307). Load a table memory word. -/
  | ldt (dt : Nat) (c : Fin 64)
  /-- OUTD (R311). Writes compares or duties to the staging set and commits. -/
  | outd (dt : Nat) (c : Fin 64)
  /-- STGD (R311). Writes compares or duties to the staging set only. -/
  | stgd (dt : Nat) (c : Fin 64)
  /-- OUTV (R313). Writes a voltage vector and commits it through the modulator. -/
  | outv (dt : Nat) (c : Fin 64)
  /-- STGV (R313). Writes a voltage vector to the staging set only. -/
  | stgv (dt : Nat) (c : Fin 64)
  /-- STGP (R314). Writes the staged PERIOD. -/
  | stgp (dt : Nat) (c : Fin 64)
  /-- TIME (R319). Snapshots the local time base into three registers. -/
  | time (dt : Nat) (c : Fin 64)
  /-- ACTV (R320). Reads the activation's trigger kind and parameters. -/
  | actv (dt : Nat) (c : Fin 64)
  /-- DBELL (R321). Rings the doorbell of a context. -/
  | dbell (dt : Nat) (c : Fin 64)
  /-- TRACE (R322). Writes a TRACE record when enabled. -/
  | trace (dt : Nat) (c : Fin 64)
  /-- FLAGS (R323). Reads the flags into a register. -/
  | flags (dt : Nat) (c : Fin 64)
  /-- SETF (R323). Writes selected flags, the only way to clear U. -/
  | setf (dt : Nat) (c : Fin 64)
  /-- TRIP_PIN_ASSERT (R333). Mm_TRIP_N goes low outside blanking, turns the routed gates off and sets the pin latch. -/
  | tripPinAssert (dt : Nat) (m : Fin 16) (low : Bool)
  /-- OVERCURRENT_ASSERT (R333). An over-current comparator asserts outside blanking and latches, or cuts the period in cycle-by-cycle mode.
  The shunt amplifier's output has moved to `uv` µV, `below` 0 V or above it (R326). -/
  | overcurrentAssert (dt : Nat) (m : Fin 16) (below : Bool) (uv : Nat)
  /-- CBC_LIMIT_LATCH (R336). CBC_RUN reaches CBC_MAX and the comparator latch is set. -/
  | cbcLimitLatch (dt : Nat) (m : Fin 16)
  /-- SHROUD_CLR (R338). SHR_CMD.CLR clears every latch whose source is no longer asserted. -/
  | shroudClr (dt : Nat) (m : Fin 16) (w : Word)
  /-- SHROUD_TEST (R360). SHR_CMD.TEST starts the gate-off self-test, or is refused. -/
  | shroudTest (dt : Nat) (m : Fin 16) (w : Word)
  /-- SHROUD_TEST_DONE (R360). The self-test completes and sets TEST_OK or TEST_FAIL. -/
  | shroudTestDone (dt : Nat) (m : Fin 16) (pass : Bool)
  /-- FURL_PIN (R345). FURL_N stays low past its filter and furls the device. -/
  | furlPin (dt : Nat) (low : Bool)
  /-- FURL_SET (R361). FURL_CTL.SET furls the device with cause SOFT. -/
  | furlSet (dt : Nat) (w : Word)
  /-- FURL_CLEAR (R347). FURL_CTL.CLR leaves furl when its causes allow, or is refused. -/
  | furlClear (dt : Nat) (w : Word)
  /-- BUS_GROUP_ACK (R357). BG_SEL.ACK ends REFUSE or SAFE of a group when the bus is below OV1. -/
  | busGroupAck (dt : Nat) (w : Word)
  /-- BUS_GROUP_RECOVERY (R357). The bus has stayed below OV1 for BUS_CLEAR and the group returns to NORMAL. -/
  | busGroupRecovery (dt : Nat) (g : Fin 8)
  /-- PENDING_TABLE_FULL (R386). A record finds the pending table full, and FC_PEND_FULL is raised the next cycle at STOP-ALL. -/
  | pendingTableFull (dt : Nat)
  /-- WAKE_END (R379). A reaction's wake window elapses and its consequence set is no longer covered. -/
  | wakeEnd (dt : Nat)
  /-- REACTION_DEVICE_RESET (R373). After its record is stored in a reserved slot, the DEVICE_RESET reaction resets the device. -/
  | reactionDeviceReset (dt : Nat)
  /-- FC_ACK (R383). A write of FC_ACK acknowledges a pending record, or is refused. -/
  | fcAck (dt : Nat) (w : Word)
  /-- ACK_ALL (R383). FC_CMD.ACK_ALL acknowledges every pending record the role permits. -/
  | ackAll (dt : Nat) (w : Word)
  /-- LOG_CLR (R393). FC_CMD.LOG_CLR empties the on-chip log. -/
  | logClr (dt : Nat) (w : Word)
  /-- FIRST_CLR (R378). FC_CMD.FIRST_CLR clears FC_FIRST. -/
  | firstClr (dt : Nat) (w : Word)
  /-- FC_TEST (R393). FC_TEST delivers a test event of a source with detail 0xFF. -/
  | fcTest (dt : Nat) (w : Word)
  /-- SUPPLY_OUT_OF_RANGE (R417). A supply monitor has asserted for 4 HKCLK cycles and raises SUPPLY. -/
  | supplyOutOfRange (dt : Nat) (n : Fin 6)
  /-- SUPPLY_IN_RANGE (R417). A supply monitor has not asserted for 1 ms and returns to range. -/
  | supplyInRange (dt : Nat) (n : Fin 6)
  /-- PEAK_CLR (R420). HK_CMD.PEAK_CLR resets TPEAK to the present DIE_MAX. -/
  | peakClr (dt : Nat) (w : Word)
  /-- SHUT_CLR (R413). HK_CMD.SHUT_CLR clears the shut-down latch when the die has cooled, or is refused. -/
  | shutClr (dt : Nat) (w : Word)
  /-- SIGNAL_DETECTED (R426). A quiet port detects signal and returns to ACQUIRE. -/
  | signalDetected (dt : Nat) (q : SignalSeen)
  /-- LINK_LOCKED (R426). A port gains symbol lock with 1,024 clean symbols and enters LOCKED. -/
  | linkLocked (dt : Nat) (q : Fin 2)
  /-- LINK_QUIET_TIMEOUT (R426). No signal for T_Q puts the port in QUIET. -/
  | linkQuietTimeout (dt : Nat) (q : Fin 2)
  /-- RING_INSERT (R427). The node opens its bypass switches and inserts, founding the ring if both ports are quiet. -/
  | ringInsert (dt : Nat)
  /-- INSERTION_TIMEOUT (R428). No port reaches UP within 100 µs of insertion, so the switches close. -/
  | insertionTimeout (dt : Nat)
  /-- RETRAIN_TIMER (R428). 10 ms after a failed insertion a new attempt may begin. -/
  | retrainTimer (dt : Nat)
  /-- LINK_SET_RECEIVED (R422). A LINK ordered set arrives with the peer's status, possibly bringing the port UP. -/
  | linkSetReceived (dt : Nat) (q : Fin 2) (peerLock insert : Bool) (node : BitVec 5)
  /-- LINK_DOWN (R429). A port leaves UP, the node wraps at it and raises LINK_DOWN. -/
  | linkDown (dt : Nat) (q : Fin 2)
  /-- UNWRAP_TIMER (R433). A port UP for 10 ms without a break is unwrapped. -/
  | unwrapTimer (dt : Nat) (q : Fin 2)
  /-- RING_STOP_RECEIVED (R440). A valid STOP arrives, is forwarded, and furls the node when STOP_RX is 1. -/
  | ringStopReceived (dt : Nat) (q : Fin 2) (src : BitVec 5) (no : BitVec 3) (cut : Bool)
  /-- STOP_SEND (R438). LK_STOP.SEND, or furl with FURL_TX, originates a STOP on both ports. -/
  | stopSend (dt : Nat) (w : Word)
  /-- STOP_REPEAT (R438). The originated STOP is repeated at 1 µs intervals, four times in all. -/
  | stopRepeat (dt : Nat)
  /-- RING_CYCLE_START (R442). A ring cycle begins: BEACON, publications, time frames and token refills are sent or made. -/
  | ringCycleStart (dt : Nat)
  /-- BEACON_RECEIVED (R430). A BEACON arrives, updating topology and duplicate-number checks. -/
  | beaconReceived (dt : Nat) (q : Fin 2) (f : Frame)
  /-- MESSAGE_RECEIVED (R444). A MESSAGE arrives and its valid entries are applied as peer writes. -/
  | messageReceived (dt : Nat) (q : Fin 2) (f : Frame)
  /-- TOPO_RECEIVED (R432). A TOPO frame arrives and sets WRAPPED. -/
  | topoReceived (dt : Nat) (q : Fin 2) (f : Frame)
  /-- PUBLISH_RECEIVED (R449). A PUBLISH frame updates the mirrors of the mapped window. -/
  | publishReceived (dt : Nat) (q : Fin 2) (f : Frame) (last : Bool)
  /-- READ_REQ_RECEIVED (R450). A READ_REQ is answered with a READ_RSP. -/
  | readReqReceived (dt : Nat) (q : Fin 2) (f : Frame)
  /-- READ_RSP_RECEIVED (R35). A READ_RSP completes a waiting peer read. -/
  | readRspReceived (dt : Nat) (q : Fin 2) (f : Frame)
  /-- WRITE_RECEIVED (R450). A bulk WRITE is applied where permitted, or refused. -/
  | writeReceived (dt : Nat) (q : Fin 2) (f : Frame)
  /-- FRAME_ERROR (R437). A frame with a code, CRC or EOF error, or a reserved field, is dropped and counted; a code error outside a frame is counted. -/
  | frameError (dt : Nat) (q : Fin 2) (kind : FrameErr)
  /-- MESSAGE_SEND (R444). A write of MSG_DST queues a MESSAGE for the express slot. -/
  | messageSend (dt : Nat) (w : Word)
  /-- LOOPBACK_TEST (R454). LK_DIAG.LOOP starts the internal loopback test, or is refused. -/
  | loopbackTest (dt : Nat) (w : Word)
  /-- LOOPBACK_DONE (R454). The 100 µs loopback test ends and sets LB_DONE and LB_OK. -/
  | loopbackDone (dt : Nat) (pass : Bool)
  /-- SYNC_RECEIVED (R468). A Sync is received, forwarded with correction and used as an offset sample. -/
  | syncReceived (dt : Nat) (q : Fin 2) (f : TimeFrame)
  /-- PDELAY_REQ_RECEIVED (R466). A Pdelay_Req is timestamped for a response. -/
  | pdelayReqReceived (dt : Nat) (q : Fin 2) (f : TimeFrame)
  /-- PDELAY_RESP_RECEIVED (R466). A Pdelay_Resp yields a link delay sample. -/
  | pdelayRespReceived (dt : Nat) (q : Fin 2) (f : TimeFrame) (ago : Nat)
  /-- MASTER_LOST (R473). No Sync for SYNC_TMO intervals; the servo switches to MIZZEN or FREERUN. -/
  | masterLost (dt : Nat)
  /-- HOLD_TIMEOUT (R469). Eight sync intervals in HOLD without an accepted sample enter REVALIDATE. -/
  | holdTimeout (dt : Nat)
  /-- TB_REVERT (R477). TB_CMD.REVERT returns the servo from MIZZEN to the main domain. -/
  | tbRevert (dt : Nat) (w : Word)
  /-- SET_TIME (R458). TB_CMD.SET loads the time base from the SET registers. -/
  | setTime (dt : Nat) (w : Word)
  /-- CAPTURE_EDGE (R460). An enabled edge on a capture pin records the time base. -/
  | captureEdge (dt : Nat) (n : Fin 4) (rising : Bool)
  /-- CALENDAR_DISPATCH (R483). A calendar entry falls due and its action takes effect. -/
  | calendarDispatch (dt : Nat)
  /-- CAL_INSERT (R481). An entry is checked and inserted, by CAL_CMD INSERT or CALI. -/
  | calInsert (dt : Nat) (o : CmdOrigin)
  /-- CAL_REMOVE (R487). An entry is removed, by CAL_CMD REMOVE or CALD. -/
  | calRemove (dt : Nat) (o : CmdOrigin)
  /-- CAL_READ (R487). CAL_CMD READ copies an entry into CAL_W0–CAL_W3. -/
  | calRead (dt : Nat) (w : Word)
  /-- CAL_ENABLE (R486). Setting CAL_CTL.EN handles entries that fell due meanwhile as after a forward step. -/
  | calEnable (dt : Nat) (w : Word)
  /-- HOST_READ (R501). A READ transaction returns register words from an advancing address. -/
  | hostRead (dt : Nat) (addr : BitVec 13) (n : Nat)
  /-- HOST_WRITE (R498). A WRITE transaction writes register words at an advancing address through the FIFO. -/
  | hostWrite (dt : Nat) (addr : BitVec 13) (ws : List Word)
  /-- READ_FIX (R495). A READ_FIX transaction reads repeatedly at one address. -/
  | readFix (dt : Nat) (addr : BitVec 13) (n : Nat)
  /-- WRITE_FIX (R495). A WRITE_FIX transaction writes repeatedly at one address. -/
  | writeFix (dt : Nat) (addr : BitVec 13) (ws : List Word)
  /-- STATUS (R497). A STATUS header returns HOST_STAT ahead of the FIFO. -/
  | status (dt : Nat)
  /-- HOST_STOP (R496). A STOP header 0xD555 furls the device with cause HOST; another pattern is reported. -/
  | hostStop (dt : Nat) (hdr : BitVec 16)
  /-- EXT_NOP (R495). The EXT NOP command does nothing. -/
  | extNop (dt : Nat)
  /-- SIG_READ (R495). An EXT SIG_READ returns signals from an advancing ID. -/
  | sigRead (dt : Nat) (id : BitVec 20) (n : Nat)
  /-- SIG_WRITE (R495). An EXT SIG_WRITE writes signals at an advancing ID. -/
  | sigWrite (dt : Nat) (id : BitVec 20) (ws : List Word)
  /-- SNAPSHOT (R506). SNAPSHOT copies one register group into the hold. -/
  | snapshot (dt : Nat) (group : BitVec 8)
  /-- RELEASE (R506). RELEASE ends the snapshot hold. -/
  | release (dt : Nat)
  /-- RESERVED_HEADER (R495). A reserved command or EXT operation does nothing and raises HOST_PROTO. -/
  | reservedHeader (dt : Nat) (hdr : BitVec 16)
  /-- HSEL_N_RISE (R509). HSEL_N rises, ending the transaction, with partial-word, cut-header and lane-change handling. -/
  | hselNRise (dt : Nat) (cut : Cut)
  /-- READ_HOLD_FILLED (R503). An access that underran completes and its value is kept in the read hold. -/
  | readHoldFilled (dt : Nat)
  /-- RC_FIELD_READ (R502). A read of an RC field restarts its count from the events after the access. -/
  | rcFieldRead (dt : Nat) (addr : BitVec 13)
  /-- SNAPSHOT_LOW_WORD_READ (R505). A read of UID0, TB_NS, FC_FIRST0 or FC_LOG0 snapshots its companion registers. -/
  | snapshotLowWordRead (dt : Nat) (addr : BitVec 13)
  /-- FC_LOG3_READ (R388). A read of FC_LOG3 with AINC advances the log slot. -/
  | fcLog3Read (dt : Nat)
  /-- AUD_DATA_READ (R560). A read of AUD_DATA returns an audit word and advances WORD and SLOT with AINC. -/
  | audDataRead (dt : Nat)
  /-- REGISTER_WRITE (R537). A write to a register without a row of its own, checked for role, refusals and audit. -/
  | registerWrite (dt : Nat) (addr : PortAddr) (w : Word)
  /-- GPIO_INPUT_EDGE (R514). A synchronised GPIO edge sets GPIO_EDGE and reaches the units that read the pin. -/
  | gpioInputEdge (dt : Nat) (pin : Fin 32) (level : Bool)
  /-- MEM_GRANT (R519). A waiting memory-port request is granted and its transaction begins. -/
  | memGrant (dt : Nat)
  /-- MEM_TRANSACTION_DONE (R524). A memory-port transaction completes, filling a fetch buffer, a signal, or ending a sequence. -/
  | memTransactionDone (dt : Nat) (ok : Bool) (data : List Word)
  /-- MEM_TIMEOUT (R523). A memory-port transaction exceeds TMO and is abandoned. -/
  | memTimeout (dt : Nat)
  /-- MEM_PH_PUSH (R528). A phase is pushed to the sequence queue, or refused. -/
  | memPhPush (dt : Nat) (w : Word)
  /-- MEM_DATA_WRITE (R530). A word is pushed into the transmit queue. -/
  | memDataWrite (dt : Nat) (w : Word)
  /-- MEM_DATA_READ (R530). A word is popped from the receive queue, or underruns. -/
  | memDataRead (dt : Nat)
  /-- MEM_GO (R528). MEM_CMD.GO starts a software sequence, or is refused. -/
  | memGo (dt : Nat) (w : Word)
  /-- MEM_ABORT (R529). MEM_CMD.ABORT ends a running sequence and empties the queues. -/
  | memAbort (dt : Nat) (w : Word)
  /-- PSRAM_UNMAP (R522). Clearing MEM_PSRAM.EN takes effect once the write buffer has drained. -/
  | psramUnmap (dt : Nat) (w : Word)
  /-- CHAL (R541). ROLE_CMD CHAL issues an unlock challenge, or is refused. -/
  | chal (dt : Nat) (w : Word)
  /-- RESP (R542). ROLE_CMD RESP checks the HMAC and raises the session, or counts a failure. -/
  | resp (dt : Nat) (w : Word)
  /-- ROLE_END (R544). ROLE_CMD END returns the session to OP. -/
  | roleEnd (dt : Nat) (w : Word)
  /-- KEY (R540). ROLE_CMD KEY programs an OTP key slot, or is refused. -/
  | key (dt : Nat) (w : Word)
  /-- CHALLENGE_EXPIRY (R542). An unanswered challenge expires after 30 s. -/
  | challengeExpiry (dt : Nat)
  /-- LOCKOUT_END (R542). The 2 s lockout after a failed unlock ends. -/
  | lockoutEnd (dt : Nat)
  /-- SESSION_IDLE_TIMEOUT (R544). A raised session without writes for the idle time returns to OP. -/
  | sessionIdleTimeout (dt : Nat)
  /-- MAST_UNRIG (R559). Setting a RIG_CTL bit unrigs a stopped mast. -/
  | mastUnrig (dt : Nat) (w : Word)
  /-- MAST_RIG (R559). Clearing a RIG_CTL bit rigs the mast. -/
  | mastRig (dt : Nat) (w : Word)
  /-- ST_DATA_WRITE (R553). A word is written into the store row buffer. -/
  | stDataWrite (dt : Nat) (w : Word)
  /-- ERASE (R553). ST_CMD ERASE erases the inactive image bank. -/
  | erase (dt : Nat) (w : Word)
  /-- PROG (R553). ST_CMD PROG programs the row buffer into the inactive bank. -/
  | prog (dt : Nat) (w : Word)
  /-- COMMIT (R553). ST_CMD COMMIT verifies the inactive bank and writes its commit record. -/
  | commit (dt : Nat) (w : Word)
  /-- LOAD (R555). ST_CMD LOAD copies the newest committed program into a free program bank. -/
  | load (dt : Nat) (w : Word)
  /-- JREG (R557). ST_CMD JREG appends a register value to the journal. -/
  | jreg (dt : Nat) (w : Word)
  /-- JSIG (R557). ST_CMD JSIG appends a signal value to the journal. -/
  | jsig (dt : Nat) (w : Word)
  /-- JCOMMIT (R557). ST_CMD JCOMMIT appends a commit marker over pending entries. -/
  | jcommit (dt : Nat) (w : Word)
  /-- JDROP (R557). ST_CMD JDROP discards pending journal entries. -/
  | jdrop (dt : Nat) (w : Word)
  /-- ST_ABORT (R561). ST_CMD ABORT ends a running store command after its current pulse. -/
  | stAbort (dt : Nat) (w : Word)
  /-- STORE_PULSE_DONE (R550). A store program pulse or erase completes and the next queued store write is served. -/
  | storePulseDone (dt : Nat) (ok : Bool)
  /-- JOURNAL_COMPACTION (R558). A full journal half is compacted into the other half. -/
  | journalCompaction (dt : Nat)
  /-- POWER_ON_RESET (R569). A supply falls below its assert level and holds the device in reset. -/
  | powerOnReset (dt : Nat) (at_ : Supplies) (vrefp : Bool) (straps : BitVec 3)
  /-- RESET_PIN (R571). RESET_N low for 1 µs starts a device reset. -/
  | resetPin (dt : Nat) (low : Bool) (straps : BitVec 3)
  /-- CLOCK_LOSS (R567). The clock monitor declares a loss, turns every gate off and resets the device. -/
  | clockLoss (dt : Nat) (mon : ClockSeen)
  /-- SOFT_RESET (R577). RST_CMD DEVICE with the key starts a device reset. -/
  | softReset (dt : Nat) (w : Word)
  /-- MAST_RESET_CMD (R575). RST_CMD MAST starts a mast block reset of the named masts. -/
  | mastResetCmd (dt : Nat) (w : Word)
  /-- MAST_RESET_COMPLETE (R392). A mast block reset completes, with a START when RESTART applies. -/
  | mastResetComplete (dt : Nat) (m : Fin 16)
  /-- LANE_RESET (R576). RST_CMD LANE resets a lane out of service and starts its self-test. -/
  | laneReset (dt : Nat) (w : Word)
  /-- LANE_SELF_TEST_DONE (R576). A lane's self-test ends and the lane returns to service or faults. -/
  | laneSelfTestDone (dt : Nat) (n : Fin 4) (pass : Bool)
  /-- INTERNAL_RESET_END (R573). The internal reset ends and boot begins. -/
  | internalResetEnd (dt : Nat)
  /-- REFERENCE_COUNT (R562). The 50 µs count chooses the reference, or repeats after 1 ms; the frequencies counted, in kHz. -/
  | referenceCount (dt : Nat) (clkref xtal : Nat)
  /-- PLL_LOCK (R564). The root PLL locks and the derived clocks start together. -/
  | pllLock (dt : Nat)
  /-- BOOT_STEP_DONE (R579). A boot step of image reading, verification or application completes. -/
  | bootStepDone (dt : Nat) (flash : List Word)
  /-- BOOT_READY (R583). Boot reaches READY and the device enters service. -/
  | bootReady (dt : Nat)
  /-- SYMBOL_LOCK_LOST (R426). A port in LOCKED loses symbol lock and returns to ACQUIRE. -/
  | symbolLockLost (dt : Nat) (q : Fin 2)
  /-- MEMORY_PARITY_ERROR (R364). A parity error in memory other than contexts and cells raises the device source PARITY. -/
  | memoryParityError (dt : Nat) (mem : BitVec 8)
  deriving DecidableEq, Repr

end Sys2Proof
end

