-- ==== Sys2Proof/Decode.lean ====
section
/-! DEFINITION. Decode.lean: the commands that the table's bits spell (the table gives no row any bits: its rows are events and transactions), and the transaction a host-port header begins (R495). -/

namespace Sys2Proof

/-- The command a word of `nbits` bits spells by the table: none, since no row has bits. -/
def decodeTableWord (_nbits _w : Nat) : Option Instr := none

/-- The transaction a 16-bit header of the host port begins (R495): bits 15:13 the command, bits 12:0 the address, of EXT bits 12:8 the operation and
bits 7:0 its argument; `id` the half-word that follows a signal header, `n` the words the host reads, `ws` those it writes. -/
def hostHeader (dt : Nat) (hdr id : BitVec 16) (n : Nat) (ws : List Word) : Instr :=
  let addr := hdr.setWidth 13
  let sig := hdr.setWidth 4 ++ id
  match (hdr.extractLsb' 13 3).toNat with
  | 0 => match (hdr.extractLsb' 8 5).toNat with
    | 0 => .extNop dt
    | 1 => .sigRead dt sig n
    | 2 => .sigWrite dt sig ws
    | 3 => .snapshot dt (hdr.setWidth 8)
    | 4 => .release dt
    | _ => .reservedHeader dt hdr
  | 1 => .hostRead dt addr n
  | 2 => .hostWrite dt addr ws
  | 3 => .readFix dt addr n
  | 4 => .writeFix dt addr ws
  | 5 => .status dt
  | 6 => .hostStop dt hdr
  | _ => .reservedHeader dt hdr

end Sys2Proof
end

