-- ==== Sys2Proof/Machine/Bits.lean ====
section
/-! DEFINITION. Machine/Bits.lean: bit fields of a word, sign extension, and reading and writing a sparse memory. -/

namespace Sys2Proof.Machine

/-- Bits hi:lo of a word, as a number. -/
def bitsOf (w : Word) (hi lo : Nat) : Nat := (w.toNat >>> lo) % 2 ^ (hi + 1 - lo)

/-- One bit of a word. -/
def bitOf (w : Word) (i : Nat) : Bool := w.toNat.testBit i

/-- The mask with ones in bits hi:lo. -/
def maskOf (hi lo : Nat) : Word := BitVec.ofNat 32 ((2 ^ (hi + 1 - lo) - 1) <<< lo)

/-- `w` with bits hi:lo replaced by the low bits of `v`. -/
def setBitsOf (w : Word) (hi lo v : Nat) : Word :=
  (w &&& ~~~ maskOf hi lo) ||| BitVec.ofNat 32 ((v % 2 ^ (hi + 1 - lo)) <<< lo)

/-- A Bool as a bit. -/
def b2n (b : Bool) : Nat := if b then 1 else 0

/-- The word of a Bool. -/
def b2w (b : Bool) : Word := if b then 1#32 else 0#32

/-- A number of `n` bits read as two's complement. -/
def sextNat (n v : Nat) : Int :=
  if v % 2 ^ n < 2 ^ (n - 1) then (v % 2 ^ n : Nat) else ((v % 2 ^ n : Nat) : Int) - (2 ^ n : Nat)

/-- A word from an integer, modulo 2^32. -/
def wordOfInt (i : Int) : Word := BitVec.ofInt 32 i

/-- Clamp of a natural number to at most `hi`. -/
def satNat (hi v : Nat) : Nat := if v ≤ hi then v else hi

/-- Clamp of an integer to [lo, hi]. -/
def clampInt (lo hi v : Int) : Int := if v < lo then lo else if hi < v then hi else v

/-- What a sparse memory holds at a key, `d` where the key is not listed. -/
def spGet (d : Word) : Sparse → Nat → Word
  | [], _ => d
  | (a, w) :: r, k => if k = a then w else spGet d r k

/-- Write of one key; `d` is what the key reads as when it is not listed, so that writing `d` removes the entry. -/
def spSet (d : Word) : Sparse → Nat → Word → Sparse
  | [], k, w => if w = d then [] else [(k, w)]
  | (a, x) :: r, k, w =>
    if k = a then (if w = d then r else (a, w) :: r)
    else if k < a then (if w = d then (a, x) :: r else (k, w) :: (a, x) :: r)
    else (a, x) :: spSet d r k w

/-- Every listed key is above `k`, and none is listed with its default. -/
def spWfFrom (d : Nat → Word) : Nat → Sparse → Bool
  | _, [] => true
  | k, (a, x) :: r => decide (k ≤ a) && decide (x ≠ d a) && spWfFrom d (a + 1) r

/-- The canonical form of a sparse memory: keys strictly rising, no entry equal to its default. -/
def spWf (d : Nat → Word) (m : Sparse) : Bool := spWfFrom d 0 m

/-- The integer square root, bit by bit from bit `n` down: the largest r with r² ≤ v, for v below 4^(n+1). -/
def isqrtAux (v : Nat) : Nat → Nat → Nat
  | 0, r => if (r + 1) * (r + 1) ≤ v then r + 1 else r
  | n + 1, r =>
    isqrtAux v n (if (r + 2 ^ (n + 1)) * (r + 2 ^ (n + 1)) ≤ v then r + 2 ^ (n + 1) else r)

/-- The integer square root. -/
def isqrt (v : Nat) : Nat := isqrtAux v (v.log2 / 2 + 1) 0

/-- Population count of the low `n` bits. -/
def popCount (v : Nat) : Nat → Nat
  | 0 => 0
  | n + 1 => b2n (v.testBit n) + popCount v n

/-- The index of the lowest set bit among the low `n` bits, searched from bit `i`. -/
def lowBit (v : Nat) : Nat → Nat → Option Nat
  | 0, _ => none
  | n + 1, i => if v.testBit i then some i else lowBit v n (i + 1)

/-- The numbers 0 to n − 1 as elements of Fin n, for a walk over a fixed array. -/
def allFin (n : Nat) : List (Fin n) := List.finRange n

end Sys2Proof.Machine
end

