-- ==== Sys2Proof/Machine/Checks.lean ====
section
/-! DEFINITION. Machine/Checks.lean: bytes of words and the cyclic redundancy checks of the store (R389, R546, R551, R556). -/

namespace Sys2Proof.Machine

/-- The four bytes of a word, least significant first. -/
def bytesLE (w : Word) : List Nat := [bitsOf w 7 0, bitsOf w 15 8, bitsOf w 23 16, bitsOf w 31 24]
/-- The bytes of words, little-endian, in order. -/
def bytesOf (l : List Word) : List Nat := l.flatMap bytesLE

/-- Words from bytes, little-endian; a last part word is filled with zeros. -/
def wordsLE : Nat → List Nat → List Word
  | 0, _ => []
  | _ + 1, [] => []
  | n + 1, l => BitVec.ofNat 32 (l.getD 0 0 + l.getD 1 0 * 2 ^ 8 + l.getD 2 0 * 2 ^ 16 + l.getD 3 0 * 2 ^ 24) :: wordsLE n (l.drop 4)

/-- Bytes as a big-endian number. -/
def natBE (l : List Nat) : Nat := l.foldl (fun a b => a * 256 + b) 0

/-- Eight steps of a reflected CRC register. -/
def crcSteps (poly : Nat) : Nat → Nat → Nat
  | 0, r => r
  | n + 1, r => crcSteps poly n (if r % 2 = 1 then (r / 2) ^^^ poly else r / 2)

/-- CRC-32 of IEEE 802.3. -/
def crc32 (l : List Nat) : Word :=
  BitVec.ofNat 32 ((l.foldl (fun r b => crcSteps 0xEDB88320 8 (r ^^^ b)) 0xFFFFFFFF) ^^^ 0xFFFFFFFF)

/-- Eight steps of the CRC-16 register with polynomial x^16 + x^12 + x^5 + 1, most significant bit first. -/
def crc16Steps : Nat → Nat → Nat
  | 0, r => r
  | n + 1, r => crc16Steps n (if r.testBit 15 then ((r * 2) % 65536) ^^^ 0x1021 else r * 2 % 65536)

/-- The bytes of words, bits 31:24 first, in order. -/
def bytesHi (l : List Word) : List Nat := l.flatMap fun w => (bytesLE w).reverse
/-- CRC-16 with initial value 0xFFFF (R546). -/
def crc16 (l : List Nat) : Nat := l.foldl (fun r b => crc16Steps 8 (r ^^^ (b * 256))) 0xFFFF

end Sys2Proof.Machine
end

