-- ==== Sys2Proof/Machine/RegNames.lean ====
section
/-! DEFINITION. Machine/RegNames.lean: the manual's names of registers (R.NAME, the address of the mast 0 copy) and of their fields (F.NAME_FIELD). -/

namespace Sys2Proof.Machine

/-- A field of a register: the register's address and the bits hi:lo. -/
structure Fld where
  addr : Nat
  hi : Nat
  lo : Nat
  deriving DecidableEq, Repr

/-- DEV_ID (R45). -/
abbrev R.DEV_ID : Nat := 0x0000
abbrev F.DEV_ID_FAMILY : Fld := ⟨0x0000, 31, 16⟩
abbrev F.DEV_ID_PART : Fld := ⟨0x0000, 15, 0⟩
/-- DEV_REV (R45). -/
abbrev R.DEV_REV : Nat := 0x0001
abbrev F.DEV_REV_MAJOR : Fld := ⟨0x0001, 15, 8⟩
abbrev F.DEV_REV_MINOR : Fld := ⟨0x0001, 7, 0⟩
/-- UID0 (R45). -/
abbrev R.UID0 : Nat := 0x0002
/-- UID1 (R45). -/
abbrev R.UID1 : Nat := 0x0003
/-- CAP0 (R45). -/
abbrev R.CAP0 : Nat := 0x0004
abbrev F.CAP0_RING : Fld := ⟨0x0004, 25, 25⟩
abbrev F.CAP0_CORR : Fld := ⟨0x0004, 24, 24⟩
abbrev F.CAP0_CONTEXTS : Fld := ⟨0x0004, 22, 16⟩
abbrev F.CAP0_LANES : Fld := ⟨0x0004, 10, 8⟩
abbrev F.CAP0_MASTS : Fld := ⟨0x0004, 4, 0⟩
/-- CAP1 (R45). -/
abbrev R.CAP1 : Nat := 0x0005
abbrev F.CAP1_TABLE_KIB : Fld := ⟨0x0005, 31, 24⟩
abbrev F.CAP1_PROG_KIB : Fld := ⟨0x0005, 23, 16⟩
abbrev F.CAP1_CELLS : Fld := ⟨0x0005, 12, 0⟩
/-- CAP2 (R45). -/
abbrev R.CAP2 : Nat := 0x0006
abbrev F.CAP2_BG_COUNT : Fld := ⟨0x0006, 19, 16⟩
abbrev F.CAP2_TE_COUNT : Fld := ⟨0x0006, 11, 8⟩
abbrev F.CAP2_TS_COUNT : Fld := ⟨0x0006, 4, 0⟩
/-- CAP3 (R45). -/
abbrev R.CAP3 : Nat := 0x0007
abbrev F.CAP3_STORE_KIB : Fld := ⟨0x0007, 27, 18⟩
abbrev F.CAP3_RING_PORTS : Fld := ⟨0x0007, 17, 16⟩
abbrev F.CAP3_RING_NODES : Fld := ⟨0x0007, 13, 8⟩
abbrev F.CAP3_CAL_X64 : Fld := ⟨0x0007, 7, 0⟩
/-- STRAP_STAT (R45). -/
abbrev R.STRAP_STAT : Nat := 0x0008
abbrev F.STRAP_STAT_STRAP : Fld := ⟨0x0008, 2, 0⟩
/-- SCRATCH0 (R45). -/
abbrev R.SCRATCH0 : Nat := 0x000C
/-- SCRATCH1 (R45). -/
abbrev R.SCRATCH1 : Nat := 0x000D
/-- SCRATCH2 (R45). -/
abbrev R.SCRATCH2 : Nat := 0x000E
/-- SCRATCH3 (R45). -/
abbrev R.SCRATCH3 : Nat := 0x000F
/-- CLK_CFG (R586). -/
abbrev R.CLK_CFG : Nat := 0x0100
abbrev F.CLK_CFG_XTAL_OFF : Fld := ⟨0x0100, 31, 31⟩
/-- CLK_STAT (R586). -/
abbrev R.CLK_STAT : Nat := 0x0101
abbrev F.CLK_STAT_LOCK : Fld := ⟨0x0101, 31, 31⟩
abbrev F.CLK_STAT_REF : Fld := ⟨0x0101, 30, 30⟩
abbrev F.CLK_STAT_XTAL_RUN : Fld := ⟨0x0101, 29, 29⟩
abbrev F.CLK_STAT_CFG_ERR : Fld := ⟨0x0101, 28, 28⟩
/-- MON_STAT (R586). -/
abbrev R.MON_STAT : Nat := 0x0102
abbrev F.MON_STAT_ROSC_KHZ : Fld := ⟨0x0102, 23, 8⟩
abbrev F.MON_STAT_OK : Fld := ⟨0x0102, 6, 0⟩
/-- RST_CAUSE (R586). -/
abbrev R.RST_CAUSE : Nat := 0x0103
abbrev F.RST_CAUSE_CAUSE : Fld := ⟨0x0103, 31, 28⟩
abbrev F.RST_CAUSE_CLK : Fld := ⟨0x0103, 26, 24⟩
abbrev F.RST_CAUSE_SEEN : Fld := ⟨0x0103, 4, 0⟩
/-- RST_CNT (R586). -/
abbrev R.RST_CNT : Nat := 0x0104
abbrev F.RST_CNT_PIN : Fld := ⟨0x0104, 31, 24⟩
abbrev F.RST_CNT_CLOCK : Fld := ⟨0x0104, 23, 16⟩
abbrev F.RST_CNT_SOFT : Fld := ⟨0x0104, 15, 8⟩
abbrev F.RST_CNT_REACTION : Fld := ⟨0x0104, 7, 0⟩
/-- RST_CMD (R586). -/
abbrev R.RST_CMD : Nat := 0x0105
abbrev F.RST_CMD_KEY : Fld := ⟨0x0105, 31, 24⟩
abbrev F.RST_CMD_CMD : Fld := ⟨0x0105, 23, 20⟩
abbrev F.RST_CMD_LANE : Fld := ⟨0x0105, 19, 18⟩
abbrev F.RST_CMD_MASTS : Fld := ⟨0x0105, 15, 0⟩
/-- RST_STAT (R586). -/
abbrev R.RST_STAT : Nat := 0x0106
abbrev F.RST_STAT_CFG_ERR : Fld := ⟨0x0106, 31, 31⟩
abbrev F.RST_STAT_LTEST : Fld := ⟨0x0106, 27, 24⟩
abbrev F.RST_STAT_LFAIL : Fld := ⟨0x0106, 23, 20⟩
abbrev F.RST_STAT_MBUSY : Fld := ⟨0x0106, 15, 0⟩
/-- BOOT_STAT (R586). -/
abbrev R.BOOT_STAT : Nat := 0x0107
abbrev F.BOOT_STAT_PHASE : Fld := ⟨0x0107, 31, 28⟩
abbrev F.BOOT_STAT_SRC : Fld := ⟨0x0107, 27, 26⟩
abbrev F.BOOT_STAT_BANK : Fld := ⟨0x0107, 25, 25⟩
abbrev F.BOOT_STAT_NOIMG : Fld := ⟨0x0107, 24, 24⟩
abbrev F.BOOT_STAT_A_FAIL : Fld := ⟨0x0107, 23, 23⟩
abbrev F.BOOT_STAT_B_FAIL : Fld := ⟨0x0107, 22, 22⟩
abbrev F.BOOT_STAT_HALTED : Fld := ⟨0x0107, 21, 21⟩
/-- BOOT_TIME (R586). -/
abbrev R.BOOT_TIME : Nat := 0x0108
abbrev F.BOOT_TIME_LOCK_US : Fld := ⟨0x0108, 31, 16⟩
abbrev F.BOOT_TIME_READY : Fld := ⟨0x0108, 15, 0⟩
/-- BOOT_HASH (R586). -/
abbrev R.BOOT_HASH : Nat := 0x0109
abbrev F.BOOT_HASH_DIGEST : Fld := ⟨0x0109, 31, 0⟩
/-- BOOT_CFG (R586). -/
abbrev R.BOOT_CFG : Nat := 0x010A
abbrev F.BOOT_CFG_HALT : Fld := ⟨0x010A, 31, 31⟩
/-- BOOT_VER (R586). -/
abbrev R.BOOT_VER : Nat := 0x010B
abbrev F.BOOT_VER_VERSION : Fld := ⟨0x010B, 31, 0⟩
/-- ROLE_STAT (R560). -/
abbrev R.ROLE_STAT : Nat := 0x0200
abbrev F.ROLE_STAT_ROLE : Fld := ⟨0x0200, 31, 30⟩
abbrev F.ROLE_STAT_CHAL_V : Fld := ⟨0x0200, 29, 29⟩
abbrev F.ROLE_STAT_LOCKOUT : Fld := ⟨0x0200, 28, 28⟩
abbrev F.ROLE_STAT_NOKEY : Fld := ⟨0x0200, 27, 27⟩
abbrev F.ROLE_STAT_FAIL : Fld := ⟨0x0200, 26, 26⟩
abbrev F.ROLE_STAT_CFG_ERR : Fld := ⟨0x0200, 25, 25⟩
abbrev F.ROLE_STAT_MAK_KEY : Fld := ⟨0x0200, 19, 19⟩
abbrev F.ROLE_STAT_IMG_KEY : Fld := ⟨0x0200, 18, 18⟩
abbrev F.ROLE_STAT_INS_GEN : Fld := ⟨0x0200, 17, 16⟩
abbrev F.ROLE_STAT_INS_KEY : Fld := ⟨0x0200, 15, 15⟩
/-- ROLE_CMD (R560). -/
abbrev R.ROLE_CMD : Nat := 0x0201
abbrev F.ROLE_CMD_CMD : Fld := ⟨0x0201, 31, 28⟩
abbrev F.ROLE_CMD_ROLE : Fld := ⟨0x0201, 27, 26⟩
abbrev F.ROLE_CMD_SLOT : Fld := ⟨0x0201, 3, 0⟩
/-- ROLE_BUF0 (R560). -/
abbrev R.ROLE_BUF0 : Nat := 0x0202
/-- ROLE_BUF1 (R560). -/
abbrev R.ROLE_BUF1 : Nat := 0x0203
/-- ROLE_BUF2 (R560). -/
abbrev R.ROLE_BUF2 : Nat := 0x0204
/-- ROLE_BUF3 (R560). -/
abbrev R.ROLE_BUF3 : Nat := 0x0205
/-- ROLE_BUF4 (R560). -/
abbrev R.ROLE_BUF4 : Nat := 0x0206
/-- ROLE_BUF5 (R560). -/
abbrev R.ROLE_BUF5 : Nat := 0x0207
/-- ROLE_BUF6 (R560). -/
abbrev R.ROLE_BUF6 : Nat := 0x0208
/-- ROLE_BUF7 (R560). -/
abbrev R.ROLE_BUF7 : Nat := 0x0209
/-- ROLE_CFG (R560). -/
abbrev R.ROLE_CFG : Nat := 0x020A
abbrev F.ROLE_CFG_IDLE : Fld := ⟨0x020A, 7, 0⟩
/-- RIG_CTL (R560). -/
abbrev R.RIG_CTL : Nat := 0x020B
abbrev F.RIG_CTL_UNRIG : Fld := ⟨0x020B, 15, 0⟩
/-- AUD_STAT (R560). -/
abbrev R.AUD_STAT : Nat := 0x020C
abbrev F.AUD_STAT_QFULL : Fld := ⟨0x020C, 31, 31⟩
abbrev F.AUD_STAT_QUEUE : Fld := ⟨0x020C, 29, 24⟩
abbrev F.AUD_STAT_COUNT : Fld := ⟨0x020C, 23, 12⟩
abbrev F.AUD_STAT_NEWEST : Fld := ⟨0x020C, 10, 0⟩
/-- AUD_SEL (R560). -/
abbrev R.AUD_SEL : Nat := 0x020D
abbrev F.AUD_SEL_AINC : Fld := ⟨0x020D, 31, 31⟩
abbrev F.AUD_SEL_WORD : Fld := ⟨0x020D, 17, 16⟩
abbrev F.AUD_SEL_SLOT : Fld := ⟨0x020D, 10, 0⟩
/-- AUD_DATA (R560). -/
abbrev R.AUD_DATA : Nat := 0x020E
abbrev F.AUD_DATA_DATA : Fld := ⟨0x020E, 31, 0⟩
/-- ROLE_FAILS (R560). -/
abbrev R.ROLE_FAILS : Nat := 0x020F
abbrev F.ROLE_FAILS_FAILS : Fld := ⟨0x020F, 7, 0⟩
/-- FC_CTL (R393). -/
abbrev R.FC_CTL : Nat := 0x0300
abbrev F.FC_CTL_FIRST_SEV : Fld := ⟨0x0300, 30, 28⟩
abbrev F.FC_CTL_STORE_SEV : Fld := ⟨0x0300, 26, 24⟩
abbrev F.FC_CTL_FLT_SEV : Fld := ⟨0x0300, 22, 20⟩
abbrev F.FC_CTL_IRQ_SEV : Fld := ⟨0x0300, 18, 16⟩
abbrev F.FC_CTL_DER_F : Fld := ⟨0x0300, 15, 8⟩
abbrev F.FC_CTL_SUPP_EN : Fld := ⟨0x0300, 0, 0⟩
/-- FC_STAT (R393). -/
abbrev R.FC_STAT : Nat := 0x0301
abbrev F.FC_STAT_MAXSEV : Fld := ⟨0x0301, 31, 29⟩
abbrev F.FC_STAT_FIRST_V : Fld := ⟨0x0301, 28, 28⟩
abbrev F.FC_STAT_NEWREC : Fld := ⟨0x0301, 27, 27⟩
abbrev F.FC_STAT_LOG_WRAP : Fld := ⟨0x0301, 26, 26⟩
abbrev F.FC_STAT_STORE_OVF : Fld := ⟨0x0301, 25, 25⟩
abbrev F.FC_STAT_ACK_REF : Fld := ⟨0x0301, 24, 24⟩
abbrev F.FC_STAT_CFG_ERR : Fld := ⟨0x0301, 23, 23⟩
abbrev F.FC_STAT_DERATED : Fld := ⟨0x0301, 22, 22⟩
abbrev F.FC_STAT_PEND : Fld := ⟨0x0301, 6, 0⟩
/-- FC_SEL (R393). -/
abbrev R.FC_SEL : Nat := 0x0302
abbrev F.FC_SEL_REACT : Fld := ⟨0x0302, 11, 8⟩
abbrev F.FC_SEL_SRC : Fld := ⟨0x0302, 7, 0⟩
/-- FC_SRC_CFG (R393). -/
abbrev R.FC_SRC_CFG : Nat := 0x0303
abbrev F.FC_SRC_CFG_EN : Fld := ⟨0x0303, 31, 31⟩
abbrev F.FC_SRC_CFG_SEV : Fld := ⟨0x0303, 30, 28⟩
abbrev F.FC_SRC_CFG_PSEV : Fld := ⟨0x0303, 27, 25⟩
abbrev F.FC_SRC_CFG_CNT_N : Fld := ⟨0x0303, 24, 21⟩
abbrev F.FC_SRC_CFG_WIN : Fld := ⟨0x0303, 20, 14⟩
abbrev F.FC_SRC_CFG_WUNIT : Fld := ⟨0x0303, 13, 12⟩
abbrev F.FC_SRC_CFG_STOP : Fld := ⟨0x0303, 11, 10⟩
abbrev F.FC_SRC_CFG_ALL : Fld := ⟨0x0303, 9, 9⟩
abbrev F.FC_SRC_CFG_RESTART : Fld := ⟨0x0303, 8, 8⟩
abbrev F.FC_SRC_CFG_IDLE : Fld := ⟨0x0303, 7, 7⟩
abbrev F.FC_SRC_CFG_CTXEN : Fld := ⟨0x0303, 6, 6⟩
abbrev F.FC_SRC_CFG_CTX : Fld := ⟨0x0303, 5, 0⟩
/-- FC_SRC_STAT (R393). -/
abbrev R.FC_SRC_STAT : Nat := 0x0304
abbrev F.FC_SRC_STAT_CNT : Fld := ⟨0x0304, 31, 28⟩
abbrev F.FC_SRC_STAT_SUPP : Fld := ⟨0x0304, 27, 20⟩
abbrev F.FC_SRC_STAT_PEND : Fld := ⟨0x0304, 19, 19⟩
abbrev F.FC_SRC_STAT_PMAX : Fld := ⟨0x0304, 18, 16⟩
/-- FC_CONSEQ (R393). -/
abbrev R.FC_CONSEQ : Nat := 0x0305
abbrev F.FC_CONSEQ_GMASK : Fld := ⟨0x0305, 27, 20⟩
abbrev F.FC_CONSEQ_WAKE : Fld := ⟨0x0305, 19, 12⟩
abbrev F.FC_CONSEQ_KMASK : Fld := ⟨0x0305, 11, 0⟩
/-- FC_ACK (R393). -/
abbrev R.FC_ACK : Nat := 0x0306
abbrev F.FC_ACK_SEQ : Fld := ⟨0x0306, 31, 0⟩
/-- FC_CMD (R393). -/
abbrev R.FC_CMD : Nat := 0x0307
abbrev F.FC_CMD_ACK_ALL : Fld := ⟨0x0307, 2, 2⟩
abbrev F.FC_CMD_LOG_CLR : Fld := ⟨0x0307, 1, 1⟩
abbrev F.FC_CMD_FIRST_CLR : Fld := ⟨0x0307, 0, 0⟩
/-- FC_FIRST0 (R393). -/
abbrev R.FC_FIRST0 : Nat := 0x0308
/-- FC_FIRST1 (R393). -/
abbrev R.FC_FIRST1 : Nat := 0x0309
/-- FC_FIRST2 (R393). -/
abbrev R.FC_FIRST2 : Nat := 0x030A
/-- FC_FIRST3 (R393). -/
abbrev R.FC_FIRST3 : Nat := 0x030B
/-- FC_LOG_SEL (R393). -/
abbrev R.FC_LOG_SEL : Nat := 0x030C
abbrev F.FC_LOG_SEL_AINC : Fld := ⟨0x030C, 31, 31⟩
abbrev F.FC_LOG_SEL_SLOT : Fld := ⟨0x030C, 7, 0⟩
/-- FC_LOG0 (R393). -/
abbrev R.FC_LOG0 : Nat := 0x030D
/-- FC_LOG1 (R393). -/
abbrev R.FC_LOG1 : Nat := 0x030E
/-- FC_LOG2 (R393). -/
abbrev R.FC_LOG2 : Nat := 0x030F
/-- FC_LOG3 (R393). -/
abbrev R.FC_LOG3 : Nat := 0x0310
/-- FC_SEQ (R393). -/
abbrev R.FC_SEQ : Nat := 0x0311
/-- FC_CNT (R393). -/
abbrev R.FC_CNT : Nat := 0x0312
abbrev F.FC_CNT_REC : Fld := ⟨0x0312, 31, 16⟩
abbrev F.FC_CNT_CONSEQ : Fld := ⟨0x0312, 15, 8⟩
abbrev F.FC_CNT_STORE_LOST : Fld := ⟨0x0312, 7, 0⟩
/-- FC_MAST_SEV (R393). -/
abbrev R.FC_MAST_SEV : Nat := 0x0313
abbrev F.FC_MAST_SEV_SEV0 : Fld := ⟨0x0313, 1, 0⟩
abbrev F.FC_MAST_SEV_SEV1 : Fld := ⟨0x0313, 3, 2⟩
abbrev F.FC_MAST_SEV_SEV2 : Fld := ⟨0x0313, 5, 4⟩
abbrev F.FC_MAST_SEV_SEV3 : Fld := ⟨0x0313, 7, 6⟩
abbrev F.FC_MAST_SEV_SEV4 : Fld := ⟨0x0313, 9, 8⟩
abbrev F.FC_MAST_SEV_SEV5 : Fld := ⟨0x0313, 11, 10⟩
abbrev F.FC_MAST_SEV_SEV6 : Fld := ⟨0x0313, 13, 12⟩
abbrev F.FC_MAST_SEV_SEV7 : Fld := ⟨0x0313, 15, 14⟩
abbrev F.FC_MAST_SEV_SEV8 : Fld := ⟨0x0313, 17, 16⟩
abbrev F.FC_MAST_SEV_SEV9 : Fld := ⟨0x0313, 19, 18⟩
abbrev F.FC_MAST_SEV_SEV10 : Fld := ⟨0x0313, 21, 20⟩
abbrev F.FC_MAST_SEV_SEV11 : Fld := ⟨0x0313, 23, 22⟩
abbrev F.FC_MAST_SEV_SEV12 : Fld := ⟨0x0313, 25, 24⟩
abbrev F.FC_MAST_SEV_SEV13 : Fld := ⟨0x0313, 27, 26⟩
abbrev F.FC_MAST_SEV_SEV14 : Fld := ⟨0x0313, 29, 28⟩
abbrev F.FC_MAST_SEV_SEV15 : Fld := ⟨0x0313, 31, 30⟩
/-- FC_STORE (R393). -/
abbrev R.FC_STORE : Nat := 0x0314
abbrev F.FC_STORE_RSV : Fld := ⟨0x0314, 27, 24⟩
abbrev F.FC_STORE_QUEUE : Fld := ⟨0x0314, 23, 16⟩
abbrev F.FC_STORE_STORED : Fld := ⟨0x0314, 10, 0⟩
/-- FC_WAKE (R393). -/
abbrev R.FC_WAKE : Nat := 0x0315
abbrev F.FC_WAKE_GWAKE : Fld := ⟨0x0315, 23, 16⟩
abbrev F.FC_WAKE_MWAKE : Fld := ⟨0x0315, 15, 0⟩
/-- FC_TEST (R393). -/
abbrev R.FC_TEST : Nat := 0x0316
abbrev F.FC_TEST_SRC : Fld := ⟨0x0316, 7, 0⟩
/-- HK_CTL (R420). -/
abbrev R.HK_CTL : Nat := 0x0400
abbrev F.HK_CTL_REEF_EN : Fld := ⟨0x0400, 31, 31⟩
abbrev F.HK_CTL_MED_LIM : Fld := ⟨0x0400, 15, 8⟩
/-- HK_STAT (R420). -/
abbrev R.HK_STAT : Nat := 0x0401
abbrev F.HK_STAT_SHUT_L : Fld := ⟨0x0401, 31, 31⟩
abbrev F.HK_STAT_WARN : Fld := ⟨0x0401, 30, 30⟩
abbrev F.HK_STAT_RATE_HI : Fld := ⟨0x0401, 29, 29⟩
abbrev F.HK_STAT_STORE_SUSP : Fld := ⟨0x0401, 28, 28⟩
abbrev F.HK_STAT_CFG_ERR : Fld := ⟨0x0401, 27, 27⟩
abbrev F.HK_STAT_CMD_REF : Fld := ⟨0x0401, 26, 26⟩
abbrev F.HK_STAT_HOTTEST : Fld := ⟨0x0401, 20, 16⟩
abbrev F.HK_STAT_DIE_MAX : Fld := ⟨0x0401, 15, 0⟩
/-- TH_DIE (R420). -/
abbrev R.TH_DIE : Nat := 0x0402
abbrev F.TH_DIE_WARN : Fld := ⟨0x0402, 31, 24⟩
abbrev F.TH_DIE_REEF_ST : Fld := ⟨0x0402, 23, 16⟩
abbrev F.TH_DIE_SPAN : Fld := ⟨0x0402, 15, 8⟩
abbrev F.TH_DIE_HYST : Fld := ⟨0x0402, 7, 0⟩
/-- TH_SHUT (R420). -/
abbrev R.TH_SHUT : Nat := 0x0403
abbrev F.TH_SHUT_SHUT : Fld := ⟨0x0403, 15, 8⟩
abbrev F.TH_SHUT_REEF_FLOOR : Fld := ⟨0x0403, 7, 0⟩
/-- TH_RATE (R420). -/
abbrev R.TH_RATE : Nat := 0x0404
abbrev F.TH_RATE_FALLBACK : Fld := ⟨0x0404, 31, 24⟩
abbrev F.TH_RATE_LOOK : Fld := ⟨0x0404, 15, 8⟩
abbrev F.TH_RATE_RATE : Fld := ⟨0x0404, 7, 0⟩
/-- TH_EXT (R420). -/
abbrev R.TH_EXT : Nat := 0x0405
abbrev F.TH_EXT_WARN : Fld := ⟨0x0405, 31, 24⟩
abbrev F.TH_EXT_REEF_ST : Fld := ⟨0x0405, 23, 16⟩
abbrev F.TH_EXT_SPAN : Fld := ⟨0x0405, 15, 8⟩
/-- SNS_SEL (R420). -/
abbrev R.SNS_SEL : Nat := 0x0406
abbrev F.SNS_SEL_MAST : Fld := ⟨0x0406, 19, 16⟩
abbrev F.SNS_SEL_SNS : Fld := ⟨0x0406, 4, 0⟩
/-- SNS_CFG (R420). -/
abbrev R.SNS_CFG : Nat := 0x0407
abbrev F.SNS_CFG_EN : Fld := ⟨0x0407, 31, 31⟩
abbrev F.SNS_CFG_CRIT : Fld := ⟨0x0407, 30, 30⟩
abbrev F.SNS_CFG_MODE : Fld := ⟨0x0407, 29, 28⟩
abbrev F.SNS_CFG_ISEL : Fld := ⟨0x0407, 27, 27⟩
abbrev F.SNS_CFG_OFS : Fld := ⟨0x0407, 23, 16⟩
abbrev F.SNS_CFG_NBR : Fld := ⟨0x0407, 15, 8⟩
abbrev F.SNS_CFG_TAB : Fld := ⟨0x0407, 6, 0⟩
/-- TSNS_STAT (R420). -/
abbrev R.TSNS_STAT : Nat := 0x0408
abbrev F.TSNS_STAT_FAIL : Fld := ⟨0x0408, 31, 31⟩
abbrev F.TSNS_STAT_WHY : Fld := ⟨0x0408, 30, 28⟩
abbrev F.TSNS_STAT_RECOV : Fld := ⟨0x0408, 27, 21⟩
abbrev F.TSNS_STAT_T : Fld := ⟨0x0408, 15, 0⟩
/-- SNS_FAIL (R420). -/
abbrev R.SNS_FAIL : Nat := 0x0409
abbrev F.SNS_FAIL_FAILED : Fld := ⟨0x0409, 31, 0⟩
/-- REEF_MAP (R420). -/
abbrev R.REEF_MAP : Nat := 0x040A
abbrev F.REEF_MAP_MAP : Fld := ⟨0x040A, 31, 0⟩
/-- REEF_STAT (R420). -/
abbrev R.REEF_STAT : Nat := 0x040B
abbrev F.REEF_STAT_FROZEN : Fld := ⟨0x040B, 31, 31⟩
abbrev F.REEF_STAT_FALLBK : Fld := ⟨0x040B, 30, 30⟩
abbrev F.REEF_STAT_DER : Fld := ⟨0x040B, 29, 29⟩
abbrev F.REEF_STAT_GOV : Fld := ⟨0x040B, 28, 24⟩
abbrev F.REEF_STAT_FACTOR : Fld := ⟨0x040B, 15, 0⟩
/-- SUP_CFG (R420). -/
abbrev R.SUP_CFG : Nat := 0x040C
abbrev F.SUP_CFG_EN : Fld := ⟨0x040C, 5, 0⟩
/-- SUP_STAT (R420). -/
abbrev R.SUP_STAT : Nat := 0x040D
abbrev F.SUP_STAT_SEEN : Fld := ⟨0x040D, 13, 8⟩
abbrev F.SUP_STAT_OUT : Fld := ⟨0x040D, 5, 0⟩
/-- TPEAK (R420). -/
abbrev R.TPEAK : Nat := 0x040E
abbrev F.TPEAK_SNS : Fld := ⟨0x040E, 31, 27⟩
abbrev F.TPEAK_T : Fld := ⟨0x040E, 15, 0⟩
/-- HK_CMD (R420). -/
abbrev R.HK_CMD : Nat := 0x040F
abbrev F.HK_CMD_PEAK_CLR : Fld := ⟨0x040F, 1, 1⟩
abbrev F.HK_CMD_SHUT_CLR : Fld := ⟨0x040F, 0, 0⟩
/-- LK_CTL (R453). -/
abbrev R.LK_CTL : Nat := 0x0500
abbrev F.LK_CTL_EN : Fld := ⟨0x0500, 31, 31⟩
abbrev F.LK_CTL_BYPASS : Fld := ⟨0x0500, 30, 30⟩
abbrev F.LK_CTL_FURL_TX : Fld := ⟨0x0500, 29, 29⟩
abbrev F.LK_CTL_STOP_RX : Fld := ⟨0x0500, 28, 28⟩
abbrev F.LK_CTL_PWR : Fld := ⟨0x0500, 27, 27⟩
/-- LK_CFG (R453). -/
abbrev R.LK_CFG : Nat := 0x0501
abbrev F.LK_CFG_NODE : Fld := ⟨0x0501, 28, 24⟩
abbrev F.LK_CFG_CYC : Fld := ⟨0x0501, 9, 0⟩
/-- LK_STAT (R453). -/
abbrev R.LK_STAT : Nat := 0x0502
abbrev F.LK_STAT_INSERTED : Fld := ⟨0x0502, 31, 31⟩
abbrev F.LK_STAT_WRAPPED : Fld := ⟨0x0502, 30, 30⟩
abbrev F.LK_STAT_DUP : Fld := ⟨0x0502, 29, 29⟩
abbrev F.LK_STAT_FOUNDER : Fld := ⟨0x0502, 28, 28⟩
abbrev F.LK_STAT_CYC_LATE : Fld := ⟨0x0502, 27, 27⟩
abbrev F.LK_STAT_MSG_OVR : Fld := ⟨0x0502, 26, 26⟩
abbrev F.LK_STAT_PWR_REF : Fld := ⟨0x0502, 25, 25⟩
abbrev F.LK_STAT_CFG_ERR : Fld := ⟨0x0502, 24, 24⟩
/-- LK_PORT0 (R453). -/
abbrev R.LK_PORT0 : Nat := 0x0503
abbrev F.LK_PORT0_STATE : Fld := ⟨0x0503, 31, 29⟩
abbrev F.LK_PORT0_SIG : Fld := ⟨0x0503, 28, 28⟩
abbrev F.LK_PORT0_LOCK : Fld := ⟨0x0503, 27, 27⟩
abbrev F.LK_PORT0_PEER_LOCK : Fld := ⟨0x0503, 26, 26⟩
abbrev F.LK_PORT0_WRAP : Fld := ⟨0x0503, 25, 25⟩
abbrev F.LK_PORT0_PEER : Fld := ⟨0x0503, 24, 20⟩
abbrev F.LK_PORT0_EYE : Fld := ⟨0x0503, 15, 8⟩
abbrev F.LK_PORT0_UPS : Fld := ⟨0x0503, 7, 0⟩
/-- LK_PORT1 (R453). -/
abbrev R.LK_PORT1 : Nat := 0x0504
abbrev F.LK_PORT1_STATE : Fld := ⟨0x0504, 31, 29⟩
abbrev F.LK_PORT1_SIG : Fld := ⟨0x0504, 28, 28⟩
abbrev F.LK_PORT1_LOCK : Fld := ⟨0x0504, 27, 27⟩
abbrev F.LK_PORT1_PEER_LOCK : Fld := ⟨0x0504, 26, 26⟩
abbrev F.LK_PORT1_WRAP : Fld := ⟨0x0504, 25, 25⟩
abbrev F.LK_PORT1_PEER : Fld := ⟨0x0504, 24, 20⟩
abbrev F.LK_PORT1_EYE : Fld := ⟨0x0504, 15, 8⟩
abbrev F.LK_PORT1_UPS : Fld := ⟨0x0504, 7, 0⟩
/-- LK_PUB0 (R453). -/
abbrev R.LK_PUB0 : Nat := 0x0505
abbrev F.LK_PUB0_EN : Fld := ⟨0x0505, 31, 31⟩
abbrev F.LK_PUB0_COUNT : Fld := ⟨0x0505, 25, 16⟩
abbrev F.LK_PUB0_FIRST : Fld := ⟨0x0505, 15, 0⟩
/-- LK_PUB1 (R453). -/
abbrev R.LK_PUB1 : Nat := 0x0506
abbrev F.LK_PUB1_EN : Fld := ⟨0x0506, 31, 31⟩
abbrev F.LK_PUB1_COUNT : Fld := ⟨0x0506, 25, 16⟩
abbrev F.LK_PUB1_FIRST : Fld := ⟨0x0506, 15, 0⟩
/-- LK_PWSEL (R453). -/
abbrev R.LK_PWSEL : Nat := 0x0507
abbrev F.LK_PWSEL_WIN : Fld := ⟨0x0507, 3, 0⟩
/-- LK_PWIN (R453). -/
abbrev R.LK_PWIN : Nat := 0x0508
abbrev F.LK_PWIN_EN : Fld := ⟨0x0508, 31, 31⟩
abbrev F.LK_PWIN_STALE : Fld := ⟨0x0508, 30, 30⟩
abbrev F.LK_PWIN_NODE : Fld := ⟨0x0508, 29, 25⟩
abbrev F.LK_PWIN_BASE : Fld := ⟨0x0508, 24, 21⟩
abbrev F.LK_PWIN_MOFS : Fld := ⟨0x0508, 20, 10⟩
abbrev F.LK_PWIN_MLEN : Fld := ⟨0x0508, 8, 0⟩
/-- LK_POLICE (R453). -/
abbrev R.LK_POLICE : Nat := 0x0509
abbrev F.LK_POLICE_RATE : Fld := ⟨0x0509, 31, 24⟩
abbrev F.LK_POLICE_DEPTH : Fld := ⟨0x0509, 23, 16⟩
abbrev F.LK_POLICE_CYC_MAX : Fld := ⟨0x0509, 11, 0⟩
/-- LK_TRIG (R453). -/
abbrev R.LK_TRIG : Nat := 0x050A
abbrev F.LK_TRIG_EXP_EN : Fld := ⟨0x050A, 31, 31⟩
abbrev F.LK_TRIG_EXP_CTX : Fld := ⟨0x050A, 29, 24⟩
abbrev F.LK_TRIG_CYC_EN : Fld := ⟨0x050A, 23, 23⟩
abbrev F.LK_TRIG_CYC_NODE : Fld := ⟨0x050A, 20, 16⟩
abbrev F.LK_TRIG_CYC_CTX : Fld := ⟨0x050A, 13, 8⟩
/-- LK_STOP (R453). -/
abbrev R.LK_STOP : Nat := 0x050B
abbrev F.LK_STOP_SEND : Fld := ⟨0x050B, 31, 31⟩
abbrev F.LK_STOP_LAST_SRC : Fld := ⟨0x050B, 12, 8⟩
abbrev F.LK_STOP_RX : Fld := ⟨0x050B, 7, 0⟩
/-- LK_TOPO (R453). -/
abbrev R.LK_TOPO : Nat := 0x050C
abbrev F.LK_TOPO_HOPS : Fld := ⟨0x050C, 29, 24⟩
abbrev F.LK_TOPO_WRAPS : Fld := ⟨0x050C, 23, 16⟩
abbrev F.LK_TOPO_NODES : Fld := ⟨0x050C, 5, 0⟩
/-- LK_ERR0 (R453). -/
abbrev R.LK_ERR0 : Nat := 0x050D
abbrev F.LK_ERR0_CODE : Fld := ⟨0x050D, 31, 24⟩
abbrev F.LK_ERR0_CRC : Fld := ⟨0x050D, 23, 16⟩
abbrev F.LK_ERR0_ABORT : Fld := ⟨0x050D, 15, 8⟩
abbrev F.LK_ERR0_POLICED : Fld := ⟨0x050D, 7, 0⟩
/-- LK_ERR1 (R453). -/
abbrev R.LK_ERR1 : Nat := 0x050E
abbrev F.LK_ERR1_CODE : Fld := ⟨0x050E, 31, 24⟩
abbrev F.LK_ERR1_CRC : Fld := ⟨0x050E, 23, 16⟩
abbrev F.LK_ERR1_ABORT : Fld := ⟨0x050E, 15, 8⟩
abbrev F.LK_ERR1_POLICED : Fld := ⟨0x050E, 7, 0⟩
/-- LK_DIAG (R453). -/
abbrev R.LK_DIAG : Nat := 0x050F
abbrev F.LK_DIAG_LOOP : Fld := ⟨0x050F, 31, 31⟩
abbrev F.LK_DIAG_LB_DONE : Fld := ⟨0x050F, 30, 30⟩
abbrev F.LK_DIAG_LB_OK : Fld := ⟨0x050F, 29, 29⟩
/-- TB_CTL (R491). -/
abbrev R.TB_CTL : Nat := 0x0600
abbrev F.TB_CTL_MROLE : Fld := ⟨0x0600, 30, 29⟩
abbrev F.TB_CTL_ZROLE : Fld := ⟨0x0600, 28, 27⟩
abbrev F.TB_CTL_AUTO_SET : Fld := ⟨0x0600, 26, 26⟩
abbrev F.TB_CTL_REVERT : Fld := ⟨0x0600, 25, 25⟩
abbrev F.TB_CTL_PTPTS : Fld := ⟨0x0600, 24, 24⟩
/-- TB_STAT (R491). -/
abbrev R.TB_STAT : Nat := 0x0601
abbrev F.TB_STAT_STATE : Fld := ⟨0x0601, 31, 29⟩
abbrev F.TB_STAT_MZ_VALID : Fld := ⟨0x0601, 28, 28⟩
abbrev F.TB_STAT_SWITCHED : Fld := ⟨0x0601, 27, 27⟩
abbrev F.TB_STAT_LOCK : Fld := ⟨0x0601, 26, 26⟩
abbrev F.TB_STAT_SET_DONE : Fld := ⟨0x0601, 25, 25⟩
abbrev F.TB_STAT_REJ : Fld := ⟨0x0601, 24, 24⟩
abbrev F.TB_STAT_CFG_ERR : Fld := ⟨0x0601, 23, 23⟩
abbrev F.TB_STAT_SYNC_LOST : Fld := ⟨0x0601, 22, 22⟩
/-- TB_NS (R491). -/
abbrev R.TB_NS : Nat := 0x0602
abbrev F.TB_NS_NS : Fld := ⟨0x0602, 29, 0⟩
/-- TB_SEC_LO (R491). -/
abbrev R.TB_SEC_LO : Nat := 0x0603
abbrev F.TB_SEC_LO_SEC : Fld := ⟨0x0603, 31, 0⟩
/-- TB_SEC_HI (R491). -/
abbrev R.TB_SEC_HI : Nat := 0x0604
abbrev F.TB_SEC_HI_SEC : Fld := ⟨0x0604, 15, 0⟩
/-- TB_RATE (R491). -/
abbrev R.TB_RATE : Nat := 0x0605
abbrev F.TB_RATE_F : Fld := ⟨0x0605, 31, 0⟩
/-- SET_NS (R491). -/
abbrev R.SET_NS : Nat := 0x0606
abbrev F.SET_NS_NS : Fld := ⟨0x0606, 29, 0⟩
/-- SET_SEC_LO (R491). -/
abbrev R.SET_SEC_LO : Nat := 0x0607
abbrev F.SET_SEC_LO_SEC : Fld := ⟨0x0607, 31, 0⟩
/-- SET_SEC_HI (R491). -/
abbrev R.SET_SEC_HI : Nat := 0x0608
abbrev F.SET_SEC_HI_SEC : Fld := ⟨0x0608, 15, 0⟩
/-- TB_CMD (R491). -/
abbrev R.TB_CMD : Nat := 0x0609
abbrev F.TB_CMD_REVERT : Fld := ⟨0x0609, 1, 1⟩
abbrev F.TB_CMD_SET : Fld := ⟨0x0609, 0, 0⟩
/-- SRV_CFG (R491). -/
abbrev R.SRV_CFG : Nat := 0x060A
abbrev F.SRV_CFG_KP : Fld := ⟨0x060A, 31, 24⟩
abbrev F.SRV_CFG_KI : Fld := ⟨0x060A, 23, 16⟩
abbrev F.SRV_CFG_STEP : Fld := ⟨0x060A, 15, 8⟩
abbrev F.SRV_CFG_PH_MAX : Fld := ⟨0x060A, 7, 4⟩
abbrev F.SRV_CFG_RATE_MAX : Fld := ⟨0x060A, 3, 0⟩
/-- PTP_CFG (R491). -/
abbrev R.PTP_CFG : Nat := 0x060B
abbrev F.PTP_CFG_DOM_M : Fld := ⟨0x060B, 31, 24⟩
abbrev F.PTP_CFG_DOM_Z : Fld := ⟨0x060B, 23, 16⟩
abbrev F.PTP_CFG_SYNC_TMO : Fld := ⟨0x060B, 15, 12⟩
abbrev F.PTP_CFG_PD_TC : Fld := ⟨0x060B, 11, 8⟩
abbrev F.PTP_CFG_SET_MIN : Fld := ⟨0x060B, 7, 0⟩
/-- TSC_CFG (R491). -/
abbrev R.TSC_CFG : Nat := 0x060C
abbrev F.TSC_CFG_EN0 : Fld := ⟨0x060C, 7, 7⟩
abbrev F.TSC_CFG_EN1 : Fld := ⟨0x060C, 15, 15⟩
abbrev F.TSC_CFG_EN2 : Fld := ⟨0x060C, 23, 23⟩
abbrev F.TSC_CFG_EN3 : Fld := ⟨0x060C, 31, 31⟩
abbrev F.TSC_CFG_EDGE0 : Fld := ⟨0x060C, 6, 5⟩
abbrev F.TSC_CFG_EDGE1 : Fld := ⟨0x060C, 14, 13⟩
abbrev F.TSC_CFG_EDGE2 : Fld := ⟨0x060C, 22, 21⟩
abbrev F.TSC_CFG_EDGE3 : Fld := ⟨0x060C, 30, 29⟩
abbrev F.TSC_CFG_PIN0 : Fld := ⟨0x060C, 4, 0⟩
abbrev F.TSC_CFG_PIN1 : Fld := ⟨0x060C, 12, 8⟩
abbrev F.TSC_CFG_PIN2 : Fld := ⟨0x060C, 20, 16⟩
abbrev F.TSC_CFG_PIN3 : Fld := ⟨0x060C, 28, 24⟩
/-- TSC_STAT (R491). -/
abbrev R.TSC_STAT : Nat := 0x060D
abbrev F.TSC_STAT_NEW0 : Fld := ⟨0x060D, 7, 7⟩
abbrev F.TSC_STAT_NEW1 : Fld := ⟨0x060D, 15, 15⟩
abbrev F.TSC_STAT_NEW2 : Fld := ⟨0x060D, 23, 23⟩
abbrev F.TSC_STAT_NEW3 : Fld := ⟨0x060D, 31, 31⟩
abbrev F.TSC_STAT_OVR0 : Fld := ⟨0x060D, 6, 6⟩
abbrev F.TSC_STAT_OVR1 : Fld := ⟨0x060D, 14, 14⟩
abbrev F.TSC_STAT_OVR2 : Fld := ⟨0x060D, 22, 22⟩
abbrev F.TSC_STAT_OVR3 : Fld := ⟨0x060D, 30, 30⟩
/-- CAL_CTL (R492). -/
abbrev R.CAL_CTL : Nat := 0x0700
abbrev F.CAL_CTL_EN : Fld := ⟨0x0700, 31, 31⟩
abbrev F.CAL_CTL_GUARD : Fld := ⟨0x0700, 11, 0⟩
/-- CAL_STAT (R492). -/
abbrev R.CAL_STAT : Nat := 0x0701
abbrev F.CAL_STAT_FULL : Fld := ⟨0x0701, 31, 31⟩
abbrev F.CAL_STAT_LATE : Fld := ⟨0x0701, 30, 30⟩
abbrev F.CAL_STAT_DROP : Fld := ⟨0x0701, 29, 29⟩
abbrev F.CAL_STAT_REJ : Fld := ⟨0x0701, 28, 28⟩
abbrev F.CAL_STAT_CFG_ERR : Fld := ⟨0x0701, 27, 27⟩
abbrev F.CAL_STAT_COUNT : Fld := ⟨0x0701, 13, 0⟩
/-- CAL_W0 (R492). -/
abbrev R.CAL_W0 : Nat := 0x0702
/-- CAL_W1 (R492). -/
abbrev R.CAL_W1 : Nat := 0x0703
/-- CAL_W2 (R492). -/
abbrev R.CAL_W2 : Nat := 0x0704
/-- CAL_W3 (R492). -/
abbrev R.CAL_W3 : Nat := 0x0705
/-- CAL_CMD (R492). -/
abbrev R.CAL_CMD : Nat := 0x0706
abbrev F.CAL_CMD_CMD : Fld := ⟨0x0706, 31, 30⟩
abbrev F.CAL_CMD_INDEX : Fld := ⟨0x0706, 13, 0⟩
/-- CAL_RES (R492). -/
abbrev R.CAL_RES : Nat := 0x0707
abbrev F.CAL_RES_BUSY : Fld := ⟨0x0707, 31, 31⟩
abbrev F.CAL_RES_RES : Fld := ⟨0x0707, 15, 0⟩
/-- CAL_NEXT (R492). -/
abbrev R.CAL_NEXT : Nat := 0x0708
abbrev F.CAL_NEXT_VALID : Fld := ⟨0x0708, 31, 31⟩
abbrev F.CAL_NEXT_INDEX : Fld := ⟨0x0708, 13, 0⟩
/-- CAL_CNT (R492). -/
abbrev R.CAL_CNT : Nat := 0x0709
abbrev F.CAL_CNT_LATE_RUN : Fld := ⟨0x0709, 31, 24⟩
abbrev F.CAL_CNT_DROPPED : Fld := ⟨0x0709, 23, 16⟩
abbrev F.CAL_CNT_REJECTED : Fld := ⟨0x0709, 15, 8⟩
abbrev F.CAL_CNT_FULL : Fld := ⟨0x0709, 7, 0⟩
/-- ENG_CTL (R279). -/
abbrev R.ENG_CTL : Nat := 0x0800
abbrev F.ENG_CTL_QNT : Fld := ⟨0x0800, 23, 16⟩
abbrev F.ENG_CTL_SIG_TMO : Fld := ⟨0x0800, 15, 8⟩
abbrev F.ENG_CTL_MIGR : Fld := ⟨0x0800, 4, 4⟩
abbrev F.ENG_CTL_LANE_EN : Fld := ⟨0x0800, 3, 0⟩
/-- ENG_STAT (R279). -/
abbrev R.ENG_STAT : Nat := 0x0801
abbrev F.ENG_STAT_LANE_FLT : Fld := ⟨0x0801, 31, 28⟩
abbrev F.ENG_STAT_LANE_ACT : Fld := ⟨0x0801, 27, 24⟩
abbrev F.ENG_STAT_CFG_ERR : Fld := ⟨0x0801, 23, 23⟩
abbrev F.ENG_STAT_CELL_REF : Fld := ⟨0x0801, 22, 22⟩
abbrev F.ENG_STAT_PRG_REF : Fld := ⟨0x0801, 21, 21⟩
abbrev F.ENG_STAT_BKPT : Fld := ⟨0x0801, 20, 20⟩
abbrev F.ENG_STAT_BKPT_SKIP : Fld := ⟨0x0801, 19, 19⟩
abbrev F.ENG_STAT_HALTED : Fld := ⟨0x0801, 18, 18⟩
abbrev F.ENG_STAT_NACT : Fld := ⟨0x0801, 6, 0⟩
/-- ENG_LOAD (R279). -/
abbrev R.ENG_LOAD : Nat := 0x0802
abbrev F.ENG_LOAD_LOAD0 : Fld := ⟨0x0802, 7, 0⟩
abbrev F.ENG_LOAD_LOAD1 : Fld := ⟨0x0802, 15, 8⟩
abbrev F.ENG_LOAD_LOAD2 : Fld := ⟨0x0802, 23, 16⟩
abbrev F.ENG_LOAD_LOAD3 : Fld := ⟨0x0802, 31, 24⟩
/-- ENG_SEL (R279). -/
abbrev R.ENG_SEL : Nat := 0x0803
abbrev F.ENG_SEL_BKPT : Fld := ⟨0x0803, 18, 16⟩
abbrev F.ENG_SEL_TMR : Fld := ⟨0x0803, 14, 12⟩
abbrev F.ENG_SEL_VREG : Fld := ⟨0x0803, 11, 8⟩
abbrev F.ENG_SEL_CTX : Fld := ⟨0x0803, 5, 0⟩
/-- CTX_CFG (R279). -/
abbrev R.CTX_CFG : Nat := 0x0804
abbrev F.CTX_CFG_CLASS : Fld := ⟨0x0804, 31, 30⟩
abbrev F.CTX_CFG_BANK : Fld := ⟨0x0804, 29, 28⟩
abbrev F.CTX_CFG_LANES : Fld := ⟨0x0804, 27, 24⟩
abbrev F.CTX_CFG_ENTRY : Fld := ⟨0x0804, 17, 0⟩
/-- CTX_TRIG (R279). -/
abbrev R.CTX_TRIG : Nat := 0x0805
abbrev F.CTX_TRIG_WEN : Fld := ⟨0x0805, 31, 31⟩
abbrev F.CTX_TRIG_WCOND : Fld := ⟨0x0805, 30, 30⟩
abbrev F.CTX_TRIG_WSIG : Fld := ⟨0x0805, 19, 0⟩
/-- CTX_BUDGET (R279). -/
abbrev R.CTX_BUDGET : Nat := 0x0806
abbrev F.CTX_BUDGET_POL : Fld := ⟨0x0806, 31, 30⟩
abbrev F.CTX_BUDGET_ISSUES : Fld := ⟨0x0806, 19, 0⟩
/-- CTX_STAT (R279). -/
abbrev R.CTX_STAT : Nat := 0x0807
abbrev F.CTX_STAT_STATE : Fld := ⟨0x0807, 31, 28⟩
abbrev F.CTX_STAT_LANE : Fld := ⟨0x0807, 27, 25⟩
abbrev F.CTX_STAT_TOVR : Fld := ⟨0x0807, 24, 24⟩
abbrev F.CTX_STAT_PEND : Fld := ⟨0x0807, 23, 16⟩
abbrev F.CTX_STAT_BOVR : Fld := ⟨0x0807, 15, 15⟩
abbrev F.CTX_STAT_LAST_ISS : Fld := ⟨0x0807, 14, 0⟩
/-- CTX_PC (R279). -/
abbrev R.CTX_PC : Nat := 0x0808
abbrev F.CTX_PC_PC : Fld := ⟨0x0808, 17, 0⟩
/-- CTX_VREG (R279). -/
abbrev R.CTX_VREG : Nat := 0x0809
/-- CTX_CMD (R279). -/
abbrev R.CTX_CMD : Nat := 0x080A
abbrev F.CTX_CMD_CMD : Fld := ⟨0x080A, 2, 0⟩
/-- DOORBELL (R279). -/
abbrev R.DOORBELL : Nat := 0x080B
abbrev F.DOORBELL_CTX : Fld := ⟨0x080B, 5, 0⟩
/-- ETMR (R279). -/
abbrev R.ETMR : Nat := 0x080C
abbrev F.ETMR_EN : Fld := ⟨0x080C, 31, 31⟩
abbrev F.ETMR_CTX : Fld := ⟨0x080C, 29, 24⟩
abbrev F.ETMR_PERIOD : Fld := ⟨0x080C, 23, 0⟩
/-- DBG_CTL (R279). -/
abbrev R.DBG_CTL : Nat := 0x080D
abbrev F.DBG_CTL_EN : Fld := ⟨0x080D, 31, 31⟩
abbrev F.DBG_CTL_LIVE : Fld := ⟨0x080D, 30, 30⟩
abbrev F.DBG_CTL_HALT_ALL : Fld := ⟨0x080D, 29, 29⟩
abbrev F.DBG_CTL_FRZ_TRC : Fld := ⟨0x080D, 28, 28⟩
/-- BKPT (R279). -/
abbrev R.BKPT : Nat := 0x080E
abbrev F.BKPT_EN : Fld := ⟨0x080E, 31, 31⟩
abbrev F.BKPT_ANYCTX : Fld := ⟨0x080E, 30, 30⟩
abbrev F.BKPT_BANK : Fld := ⟨0x080E, 29, 28⟩
abbrev F.BKPT_CTX : Fld := ⟨0x080E, 27, 22⟩
abbrev F.BKPT_ADDR : Fld := ⟨0x080E, 17, 0⟩
/-- ENG_FAULT (R279). -/
abbrev R.ENG_FAULT : Nat := 0x080F
abbrev F.ENG_FAULT_VALID : Fld := ⟨0x080F, 31, 31⟩
abbrev F.ENG_FAULT_CAUSE : Fld := ⟨0x080F, 30, 27⟩
abbrev F.ENG_FAULT_CTX : Fld := ⟨0x080F, 26, 21⟩
abbrev F.ENG_FAULT_LANE : Fld := ⟨0x080F, 20, 19⟩
abbrev F.ENG_FAULT_PC : Fld := ⟨0x080F, 17, 0⟩
/-- PRG_ADDR (R280). -/
abbrev R.PRG_ADDR : Nat := 0x0900
abbrev F.PRG_ADDR_AINC : Fld := ⟨0x0900, 31, 31⟩
abbrev F.PRG_ADDR_BANK : Fld := ⟨0x0900, 29, 28⟩
abbrev F.PRG_ADDR_ADDR : Fld := ⟨0x0900, 14, 0⟩
/-- PRG_DATA (R280). -/
abbrev R.PRG_DATA : Nat := 0x0901
/-- PRG_CTL (R280). -/
abbrev R.PRG_CTL : Nat := 0x0902
abbrev F.PRG_CTL_PB1_USE : Fld := ⟨0x0902, 1, 1⟩
abbrev F.PRG_CTL_PB0_USE : Fld := ⟨0x0902, 0, 0⟩
/-- TAB_ADDR (R280). -/
abbrev R.TAB_ADDR : Nat := 0x0903
abbrev F.TAB_ADDR_AINC : Fld := ⟨0x0903, 31, 31⟩
abbrev F.TAB_ADDR_ADDR : Fld := ⟨0x0903, 11, 0⟩
/-- TAB_DATA (R280). -/
abbrev R.TAB_DATA : Nat := 0x0904
/-- CELL_SEL (R280). -/
abbrev R.CELL_SEL : Nat := 0x0905
abbrev F.CELL_SEL_AINC : Fld := ⟨0x0905, 31, 31⟩
abbrev F.CELL_SEL_WORD : Fld := ⟨0x0905, 19, 16⟩
abbrev F.CELL_SEL_CELL : Fld := ⟨0x0905, 11, 0⟩
/-- CELL_DATA (R280). -/
abbrev R.CELL_DATA : Nat := 0x0906
/-- CELL_CMD (R280). -/
abbrev R.CELL_CMD : Nat := 0x0907
abbrev F.CELL_CMD_CMD : Fld := ⟨0x0907, 2, 0⟩
/-- SIG_ADDR (R280). -/
abbrev R.SIG_ADDR : Nat := 0x0908
abbrev F.SIG_ADDR_AINC : Fld := ⟨0x0908, 31, 31⟩
abbrev F.SIG_ADDR_ID : Fld := ⟨0x0908, 19, 0⟩
/-- SIG_DATA (R280). -/
abbrev R.SIG_DATA : Nat := 0x0909
/-- TRC_CTL (R280). -/
abbrev R.TRC_CTL : Nat := 0x090A
abbrev F.TRC_CTL_EN : Fld := ⟨0x090A, 31, 31⟩
abbrev F.TRC_CTL_DEST : Fld := ⟨0x090A, 30, 30⟩
abbrev F.TRC_CTL_WRAP : Fld := ⟨0x090A, 29, 29⟩
abbrev F.TRC_CTL_SRC : Fld := ⟨0x090A, 27, 24⟩
abbrev F.TRC_CTL_CTX : Fld := ⟨0x090A, 23, 18⟩
abbrev F.TRC_CTL_CTX_ALL : Fld := ⟨0x090A, 17, 17⟩
/-- TRC_TRIG (R280). -/
abbrev R.TRC_TRIG : Nat := 0x090B
abbrev F.TRC_TRIG_COND : Fld := ⟨0x090B, 31, 30⟩
abbrev F.TRC_TRIG_SEV : Fld := ⟨0x090B, 29, 27⟩
abbrev F.TRC_TRIG_WSIG : Fld := ⟨0x090B, 19, 0⟩
/-- TRC_STAT (R280). -/
abbrev R.TRC_STAT : Nat := 0x090C
abbrev F.TRC_STAT_RUN : Fld := ⟨0x090C, 31, 31⟩
abbrev F.TRC_STAT_FULL : Fld := ⟨0x090C, 30, 30⟩
abbrev F.TRC_STAT_TRIGD : Fld := ⟨0x090C, 29, 29⟩
abbrev F.TRC_STAT_LOST : Fld := ⟨0x090C, 27, 16⟩
abbrev F.TRC_STAT_COUNT : Fld := ⟨0x090C, 15, 0⟩
/-- TINJ_CFG (R280). -/
abbrev R.TINJ_CFG : Nat := 0x090D
abbrev F.TINJ_CFG_EN : Fld := ⟨0x090D, 31, 31⟩
abbrev F.TINJ_CFG_POINT : Fld := ⟨0x090D, 30, 30⟩
abbrev F.TINJ_CFG_WAVE : Fld := ⟨0x090D, 29, 28⟩
abbrev F.TINJ_CFG_CELL : Fld := ⟨0x090D, 27, 16⟩
abbrev F.TINJ_CFG_FREQ : Fld := ⟨0x090D, 15, 0⟩
/-- MEM_CFG (R535). -/
abbrev R.MEM_CFG : Nat := 0x0A00
abbrev F.MEM_CFG_EN : Fld := ⟨0x0A00, 31, 31⟩
abbrev F.MEM_CFG_DQS : Fld := ⟨0x0A00, 30, 30⟩
abbrev F.MEM_CFG_DIV : Fld := ⟨0x0A00, 29, 28⟩
abbrev F.MEM_CFG_RD_DLY : Fld := ⟨0x0A00, 27, 24⟩
abbrev F.MEM_CFG_TMO : Fld := ⟨0x0A00, 23, 16⟩
abbrev F.MEM_CFG_CSH : Fld := ⟨0x0A00, 15, 8⟩
/-- MEM_STAT (R535). -/
abbrev R.MEM_STAT : Nat := 0x0A01
abbrev F.MEM_STAT_BUSY : Fld := ⟨0x0A01, 31, 31⟩
abbrev F.MEM_STAT_SEQ_DONE : Fld := ⟨0x0A01, 30, 30⟩
abbrev F.MEM_STAT_FETCH_ERR : Fld := ⟨0x0A01, 29, 29⟩
abbrev F.MEM_STAT_TMO : Fld := ⟨0x0A01, 28, 28⟩
abbrev F.MEM_STAT_CFG_ERR : Fld := ⟨0x0A01, 27, 27⟩
abbrev F.MEM_STAT_SEQ_REF : Fld := ⟨0x0A01, 26, 26⟩
abbrev F.MEM_STAT_XIP_CONT : Fld := ⟨0x0A01, 25, 25⟩
abbrev F.MEM_STAT_WBUF : Fld := ⟨0x0A01, 20, 16⟩
abbrev F.MEM_STAT_PHQ : Fld := ⟨0x0A01, 13, 10⟩
abbrev F.MEM_STAT_TXQ : Fld := ⟨0x0A01, 9, 5⟩
abbrev F.MEM_STAT_RXQ : Fld := ⟨0x0A01, 4, 0⟩
/-- MEM_XIP (R535). -/
abbrev R.MEM_XIP : Nat := 0x0A02
abbrev F.MEM_XIP_EN : Fld := ⟨0x0A02, 31, 31⟩
abbrev F.MEM_XIP_MODE : Fld := ⟨0x0A02, 30, 27⟩
abbrev F.MEM_XIP_CONT : Fld := ⟨0x0A02, 26, 26⟩
abbrev F.MEM_XIP_ADDR4 : Fld := ⟨0x0A02, 25, 25⟩
abbrev F.MEM_XIP_CMDX : Fld := ⟨0x0A02, 24, 24⟩
abbrev F.MEM_XIP_DUMMY : Fld := ⟨0x0A02, 23, 19⟩
abbrev F.MEM_XIP_CMD : Fld := ⟨0x0A02, 15, 8⟩
abbrev F.MEM_XIP_MBITS : Fld := ⟨0x0A02, 7, 0⟩
/-- MEM_XBASE (R535). -/
abbrev R.MEM_XBASE : Nat := 0x0A03
abbrev F.MEM_XBASE_BASE : Fld := ⟨0x0A03, 15, 0⟩
/-- MEM_PSRAM (R535). -/
abbrev R.MEM_PSRAM : Nat := 0x0A04
abbrev F.MEM_PSRAM_EN : Fld := ⟨0x0A04, 31, 31⟩
abbrev F.MEM_PSRAM_MODE : Fld := ⟨0x0A04, 30, 27⟩
abbrev F.MEM_PSRAM_ADDR4 : Fld := ⟨0x0A04, 26, 26⟩
abbrev F.MEM_PSRAM_CMDX : Fld := ⟨0x0A04, 25, 25⟩
abbrev F.MEM_PSRAM_DUMMY : Fld := ⟨0x0A04, 24, 20⟩
abbrev F.MEM_PSRAM_SIZE : Fld := ⟨0x0A04, 19, 17⟩
abbrev F.MEM_PSRAM_AWORD : Fld := ⟨0x0A04, 16, 16⟩
abbrev F.MEM_PSRAM_TRACE : Fld := ⟨0x0A04, 15, 8⟩
/-- MEM_PSCMD (R535). -/
abbrev R.MEM_PSCMD : Nat := 0x0A05
abbrev F.MEM_PSCMD_RD_CMD : Fld := ⟨0x0A05, 31, 24⟩
abbrev F.MEM_PSCMD_WR_CMD : Fld := ⟨0x0A05, 23, 16⟩
abbrev F.MEM_PSCMD_WR_DUMMY : Fld := ⟨0x0A05, 15, 11⟩
/-- MEM_PH (R535). -/
abbrev R.MEM_PH : Nat := 0x0A06
abbrev F.MEM_PH_KIND : Fld := ⟨0x0A06, 31, 30⟩
abbrev F.MEM_PH_LANES : Fld := ⟨0x0A06, 29, 28⟩
abbrev F.MEM_PH_DDR : Fld := ⟨0x0A06, 27, 27⟩
abbrev F.MEM_PH_LEN : Fld := ⟨0x0A06, 12, 0⟩
/-- MEM_DATA (R535). -/
abbrev R.MEM_DATA : Nat := 0x0A07
/-- MEM_CMD (R535). -/
abbrev R.MEM_CMD : Nat := 0x0A08
abbrev F.MEM_CMD_GO : Fld := ⟨0x0A08, 31, 31⟩
abbrev F.MEM_CMD_ABORT : Fld := ⟨0x0A08, 30, 30⟩
abbrev F.MEM_CMD_SEL : Fld := ⟨0x0A08, 29, 28⟩
abbrev F.MEM_CMD_NPH : Fld := ⟨0x0A08, 3, 0⟩
/-- MEM_TRACE (R535). -/
abbrev R.MEM_TRACE : Nat := 0x0A09
abbrev F.MEM_TRACE_WRAPPED : Fld := ⟨0x0A09, 31, 31⟩
abbrev F.MEM_TRACE_WPTR : Fld := ⟨0x0A09, 19, 0⟩
/-- HOST_CFG (R534). -/
abbrev R.HOST_CFG : Nat := 0x0B00
abbrev F.HOST_CFG_WAIT : Fld := ⟨0x0B00, 12, 8⟩
abbrev F.HOST_CFG_LANES : Fld := ⟨0x0B00, 1, 0⟩
/-- HOST_STAT (R534). -/
abbrev R.HOST_STAT : Nat := 0x0B01
abbrev F.HOST_STAT_UNDERRUN : Fld := ⟨0x0B01, 31, 31⟩
abbrev F.HOST_STAT_DATA_RDY : Fld := ⟨0x0B01, 30, 30⟩
abbrev F.HOST_STAT_ADDR_END : Fld := ⟨0x0B01, 29, 29⟩
abbrev F.HOST_STAT_ABSENT : Fld := ⟨0x0B01, 28, 28⟩
abbrev F.HOST_STAT_DENIED : Fld := ⟨0x0B01, 27, 27⟩
abbrev F.HOST_STAT_OVF : Fld := ⟨0x0B01, 26, 26⟩
abbrev F.HOST_STAT_HDR_ERR : Fld := ⟨0x0B01, 25, 25⟩
abbrev F.HOST_STAT_PART : Fld := ⟨0x0B01, 24, 24⟩
abbrev F.HOST_STAT_CFG_ERR : Fld := ⟨0x0B01, 23, 23⟩
abbrev F.HOST_STAT_PBITS : Fld := ⟨0x0B01, 20, 16⟩
abbrev F.HOST_STAT_FIFO_FREE : Fld := ⟨0x0B01, 8, 4⟩
abbrev F.HOST_STAT_LANES : Fld := ⟨0x0B01, 1, 0⟩
/-- HOST_IEN (R534). -/
abbrev R.HOST_IEN : Nat := 0x0B02
abbrev F.HOST_IEN_NEWREC : Fld := ⟨0x0B02, 0, 0⟩
abbrev F.HOST_IEN_FURL : Fld := ⟨0x0B02, 1, 1⟩
abbrev F.HOST_IEN_TEMP : Fld := ⟨0x0B02, 2, 2⟩
abbrev F.HOST_IEN_BELL : Fld := ⟨0x0B02, 3, 3⟩
abbrev F.HOST_IEN_DATA : Fld := ⟨0x0B02, 4, 4⟩
abbrev F.HOST_IEN_CAL : Fld := ⟨0x0B02, 5, 5⟩
abbrev F.HOST_IEN_RING : Fld := ⟨0x0B02, 6, 6⟩
abbrev F.HOST_IEN_MEM : Fld := ⟨0x0B02, 7, 7⟩
/-- HOST_IFLG (R534). -/
abbrev R.HOST_IFLG : Nat := 0x0B03
abbrev F.HOST_IFLG_NEWREC : Fld := ⟨0x0B03, 0, 0⟩
abbrev F.HOST_IFLG_FURL : Fld := ⟨0x0B03, 1, 1⟩
abbrev F.HOST_IFLG_TEMP : Fld := ⟨0x0B03, 2, 2⟩
abbrev F.HOST_IFLG_BELL : Fld := ⟨0x0B03, 3, 3⟩
abbrev F.HOST_IFLG_DATA : Fld := ⟨0x0B03, 4, 4⟩
abbrev F.HOST_IFLG_CAL : Fld := ⟨0x0B03, 5, 5⟩
abbrev F.HOST_IFLG_RING : Fld := ⟨0x0B03, 6, 6⟩
abbrev F.HOST_IFLG_MEM : Fld := ⟨0x0B03, 7, 7⟩
/-- HOST_BELL (R534). -/
abbrev R.HOST_BELL : Nat := 0x0B04
abbrev F.HOST_BELL_BELL : Fld := ⟨0x0B04, 15, 0⟩
/-- HOST_SNAP (R534). -/
abbrev R.HOST_SNAP : Nat := 0x0B05
abbrev F.HOST_SNAP_HELD : Fld := ⟨0x0B05, 31, 31⟩
abbrev F.HOST_SNAP_GROUP : Fld := ⟨0x0B05, 4, 0⟩
/-- HOST_CNT (R534). -/
abbrev R.HOST_CNT : Nat := 0x0B06
abbrev F.HOST_CNT_UNDERRUNS : Fld := ⟨0x0B06, 31, 24⟩
abbrev F.HOST_CNT_PROTO : Fld := ⟨0x0B06, 23, 16⟩
abbrev F.HOST_CNT_STOPS : Fld := ⟨0x0B06, 15, 8⟩
abbrev F.HOST_CNT_PARTIAL : Fld := ⟨0x0B06, 7, 0⟩
/-- GPIO_FUNC0 (R534). -/
abbrev R.GPIO_FUNC0 : Nat := 0x0B07
abbrev F.GPIO_FUNC0_FUNC0 : Fld := ⟨0x0B07, 1, 0⟩
abbrev F.GPIO_FUNC0_FUNC1 : Fld := ⟨0x0B07, 3, 2⟩
abbrev F.GPIO_FUNC0_FUNC2 : Fld := ⟨0x0B07, 5, 4⟩
abbrev F.GPIO_FUNC0_FUNC3 : Fld := ⟨0x0B07, 7, 6⟩
abbrev F.GPIO_FUNC0_FUNC4 : Fld := ⟨0x0B07, 9, 8⟩
abbrev F.GPIO_FUNC0_FUNC5 : Fld := ⟨0x0B07, 11, 10⟩
abbrev F.GPIO_FUNC0_FUNC6 : Fld := ⟨0x0B07, 13, 12⟩
abbrev F.GPIO_FUNC0_FUNC7 : Fld := ⟨0x0B07, 15, 14⟩
abbrev F.GPIO_FUNC0_FUNC8 : Fld := ⟨0x0B07, 17, 16⟩
abbrev F.GPIO_FUNC0_FUNC9 : Fld := ⟨0x0B07, 19, 18⟩
abbrev F.GPIO_FUNC0_FUNC10 : Fld := ⟨0x0B07, 21, 20⟩
abbrev F.GPIO_FUNC0_FUNC11 : Fld := ⟨0x0B07, 23, 22⟩
abbrev F.GPIO_FUNC0_FUNC12 : Fld := ⟨0x0B07, 25, 24⟩
abbrev F.GPIO_FUNC0_FUNC13 : Fld := ⟨0x0B07, 27, 26⟩
abbrev F.GPIO_FUNC0_FUNC14 : Fld := ⟨0x0B07, 29, 28⟩
abbrev F.GPIO_FUNC0_FUNC15 : Fld := ⟨0x0B07, 31, 30⟩
/-- GPIO_FUNC1 (R534). -/
abbrev R.GPIO_FUNC1 : Nat := 0x0B08
abbrev F.GPIO_FUNC1_FUNC0 : Fld := ⟨0x0B08, 1, 0⟩
abbrev F.GPIO_FUNC1_FUNC1 : Fld := ⟨0x0B08, 3, 2⟩
abbrev F.GPIO_FUNC1_FUNC2 : Fld := ⟨0x0B08, 5, 4⟩
abbrev F.GPIO_FUNC1_FUNC3 : Fld := ⟨0x0B08, 7, 6⟩
abbrev F.GPIO_FUNC1_FUNC4 : Fld := ⟨0x0B08, 9, 8⟩
abbrev F.GPIO_FUNC1_FUNC5 : Fld := ⟨0x0B08, 11, 10⟩
abbrev F.GPIO_FUNC1_FUNC6 : Fld := ⟨0x0B08, 13, 12⟩
abbrev F.GPIO_FUNC1_FUNC7 : Fld := ⟨0x0B08, 15, 14⟩
abbrev F.GPIO_FUNC1_FUNC8 : Fld := ⟨0x0B08, 17, 16⟩
abbrev F.GPIO_FUNC1_FUNC9 : Fld := ⟨0x0B08, 19, 18⟩
abbrev F.GPIO_FUNC1_FUNC10 : Fld := ⟨0x0B08, 21, 20⟩
abbrev F.GPIO_FUNC1_FUNC11 : Fld := ⟨0x0B08, 23, 22⟩
abbrev F.GPIO_FUNC1_FUNC12 : Fld := ⟨0x0B08, 25, 24⟩
abbrev F.GPIO_FUNC1_FUNC13 : Fld := ⟨0x0B08, 27, 26⟩
abbrev F.GPIO_FUNC1_FUNC14 : Fld := ⟨0x0B08, 29, 28⟩
abbrev F.GPIO_FUNC1_FUNC15 : Fld := ⟨0x0B08, 31, 30⟩
/-- GPIO_DIR (R534). -/
abbrev R.GPIO_DIR : Nat := 0x0B09
/-- GPIO_OUT (R534). -/
abbrev R.GPIO_OUT : Nat := 0x0B0A
/-- GPIO_SET (R534). -/
abbrev R.GPIO_SET : Nat := 0x0B0B
/-- GPIO_CLR (R534). -/
abbrev R.GPIO_CLR : Nat := 0x0B0C
/-- GPIO_IN (R534). -/
abbrev R.GPIO_IN : Nat := 0x0B0D
/-- GPIO_EDGE (R534). -/
abbrev R.GPIO_EDGE : Nat := 0x0B0E
/-- CMD_PIN (R534). -/
abbrev R.CMD_PIN : Nat := 0x0B0F
abbrev F.CMD_PIN_EDGE : Fld := ⟨0x0B0F, 31, 16⟩
abbrev F.CMD_PIN_LVL : Fld := ⟨0x0B0F, 15, 0⟩
/-- FURL_CTL (R361). -/
abbrev R.FURL_CTL : Nat := 0x0C00
abbrev F.FURL_CTL_CLR : Fld := ⟨0x0C00, 31, 31⟩
abbrev F.FURL_CTL_SET : Fld := ⟨0x0C00, 30, 30⟩
/-- FURL_STAT (R361). -/
abbrev R.FURL_STAT : Nat := 0x0C01
abbrev F.FURL_STAT_FURLED : Fld := ⟨0x0C01, 31, 31⟩
abbrev F.FURL_STAT_PIN_LVL : Fld := ⟨0x0C01, 30, 30⟩
abbrev F.FURL_STAT_CLR_REF : Fld := ⟨0x0C01, 8, 8⟩
abbrev F.FURL_STAT_SOFT : Fld := ⟨0x0C01, 5, 5⟩
abbrev F.FURL_STAT_THERMAL : Fld := ⟨0x0C01, 4, 4⟩
abbrev F.FURL_STAT_REACTION : Fld := ⟨0x0C01, 3, 3⟩
abbrev F.FURL_STAT_RING : Fld := ⟨0x0C01, 2, 2⟩
abbrev F.FURL_STAT_HOST : Fld := ⟨0x0C01, 1, 1⟩
abbrev F.FURL_STAT_PIN : Fld := ⟨0x0C01, 0, 0⟩
/-- BG_SEL (R361). -/
abbrev R.BG_SEL : Nat := 0x0C02
abbrev F.BG_SEL_ACK : Fld := ⟨0x0C02, 31, 31⟩
abbrev F.BG_SEL_BG : Fld := ⟨0x0C02, 2, 0⟩
/-- BG_CFG (R361). -/
abbrev R.BG_CFG : Nat := 0x0C03
abbrev F.BG_CFG_EN : Fld := ⟨0x0C03, 31, 31⟩
abbrev F.BG_CFG_ACK_ONLY : Fld := ⟨0x0C03, 30, 30⟩
abbrev F.BG_CFG_CHOP_DV : Fld := ⟨0x0C03, 27, 20⟩
abbrev F.BG_CFG_MEMBERS : Fld := ⟨0x0C03, 15, 0⟩
/-- BG_OV (R361). -/
abbrev R.BG_OV : Nat := 0x0C04
abbrev F.BG_OV_OV2 : Fld := ⟨0x0C04, 31, 16⟩
abbrev F.BG_OV_OV1 : Fld := ⟨0x0C04, 15, 0⟩
/-- BG_CHOP (R361). -/
abbrev R.BG_CHOP : Nat := 0x0C05
abbrev F.BG_CHOP_CH_OFF : Fld := ⟨0x0C05, 31, 16⟩
abbrev F.BG_CHOP_CH_ON : Fld := ⟨0x0C05, 15, 0⟩
/-- BG_UV (R361). -/
abbrev R.BG_UV : Nat := 0x0C06
abbrev F.BG_UV_BUS_CLEAR : Fld := ⟨0x0C06, 31, 24⟩
abbrev F.BG_UV_CHOP_T : Fld := ⟨0x0C06, 23, 16⟩
abbrev F.BG_UV_UV : Fld := ⟨0x0C06, 15, 0⟩
/-- BG_STAT (R361). -/
abbrev R.BG_STAT : Nat := 0x0C07
abbrev F.BG_STAT_STATE : Fld := ⟨0x0C07, 31, 30⟩
abbrev F.BG_STAT_CHOP_ON : Fld := ⟨0x0C07, 29, 29⟩
abbrev F.BG_STAT_ACT_CH : Fld := ⟨0x0C07, 28, 25⟩
abbrev F.BG_STAT_NOCHOP : Fld := ⟨0x0C07, 24, 24⟩
abbrev F.BG_STAT_OV1_LVL : Fld := ⟨0x0C07, 23, 23⟩
abbrev F.BG_STAT_UV_LVL : Fld := ⟨0x0C07, 22, 22⟩
abbrev F.BG_STAT_CFG_ERR : Fld := ⟨0x0C07, 21, 21⟩
abbrev F.BG_STAT_ACK_REF : Fld := ⟨0x0C07, 20, 20⟩
abbrev F.BG_STAT_NOMEAS : Fld := ⟨0x0C07, 19, 19⟩
abbrev F.BG_STAT_CH_FAILED : Fld := ⟨0x0C07, 15, 0⟩
/-- ST_CMD (R561). -/
abbrev R.ST_CMD : Nat := 0x0D00
abbrev F.ST_CMD_CMD : Fld := ⟨0x0D00, 31, 28⟩
abbrev F.ST_CMD_PB : Fld := ⟨0x0D00, 0, 0⟩
/-- ST_STAT (R561). -/
abbrev R.ST_STAT : Nat := 0x0D01
abbrev F.ST_STAT_BUSY : Fld := ⟨0x0D01, 31, 31⟩
abbrev F.ST_STAT_SUSP : Fld := ⟨0x0D01, 30, 30⟩
abbrev F.ST_STAT_DONE : Fld := ⟨0x0D01, 29, 29⟩
abbrev F.ST_STAT_ERR : Fld := ⟨0x0D01, 28, 28⟩
abbrev F.ST_STAT_RESULT : Fld := ⟨0x0D01, 27, 24⟩
abbrev F.ST_STAT_CFG_ERR : Fld := ⟨0x0D01, 23, 23⟩
/-- ST_ADDR (R561). -/
abbrev R.ST_ADDR : Nat := 0x0D02
abbrev F.ST_ADDR_AINC : Fld := ⟨0x0D02, 31, 31⟩
abbrev F.ST_ADDR_ADDR : Fld := ⟨0x0D02, 19, 0⟩
/-- ST_DATA (R561). -/
abbrev R.ST_DATA : Nat := 0x0D03
/-- ST_BANK (R561). -/
abbrev R.ST_BANK : Nat := 0x0D04
abbrev F.ST_BANK_A_VALID : Fld := ⟨0x0D04, 31, 31⟩
abbrev F.ST_BANK_B_VALID : Fld := ⟨0x0D04, 30, 30⟩
abbrev F.ST_BANK_BOOTED : Fld := ⟨0x0D04, 29, 29⟩
abbrev F.ST_BANK_NEXT : Fld := ⟨0x0D04, 28, 28⟩
/-- ST_JRNL (R561). -/
abbrev R.ST_JRNL : Nat := 0x0D05
abbrev F.ST_JRNL_COMPACT : Fld := ⟨0x0D05, 31, 31⟩
abbrev F.ST_JRNL_PEND : Fld := ⟨0x0D05, 26, 16⟩
abbrev F.ST_JRNL_LIVE : Fld := ⟨0x0D05, 11, 0⟩
/-- ST_BOOT (R561). -/
abbrev R.ST_BOOT : Nat := 0x0D06
abbrev F.ST_BOOT_BOOTS : Fld := ⟨0x0D06, 31, 0⟩
/-- ST_MINVER (R561). -/
abbrev R.ST_MINVER : Nat := 0x0D07
abbrev F.ST_MINVER_MINVER : Fld := ⟨0x0D07, 31, 0⟩
/-- PWM_CTL (R91). -/
abbrev R.PWM_CTL : Nat := 0x1000
abbrev F.PWM_CTL_SH_SYNC : Fld := ⟨0x1000, 23, 23⟩
abbrev F.PWM_CTL_SH_SRC : Fld := ⟨0x1000, 22, 21⟩
abbrev F.PWM_CTL_RUN : Fld := ⟨0x1000, 20, 20⟩
abbrev F.PWM_CTL_MODE : Fld := ⟨0x1000, 19, 19⟩
abbrev F.PWM_CTL_PRESC : Fld := ⟨0x1000, 18, 16⟩
abbrev F.PWM_CTL_PERIOD : Fld := ⟨0x1000, 15, 0⟩
/-- PWM_COMMIT (R91). -/
abbrev R.PWM_COMMIT : Nat := 0x1001
abbrev F.PWM_COMMIT_SHEET_WR : Fld := ⟨0x1001, 16, 16⟩
abbrev F.PWM_COMMIT_SHEET : Fld := ⟨0x1001, 15, 8⟩
abbrev F.PWM_COMMIT_COMMIT : Fld := ⟨0x1001, 0, 0⟩
/-- PWM_STAT (R91). -/
abbrev R.PWM_STAT : Nat := 0x1002
abbrev F.PWM_STAT_SHEET : Fld := ⟨0x1002, 31, 24⟩
abbrev F.PWM_STAT_ANCH_ERR : Fld := ⟨0x1002, 23, 23⟩
abbrev F.PWM_STAT_ANCH_LOCK : Fld := ⟨0x1002, 22, 22⟩
abbrev F.PWM_STAT_PEND : Fld := ⟨0x1002, 21, 21⟩
abbrev F.PWM_STAT_CFG_ERR : Fld := ⟨0x1002, 20, 20⟩
abbrev F.PWM_STAT_MINP_ACT : Fld := ⟨0x1002, 19, 19⟩
abbrev F.PWM_STAT_CMP_SAT : Fld := ⟨0x1002, 18, 18⟩
abbrev F.PWM_STAT_LATE : Fld := ⟨0x1002, 17, 17⟩
abbrev F.PWM_STAT_DIR : Fld := ⟨0x1002, 16, 16⟩
abbrev F.PWM_STAT_CNT : Fld := ⟨0x1002, 15, 0⟩
/-- LOOP_CFG (R91). -/
abbrev R.LOOP_CFG : Nat := 0x1003
abbrev F.LOOP_CFG_BEN : Fld := ⟨0x1003, 23, 23⟩
abbrev F.LOOP_CFG_BCTX : Fld := ⟨0x1003, 21, 16⟩
abbrev F.LOOP_CFG_LEN : Fld := ⟨0x1003, 15, 15⟩
abbrev F.LOOP_CFG_LCTX : Fld := ⟨0x1003, 13, 8⟩
abbrev F.LOOP_CFG_DIV : Fld := ⟨0x1003, 4, 0⟩
/-- LOOP_OVR (R91). -/
abbrev R.LOOP_OVR : Nat := 0x1004
abbrev F.LOOP_OVR_TOTAL : Fld := ⟨0x1004, 31, 16⟩
abbrev F.LOOP_OVR_COUNT : Fld := ⟨0x1004, 15, 0⟩
/-- AUXT_CFG (R91). -/
abbrev R.AUXT_CFG : Nat := 0x1005
abbrev F.AUXT_CFG_CONV0 : Fld := ⟨0x1005, 7, 6⟩
abbrev F.AUXT_CFG_CONV1 : Fld := ⟨0x1005, 15, 14⟩
abbrev F.AUXT_CFG_CONV2 : Fld := ⟨0x1005, 23, 22⟩
abbrev F.AUXT_CFG_CONV3 : Fld := ⟨0x1005, 31, 30⟩
abbrev F.AUXT_CFG_LEG0 : Fld := ⟨0x1005, 5, 4⟩
abbrev F.AUXT_CFG_LEG1 : Fld := ⟨0x1005, 13, 12⟩
abbrev F.AUXT_CFG_LEG2 : Fld := ⟨0x1005, 21, 20⟩
abbrev F.AUXT_CFG_LEG3 : Fld := ⟨0x1005, 29, 28⟩
abbrev F.AUXT_CFG_MODE0 : Fld := ⟨0x1005, 3, 0⟩
abbrev F.AUXT_CFG_MODE1 : Fld := ⟨0x1005, 11, 8⟩
abbrev F.AUXT_CFG_MODE2 : Fld := ⟨0x1005, 19, 16⟩
abbrev F.AUXT_CFG_MODE3 : Fld := ⟨0x1005, 27, 24⟩
/-- AUXT_TIME (R91). -/
abbrev R.AUXT_TIME : Nat := 0x1006
abbrev F.AUXT_TIME_TIME0 : Fld := ⟨0x1006, 7, 0⟩
abbrev F.AUXT_TIME_TIME1 : Fld := ⟨0x1006, 15, 8⟩
abbrev F.AUXT_TIME_TIME2 : Fld := ⟨0x1006, 23, 16⟩
abbrev F.AUXT_TIME_TIME3 : Fld := ⟨0x1006, 31, 24⟩
/-- PWM_ANCH (R91). -/
abbrev R.PWM_ANCH : Nat := 0x1007
abbrev F.PWM_ANCH_EN : Fld := ⟨0x1007, 31, 31⟩
abbrev F.PWM_ANCH_SLEW : Fld := ⟨0x1007, 26, 24⟩
abbrev F.PWM_ANCH_OFS : Fld := ⟨0x1007, 21, 0⟩
/-- LEG_CFG (R92). -/
abbrev R.LEG_CFG : Nat := 0x1010
abbrev F.LEG_CFG_CAL_TRIM : Fld := ⟨0x1010, 31, 24⟩
abbrev F.LEG_CFG_CAL_VALID : Fld := ⟨0x1010, 23, 23⟩
abbrev F.LEG_CFG_OEN : Fld := ⟨0x1010, 6, 6⟩
abbrev F.LEG_CFG_ASYM : Fld := ⟨0x1010, 5, 5⟩
abbrev F.LEG_CFG_MINP_POL : Fld := ⟨0x1010, 4, 4⟩
abbrev F.LEG_CFG_DRIVE : Fld := ⟨0x1010, 3, 2⟩
abbrev F.LEG_CFG_FUNC : Fld := ⟨0x1010, 1, 0⟩
/-- LEG_CMP_A (R92). -/
abbrev R.LEG_CMP_A : Nat := 0x1011
abbrev F.LEG_CMP_A_TICKS : Fld := ⟨0x1011, 20, 5⟩
abbrev F.LEG_CMP_A_TAPS : Fld := ⟨0x1011, 4, 0⟩
/-- LEG_CMP_B (R92). -/
abbrev R.LEG_CMP_B : Nat := 0x1012
abbrev F.LEG_CMP_B_TICKS : Fld := ⟨0x1012, 20, 5⟩
abbrev F.LEG_CMP_B_TAPS : Fld := ⟨0x1012, 4, 0⟩
/-- LEG_DT_RISE (R92). -/
abbrev R.LEG_DT_RISE : Nat := 0x1013
abbrev F.LEG_DT_RISE_MINP : Fld := ⟨0x1013, 31, 24⟩
abbrev F.LEG_DT_RISE_DT_RISE : Fld := ⟨0x1013, 16, 0⟩
/-- LEG_DT_FALL (R92). -/
abbrev R.LEG_DT_FALL : Nat := 0x1014
abbrev F.LEG_DT_FALL_DT_FALL : Fld := ⟨0x1014, 16, 0⟩
/-- SNS_CTL (R137). -/
abbrev R.SNS_CTL : Nat := 0x1040
abbrev F.SNS_CTL_OFS_EN : Fld := ⟨0x1040, 14, 14⟩
abbrev F.SNS_CTL_XCAL_TRIM : Fld := ⟨0x1040, 13, 13⟩
abbrev F.SNS_CTL_XCAL_REF : Fld := ⟨0x1040, 12, 12⟩
abbrev F.SNS_CTL_INL_PH : Fld := ⟨0x1040, 9, 8⟩
abbrev F.SNS_CTL_INL_FIT : Fld := ⟨0x1040, 6, 6⟩
abbrev F.SNS_CTL_PATH : Fld := ⟨0x1040, 5, 4⟩
abbrev F.SNS_CTL_PLN_EN : Fld := ⟨0x1040, 3, 3⟩
abbrev F.SNS_CTL_GAIN : Fld := ⟨0x1040, 2, 0⟩
/-- PLN_CFG (R137). -/
abbrev R.PLN_CFG : Nat := 0x1041
abbrev F.PLN_CFG_OFS_REJ : Fld := ⟨0x1041, 31, 24⟩
abbrev F.PLN_CFG_OFS_TC : Fld := ⟨0x1041, 23, 20⟩
abbrev F.PLN_CFG_T_SAMPLE : Fld := ⟨0x1041, 15, 8⟩
abbrev F.PLN_CFG_T_SETTLE : Fld := ⟨0x1041, 7, 0⟩
/-- SH_RSH (R137). -/
abbrev R.SH_RSH : Nat := 0x1042
abbrev F.SH_RSH_RSH : Fld := ⟨0x1042, 23, 0⟩
/-- SH_CAL (R137). -/
abbrev R.SH_CAL : Nat := 0x1043
abbrev F.SH_CAL_OFS_MAX : Fld := ⟨0x1043, 31, 24⟩
abbrev F.SH_CAL_XGAIN : Fld := ⟨0x1043, 15, 0⟩
/-- INL_KA (R137). -/
abbrev R.INL_KA : Nat := 0x1044
abbrev F.INL_KA_KA : Fld := ⟨0x1044, 31, 0⟩
/-- INL_KB (R137). -/
abbrev R.INL_KB : Nat := 0x1045
abbrev F.INL_KB_KB : Fld := ⟨0x1045, 31, 0⟩
/-- VDIV (R137). -/
abbrev R.VDIV : Nat := 0x1046
abbrev F.VDIV_VBUS_DIV : Fld := ⟨0x1046, 31, 16⟩
abbrev F.VDIV_VPH_DIV : Fld := ⟨0x1046, 15, 0⟩
/-- PSEQ (R137). -/
abbrev R.PSEQ : Nat := 0x1047
abbrev F.PSEQ_LEN : Fld := ⟨0x1047, 26, 24⟩
abbrev F.PSEQ_SLOT0 : Fld := ⟨0x1047, 2, 0⟩
abbrev F.PSEQ_SLOT1 : Fld := ⟨0x1047, 5, 3⟩
abbrev F.PSEQ_SLOT2 : Fld := ⟨0x1047, 8, 6⟩
abbrev F.PSEQ_SLOT3 : Fld := ⟨0x1047, 11, 9⟩
abbrev F.PSEQ_SLOT4 : Fld := ⟨0x1047, 14, 12⟩
abbrev F.PSEQ_SLOT5 : Fld := ⟨0x1047, 17, 15⟩
abbrev F.PSEQ_SLOT6 : Fld := ⟨0x1047, 20, 18⟩
abbrev F.PSEQ_SLOT7 : Fld := ⟨0x1047, 23, 21⟩
/-- XCHK_CFG (R137). -/
abbrev R.XCHK_CFG : Nat := 0x1048
abbrev F.XCHK_CFG_XSTEP : Fld := ⟨0x1048, 31, 24⟩
abbrev F.XCHK_CFG_MIN : Fld := ⟨0x1048, 23, 16⟩
abbrev F.XCHK_CFG_TOL : Fld := ⟨0x1048, 15, 8⟩
abbrev F.XCHK_CFG_LEN : Fld := ⟨0x1048, 7, 4⟩
abbrev F.XCHK_CFG_INT : Fld := ⟨0x1048, 3, 0⟩
/-- SNS_STAT (R137). -/
abbrev R.SNS_STAT : Nat := 0x1049
abbrev F.SNS_STAT_PLAN_OK : Fld := ⟨0x1049, 26, 26⟩
abbrev F.SNS_STAT_XCHK_RES : Fld := ⟨0x1049, 25, 24⟩
abbrev F.SNS_STAT_INL_BAR : Fld := ⟨0x1049, 23, 23⟩
abbrev F.SNS_STAT_XCHK_FAIL : Fld := ⟨0x1049, 22, 22⟩
abbrev F.SNS_STAT_OFS_REJ : Fld := ⟨0x1049, 21, 21⟩
abbrev F.SNS_STAT_INL_SAT : Fld := ⟨0x1049, 20, 20⟩
abbrev F.SNS_STAT_SH_SAT : Fld := ⟨0x1049, 19, 19⟩
abbrev F.SNS_STAT_START_LOST : Fld := ⟨0x1049, 18, 18⟩
abbrev F.SNS_STAT_START_LATE : Fld := ⟨0x1049, 17, 17⟩
abbrev F.SNS_STAT_CFG_ERR : Fld := ⟨0x1049, 16, 16⟩
abbrev F.SNS_STAT_INV_RUN : Fld := ⟨0x1049, 15, 8⟩
abbrev F.SNS_STAT_REASON : Fld := ⟨0x1049, 3, 1⟩
abbrev F.SNS_STAT_PATH : Fld := ⟨0x1049, 0, 0⟩
/-- SH_OFS (R137). -/
abbrev R.SH_OFS : Nat := 0x104A
abbrev F.SH_OFS_OFS : Fld := ⟨0x104A, 15, 0⟩
/-- INL_OFS (R137). -/
abbrev R.INL_OFS : Nat := 0x104B
abbrev F.INL_OFS_OFS_B : Fld := ⟨0x104B, 27, 16⟩
abbrev F.INL_OFS_OFS_A : Fld := ⟨0x104B, 11, 0⟩
/-- RAW_S (R137). -/
abbrev R.RAW_S : Nat := 0x104C
abbrev F.RAW_S_S2 : Fld := ⟨0x104C, 29, 16⟩
abbrev F.RAW_S_S1 : Fld := ⟨0x104C, 13, 0⟩
/-- RAW_P (R137). -/
abbrev R.RAW_P : Nat := 0x104D
abbrev F.RAW_P_CODE : Fld := ⟨0x104D, 27, 16⟩
abbrev F.RAW_P_CH : Fld := ⟨0x104D, 10, 8⟩
abbrev F.RAW_P_SLOT : Fld := ⟨0x104D, 2, 0⟩
/-- COM_CTL (R199). -/
abbrev R.COM_CTL : Nat := 0x1070
abbrev F.COM_CTL_STEP_WR : Fld := ⟨0x1070, 19, 19⟩
abbrev F.COM_CTL_STEP : Fld := ⟨0x1070, 18, 16⟩
abbrev F.COM_CTL_XSHEET : Fld := ⟨0x1070, 11, 10⟩
abbrev F.COM_CTL_PP : Fld := ⟨0x1070, 9, 6⟩
abbrev F.COM_CTL_ASRC : Fld := ⟨0x1070, 4, 2⟩
abbrev F.COM_CTL_MODE : Fld := ⟨0x1070, 1, 0⟩
/-- COM_STAT (R199). -/
abbrev R.COM_STAT : Nat := 0x1071
abbrev F.COM_STAT_EPS_INV : Fld := ⟨0x1071, 25, 25⟩
abbrev F.COM_STAT_AT_CLAMP : Fld := ⟨0x1071, 24, 24⟩
abbrev F.COM_STAT_VM_SAT : Fld := ⟨0x1071, 23, 23⟩
abbrev F.COM_STAT_LUFF_CUT : Fld := ⟨0x1071, 22, 22⟩
abbrev F.COM_STAT_SKIP : Fld := ⟨0x1071, 21, 21⟩
abbrev F.COM_STAT_ZC_MISS : Fld := ⟨0x1071, 20, 20⟩
abbrev F.COM_STAT_QUAD_ERR : Fld := ⟨0x1071, 19, 19⟩
abbrev F.COM_STAT_HALL_ERR : Fld := ⟨0x1071, 18, 18⟩
abbrev F.COM_STAT_KIND_ERR : Fld := ⟨0x1071, 17, 17⟩
abbrev F.COM_STAT_CFG_ERR : Fld := ⟨0x1071, 16, 16⟩
abbrev F.COM_STAT_STEP : Fld := ⟨0x1071, 10, 8⟩
abbrev F.COM_STAT_SECTOR : Fld := ⟨0x1071, 7, 5⟩
abbrev F.COM_STAT_DRIVE : Fld := ⟨0x1071, 4, 3⟩
abbrev F.COM_STAT_EST_STATE : Fld := ⟨0x1071, 2, 0⟩
/-- LUFF_CFG (R199). -/
abbrev R.LUFF_CFG : Nat := 0x1072
abbrev F.LUFF_CFG_TAB : Fld := ⟨0x1072, 30, 24⟩
abbrev F.LUFF_CFG_SHAPE : Fld := ⟨0x1072, 17, 16⟩
abbrev F.LUFF_CFG_LEN : Fld := ⟨0x1072, 13, 8⟩
abbrev F.LUFF_CFG_EN : Fld := ⟨0x1072, 0, 0⟩
/-- HALL_CFG (R199). -/
abbrev R.HALL_CFG : Nat := 0x1073
abbrev F.HALL_CFG_FILT : Fld := ⟨0x1073, 31, 24⟩
abbrev F.HALL_CFG_PIN : Fld := ⟨0x1073, 23, 19⟩
abbrev F.HALL_CFG_MAP : Fld := ⟨0x1073, 17, 0⟩
/-- QUAD_CFG (R199). -/
abbrev R.QUAD_CFG : Nat := 0x1074
abbrev F.QUAD_CFG_FILT : Fld := ⟨0x1074, 31, 24⟩
abbrev F.QUAD_CFG_ZEN : Fld := ⟨0x1074, 21, 21⟩
abbrev F.QUAD_CFG_PIN : Fld := ⟨0x1074, 20, 16⟩
abbrev F.QUAD_CFG_CPR : Fld := ⟨0x1074, 15, 0⟩
/-- ZC_CFG (R199). -/
abbrev R.ZC_CFG : Nat := 0x1075
abbrev F.ZC_CFG_DEMAG : Fld := ⟨0x1075, 29, 24⟩
abbrev F.ZC_CFG_FILT : Fld := ⟨0x1075, 23, 16⟩
abbrev F.ZC_CFG_BLNK_EN : Fld := ⟨0x1075, 10, 10⟩
abbrev F.ZC_CFG_BLNK : Fld := ⟨0x1075, 9, 8⟩
abbrev F.ZC_CFG_ADV : Fld := ⟨0x1075, 5, 0⟩
/-- VM_CTL (R199). -/
abbrev R.VM_CTL : Nat := 0x1076
abbrev F.VM_CTL_MOD_MAX : Fld := ⟨0x1076, 15, 8⟩
abbrev F.VM_CTL_DTC : Fld := ⟨0x1076, 3, 3⟩
abbrev F.VM_CTL_ZSEQ : Fld := ⟨0x1076, 2, 0⟩
/-- VM_VA (R199). -/
abbrev R.VM_VA : Nat := 0x1077
/-- VM_VB (R199). -/
abbrev R.VM_VB : Nat := 0x1078
/-- INJ_CFG (R199). -/
abbrev R.INJ_CFG : Nat := 0x1079
abbrev F.INJ_CFG_EN : Fld := ⟨0x1079, 31, 31⟩
abbrev F.INJ_CFG_PRBS : Fld := ⟨0x1079, 30, 29⟩
abbrev F.INJ_CFG_CHIP : Fld := ⟨0x1079, 28, 28⟩
abbrev F.INJ_CFG_WIN : Fld := ⟨0x1079, 27, 24⟩
abbrev F.INJ_CFG_VINJ : Fld := ⟨0x1079, 15, 0⟩
/-- AT_CFG (R199). -/
abbrev R.AT_CFG : Nat := 0x107A
abbrev F.AT_CFG_LOSS_N : Fld := ⟨0x107A, 31, 28⟩
abbrev F.AT_CFG_ZETA : Fld := ⟨0x107A, 27, 24⟩
abbrev F.AT_CFG_WN_HI : Fld := ⟨0x107A, 23, 12⟩
abbrev F.AT_CFG_WN_LO : Fld := ⟨0x107A, 11, 0⟩
/-- HND_CFG (R199). -/
abbrev R.HND_CFG : Nat := 0x107B
abbrev F.HND_CFG_WH2 : Fld := ⟨0x107B, 31, 16⟩
abbrev F.HND_CFG_WH1 : Fld := ⟨0x107B, 15, 0⟩
/-- SEQ_CMD (R230). -/
abbrev R.SEQ_CMD : Nat := 0x1090
abbrev F.SEQ_CMD_MODE : Fld := ⟨0x1090, 5, 4⟩
abbrev F.SEQ_CMD_CMD : Fld := ⟨0x1090, 2, 0⟩
/-- SEQ_STAT (R230). -/
abbrev R.SEQ_STAT : Nat := 0x1091
abbrev F.SEQ_STAT_STOP_TMO : Fld := ⟨0x1091, 27, 27⟩
abbrev F.SEQ_STAT_JAM : Fld := ⟨0x1091, 26, 26⟩
abbrev F.SEQ_STAT_CMD_DROP : Fld := ⟨0x1091, 25, 25⟩
abbrev F.SEQ_STAT_START_REF : Fld := ⟨0x1091, 24, 24⟩
abbrev F.SEQ_STAT_CFG_ERR : Fld := ⟨0x1091, 23, 23⟩
abbrev F.SEQ_STAT_REF_WHY : Fld := ⟨0x1091, 22, 20⟩
abbrev F.SEQ_STAT_JAM_CNT : Fld := ⟨0x1091, 19, 16⟩
abbrev F.SEQ_STAT_OUTCOME : Fld := ⟨0x1091, 10, 8⟩
abbrev F.SEQ_STAT_STATE : Fld := ⟨0x1091, 3, 0⟩
/-- SEQ_CFG (R230). -/
abbrev R.SEQ_CFG : Nat := 0x1092
abbrev F.SEQ_CFG_LISTEN_T : Fld := ⟨0x1092, 31, 24⟩
abbrev F.SEQ_CFG_STOP_TMO : Fld := ⟨0x1092, 23, 16⟩
abbrev F.SEQ_CFG_BRK_TRY : Fld := ⟨0x1092, 15, 12⟩
abbrev F.SEQ_CFG_ALIGN_T : Fld := ⟨0x1092, 7, 0⟩
/-- CATCH_CFG (R230). -/
abbrev R.CATCH_CFG : Nat := 0x1093
abbrev F.CATCH_CFG_CATCH_MAX : Fld := ⟨0x1093, 31, 16⟩
abbrev F.CATCH_CFG_DETECT : Fld := ⟨0x1093, 15, 4⟩
abbrev F.CATCH_CFG_EMIN : Fld := ⟨0x1093, 3, 0⟩
/-- BRK_CFG (R230). -/
abbrev R.BRK_CFG : Nat := 0x1094
abbrev F.BRK_CFG_BRK_I : Fld := ⟨0x1094, 31, 16⟩
abbrev F.BRK_CFG_BRK_ON : Fld := ⟨0x1094, 15, 8⟩
abbrev F.BRK_CFG_BRK_OFF : Fld := ⟨0x1094, 7, 0⟩
/-- HAL_CFG (R230). -/
abbrev R.HAL_CFG : Nat := 0x1095
abbrev F.HAL_CFG_TMODE : Fld := ⟨0x1095, 31, 31⟩
abbrev F.HAL_CFG_SRC : Fld := ⟨0x1095, 27, 26⟩
abbrev F.HAL_CFG_TACK_DWELL : Fld := ⟨0x1095, 15, 0⟩
/-- HAL_LIM (R230). -/
abbrev R.HAL_LIM : Nat := 0x1096
abbrev F.HAL_LIM_SPD_MAX : Fld := ⟨0x1096, 31, 16⟩
abbrev F.HAL_LIM_I_MAX : Fld := ⟨0x1096, 15, 0⟩
/-- CMD_CFG (R230). -/
abbrev R.CMD_CFG : Nat := 0x1097
abbrev F.CMD_CFG_PMODE : Fld := ⟨0x1097, 31, 30⟩
abbrev F.CMD_CFG_FILT : Fld := ⟨0x1097, 27, 24⟩
abbrev F.CMD_CFG_LPOL : Fld := ⟨0x1097, 23, 22⟩
/-- CMD_LOSS (R230). -/
abbrev R.CMD_LOSS : Nat := 0x1098
abbrev F.CMD_LOSS_LO : Fld := ⟨0x1098, 31, 24⟩
abbrev F.CMD_LOSS_HI : Fld := ⟨0x1098, 23, 16⟩
abbrev F.CMD_LOSS_LOSS_T : Fld := ⟨0x1098, 15, 0⟩
/-- STALL_CFG (R230). -/
abbrev R.STALL_CFG : Nat := 0x1099
abbrev F.STALL_CFG_JAM_N : Fld := ⟨0x1099, 31, 28⟩
abbrev F.STALL_CFG_IFRAC : Fld := ⟨0x1099, 27, 24⟩
abbrev F.STALL_CFG_WFRAC : Fld := ⟨0x1099, 23, 20⟩
abbrev F.STALL_CFG_STALL_T : Fld := ⟨0x1099, 19, 12⟩
abbrev F.STALL_CFG_JAM_T : Fld := ⟨0x1099, 11, 6⟩
/-- SHR_CTL (R359). -/
abbrev R.SHR_CTL : Nat := 0x10B0
abbrev F.SHR_CTL_OCP_EN : Fld := ⟨0x10B0, 31, 31⟩
abbrev F.SHR_CTL_OCN_EN : Fld := ⟨0x10B0, 30, 30⟩
abbrev F.SHR_CTL_TRIP_EN : Fld := ⟨0x10B0, 29, 29⟩
abbrev F.SHR_CTL_OCP_CBC : Fld := ⟨0x10B0, 28, 28⟩
abbrev F.SHR_CTL_OCN_CBC : Fld := ⟨0x10B0, 27, 27⟩
abbrev F.SHR_CTL_ROUTE : Fld := ⟨0x10B0, 26, 25⟩
abbrev F.SHR_CTL_OC_SAFE : Fld := ⟨0x10B0, 24, 24⟩
abbrev F.SHR_CTL_TRIP_SAFE : Fld := ⟨0x10B0, 23, 23⟩
abbrev F.SHR_CTL_BLK_EN : Fld := ⟨0x10B0, 22, 22⟩
abbrev F.SHR_CTL_BLK : Fld := ⟨0x10B0, 21, 20⟩
abbrev F.SHR_CTL_TRIP_BLK : Fld := ⟨0x10B0, 19, 19⟩
/-- SHR_OC (R359). -/
abbrev R.SHR_OC : Nat := 0x10B1
abbrev F.SHR_OC_NEG : Fld := ⟨0x10B1, 25, 16⟩
abbrev F.SHR_OC_POS : Fld := ⟨0x10B1, 9, 0⟩
/-- SHR_CBC (R359). -/
abbrev R.SHR_CBC : Nat := 0x10B2
abbrev F.SHR_CBC_CBC_MAX : Fld := ⟨0x10B2, 7, 0⟩
/-- SHR_STAT (R359). -/
abbrev R.SHR_STAT : Nat := 0x10B3
abbrev F.SHR_STAT_LATCH : Fld := ⟨0x10B3, 31, 31⟩
abbrev F.SHR_STAT_OCP_L : Fld := ⟨0x10B3, 30, 30⟩
abbrev F.SHR_STAT_OCN_L : Fld := ⟨0x10B3, 29, 29⟩
abbrev F.SHR_STAT_TRIP_L : Fld := ⟨0x10B3, 28, 28⟩
abbrev F.SHR_STAT_CBC : Fld := ⟨0x10B3, 27, 27⟩
abbrev F.SHR_STAT_OCP_LVL : Fld := ⟨0x10B3, 26, 26⟩
abbrev F.SHR_STAT_OCN_LVL : Fld := ⟨0x10B3, 25, 25⟩
abbrev F.SHR_STAT_TRIP_LVL : Fld := ⟨0x10B3, 24, 24⟩
abbrev F.SHR_STAT_SAFE : Fld := ⟨0x10B3, 23, 22⟩
abbrev F.SHR_STAT_BY_MAST : Fld := ⟨0x10B3, 21, 21⟩
abbrev F.SHR_STAT_BY_GROUP : Fld := ⟨0x10B3, 20, 20⟩
abbrev F.SHR_STAT_FURLED : Fld := ⟨0x10B3, 19, 19⟩
abbrev F.SHR_STAT_CFG_ERR : Fld := ⟨0x10B3, 18, 18⟩
abbrev F.SHR_STAT_CLR_REF : Fld := ⟨0x10B3, 17, 17⟩
abbrev F.SHR_STAT_TEST_OK : Fld := ⟨0x10B3, 16, 16⟩
abbrev F.SHR_STAT_CBC_RUN : Fld := ⟨0x10B3, 15, 8⟩
abbrev F.SHR_STAT_TEST_FAIL : Fld := ⟨0x10B3, 7, 7⟩
/-- SHR_CMD (R359). -/
abbrev R.SHR_CMD : Nat := 0x10B4
abbrev F.SHR_CMD_TEST : Fld := ⟨0x10B4, 1, 1⟩
abbrev F.SHR_CMD_CLR : Fld := ⟨0x10B4, 0, 0⟩
/-- SHR_CNT (R359). -/
abbrev R.SHR_CNT : Nat := 0x10B5
abbrev F.SHR_CNT_TRIPS : Fld := ⟨0x10B5, 31, 16⟩
abbrev F.SHR_CNT_CBC : Fld := ⟨0x10B5, 15, 0⟩
/-- SHR_TIME (R359). -/
abbrev R.SHR_TIME : Nat := 0x10B6
abbrev F.SHR_TIME_SRC : Fld := ⟨0x10B6, 31, 30⟩
abbrev F.SHR_TIME_NS : Fld := ⟨0x10B6, 29, 0⟩
/-- BUS_CFG (R359). -/
abbrev R.BUS_CFG : Nat := 0x10B7
abbrev F.BUS_CFG_BUS_SAFE : Fld := ⟨0x10B7, 31, 31⟩
abbrev F.BUS_CFG_FURL_SAFE : Fld := ⟨0x10B7, 30, 30⟩
abbrev F.BUS_CFG_MEMBER : Fld := ⟨0x10B7, 3, 3⟩
abbrev F.BUS_CFG_GROUP : Fld := ⟨0x10B7, 2, 0⟩

end Sys2Proof.Machine
end

