-- ==== Sys2Proof/Machine/RegTable.lean ====
section
/-! DEFINITION. Machine/RegTable.lean: the register space (R37–R41) as the register tables of the chapters give it: one row per register, one field per line of its bit table. Mast registers stand once, at the window of mast 0 (0x10). -/

namespace Sys2Proof.Machine

/-- Access codes (R11). -/
inductive Acc where
  | rw | ro | w1c | wo | rc
  deriving DecidableEq, Repr

/-- One field of a register: bits hi:lo, its access code and its write role (0 OP, 1 INS, 2 MAK, 3 HW; R14). -/
structure FieldRow where
  hi : Nat
  lo : Nat
  acc : Acc
  role : Nat
  deriving DecidableEq, Repr

/-- One register: its address, whether it is marked whole word (R11, R499), its reset value where the table gives one number, its fields. -/
structure RegRow where
  addr : Nat
  whole : Bool
  reset : Nat
  fields : List FieldRow
  deriving DecidableEq, Repr

/-- Registers DEV_ID–SCRATCH2 of window 0x00. -/
def regRows00_0 : List RegRow := [
  -- DEV_ID (R45)
  ⟨0x0000, false, 0x00000000, [⟨31, 16, .ro, 3⟩, ⟨15, 0, .ro, 3⟩]⟩,
  -- DEV_REV (R45)
  ⟨0x0001, false, 0x00000000, [⟨15, 8, .ro, 3⟩, ⟨7, 0, .ro, 3⟩]⟩,
  -- UID0 (R45)
  ⟨0x0002, false, 0x00000000, [⟨31, 0, .ro, 3⟩]⟩,
  -- UID1 (R45)
  ⟨0x0003, false, 0x00000000, [⟨31, 0, .ro, 3⟩]⟩,
  -- CAP0 (R45)
  ⟨0x0004, false, 0x00000000, [⟨25, 25, .ro, 3⟩, ⟨24, 24, .ro, 3⟩, ⟨22, 16, .ro, 3⟩, ⟨10, 8, .ro, 3⟩, ⟨4, 0, .ro, 3⟩]⟩,
  -- CAP1 (R45)
  ⟨0x0005, false, 0x00000000, [⟨31, 24, .ro, 3⟩, ⟨23, 16, .ro, 3⟩, ⟨12, 0, .ro, 3⟩]⟩,
  -- CAP2 (R45)
  ⟨0x0006, false, 0x00000000, [⟨19, 16, .ro, 3⟩, ⟨11, 8, .ro, 3⟩, ⟨4, 0, .ro, 3⟩]⟩,
  -- CAP3 (R45)
  ⟨0x0007, false, 0x00000000, [⟨27, 18, .ro, 3⟩, ⟨17, 16, .ro, 3⟩, ⟨13, 8, .ro, 3⟩, ⟨7, 0, .ro, 3⟩]⟩,
  -- STRAP_STAT (R45)
  ⟨0x0008, false, 0x00000000, [⟨2, 0, .ro, 3⟩]⟩,
  -- SCRATCH0 (R45)
  ⟨0x000C, false, 0x00000000, [⟨31, 0, .rw, 0⟩]⟩,
  -- SCRATCH1 (R45)
  ⟨0x000D, false, 0x00000000, [⟨31, 0, .rw, 0⟩]⟩,
  -- SCRATCH2 (R45)
  ⟨0x000E, false, 0x00000000, [⟨31, 0, .rw, 0⟩]⟩]

/-- Registers SCRATCH3–SCRATCH3 of window 0x00. -/
def regRows00_1 : List RegRow := [
  -- SCRATCH3 (R45)
  ⟨0x000F, false, 0x00000000, [⟨31, 0, .rw, 0⟩]⟩]

/-- Registers CLK_CFG–BOOT_VER of window 0x01. -/
def regRows01_0 : List RegRow := [
  -- CLK_CFG (R586)
  ⟨0x0100, true, 0x00000000, [⟨31, 31, .rw, 1⟩]⟩,
  -- CLK_STAT (R586)
  ⟨0x0101, false, 0x00000000, [⟨31, 31, .ro, 3⟩, ⟨30, 30, .ro, 3⟩, ⟨29, 29, .ro, 3⟩, ⟨28, 28, .w1c, 0⟩]⟩,
  -- MON_STAT (R586)
  ⟨0x0102, false, 0x00000000, [⟨23, 8, .ro, 3⟩, ⟨6, 0, .ro, 3⟩]⟩,
  -- RST_CAUSE (R586)
  ⟨0x0103, false, 0x00000000, [⟨31, 28, .ro, 3⟩, ⟨26, 24, .ro, 3⟩, ⟨4, 0, .w1c, 0⟩]⟩,
  -- RST_CNT (R586)
  ⟨0x0104, false, 0x00000000, [⟨31, 24, .rc, 3⟩, ⟨23, 16, .rc, 3⟩, ⟨15, 8, .rc, 3⟩, ⟨7, 0, .rc, 3⟩]⟩,
  -- RST_CMD (R586)
  ⟨0x0105, true, 0x00000000, [⟨31, 24, .wo, 1⟩, ⟨23, 20, .wo, 1⟩, ⟨19, 18, .wo, 1⟩, ⟨15, 0, .wo, 1⟩]⟩,
  -- RST_STAT (R586)
  ⟨0x0106, false, 0x00000000, [⟨31, 31, .w1c, 0⟩, ⟨27, 24, .ro, 3⟩, ⟨23, 20, .ro, 3⟩, ⟨15, 0, .ro, 3⟩]⟩,
  -- BOOT_STAT (R586)
  ⟨0x0107, false, 0x00000000, [⟨31, 28, .ro, 3⟩, ⟨27, 26, .ro, 3⟩, ⟨25, 25, .ro, 3⟩, ⟨24, 24, .ro, 3⟩, ⟨23, 23, .ro, 3⟩, ⟨22, 22, .ro, 3⟩, ⟨21, 21, .ro, 3⟩]⟩,
  -- BOOT_TIME (R586)
  ⟨0x0108, false, 0x00000000, [⟨31, 16, .ro, 3⟩, ⟨15, 0, .ro, 3⟩]⟩,
  -- BOOT_HASH (R586)
  ⟨0x0109, false, 0x00000000, [⟨31, 0, .ro, 3⟩]⟩,
  -- BOOT_CFG (R586)
  ⟨0x010A, true, 0x00000000, [⟨31, 31, .rw, 2⟩]⟩,
  -- BOOT_VER (R586)
  ⟨0x010B, false, 0x00000000, [⟨31, 0, .ro, 3⟩]⟩]

/-- Registers ROLE_STAT–RIG_CTL of window 0x02. -/
def regRows02_0 : List RegRow := [
  -- ROLE_STAT (R560)
  ⟨0x0200, false, 0x00000000, [⟨31, 30, .ro, 3⟩, ⟨29, 29, .ro, 3⟩, ⟨28, 28, .ro, 3⟩, ⟨27, 27, .w1c, 0⟩, ⟨26, 26, .w1c, 0⟩, ⟨25, 25, .w1c, 0⟩, ⟨19, 19, .ro, 3⟩, ⟨18, 18, .ro, 3⟩, ⟨17, 16, .ro, 3⟩, ⟨15, 15, .ro, 3⟩]⟩,
  -- ROLE_CMD (R560)
  ⟨0x0201, true, 0x00000000, [⟨31, 28, .wo, 0⟩, ⟨27, 26, .wo, 0⟩, ⟨3, 0, .wo, 0⟩]⟩,
  -- ROLE_BUF0 (R560)
  ⟨0x0202, true, 0x00000000, [⟨31, 0, .rw, 0⟩]⟩,
  -- ROLE_BUF1 (R560)
  ⟨0x0203, true, 0x00000000, [⟨31, 0, .rw, 0⟩]⟩,
  -- ROLE_BUF2 (R560)
  ⟨0x0204, true, 0x00000000, [⟨31, 0, .rw, 0⟩]⟩,
  -- ROLE_BUF3 (R560)
  ⟨0x0205, true, 0x00000000, [⟨31, 0, .rw, 0⟩]⟩,
  -- ROLE_BUF4 (R560)
  ⟨0x0206, true, 0x00000000, [⟨31, 0, .rw, 0⟩]⟩,
  -- ROLE_BUF5 (R560)
  ⟨0x0207, true, 0x00000000, [⟨31, 0, .rw, 0⟩]⟩,
  -- ROLE_BUF6 (R560)
  ⟨0x0208, true, 0x00000000, [⟨31, 0, .rw, 0⟩]⟩,
  -- ROLE_BUF7 (R560)
  ⟨0x0209, true, 0x00000000, [⟨31, 0, .rw, 0⟩]⟩,
  -- ROLE_CFG (R560)
  ⟨0x020A, true, 0x0000001E, [⟨7, 0, .rw, 2⟩]⟩,
  -- RIG_CTL (R560)
  ⟨0x020B, true, 0x00000000, [⟨15, 0, .rw, 1⟩]⟩]

/-- Registers AUD_STAT–ROLE_FAILS of window 0x02. -/
def regRows02_1 : List RegRow := [
  -- AUD_STAT (R560)
  ⟨0x020C, false, 0x00000000, [⟨31, 31, .w1c, 0⟩, ⟨29, 24, .ro, 3⟩, ⟨23, 12, .ro, 3⟩, ⟨10, 0, .ro, 3⟩]⟩,
  -- AUD_SEL (R560)
  ⟨0x020D, false, 0x00000000, [⟨31, 31, .rw, 0⟩, ⟨17, 16, .rw, 0⟩, ⟨10, 0, .rw, 0⟩]⟩,
  -- AUD_DATA (R560)
  ⟨0x020E, false, 0xFFFFFFFF, [⟨31, 0, .ro, 3⟩]⟩,
  -- ROLE_FAILS (R560)
  ⟨0x020F, false, 0x00000000, [⟨7, 0, .rc, 3⟩]⟩]

/-- Registers FC_CTL–FC_FIRST3 of window 0x03. -/
def regRows03_0 : List RegRow := [
  -- FC_CTL (R393)
  ⟨0x0300, true, 0x22323201, [⟨30, 28, .rw, 1⟩, ⟨26, 24, .rw, 1⟩, ⟨22, 20, .rw, 1⟩, ⟨18, 16, .rw, 1⟩, ⟨15, 8, .rw, 1⟩, ⟨0, 0, .rw, 1⟩]⟩,
  -- FC_STAT (R393)
  ⟨0x0301, false, 0x00000000, [⟨31, 29, .ro, 3⟩, ⟨28, 28, .ro, 3⟩, ⟨27, 27, .w1c, 0⟩, ⟨26, 26, .w1c, 0⟩, ⟨25, 25, .w1c, 0⟩, ⟨24, 24, .w1c, 0⟩, ⟨23, 23, .w1c, 0⟩, ⟨22, 22, .ro, 3⟩, ⟨6, 0, .ro, 3⟩]⟩,
  -- FC_SEL (R393)
  ⟨0x0302, false, 0x00000000, [⟨11, 8, .rw, 0⟩, ⟨7, 0, .rw, 0⟩]⟩,
  -- FC_SRC_CFG (R393)
  ⟨0x0303, true, 0x00000000, [⟨31, 31, .rw, 1⟩, ⟨30, 28, .rw, 1⟩, ⟨27, 25, .rw, 1⟩, ⟨24, 21, .rw, 1⟩, ⟨20, 14, .rw, 1⟩, ⟨13, 12, .rw, 1⟩, ⟨11, 10, .rw, 1⟩, ⟨9, 9, .rw, 1⟩, ⟨8, 8, .rw, 1⟩, ⟨7, 7, .rw, 1⟩, ⟨6, 6, .rw, 1⟩, ⟨5, 0, .rw, 1⟩]⟩,
  -- FC_SRC_STAT (R393)
  ⟨0x0304, false, 0x00000000, [⟨31, 28, .ro, 3⟩, ⟨27, 20, .rc, 3⟩, ⟨19, 19, .ro, 3⟩, ⟨18, 16, .ro, 3⟩]⟩,
  -- FC_CONSEQ (R393)
  ⟨0x0305, true, 0x00000000, [⟨27, 20, .rw, 1⟩, ⟨19, 12, .rw, 1⟩, ⟨11, 0, .rw, 1⟩]⟩,
  -- FC_ACK (R393)
  ⟨0x0306, true, 0x00000000, [⟨31, 0, .wo, 0⟩]⟩,
  -- FC_CMD (R393)
  ⟨0x0307, true, 0x00000000, [⟨2, 2, .wo, 0⟩, ⟨1, 1, .wo, 0⟩, ⟨0, 0, .wo, 0⟩]⟩,
  -- FC_FIRST0 (R393)
  ⟨0x0308, false, 0x00000000, [⟨31, 0, .ro, 3⟩]⟩,
  -- FC_FIRST1 (R393)
  ⟨0x0309, false, 0x00000000, [⟨31, 0, .ro, 3⟩]⟩,
  -- FC_FIRST2 (R393)
  ⟨0x030A, false, 0x00000000, [⟨31, 0, .ro, 3⟩]⟩,
  -- FC_FIRST3 (R393)
  ⟨0x030B, false, 0x00000000, [⟨31, 0, .ro, 3⟩]⟩]

/-- Registers FC_LOG_SEL–FC_TEST of window 0x03. -/
def regRows03_1 : List RegRow := [
  -- FC_LOG_SEL (R393)
  ⟨0x030C, false, 0x00000000, [⟨31, 31, .rw, 0⟩, ⟨7, 0, .rw, 0⟩]⟩,
  -- FC_LOG0 (R393)
  ⟨0x030D, false, 0x00000000, [⟨31, 0, .ro, 3⟩]⟩,
  -- FC_LOG1 (R393)
  ⟨0x030E, false, 0x00000000, [⟨31, 0, .ro, 3⟩]⟩,
  -- FC_LOG2 (R393)
  ⟨0x030F, false, 0x00000000, [⟨31, 0, .ro, 3⟩]⟩,
  -- FC_LOG3 (R393)
  ⟨0x0310, false, 0x00000000, [⟨31, 0, .ro, 3⟩]⟩,
  -- FC_SEQ (R393)
  ⟨0x0311, false, 0x00000000, [⟨31, 0, .ro, 3⟩]⟩,
  -- FC_CNT (R393)
  ⟨0x0312, false, 0x00000000, [⟨31, 16, .rc, 3⟩, ⟨15, 8, .rc, 3⟩, ⟨7, 0, .rc, 3⟩]⟩,
  -- FC_MAST_SEV (R393)
  ⟨0x0313, false, 0x00000000, [⟨1, 0, .ro, 3⟩, ⟨3, 2, .ro, 3⟩, ⟨5, 4, .ro, 3⟩, ⟨7, 6, .ro, 3⟩, ⟨9, 8, .ro, 3⟩, ⟨11, 10, .ro, 3⟩, ⟨13, 12, .ro, 3⟩, ⟨15, 14, .ro, 3⟩, ⟨17, 16, .ro, 3⟩, ⟨19, 18, .ro, 3⟩, ⟨21, 20, .ro, 3⟩, ⟨23, 22, .ro, 3⟩, ⟨25, 24, .ro, 3⟩, ⟨27, 26, .ro, 3⟩, ⟨29, 28, .ro, 3⟩, ⟨31, 30, .ro, 3⟩]⟩,
  -- FC_STORE (R393)
  ⟨0x0314, false, 0x08000000, [⟨27, 24, .ro, 3⟩, ⟨23, 16, .ro, 3⟩, ⟨10, 0, .ro, 3⟩]⟩,
  -- FC_WAKE (R393)
  ⟨0x0315, false, 0x00000000, [⟨23, 16, .ro, 3⟩, ⟨15, 0, .ro, 3⟩]⟩,
  -- FC_TEST (R393)
  ⟨0x0316, true, 0x00000000, [⟨7, 0, .wo, 1⟩]⟩]

/-- Registers HK_CTL–REEF_STAT of window 0x04. -/
def regRows04_0 : List RegRow := [
  -- HK_CTL (R420)
  ⟨0x0400, true, 0x80001900, [⟨31, 31, .rw, 2⟩, ⟨15, 8, .rw, 1⟩]⟩,
  -- HK_STAT (R420)
  ⟨0x0401, false, 0x00000000, [⟨31, 31, .ro, 3⟩, ⟨30, 30, .ro, 3⟩, ⟨29, 29, .ro, 3⟩, ⟨28, 28, .ro, 3⟩, ⟨27, 27, .w1c, 0⟩, ⟨26, 26, .w1c, 0⟩, ⟨20, 16, .ro, 3⟩, ⟨15, 0, .ro, 3⟩]⟩,
  -- TH_DIE (R420)
  ⟨0x0402, true, 0x78820C05, [⟨31, 24, .rw, 1⟩, ⟨23, 16, .rw, 1⟩, ⟨15, 8, .rw, 1⟩, ⟨7, 0, .rw, 1⟩]⟩,
  -- TH_SHUT (R420)
  ⟨0x0403, true, 0x00009114, [⟨15, 8, .rw, 2⟩, ⟨7, 0, .rw, 1⟩]⟩,
  -- TH_RATE (R420)
  ⟨0x0404, true, 0x32001432, [⟨31, 24, .rw, 1⟩, ⟨15, 8, .rw, 1⟩, ⟨7, 0, .rw, 1⟩]⟩,
  -- TH_EXT (R420)
  ⟨0x0405, true, 0x6E780A00, [⟨31, 24, .rw, 1⟩, ⟨23, 16, .rw, 1⟩, ⟨15, 8, .rw, 1⟩]⟩,
  -- SNS_SEL (R420)
  ⟨0x0406, false, 0x00000000, [⟨19, 16, .rw, 0⟩, ⟨4, 0, .rw, 0⟩]⟩,
  -- SNS_CFG (R420)
  ⟨0x0407, true, 0x00000000, [⟨31, 31, .rw, 1⟩, ⟨30, 30, .rw, 1⟩, ⟨29, 28, .rw, 1⟩, ⟨27, 27, .rw, 1⟩, ⟨23, 16, .rw, 1⟩, ⟨15, 8, .rw, 1⟩, ⟨6, 0, .rw, 1⟩]⟩,
  -- TSNS_STAT (R420)
  ⟨0x0408, false, 0x00000000, [⟨31, 31, .ro, 3⟩, ⟨30, 28, .ro, 3⟩, ⟨27, 21, .ro, 3⟩, ⟨15, 0, .ro, 3⟩]⟩,
  -- SNS_FAIL (R420)
  ⟨0x0409, false, 0x00000000, [⟨31, 0, .ro, 3⟩]⟩,
  -- REEF_MAP (R420)
  ⟨0x040A, true, 0x00000000, [⟨31, 0, .rw, 1⟩]⟩,
  -- REEF_STAT (R420)
  ⟨0x040B, false, 0x00000000, [⟨31, 31, .ro, 3⟩, ⟨30, 30, .ro, 3⟩, ⟨29, 29, .ro, 3⟩, ⟨28, 24, .ro, 3⟩, ⟨15, 0, .ro, 3⟩]⟩]

/-- Registers SUP_CFG–HK_CMD of window 0x04. -/
def regRows04_1 : List RegRow := [
  -- SUP_CFG (R420)
  ⟨0x040C, true, 0x0000003F, [⟨5, 0, .rw, 1⟩]⟩,
  -- SUP_STAT (R420)
  ⟨0x040D, false, 0x00000000, [⟨13, 8, .w1c, 0⟩, ⟨5, 0, .ro, 3⟩]⟩,
  -- TPEAK (R420)
  ⟨0x040E, false, 0x00000000, [⟨31, 27, .ro, 3⟩, ⟨15, 0, .ro, 3⟩]⟩,
  -- HK_CMD (R420)
  ⟨0x040F, true, 0x00000000, [⟨1, 1, .wo, 0⟩, ⟨0, 0, .wo, 1⟩]⟩]

/-- Registers LK_CTL–LK_STOP of window 0x05. -/
def regRows05_0 : List RegRow := [
  -- LK_CTL (R453)
  ⟨0x0500, true, 0x30000000, [⟨31, 31, .rw, 1⟩, ⟨30, 30, .rw, 1⟩, ⟨29, 29, .rw, 1⟩, ⟨28, 28, .rw, 1⟩, ⟨27, 27, .rw, 1⟩]⟩,
  -- LK_CFG (R453)
  ⟨0x0501, true, 0x00000064, [⟨28, 24, .rw, 1⟩, ⟨9, 0, .rw, 1⟩]⟩,
  -- LK_STAT (R453)
  ⟨0x0502, false, 0x00000000, [⟨31, 31, .ro, 3⟩, ⟨30, 30, .ro, 3⟩, ⟨29, 29, .ro, 3⟩, ⟨28, 28, .ro, 3⟩, ⟨27, 27, .w1c, 0⟩, ⟨26, 26, .w1c, 0⟩, ⟨25, 25, .w1c, 0⟩, ⟨24, 24, .w1c, 0⟩]⟩,
  -- LK_PORT0 (R453)
  ⟨0x0503, false, 0x00000000, [⟨31, 29, .ro, 3⟩, ⟨28, 28, .ro, 3⟩, ⟨27, 27, .ro, 3⟩, ⟨26, 26, .ro, 3⟩, ⟨25, 25, .ro, 3⟩, ⟨24, 20, .ro, 3⟩, ⟨15, 8, .ro, 3⟩, ⟨7, 0, .ro, 3⟩]⟩,
  -- LK_PORT1 (R453)
  ⟨0x0504, false, 0x00000000, [⟨31, 29, .ro, 3⟩, ⟨28, 28, .ro, 3⟩, ⟨27, 27, .ro, 3⟩, ⟨26, 26, .ro, 3⟩, ⟨25, 25, .ro, 3⟩, ⟨24, 20, .ro, 3⟩, ⟨15, 8, .ro, 3⟩, ⟨7, 0, .ro, 3⟩]⟩,
  -- LK_PUB0 (R453)
  ⟨0x0505, false, 0x00000000, [⟨31, 31, .rw, 0⟩, ⟨25, 16, .rw, 0⟩, ⟨15, 0, .rw, 0⟩]⟩,
  -- LK_PUB1 (R453)
  ⟨0x0506, false, 0x00000000, [⟨31, 31, .rw, 0⟩, ⟨25, 16, .rw, 0⟩, ⟨15, 0, .rw, 0⟩]⟩,
  -- LK_PWSEL (R453)
  ⟨0x0507, false, 0x00000000, [⟨3, 0, .rw, 0⟩]⟩,
  -- LK_PWIN (R453)
  ⟨0x0508, false, 0x00000000, [⟨31, 31, .rw, 0⟩, ⟨30, 30, .ro, 3⟩, ⟨29, 25, .rw, 0⟩, ⟨24, 21, .rw, 0⟩, ⟨20, 10, .rw, 0⟩, ⟨8, 0, .rw, 0⟩]⟩,
  -- LK_POLICE (R453)
  ⟨0x0509, true, 0x04100100, [⟨31, 24, .rw, 1⟩, ⟨23, 16, .rw, 1⟩, ⟨11, 0, .rw, 1⟩]⟩,
  -- LK_TRIG (R453)
  ⟨0x050A, false, 0x00000000, [⟨31, 31, .rw, 0⟩, ⟨29, 24, .rw, 0⟩, ⟨23, 23, .rw, 0⟩, ⟨20, 16, .rw, 0⟩, ⟨13, 8, .rw, 0⟩]⟩,
  -- LK_STOP (R453)
  ⟨0x050B, true, 0x00000000, [⟨31, 31, .wo, 0⟩, ⟨12, 8, .ro, 3⟩, ⟨7, 0, .ro, 3⟩]⟩]

/-- Registers LK_TOPO–LK_DIAG of window 0x05. -/
def regRows05_1 : List RegRow := [
  -- LK_TOPO (R453)
  ⟨0x050C, false, 0x00000000, [⟨29, 24, .ro, 3⟩, ⟨23, 16, .ro, 3⟩, ⟨5, 0, .ro, 3⟩]⟩,
  -- LK_ERR0 (R453)
  ⟨0x050D, false, 0x00000000, [⟨31, 24, .rc, 3⟩, ⟨23, 16, .rc, 3⟩, ⟨15, 8, .rc, 3⟩, ⟨7, 0, .rc, 3⟩]⟩,
  -- LK_ERR1 (R453)
  ⟨0x050E, false, 0x00000000, [⟨31, 24, .rc, 3⟩, ⟨23, 16, .rc, 3⟩, ⟨15, 8, .rc, 3⟩, ⟨7, 0, .rc, 3⟩]⟩,
  -- LK_DIAG (R453)
  ⟨0x050F, true, 0x00000000, [⟨31, 31, .rw, 1⟩, ⟨30, 30, .ro, 3⟩, ⟨29, 29, .ro, 3⟩]⟩]

/-- Registers TB_CTL–PTP_CFG of window 0x06. -/
def regRows06_0 : List RegRow := [
  -- TB_CTL (R491)
  ⟨0x0600, true, 0x04000000, [⟨30, 29, .rw, 1⟩, ⟨28, 27, .rw, 1⟩, ⟨26, 26, .rw, 1⟩, ⟨25, 25, .rw, 1⟩, ⟨24, 24, .rw, 1⟩]⟩,
  -- TB_STAT (R491)
  ⟨0x0601, false, 0x00000000, [⟨31, 29, .ro, 3⟩, ⟨28, 28, .ro, 3⟩, ⟨27, 27, .ro, 3⟩, ⟨26, 26, .ro, 3⟩, ⟨25, 25, .w1c, 0⟩, ⟨24, 24, .w1c, 0⟩, ⟨23, 23, .w1c, 0⟩, ⟨22, 22, .w1c, 0⟩]⟩,
  -- TB_NS (R491)
  ⟨0x0602, false, 0x00000000, [⟨29, 0, .ro, 3⟩]⟩,
  -- TB_SEC_LO (R491)
  ⟨0x0603, false, 0x00000000, [⟨31, 0, .ro, 3⟩]⟩,
  -- TB_SEC_HI (R491)
  ⟨0x0604, false, 0x00000000, [⟨15, 0, .ro, 3⟩]⟩,
  -- TB_RATE (R491)
  ⟨0x0605, false, 0x2AAAAAAB, [⟨31, 0, .ro, 3⟩]⟩,
  -- SET_NS (R491)
  ⟨0x0606, true, 0x00000000, [⟨29, 0, .rw, 1⟩]⟩,
  -- SET_SEC_LO (R491)
  ⟨0x0607, true, 0x00000000, [⟨31, 0, .rw, 1⟩]⟩,
  -- SET_SEC_HI (R491)
  ⟨0x0608, true, 0x00000000, [⟨15, 0, .rw, 1⟩]⟩,
  -- TB_CMD (R491)
  ⟨0x0609, true, 0x00000000, [⟨1, 1, .wo, 1⟩, ⟨0, 0, .wo, 1⟩]⟩,
  -- SRV_CFG (R491)
  ⟨0x060A, true, 0x401032A8, [⟨31, 24, .rw, 1⟩, ⟨23, 16, .rw, 1⟩, ⟨15, 8, .rw, 1⟩, ⟨7, 4, .rw, 1⟩, ⟨3, 0, .rw, 1⟩]⟩,
  -- PTP_CFG (R491)
  ⟨0x060B, true, 0x0001840A, [⟨31, 24, .rw, 1⟩, ⟨23, 16, .rw, 1⟩, ⟨15, 12, .rw, 1⟩, ⟨11, 8, .rw, 1⟩, ⟨7, 0, .rw, 1⟩]⟩]

/-- Registers TSC_CFG–TSC_STAT of window 0x06. -/
def regRows06_1 : List RegRow := [
  -- TSC_CFG (R491)
  ⟨0x060C, false, 0x00000000, [⟨7, 7, .rw, 0⟩, ⟨15, 15, .rw, 0⟩, ⟨23, 23, .rw, 0⟩, ⟨31, 31, .rw, 0⟩, ⟨6, 5, .rw, 0⟩, ⟨14, 13, .rw, 0⟩, ⟨22, 21, .rw, 0⟩, ⟨30, 29, .rw, 0⟩, ⟨4, 0, .rw, 0⟩, ⟨12, 8, .rw, 0⟩, ⟨20, 16, .rw, 0⟩, ⟨28, 24, .rw, 0⟩]⟩,
  -- TSC_STAT (R491)
  ⟨0x060D, false, 0x00000000, [⟨7, 7, .w1c, 0⟩, ⟨15, 15, .w1c, 0⟩, ⟨23, 23, .w1c, 0⟩, ⟨31, 31, .w1c, 0⟩, ⟨6, 6, .w1c, 0⟩, ⟨14, 14, .w1c, 0⟩, ⟨22, 22, .w1c, 0⟩, ⟨30, 30, .w1c, 0⟩]⟩]

/-- Registers CAL_CTL–CAL_CNT of window 0x07. -/
def regRows07_0 : List RegRow := [
  -- CAL_CTL (R492)
  ⟨0x0700, true, 0x80000032, [⟨31, 31, .rw, 1⟩, ⟨11, 0, .rw, 1⟩]⟩,
  -- CAL_STAT (R492)
  ⟨0x0701, false, 0x00000000, [⟨31, 31, .ro, 3⟩, ⟨30, 30, .w1c, 0⟩, ⟨29, 29, .w1c, 0⟩, ⟨28, 28, .w1c, 0⟩, ⟨27, 27, .w1c, 0⟩, ⟨13, 0, .ro, 3⟩]⟩,
  -- CAL_W0 (R492)
  ⟨0x0702, false, 0x00000000, [⟨31, 0, .rw, 0⟩]⟩,
  -- CAL_W1 (R492)
  ⟨0x0703, false, 0x00000000, [⟨31, 0, .rw, 0⟩]⟩,
  -- CAL_W2 (R492)
  ⟨0x0704, false, 0x00000000, [⟨31, 0, .rw, 0⟩]⟩,
  -- CAL_W3 (R492)
  ⟨0x0705, false, 0x00000000, [⟨31, 0, .rw, 0⟩]⟩,
  -- CAL_CMD (R492)
  ⟨0x0706, true, 0x00000000, [⟨31, 30, .wo, 0⟩, ⟨13, 0, .wo, 0⟩]⟩,
  -- CAL_RES (R492)
  ⟨0x0707, false, 0x00000000, [⟨31, 31, .ro, 3⟩, ⟨15, 0, .ro, 3⟩]⟩,
  -- CAL_NEXT (R492)
  ⟨0x0708, false, 0x00000000, [⟨31, 31, .ro, 3⟩, ⟨13, 0, .ro, 3⟩]⟩,
  -- CAL_CNT (R492)
  ⟨0x0709, false, 0x00000000, [⟨31, 24, .rc, 3⟩, ⟨23, 16, .rc, 3⟩, ⟨15, 8, .rc, 3⟩, ⟨7, 0, .rc, 3⟩]⟩]

/-- Registers ENG_CTL–DOORBELL of window 0x08. -/
def regRows08_0 : List RegRow := [
  -- ENG_CTL (R279)
  ⟨0x0800, true, 0x00000000, [⟨23, 16, .rw, 0⟩, ⟨15, 8, .rw, 0⟩, ⟨4, 4, .rw, 1⟩, ⟨3, 0, .rw, 1⟩]⟩,
  -- ENG_STAT (R279)
  ⟨0x0801, false, 0x00000000, [⟨31, 28, .ro, 3⟩, ⟨27, 24, .ro, 3⟩, ⟨23, 23, .w1c, 0⟩, ⟨22, 22, .w1c, 0⟩, ⟨21, 21, .w1c, 0⟩, ⟨20, 20, .w1c, 0⟩, ⟨19, 19, .w1c, 0⟩, ⟨18, 18, .ro, 3⟩, ⟨6, 0, .ro, 3⟩]⟩,
  -- ENG_LOAD (R279)
  ⟨0x0802, false, 0x00000000, [⟨7, 0, .ro, 3⟩, ⟨15, 8, .ro, 3⟩, ⟨23, 16, .ro, 3⟩, ⟨31, 24, .ro, 3⟩]⟩,
  -- ENG_SEL (R279)
  ⟨0x0803, false, 0x00000000, [⟨18, 16, .rw, 0⟩, ⟨14, 12, .rw, 0⟩, ⟨11, 8, .rw, 0⟩, ⟨5, 0, .rw, 0⟩]⟩,
  -- CTX_CFG (R279)
  ⟨0x0804, false, 0x8F000000, [⟨31, 30, .rw, 0⟩, ⟨29, 28, .rw, 0⟩, ⟨27, 24, .rw, 0⟩, ⟨17, 0, .rw, 0⟩]⟩,
  -- CTX_TRIG (R279)
  ⟨0x0805, false, 0x00000000, [⟨31, 31, .rw, 0⟩, ⟨30, 30, .rw, 0⟩, ⟨19, 0, .rw, 0⟩]⟩,
  -- CTX_BUDGET (R279)
  ⟨0x0806, false, 0x00000000, [⟨31, 30, .rw, 0⟩, ⟨19, 0, .rw, 0⟩]⟩,
  -- CTX_STAT (R279)
  ⟨0x0807, false, 0x0E000000, [⟨31, 28, .ro, 3⟩, ⟨27, 25, .ro, 3⟩, ⟨24, 24, .w1c, 0⟩, ⟨23, 16, .ro, 3⟩, ⟨15, 15, .w1c, 0⟩, ⟨14, 0, .ro, 3⟩]⟩,
  -- CTX_PC (R279)
  ⟨0x0808, false, 0x00000000, [⟨17, 0, .rw, 1⟩]⟩,
  -- CTX_VREG (R279)
  ⟨0x0809, true, 0x00000000, [⟨31, 0, .rw, 1⟩]⟩,
  -- CTX_CMD (R279)
  ⟨0x080A, true, 0x00000000, [⟨2, 0, .wo, 0⟩]⟩,
  -- DOORBELL (R279)
  ⟨0x080B, false, 0x00000000, [⟨5, 0, .wo, 0⟩]⟩]

/-- Registers ETMR–ENG_FAULT of window 0x08. -/
def regRows08_1 : List RegRow := [
  -- ETMR (R279)
  ⟨0x080C, false, 0x00000000, [⟨31, 31, .rw, 0⟩, ⟨29, 24, .rw, 0⟩, ⟨23, 0, .rw, 0⟩]⟩,
  -- DBG_CTL (R279)
  ⟨0x080D, true, 0x00000000, [⟨31, 31, .rw, 1⟩, ⟨30, 30, .rw, 1⟩, ⟨29, 29, .rw, 1⟩, ⟨28, 28, .rw, 1⟩]⟩,
  -- BKPT (R279)
  ⟨0x080E, false, 0x00000000, [⟨31, 31, .rw, 1⟩, ⟨30, 30, .rw, 1⟩, ⟨29, 28, .rw, 1⟩, ⟨27, 22, .rw, 1⟩, ⟨17, 0, .rw, 1⟩]⟩,
  -- ENG_FAULT (R279)
  ⟨0x080F, false, 0x00000000, [⟨31, 31, .w1c, 0⟩, ⟨30, 27, .ro, 3⟩, ⟨26, 21, .ro, 3⟩, ⟨20, 19, .ro, 3⟩, ⟨17, 0, .ro, 3⟩]⟩]

/-- Registers PRG_ADDR–TRC_TRIG of window 0x09. -/
def regRows09_0 : List RegRow := [
  -- PRG_ADDR (R280)
  ⟨0x0900, false, 0x00000000, [⟨31, 31, .rw, 0⟩, ⟨29, 28, .rw, 0⟩, ⟨14, 0, .rw, 0⟩]⟩,
  -- PRG_DATA (R280)
  ⟨0x0901, true, 0x00000000, [⟨31, 0, .rw, 2⟩]⟩,
  -- PRG_CTL (R280)
  ⟨0x0902, false, 0x00000000, [⟨1, 1, .ro, 3⟩, ⟨0, 0, .ro, 3⟩]⟩,
  -- TAB_ADDR (R280)
  ⟨0x0903, false, 0x00000000, [⟨31, 31, .rw, 0⟩, ⟨11, 0, .rw, 0⟩]⟩,
  -- TAB_DATA (R280)
  ⟨0x0904, true, 0x00000000, [⟨31, 0, .rw, 1⟩]⟩,
  -- CELL_SEL (R280)
  ⟨0x0905, false, 0x00000000, [⟨31, 31, .rw, 0⟩, ⟨19, 16, .rw, 0⟩, ⟨11, 0, .rw, 0⟩]⟩,
  -- CELL_DATA (R280)
  ⟨0x0906, true, 0x00000000, [⟨31, 0, .rw, 0⟩]⟩,
  -- CELL_CMD (R280)
  ⟨0x0907, true, 0x00000000, [⟨2, 0, .wo, 0⟩]⟩,
  -- SIG_ADDR (R280)
  ⟨0x0908, false, 0x00000000, [⟨31, 31, .rw, 0⟩, ⟨19, 0, .rw, 0⟩]⟩,
  -- SIG_DATA (R280)
  ⟨0x0909, true, 0x00000000, [⟨31, 0, .rw, 0⟩]⟩,
  -- TRC_CTL (R280)
  ⟨0x090A, false, 0x00000000, [⟨31, 31, .rw, 0⟩, ⟨30, 30, .rw, 0⟩, ⟨29, 29, .rw, 0⟩, ⟨27, 24, .rw, 0⟩, ⟨23, 18, .rw, 0⟩, ⟨17, 17, .rw, 0⟩]⟩,
  -- TRC_TRIG (R280)
  ⟨0x090B, false, 0x00000000, [⟨31, 30, .rw, 0⟩, ⟨29, 27, .rw, 0⟩, ⟨19, 0, .rw, 0⟩]⟩]

/-- Registers TRC_STAT–TINJ_CFG of window 0x09. -/
def regRows09_1 : List RegRow := [
  -- TRC_STAT (R280)
  ⟨0x090C, false, 0x00000000, [⟨31, 31, .ro, 3⟩, ⟨30, 30, .ro, 3⟩, ⟨29, 29, .ro, 3⟩, ⟨27, 16, .rc, 3⟩, ⟨15, 0, .ro, 3⟩]⟩,
  -- TINJ_CFG (R280)
  ⟨0x090D, true, 0x00000000, [⟨31, 31, .rw, 0⟩, ⟨30, 30, .rw, 0⟩, ⟨29, 28, .rw, 0⟩, ⟨27, 16, .rw, 0⟩, ⟨15, 0, .rw, 0⟩]⟩]

/-- Registers MEM_CFG–MEM_TRACE of window 0x0A. -/
def regRows0A_0 : List RegRow := [
  -- MEM_CFG (R535)
  ⟨0x0A00, true, 0x700A0400, [⟨31, 31, .rw, 1⟩, ⟨30, 30, .rw, 1⟩, ⟨29, 28, .rw, 1⟩, ⟨27, 24, .rw, 1⟩, ⟨23, 16, .rw, 1⟩, ⟨15, 8, .rw, 1⟩]⟩,
  -- MEM_STAT (R535)
  ⟨0x0A01, false, 0x00000000, [⟨31, 31, .ro, 3⟩, ⟨30, 30, .w1c, 0⟩, ⟨29, 29, .w1c, 0⟩, ⟨28, 28, .w1c, 0⟩, ⟨27, 27, .w1c, 0⟩, ⟨26, 26, .w1c, 0⟩, ⟨25, 25, .ro, 3⟩, ⟨20, 16, .ro, 3⟩, ⟨13, 10, .ro, 3⟩, ⟨9, 5, .ro, 3⟩, ⟨4, 0, .ro, 3⟩]⟩,
  -- MEM_XIP (R535)
  ⟨0x0A02, true, 0x00400B00, [⟨31, 31, .rw, 2⟩, ⟨30, 27, .rw, 2⟩, ⟨26, 26, .rw, 2⟩, ⟨25, 25, .rw, 2⟩, ⟨24, 24, .rw, 2⟩, ⟨23, 19, .rw, 2⟩, ⟨15, 8, .rw, 2⟩, ⟨7, 0, .rw, 2⟩]⟩,
  -- MEM_XBASE (R535)
  ⟨0x0A03, true, 0x00000000, [⟨15, 0, .rw, 2⟩]⟩,
  -- MEM_PSRAM (R535)
  ⟨0x0A04, true, 0x00000000, [⟨31, 31, .rw, 1⟩, ⟨30, 27, .rw, 1⟩, ⟨26, 26, .rw, 1⟩, ⟨25, 25, .rw, 1⟩, ⟨24, 20, .rw, 1⟩, ⟨19, 17, .rw, 1⟩, ⟨16, 16, .rw, 1⟩, ⟨15, 8, .rw, 1⟩]⟩,
  -- MEM_PSCMD (R535)
  ⟨0x0A05, true, 0x03020000, [⟨31, 24, .rw, 1⟩, ⟨23, 16, .rw, 1⟩, ⟨15, 11, .rw, 1⟩]⟩,
  -- MEM_PH (R535)
  ⟨0x0A06, true, 0x00000000, [⟨31, 30, .wo, 1⟩, ⟨29, 28, .wo, 1⟩, ⟨27, 27, .wo, 1⟩, ⟨12, 0, .wo, 1⟩]⟩,
  -- MEM_DATA (R535)
  ⟨0x0A07, true, 0x00000000, [⟨31, 0, .rw, 1⟩]⟩,
  -- MEM_CMD (R535)
  ⟨0x0A08, true, 0x00000000, [⟨31, 31, .wo, 1⟩, ⟨30, 30, .wo, 1⟩, ⟨29, 28, .wo, 1⟩, ⟨3, 0, .wo, 1⟩]⟩,
  -- MEM_TRACE (R535)
  ⟨0x0A09, false, 0x00000000, [⟨31, 31, .ro, 3⟩, ⟨19, 0, .ro, 3⟩]⟩]

/-- Registers HOST_CFG–GPIO_SET of window 0x0B. -/
def regRows0B_0 : List RegRow := [
  -- HOST_CFG (R534)
  ⟨0x0B00, false, 0x00000000, [⟨12, 8, .rw, 0⟩, ⟨1, 0, .rw, 0⟩]⟩,
  -- HOST_STAT (R534)
  ⟨0x0B01, false, 0x00000000, [⟨31, 31, .w1c, 0⟩, ⟨30, 30, .ro, 3⟩, ⟨29, 29, .w1c, 0⟩, ⟨28, 28, .w1c, 0⟩, ⟨27, 27, .w1c, 0⟩, ⟨26, 26, .w1c, 0⟩, ⟨25, 25, .w1c, 0⟩, ⟨24, 24, .w1c, 0⟩, ⟨23, 23, .w1c, 0⟩, ⟨20, 16, .ro, 3⟩, ⟨8, 4, .ro, 3⟩, ⟨1, 0, .ro, 3⟩]⟩,
  -- HOST_IEN (R534)
  ⟨0x0B02, false, 0x00000007, [⟨0, 0, .ro, 0⟩, ⟨1, 1, .rw, 0⟩, ⟨2, 2, .rw, 0⟩, ⟨3, 3, .rw, 0⟩, ⟨4, 4, .rw, 0⟩, ⟨5, 5, .rw, 0⟩, ⟨6, 6, .rw, 0⟩, ⟨7, 7, .rw, 0⟩]⟩,
  -- HOST_IFLG (R534)
  ⟨0x0B03, false, 0x00000000, [⟨0, 0, .ro, 0⟩, ⟨1, 1, .ro, 0⟩, ⟨2, 2, .ro, 0⟩, ⟨3, 3, .w1c, 0⟩, ⟨4, 4, .w1c, 0⟩, ⟨5, 5, .w1c, 0⟩, ⟨6, 6, .w1c, 0⟩, ⟨7, 7, .w1c, 0⟩]⟩,
  -- HOST_BELL (R534)
  ⟨0x0B04, false, 0x00000000, [⟨15, 0, .rc, 3⟩]⟩,
  -- HOST_SNAP (R534)
  ⟨0x0B05, false, 0x00000000, [⟨31, 31, .ro, 3⟩, ⟨4, 0, .ro, 3⟩]⟩,
  -- HOST_CNT (R534)
  ⟨0x0B06, false, 0x00000000, [⟨31, 24, .rc, 3⟩, ⟨23, 16, .rc, 3⟩, ⟨15, 8, .rc, 3⟩, ⟨7, 0, .rc, 3⟩]⟩,
  -- GPIO_FUNC0 (R534)
  ⟨0x0B07, false, 0x00000000, [⟨1, 0, .rw, 0⟩, ⟨3, 2, .rw, 0⟩, ⟨5, 4, .rw, 0⟩, ⟨7, 6, .rw, 0⟩, ⟨9, 8, .rw, 0⟩, ⟨11, 10, .rw, 0⟩, ⟨13, 12, .rw, 0⟩, ⟨15, 14, .rw, 0⟩, ⟨17, 16, .rw, 0⟩, ⟨19, 18, .rw, 0⟩, ⟨21, 20, .rw, 0⟩, ⟨23, 22, .rw, 0⟩, ⟨25, 24, .rw, 0⟩, ⟨27, 26, .rw, 0⟩, ⟨29, 28, .rw, 0⟩, ⟨31, 30, .rw, 0⟩]⟩,
  -- GPIO_FUNC1 (R534)
  ⟨0x0B08, false, 0x00000000, [⟨1, 0, .rw, 0⟩, ⟨3, 2, .rw, 0⟩, ⟨5, 4, .rw, 0⟩, ⟨7, 6, .rw, 0⟩, ⟨9, 8, .rw, 0⟩, ⟨11, 10, .rw, 0⟩, ⟨13, 12, .rw, 0⟩, ⟨15, 14, .rw, 0⟩, ⟨17, 16, .rw, 0⟩, ⟨19, 18, .rw, 0⟩, ⟨21, 20, .rw, 0⟩, ⟨23, 22, .rw, 0⟩, ⟨25, 24, .rw, 0⟩, ⟨27, 26, .rw, 0⟩, ⟨29, 28, .rw, 0⟩, ⟨31, 30, .rw, 0⟩]⟩,
  -- GPIO_DIR (R534)
  ⟨0x0B09, false, 0x00000000, [⟨31, 0, .rw, 0⟩]⟩,
  -- GPIO_OUT (R534)
  ⟨0x0B0A, false, 0x00000000, [⟨31, 0, .rw, 0⟩]⟩,
  -- GPIO_SET (R534)
  ⟨0x0B0B, false, 0x00000000, [⟨31, 0, .wo, 0⟩]⟩]

/-- Registers GPIO_CLR–CMD_PIN of window 0x0B. -/
def regRows0B_1 : List RegRow := [
  -- GPIO_CLR (R534)
  ⟨0x0B0C, false, 0x00000000, [⟨31, 0, .wo, 0⟩]⟩,
  -- GPIO_IN (R534)
  ⟨0x0B0D, false, 0x00000000, [⟨31, 0, .ro, 3⟩]⟩,
  -- GPIO_EDGE (R534)
  ⟨0x0B0E, false, 0x00000000, [⟨31, 0, .w1c, 0⟩]⟩,
  -- CMD_PIN (R534)
  ⟨0x0B0F, false, 0x00000000, [⟨31, 16, .w1c, 0⟩, ⟨15, 0, .ro, 3⟩]⟩]

/-- Registers FURL_CTL–BG_STAT of window 0x0C. -/
def regRows0C_0 : List RegRow := [
  -- FURL_CTL (R361)
  ⟨0x0C00, true, 0x00000000, [⟨31, 31, .wo, 0⟩, ⟨30, 30, .wo, 0⟩]⟩,
  -- FURL_STAT (R361)
  ⟨0x0C01, false, 0x00000000, [⟨31, 31, .ro, 3⟩, ⟨30, 30, .ro, 3⟩, ⟨8, 8, .w1c, 0⟩, ⟨5, 5, .ro, 3⟩, ⟨4, 4, .ro, 3⟩, ⟨3, 3, .ro, 3⟩, ⟨2, 2, .ro, 3⟩, ⟨1, 1, .ro, 3⟩, ⟨0, 0, .ro, 3⟩]⟩,
  -- BG_SEL (R361)
  ⟨0x0C02, true, 0x00000000, [⟨31, 31, .wo, 1⟩, ⟨2, 0, .rw, 0⟩]⟩,
  -- BG_CFG (R361)
  ⟨0x0C03, true, 0x00A00000, [⟨31, 31, .rw, 1⟩, ⟨30, 30, .rw, 1⟩, ⟨27, 20, .rw, 1⟩, ⟨15, 0, .rw, 1⟩]⟩,
  -- BG_OV (R361)
  ⟨0x0C04, true, 0x10680F6E, [⟨31, 16, .rw, 1⟩, ⟨15, 0, .rw, 1⟩]⟩,
  -- BG_CHOP (R361)
  ⟨0x0C05, true, 0x0E740ED8, [⟨31, 16, .rw, 1⟩, ⟨15, 0, .rw, 1⟩]⟩,
  -- BG_UV (R361)
  ⟨0x0C06, true, 0x320400B4, [⟨31, 24, .rw, 1⟩, ⟨23, 16, .rw, 1⟩, ⟨15, 0, .rw, 1⟩]⟩,
  -- BG_STAT (R361)
  ⟨0x0C07, false, 0x00000000, [⟨31, 30, .ro, 3⟩, ⟨29, 29, .ro, 3⟩, ⟨28, 25, .ro, 3⟩, ⟨24, 24, .ro, 3⟩, ⟨23, 23, .ro, 3⟩, ⟨22, 22, .ro, 3⟩, ⟨21, 21, .w1c, 0⟩, ⟨20, 20, .w1c, 0⟩, ⟨19, 19, .ro, 3⟩, ⟨15, 0, .ro, 3⟩]⟩]

/-- Registers ST_CMD–ST_MINVER of window 0x0D. -/
def regRows0D_0 : List RegRow := [
  -- ST_CMD (R561)
  ⟨0x0D00, true, 0x00000000, [⟨31, 28, .wo, 0⟩, ⟨0, 0, .wo, 2⟩]⟩,
  -- ST_STAT (R561)
  ⟨0x0D01, false, 0x00000000, [⟨31, 31, .ro, 3⟩, ⟨30, 30, .ro, 3⟩, ⟨29, 29, .w1c, 0⟩, ⟨28, 28, .w1c, 0⟩, ⟨27, 24, .ro, 3⟩, ⟨23, 23, .w1c, 0⟩]⟩,
  -- ST_ADDR (R561)
  ⟨0x0D02, false, 0x00000000, [⟨31, 31, .rw, 0⟩, ⟨19, 0, .rw, 0⟩]⟩,
  -- ST_DATA (R561)
  ⟨0x0D03, true, 0x00000000, [⟨31, 0, .rw, 2⟩]⟩,
  -- ST_BANK (R561)
  ⟨0x0D04, false, 0x00000000, [⟨31, 31, .ro, 3⟩, ⟨30, 30, .ro, 3⟩, ⟨29, 29, .ro, 3⟩, ⟨28, 28, .ro, 3⟩]⟩,
  -- ST_JRNL (R561)
  ⟨0x0D05, false, 0x00000000, [⟨31, 31, .ro, 3⟩, ⟨26, 16, .ro, 3⟩, ⟨11, 0, .ro, 3⟩]⟩,
  -- ST_BOOT (R561)
  ⟨0x0D06, false, 0x00000000, [⟨31, 0, .ro, 3⟩]⟩,
  -- ST_MINVER (R561)
  ⟨0x0D07, true, 0x00000000, [⟨31, 0, .rw, 2⟩]⟩]

/-- Registers PWM_CTL–LEG0_DT_RISE of window 0x10. -/
def regRows10_0 : List RegRow := [
  -- PWM_CTL (R91)
  ⟨0x1000, false, 0x00881770, [⟨23, 23, .rw, 0⟩, ⟨22, 21, .rw, 0⟩, ⟨20, 20, .rw, 0⟩, ⟨19, 19, .rw, 0⟩, ⟨18, 16, .rw, 0⟩, ⟨15, 0, .rw, 0⟩]⟩,
  -- PWM_COMMIT (R91)
  ⟨0x1001, true, 0x00000000, [⟨16, 16, .wo, 0⟩, ⟨15, 8, .wo, 0⟩, ⟨0, 0, .wo, 0⟩]⟩,
  -- PWM_STAT (R91)
  ⟨0x1002, false, 0x55000000, [⟨31, 24, .ro, 3⟩, ⟨23, 23, .ro, 3⟩, ⟨22, 22, .ro, 3⟩, ⟨21, 21, .ro, 3⟩, ⟨20, 20, .w1c, 0⟩, ⟨19, 19, .w1c, 0⟩, ⟨18, 18, .w1c, 0⟩, ⟨17, 17, .w1c, 0⟩, ⟨16, 16, .ro, 3⟩, ⟨15, 0, .ro, 3⟩]⟩,
  -- LOOP_CFG (R91)
  ⟨0x1003, false, 0x00000001, [⟨23, 23, .rw, 0⟩, ⟨21, 16, .rw, 0⟩, ⟨15, 15, .rw, 0⟩, ⟨13, 8, .rw, 0⟩, ⟨4, 0, .rw, 0⟩]⟩,
  -- LOOP_OVR (R91)
  ⟨0x1004, false, 0x00000000, [⟨31, 16, .ro, 3⟩, ⟨15, 0, .rc, 3⟩]⟩,
  -- AUXT_CFG (R91)
  ⟨0x1005, false, 0x04814141, [⟨7, 6, .rw, 0⟩, ⟨15, 14, .rw, 0⟩, ⟨23, 22, .rw, 0⟩, ⟨31, 30, .rw, 0⟩, ⟨5, 4, .rw, 0⟩, ⟨13, 12, .rw, 0⟩, ⟨21, 20, .rw, 0⟩, ⟨29, 28, .rw, 0⟩, ⟨3, 0, .rw, 0⟩, ⟨11, 8, .rw, 0⟩, ⟨19, 16, .rw, 0⟩, ⟨27, 24, .rw, 0⟩]⟩,
  -- AUXT_TIME (R91)
  ⟨0x1006, false, 0x1E808080, [⟨7, 0, .rw, 0⟩, ⟨15, 8, .rw, 0⟩, ⟨23, 16, .rw, 0⟩, ⟨31, 24, .rw, 0⟩]⟩,
  -- PWM_ANCH (R91)
  ⟨0x1007, false, 0x05000000, [⟨31, 31, .rw, 0⟩, ⟨26, 24, .rw, 0⟩, ⟨21, 0, .rw, 0⟩]⟩,
  -- LEG0_CFG (R92)
  ⟨0x1010, true, 0x00000000, [⟨31, 24, .ro, 3⟩, ⟨23, 23, .ro, 3⟩, ⟨6, 6, .rw, 0⟩, ⟨5, 5, .rw, 0⟩, ⟨4, 4, .rw, 1⟩, ⟨3, 2, .rw, 1⟩, ⟨1, 0, .rw, 1⟩]⟩,
  -- LEG0_CMP_A (R92)
  ⟨0x1011, false, 0x00000000, [⟨20, 5, .rw, 0⟩, ⟨4, 0, .rw, 0⟩]⟩,
  -- LEG0_CMP_B (R92)
  ⟨0x1012, false, 0x00000000, [⟨20, 5, .rw, 0⟩, ⟨4, 0, .rw, 0⟩]⟩,
  -- LEG0_DT_RISE (R92)
  ⟨0x1013, true, 0x30003C00, [⟨31, 24, .rw, 1⟩, ⟨16, 0, .rw, 1⟩]⟩]

/-- Registers LEG0_DT_FALL–LEG3_CFG of window 0x10. -/
def regRows10_1 : List RegRow := [
  -- LEG0_DT_FALL (R92)
  ⟨0x1014, true, 0x00003C00, [⟨16, 0, .rw, 1⟩]⟩,
  -- LEG1_CFG (R92)
  ⟨0x1018, true, 0x00000000, [⟨31, 24, .ro, 3⟩, ⟨23, 23, .ro, 3⟩, ⟨6, 6, .rw, 0⟩, ⟨5, 5, .rw, 0⟩, ⟨4, 4, .rw, 1⟩, ⟨3, 2, .rw, 1⟩, ⟨1, 0, .rw, 1⟩]⟩,
  -- LEG1_CMP_A (R92)
  ⟨0x1019, false, 0x00000000, [⟨20, 5, .rw, 0⟩, ⟨4, 0, .rw, 0⟩]⟩,
  -- LEG1_CMP_B (R92)
  ⟨0x101A, false, 0x00000000, [⟨20, 5, .rw, 0⟩, ⟨4, 0, .rw, 0⟩]⟩,
  -- LEG1_DT_RISE (R92)
  ⟨0x101B, true, 0x30003C00, [⟨31, 24, .rw, 1⟩, ⟨16, 0, .rw, 1⟩]⟩,
  -- LEG1_DT_FALL (R92)
  ⟨0x101C, true, 0x00003C00, [⟨16, 0, .rw, 1⟩]⟩,
  -- LEG2_CFG (R92)
  ⟨0x1020, true, 0x00000000, [⟨31, 24, .ro, 3⟩, ⟨23, 23, .ro, 3⟩, ⟨6, 6, .rw, 0⟩, ⟨5, 5, .rw, 0⟩, ⟨4, 4, .rw, 1⟩, ⟨3, 2, .rw, 1⟩, ⟨1, 0, .rw, 1⟩]⟩,
  -- LEG2_CMP_A (R92)
  ⟨0x1021, false, 0x00000000, [⟨20, 5, .rw, 0⟩, ⟨4, 0, .rw, 0⟩]⟩,
  -- LEG2_CMP_B (R92)
  ⟨0x1022, false, 0x00000000, [⟨20, 5, .rw, 0⟩, ⟨4, 0, .rw, 0⟩]⟩,
  -- LEG2_DT_RISE (R92)
  ⟨0x1023, true, 0x30003C00, [⟨31, 24, .rw, 1⟩, ⟨16, 0, .rw, 1⟩]⟩,
  -- LEG2_DT_FALL (R92)
  ⟨0x1024, true, 0x00003C00, [⟨16, 0, .rw, 1⟩]⟩,
  -- LEG3_CFG (R92)
  ⟨0x1028, true, 0x00000000, [⟨31, 24, .ro, 3⟩, ⟨23, 23, .ro, 3⟩, ⟨6, 6, .rw, 0⟩, ⟨5, 5, .rw, 0⟩, ⟨4, 4, .rw, 1⟩, ⟨3, 2, .rw, 1⟩, ⟨1, 0, .rw, 1⟩]⟩]

/-- Registers LEG3_CMP_A–PSEQ of window 0x10. -/
def regRows10_2 : List RegRow := [
  -- LEG3_CMP_A (R92)
  ⟨0x1029, false, 0x00000000, [⟨20, 5, .rw, 0⟩, ⟨4, 0, .rw, 0⟩]⟩,
  -- LEG3_CMP_B (R92)
  ⟨0x102A, false, 0x00000000, [⟨20, 5, .rw, 0⟩, ⟨4, 0, .rw, 0⟩]⟩,
  -- LEG3_DT_RISE (R92)
  ⟨0x102B, true, 0x30003C00, [⟨31, 24, .rw, 1⟩, ⟨16, 0, .rw, 1⟩]⟩,
  -- LEG3_DT_FALL (R92)
  ⟨0x102C, true, 0x00003C00, [⟨16, 0, .rw, 1⟩]⟩,
  -- SNS_CTL (R137)
  ⟨0x1040, true, 0x00004008, [⟨14, 14, .rw, 0⟩, ⟨13, 13, .rw, 1⟩, ⟨12, 12, .rw, 1⟩, ⟨9, 8, .rw, 1⟩, ⟨6, 6, .rw, 1⟩, ⟨5, 4, .rw, 0⟩, ⟨3, 3, .rw, 0⟩, ⟨2, 0, .rw, 1⟩]⟩,
  -- PLN_CFG (R137)
  ⟨0x1041, false, 0x40800C48, [⟨31, 24, .rw, 0⟩, ⟨23, 20, .rw, 0⟩, ⟨15, 8, .rw, 0⟩, ⟨7, 0, .rw, 0⟩]⟩,
  -- SH_RSH (R137)
  ⟨0x1042, true, 0x00000000, [⟨23, 0, .rw, 1⟩]⟩,
  -- SH_CAL (R137)
  ⟨0x1043, true, 0xA4008000, [⟨31, 24, .rw, 1⟩, ⟨15, 0, .rw, 1⟩]⟩,
  -- INL_KA (R137)
  ⟨0x1044, true, 0x00000000, [⟨31, 0, .rw, 1⟩]⟩,
  -- INL_KB (R137)
  ⟨0x1045, true, 0x00000000, [⟨31, 0, .rw, 1⟩]⟩,
  -- VDIV (R137)
  ⟨0x1046, true, 0x00400040, [⟨31, 16, .rw, 1⟩, ⟨15, 0, .rw, 1⟩]⟩,
  -- PSEQ (R137)
  ⟨0x1047, false, 0x07FAC688, [⟨26, 24, .rw, 0⟩, ⟨2, 0, .rw, 0⟩, ⟨5, 3, .rw, 0⟩, ⟨8, 6, .rw, 0⟩, ⟨11, 9, .rw, 0⟩, ⟨14, 12, .rw, 0⟩, ⟨17, 15, .rw, 0⟩, ⟨20, 18, .rw, 0⟩, ⟨23, 21, .rw, 0⟩]⟩]

/-- Registers XCHK_CFG–ZC_CFG of window 0x10. -/
def regRows10_3 : List RegRow := [
  -- XCHK_CFG (R137)
  ⟨0x1048, true, 0x32146447, [⟨31, 24, .rw, 1⟩, ⟨23, 16, .rw, 1⟩, ⟨15, 8, .rw, 1⟩, ⟨7, 4, .rw, 1⟩, ⟨3, 0, .rw, 1⟩]⟩,
  -- SNS_STAT (R137)
  ⟨0x1049, false, 0x00000000, [⟨26, 26, .ro, 3⟩, ⟨25, 24, .ro, 3⟩, ⟨23, 23, .ro, 3⟩, ⟨22, 22, .w1c, 0⟩, ⟨21, 21, .w1c, 0⟩, ⟨20, 20, .w1c, 0⟩, ⟨19, 19, .w1c, 0⟩, ⟨18, 18, .w1c, 0⟩, ⟨17, 17, .w1c, 0⟩, ⟨16, 16, .w1c, 0⟩, ⟨15, 8, .ro, 3⟩, ⟨3, 1, .ro, 3⟩, ⟨0, 0, .ro, 3⟩]⟩,
  -- SH_OFS (R137)
  ⟨0x104A, false, 0x00000000, [⟨15, 0, .ro, 3⟩]⟩,
  -- INL_OFS (R137)
  ⟨0x104B, true, 0x08000800, [⟨27, 16, .rw, 1⟩, ⟨11, 0, .rw, 1⟩]⟩,
  -- RAW_S (R137)
  ⟨0x104C, false, 0x00000000, [⟨29, 16, .ro, 3⟩, ⟨13, 0, .ro, 3⟩]⟩,
  -- RAW_P (R137)
  ⟨0x104D, false, 0x00000000, [⟨27, 16, .ro, 3⟩, ⟨10, 8, .ro, 3⟩, ⟨2, 0, .rw, 0⟩]⟩,
  -- COM_CTL (R199)
  ⟨0x1070, true, 0x00000400, [⟨19, 19, .wo, 0⟩, ⟨18, 16, .wo, 0⟩, ⟨11, 10, .rw, 0⟩, ⟨9, 6, .rw, 1⟩, ⟨4, 2, .rw, 1⟩, ⟨1, 0, .rw, 1⟩]⟩,
  -- COM_STAT (R199)
  ⟨0x1071, false, 0x00000000, [⟨25, 25, .w1c, 0⟩, ⟨24, 24, .w1c, 0⟩, ⟨23, 23, .w1c, 0⟩, ⟨22, 22, .w1c, 0⟩, ⟨21, 21, .w1c, 0⟩, ⟨20, 20, .w1c, 0⟩, ⟨19, 19, .w1c, 0⟩, ⟨18, 18, .w1c, 0⟩, ⟨17, 17, .w1c, 0⟩, ⟨16, 16, .w1c, 0⟩, ⟨10, 8, .ro, 3⟩, ⟨7, 5, .ro, 3⟩, ⟨4, 3, .ro, 3⟩, ⟨2, 0, .ro, 3⟩]⟩,
  -- LUFF_CFG (R199)
  ⟨0x1072, false, 0x00010700, [⟨30, 24, .rw, 0⟩, ⟨17, 16, .rw, 0⟩, ⟨13, 8, .rw, 0⟩, ⟨0, 0, .rw, 0⟩]⟩,
  -- HALL_CFG (R199)
  ⟨0x1073, true, 0x1001D850, [⟨31, 24, .rw, 1⟩, ⟨23, 19, .rw, 1⟩, ⟨17, 0, .rw, 1⟩]⟩,
  -- QUAD_CFG (R199)
  ⟨0x1074, true, 0x08000000, [⟨31, 24, .rw, 1⟩, ⟨21, 21, .rw, 1⟩, ⟨20, 16, .rw, 1⟩, ⟨15, 0, .rw, 1⟩]⟩,
  -- ZC_CFG (R199)
  ⟨0x1075, false, 0x08180700, [⟨29, 24, .rw, 0⟩, ⟨23, 16, .rw, 0⟩, ⟨10, 10, .rw, 0⟩, ⟨9, 8, .rw, 0⟩, ⟨5, 0, .rw, 0⟩]⟩]

/-- Registers VM_CTL–HAL_CFG of window 0x10. -/
def regRows10_4 : List RegRow := [
  -- VM_CTL (R199)
  ⟨0x1076, false, 0x0000FF01, [⟨15, 8, .rw, 0⟩, ⟨3, 3, .rw, 0⟩, ⟨2, 0, .rw, 0⟩]⟩,
  -- VM_VA (R199)
  ⟨0x1077, true, 0x00000000, [⟨31, 0, .rw, 0⟩]⟩,
  -- VM_VB (R199)
  ⟨0x1078, true, 0x00000000, [⟨31, 0, .rw, 0⟩]⟩,
  -- INJ_CFG (R199)
  ⟨0x1079, false, 0x25000064, [⟨31, 31, .rw, 0⟩, ⟨30, 29, .rw, 0⟩, ⟨28, 28, .rw, 0⟩, ⟨27, 24, .rw, 0⟩, ⟨15, 0, .rw, 0⟩]⟩,
  -- AT_CFG (R199)
  ⟨0x107A, false, 0x8607D03C, [⟨31, 28, .rw, 0⟩, ⟨27, 24, .rw, 0⟩, ⟨23, 12, .rw, 0⟩, ⟨11, 0, .rw, 0⟩]⟩,
  -- HND_CFG (R199)
  ⟨0x107B, false, 0x019000C8, [⟨31, 16, .rw, 0⟩, ⟨15, 0, .rw, 0⟩]⟩,
  -- SEQ_CMD (R230)
  ⟨0x1090, true, 0x00000000, [⟨5, 4, .wo, 0⟩, ⟨2, 0, .wo, 0⟩]⟩,
  -- SEQ_STAT (R230)
  ⟨0x1091, false, 0x00000700, [⟨27, 27, .w1c, 0⟩, ⟨26, 26, .w1c, 0⟩, ⟨25, 25, .w1c, 0⟩, ⟨24, 24, .w1c, 0⟩, ⟨23, 23, .w1c, 0⟩, ⟨22, 20, .ro, 3⟩, ⟨19, 16, .ro, 3⟩, ⟨10, 8, .ro, 3⟩, ⟨3, 0, .ro, 3⟩]⟩,
  -- SEQ_CFG (R230)
  ⟨0x1092, false, 0x14644032, [⟨31, 24, .rw, 0⟩, ⟨23, 16, .rw, 0⟩, ⟨15, 12, .rw, 0⟩, ⟨7, 0, .rw, 0⟩]⟩,
  -- CATCH_CFG (R230)
  ⟨0x1093, true, 0x03E80282, [⟨31, 16, .rw, 1⟩, ⟨15, 4, .rw, 1⟩, ⟨3, 0, .rw, 1⟩]⟩,
  -- BRK_CFG (R230)
  ⟨0x1094, true, 0x01F40810, [⟨31, 16, .rw, 1⟩, ⟨15, 8, .rw, 1⟩, ⟨7, 0, .rw, 1⟩]⟩,
  -- HAL_CFG (R230)
  ⟨0x1095, false, 0x00000000, [⟨31, 31, .rw, 0⟩, ⟨27, 26, .rw, 0⟩, ⟨15, 0, .rw, 0⟩]⟩]

/-- Registers HAL_LIM–BUS_CFG of window 0x10. -/
def regRows10_5 : List RegRow := [
  -- HAL_LIM (R230)
  ⟨0x1096, true, 0x03E803E8, [⟨31, 16, .rw, 1⟩, ⟨15, 0, .rw, 1⟩]⟩,
  -- CMD_CFG (R230)
  ⟨0x1097, false, 0x00000000, [⟨31, 30, .rw, 0⟩, ⟨27, 24, .rw, 0⟩, ⟨23, 22, .rw, 0⟩]⟩,
  -- CMD_LOSS (R230)
  ⟨0x1098, true, 0x08EC0064, [⟨31, 24, .rw, 1⟩, ⟨23, 16, .rw, 1⟩, ⟨15, 0, .rw, 1⟩]⟩,
  -- STALL_CFG (R230)
  ⟨0x1099, false, 0x0C40A180, [⟨31, 28, .rw, 0⟩, ⟨27, 24, .rw, 0⟩, ⟨23, 20, .rw, 0⟩, ⟨19, 12, .rw, 0⟩, ⟨11, 6, .rw, 0⟩]⟩,
  -- SHR_CTL (R359)
  ⟨0x10B0, true, 0xE0700000, [⟨31, 31, .rw, 1⟩, ⟨30, 30, .rw, 1⟩, ⟨29, 29, .rw, 1⟩, ⟨28, 28, .rw, 1⟩, ⟨27, 27, .rw, 1⟩, ⟨26, 25, .rw, 1⟩, ⟨24, 24, .rw, 1⟩, ⟨23, 23, .rw, 1⟩, ⟨22, 22, .rw, 1⟩, ⟨21, 20, .rw, 1⟩, ⟨19, 19, .rw, 1⟩]⟩,
  -- SHR_OC (R359)
  ⟨0x10B1, true, 0x03E803E8, [⟨25, 16, .rw, 1⟩, ⟨9, 0, .rw, 1⟩]⟩,
  -- SHR_CBC (R359)
  ⟨0x10B2, true, 0x00000010, [⟨7, 0, .rw, 1⟩]⟩,
  -- SHR_STAT (R359)
  ⟨0x10B3, false, 0x00000000, [⟨31, 31, .ro, 3⟩, ⟨30, 30, .ro, 3⟩, ⟨29, 29, .ro, 3⟩, ⟨28, 28, .ro, 3⟩, ⟨27, 27, .w1c, 0⟩, ⟨26, 26, .ro, 3⟩, ⟨25, 25, .ro, 3⟩, ⟨24, 24, .ro, 3⟩, ⟨23, 22, .ro, 3⟩, ⟨21, 21, .ro, 3⟩, ⟨20, 20, .ro, 3⟩, ⟨19, 19, .ro, 3⟩, ⟨18, 18, .w1c, 0⟩, ⟨17, 17, .w1c, 0⟩, ⟨16, 16, .ro, 3⟩, ⟨15, 8, .ro, 3⟩, ⟨7, 7, .w1c, 0⟩]⟩,
  -- SHR_CMD (R359)
  ⟨0x10B4, true, 0x00000000, [⟨1, 1, .wo, 0⟩, ⟨0, 0, .wo, 0⟩]⟩,
  -- SHR_CNT (R359)
  ⟨0x10B5, false, 0x00000000, [⟨31, 16, .ro, 3⟩, ⟨15, 0, .rc, 3⟩]⟩,
  -- SHR_TIME (R359)
  ⟨0x10B6, false, 0x00000000, [⟨31, 30, .ro, 3⟩, ⟨29, 0, .ro, 3⟩]⟩,
  -- BUS_CFG (R359)
  ⟨0x10B7, true, 0x00000000, [⟨31, 31, .rw, 1⟩, ⟨30, 30, .rw, 1⟩, ⟨3, 3, .ro, 3⟩, ⟨2, 0, .ro, 3⟩]⟩]

/-- Every register of the device and of one mast (R38: 192 + 72). -/
def regRows : List RegRow :=
  regRows00_0 ++ regRows00_1 ++ regRows01_0 ++ regRows02_0 ++ regRows02_1 ++ regRows03_0 ++ regRows03_1 ++ regRows04_0 ++ regRows04_1 ++ regRows05_0 ++ regRows05_1 ++ regRows06_0 ++ regRows06_1 ++ regRows07_0 ++ regRows08_0 ++ regRows08_1 ++ regRows09_0 ++ regRows09_1 ++ regRows0A_0 ++ regRows0B_0 ++ regRows0B_1 ++ regRows0C_0 ++ regRows0D_0 ++ regRows10_0 ++ regRows10_1 ++ regRows10_2 ++ regRows10_3 ++ regRows10_4 ++ regRows10_5

/-- The row of an address; none where the offset is not implemented (R39). -/
def findRow : List RegRow → Nat → Option RegRow
  | [], _ => none
  | r :: rs, a => if a = r.addr then some r else findRow rs a

/-- The row of an address of window 0x00–0x0F or of mast 0's window. -/
def regRow (a : Nat) : Option RegRow := findRow regRows a

/-- The bits of a register whose field has an access code among those `p` accepts and a role at most `role`. -/
def fieldMask (p : Acc → Nat → Bool) : List FieldRow → Word
  | [] => 0#32
  | f :: fs => (if p f.acc f.role then maskOf f.hi f.lo else 0#32) ||| fieldMask p fs

/-- Bits that a write of 1 clears. -/
def w1cMask (r : RegRow) : Word := fieldMask (fun a _ => a == .w1c) r.fields
/-- Bits that a read takes (RC). -/
def rcMask (r : RegRow) : Word := fieldMask (fun a _ => a == .rc) r.fields
/-- Bits that read as 0 (WO). -/
def woMask (r : RegRow) : Word := fieldMask (fun a _ => a == .wo) r.fields

end Sys2Proof.Machine
end

