-- ==== Sys2Proof/Config.lean ====
section
/-! DEFINITION. Config.lean: what a die fixes and the free values, each a constant without a body: no proof can see which value it is. -/

namespace Sys2Proof.Config

/-- The unique die number of UID0 and UID1 (R45, per die). Free value, log entry 5. -/
opaque uid : BitVec 64
/-- Sine of a finite operand within the accuracy of R298. Free value, log entry 4. -/
opaque sinFree : Word → Word
/-- Cosine of a finite operand within the accuracy of R298. Free value, log entry 4. -/
opaque cosFree : Word → Word
/-- The four-quadrant arctangent of (y, x) within the accuracy of R298. Free value, log entry 4. -/
opaque atan2Free : Word → Word → Word
/-- The two outputs of a rotation of (a, b) by θ, by INV and by output (false the first), within the accuracy of R298. Free value, log entry 4. -/
opaque rotFree : Bool → Bool → Word → Word → Word → Word
/-- The reduction of an angle to (−π, +π], within 1 ulp (R298). Free value, log entry 4. -/
opaque wrapFree : Word → Word

/-- Factory offset of the shunt amplifier of a mast at a GAIN code, codes with 2 fraction bits (R119, SH_OFS reset). Free value, log entry 6. -/
opaque shOfsFactory : Nat → Nat → BitVec 16
/-- Factory gain and offset trim of ADC-S of a mast at a GAIN code (R100). Free value, log entry 6. -/
opaque trimS : Nat → Nat → Int → Int
/-- Factory gain and offset trim of ADC-P of a mast on a channel (R100). Free value, log entry 6. -/
opaque trimP : Nat → Nat → Nat → Int

/-- Whether a comparator of a mast (0 OC_POS, 1 OC_NEG) is asserted at an instant at which its threshold settles between codes that decide differently
(R327). Free value, log entry 85. -/
opaque ocSettling : Nat → Nat → Nat → Bool

/-- The tracker's natural frequency in TRACK, for the settings WN_LO and WN_HI; R192 names it for the other states only. Free value, log entry 19. -/
opaque wnTrack : Nat → Nat → Word

/-- The receive timing margin LK_PORT.EYE a port's receiver measures, at an instant (R453 names the field, not its value). Free value, log entry 26. -/
opaque linkEye : Nat → Nat → BitVec 8

/-- How long a TIME frame waits at a transmitter until its SOF passes the package ball, in taps: by port and by the instant it was handed over (R436, R459).
Free value, log entry 29. -/
opaque sofDelay : Nat → Nat → Nat

/-- The factory constants of on-die sensor n (R397): T_TRIM and K_TS in 2^−20 °C and 2^−20 °C per count, C_TRIM. Free values, log entry 32. -/
opaque tsTrim : Nat → Int
opaque tsSlope : Nat → Int
opaque tsCount : Nat → Nat
/-- The temperature of a diode on remote channel n at a code, 0.0625 °C, without OFS (R398). Free value, log entry 32. -/
opaque teDiode : Nat → Nat → Int
/-- The input of remote channel n under drive at a code, in µV (R398, R408). Free value, log entry 32. -/
opaque teMicroV : Nat → Nat → Nat
/-- The trim code the fast calibration leaves in a line: global leg, high line or low (R62). Free value, log entry 33. -/
opaque fastTrim : Nat → Bool → BitVec 8
/-- What an aborted program pulse or erase leaves in a word of the store: instant of the abort, word (R416, R572). Free value, log entry 36. -/
opaque stAborted : Nat → Nat → Word
/-- The words of the internal random generator's nonce, by the number of the draw (R541). Free value, log entry 37. -/
opaque nonce : Nat → BitVec 128

/-- How far ROSC measures above 18 MHz against the reference, kHz, by instant; R564 bounds the frequency by 20 MHz ±10 %. Free value, log entry 42. -/
opaque roscOver : Nat → Fin 4001

end Sys2Proof.Config
end

