-- ==== Sys2Proof/Machine/State.lean ====
section
/-! DEFINITION. Machine/State.lean: every piece of state the manual gives the SV6480, as plain data, and the machine right after reset. -/

namespace Sys2Proof.Machine

/-- Why a step stops with a fault. No command does: every row of the table has an effect the manual gives. -/
inductive Fault where
  /-- Raised by nothing. Safe: kept so that the type is not empty. -/
  | none_
  deriving DecidableEq, Repr

/-- Why a command is refused by the model. -/
inductive Refusal where
  /-- Raised by an arm of exec whose command has no meaning yet. Safe: the model stops where the part goes on. -/
  | notModelled (mnemonic : String)
  deriving DecidableEq, Repr

/-- The four parts of the family (R1). -/
inductive Variant where
  | sv6480 | sv6460 | sv6440 | sv6420
  deriving DecidableEq, Repr

/-! ### Legs and the PWM generator (ch. 2) -/

/-- The staged values of one leg (R71). -/
structure LegSet where
  a : Nat := 0
  b : Nat := 0
  dtr : Nat := 0x3C00
  dtf : Nat := 0x3C00
  minp : Nat := 48
  deriving DecidableEq, Repr

/-- A whole staging set (R71): it loads and travels as one. -/
structure PwmSet where
  legs : Vector LegSet 4 := Vector.replicate 4 {}
  period : Nat := 6000
  deriving DecidableEq, Repr

/-- A commit: its values, the instant it completes, the sheet it carries, its tag and due boundary (R22–R24, R72); the SPARCLK cycle it was
made in and the rank of its maker there, as of the writers of signals (R72, R316). -/
structure Commit where
  set : PwmSet
  doneAt : Nat
  sheet : Option Nat := none
  tag : Nat := 0
  due : Nat := 0
  /-- The synchronising vector of a catch, loaded whatever else is due (R211). -/
  sync : Bool := false
  cyc : Nat := 0
  rank : Nat := 0
  deriving DecidableEq, Repr

/-- The outcome of the case table for one leg over one period (R68): instants in taps from the boundary. -/
inductive LegPlan where
  /-- Both gates off (UNUSED, FLOAT, row 3, not enabled). -/
  | off
  /-- 0 %: low gate on throughout (row 1). -/
  | low
  /-- 100 %: high gate on throughout (row 2). -/
  | high
  /-- REF high from `rise` to `fall`; the dead times in force. -/
  | pulse (rise fall : Int) (dtr dtf : Nat)
  deriving DecidableEq, Repr

/-- What the window planner made for a period (R102–R110). -/
structure Plan where
  active : Bool := false
  ok : Bool := false
  /-- Included legs in fall order. -/
  order : List Nat := []
  /-- Sampling instants, taps from the boundary: the two of ADC-S and the ADC-P start. -/
  s1At : Nat := 0
  s2At : Nat := 0
  pAt : Nat := 0
  /-- The offset sample's instant, where one is placed (R116). -/
  ofsAt : Option Nat := none
  deriving DecidableEq, Repr

/-- The PWM generator of one mast. -/
structure Pwm where
  /-- The counter runs (R48); `bNext` and `bPrev` are the next and the last boundary, in taps of absolute time. -/
  counting : Bool := false
  bPrev : Nat := 0
  bNext : Nat := 0
  /-- Number of the boundary at `bNext`. -/
  k : Nat := 0
  /-- Length of the present period, trim included (R49, R87). -/
  tLen : Nat := 0
  /-- Active compares, dead times, MINP and PERIOD. -/
  act : PwmSet := {}
  /-- Commits whatever their tag, oldest first: the latest complete one and those after it (R52). -/
  hist : List Commit := []
  /-- Tagged commits of the two most recent tags, oldest first; of one tag the latest complete one and those after it (R23, R73). -/
  shadow : List Commit := []
  /-- Untagged commits in the same way (R24, R73). -/
  untag : List Commit := []
  /-- Triggered sets and the boundary their commit is due at (R25). -/
  dueSets : List (Nat × Nat) := []
  /-- Active sheet mask (R79). -/
  sheet : Nat := 0x55
  /-- Step events waiting for a boundary, oldest first: the step (6: all PASS, vector drive) and the instant of arrival (R81). -/
  stepPend : List (Nat × Nat) := []
  /-- Outcomes of the four legs in this period, and whether REF was high just before it (R59). -/
  plans : Vector LegPlan 4 := Vector.replicate 4 .low
  refWas : Vector Bool 4 := Vector.replicate 4 false
  /-- AUXT channels whose instant has passed in this period, bit 4 the offset sample (R82, R116). -/
  fired : Nat := 0
  /-- Releases since LOOP_CFG.LEN became 1 (R76). -/
  relCount : Nat := 0
  /-- Consecutive boundaries within 2 taps of the grid, and the lock (R88). -/
  anchRun : Nat := 0
  anchLock : Bool := false
  /-- Gates as they stood when the composition of R77 last changed, bit 2l the low gate of leg l, bit 2l+1 its high gate, and the instant (R78). -/
  gateWas : Nat := 0
  gateChg : Nat := 0
  /-- The instant each gate was last on, as known when the composition last changed: 2l the low gate of leg l, 2l+1 its high gate (R78). -/
  offAt : Vector Nat 8 := Vector.replicate 8 0
  /-- The latest gate edge of each leg up to `gateChg`, for blanking windows (R84). -/
  lastEdge : Vector Nat 4 := Vector.replicate 4 0
  /-- Gate edges of the step in force in step drive, up to `gateChg`, newest first: leg and instant (R84, R164). -/
  stepEdges : List (Nat × Nat) := []
  deriving DecidableEq, Repr

/-! ### Sensing (ch. 3) -/

/-- A conversion of ADC-S in progress. -/
structure ConvS where
  startAt : Nat
  setNo : Nat
  /-- none: the offset sample; some i: the i-th conversion of its period. -/
  idx : Option Nat
  deriving DecidableEq, Repr

/-- A sequence of ADC-P in progress: its start, set number, the PSEQ word it runs, and the slot being converted. -/
structure ConvP where
  startAt : Nat
  setNo : Nat
  pseq : Word
  slot : Nat
  deriving DecidableEq, Repr

/-- The samples and conditions of one period, until its set is released (R132). -/
structure Cap where
  k : Nat := 0
  b0 : Nat := 0
  tLen : Nat := 0
  /-- The in-line path feeds this period's currents (R121), and why. -/
  inline : Bool := false
  reason : Nat := 0
  plan : Plan := {}
  /-- ADC-S conversions started other than the offset sample, and the codes of the first two. -/
  nS : Nat := 0
  s1 : Option Int := none
  s2 : Option Int := none
  t1 : Nat := 0
  t2 : Nat := 0
  /-- Whether a sequence was started in this period, the instant of its request, its start, and (slot, channel, raw code) of its slots. -/
  pStarted : Bool := false
  pReqAt : Nat := 0
  pAt : Nat := 0
  pSlots : List (Nat × Nat × Nat) := []
  /-- Conversions of the set accepted and not yet done. -/
  busy : Nat := 0
  /-- Legs U, V, W were off at its boundary, and the in-line path barred. -/
  off : Bool := false
  barred : Bool := false
  /-- Causes of an invalid shunt (R136): mask change or cut, saturation, a lost start. -/
  changed : Bool := false
  sat : Bool := false
  lost : Bool := false
  /-- Duties applied in the period (R93) and V_BUS at its boundary, for the vector of R174. -/
  dU : Word := 0#32
  dV : Word := 0#32
  dW : Word := 0#32
  vbus : Word := 0#32
  /-- Chips of the period's two halves, as −1, 0, +1 (R179). -/
  chipA : Int := 0
  chipB : Int := 0
  open_ : Bool := false
  deriving DecidableEq, Repr

/-- The sensing unit of one mast. -/
structure Sense where
  adcS : Option ConvS := none
  sHeld : Option ConvS := none
  adcP : Option ConvP := none
  pHeld : Option ConvP := none
  /-- The instant of the latest ADC-S start request (R83). -/
  lastStart : Nat := 0
  /-- The present period's samples, and the period's before it while its set is not yet released. -/
  cap : Cap := {}
  capOld : Option Cap := none
  /-- Whether the present period's set has been released. -/
  released : Bool := true
  /-- SH_OFS less the factory offset of the gain in use, in 2^−16 of a code (R117, R119). -/
  ofsDelta : Int := 0
  /-- Raw codes of the last released set, and its ADC-P slots (R137). -/
  rawS1 : Nat := 0
  rawS2 : Nat := 0
  rawP : List (Nat × Nat × Nat) := []
  /-- Path decision in force (R121), and the one taken for the period to come (R123). -/
  inline : Bool := false
  reason : Nat := 0
  pathNext : Option (Bool × Nat) := none
  recovery : Bool := false
  planOk : Bool := false
  planOkRun : Nat := 0
  /-- At the present boundary 16 periods with PLAN_OK had gone before (R122). -/
  recEnd : Bool := false
  /-- Consecutive periods with SHUNT_VALID = 0 counted for R122. -/
  recInv : Nat := 0
  /-- The sheet changed inside the 8 cycles before the coming boundary (R111). -/
  chgNext : Bool := false
  /-- Consecutive periods with SHUNT_VALID = 0, unsaturated (R115, R134). -/
  invRun : Nat := 0
  /-- Sets for which the third row of R134 has held without a break. -/
  invHold : Nat := 0
  /-- Runs behind the rows of R134. -/
  ofsRejRun : Nat := 0
  ofsDevRun : Nat := 0
  inlBadRun : Nat := 0
  refBadRun : Nat := 0
  refGoodRun : Nat := 0
  refBad : Bool := false
  inlOfsBad : Nat := 0
  ivBadRun : Nat := 0
  /-- Cross-check (R126–R129): periods since the interval began, the test in progress, its sums, results. -/
  xPeriods : Nat := 0
  xRun : Option Nat := none
  xN : Nat := 0
  xIs : Word := 0#32
  xIi : Word := 0#32
  xA : Word := 0#32
  xA2 : Word := 0#32
  xB : Word := 0#32
  xB2 : Word := 0#32
  xRes : Nat := 0
  /-- K of the last completed test, shown from the next release on (R21, R127). -/
  xK : Word := 0#32
  xFails : Nat := 0
  xForceFail : Bool := false
  /-- The gains the host last wrote (R129). -/
  hostKA : Word := 0#32
  hostKB : Word := 0#32
  hostXG : Nat := 0x8000
  /-- Fine parts of the in-line offsets, in 2^−16 of a code (R120). -/
  inlA : Int := 2048 * 65536
  inlB : Int := 2048 * 65536
  /-- The last valid V_BUS (R170). -/
  lastVbus : Word := 0#32
  /-- The in-line bar, in force and from the next boundary on, and row 5 of R121; an effect an event without a pending record began, which
  lasts until ACK_ALL or a mast block reset (R135, R385). -/
  inlBar : Bool := false
  inlBarNext : Bool := false
  inlBarFree : Bool := false
  shuntBad : Bool := false
  shuntBadFree : Bool := false
  deriving DecidableEq, Repr

/-! ### Commutation (ch. 4) -/

/-- Estimator states (R191), in the order of EST_STATE. -/
inductive Est where
  | idle | polarity | low | blend | high | lost | track
  deriving DecidableEq, Repr

/-- A luff transfer in progress (R151). -/
structure Luff where
  n : Nat
  i : Nat
  fromS : Nat
  toS : Nat
  deriving DecidableEq, Repr

/-- Phases of the polarity sequence (R183). -/
inductive PolPhase where
  | settle | plus | zero1 | minus | zero2
  deriving DecidableEq, Repr

/-- The polarity sequence. -/
structure Pol where
  phase : PolPhase := .settle
  good : Nat := 0
  wins : Nat := 0
  n : Nat := 0
  nPlus : Nat := 0
  iPlus : Word := 0#32
  nMinus : Nat := 0
  iMinus : Word := 0#32
  second : Bool := false
  deriving DecidableEq, Repr

/-- The commutation unit of one mast. -/
structure Com where
  /-- The staging set is of VECTOR kind (R169). -/
  kindVec : Bool := false
  step : Nat := 0
  sector : Nat := 0
  /-- Drive in force (R140): 0 none, 1 vector, 2 step. -/
  drive : Nat := 0
  /-- An event of the present drive has named a step (R141). -/
  stepHeld : Bool := false
  /-- Table direction reverse (R145). -/
  rev : Bool := false
  luff : Option Luff := none
  /-- Hall decoder (R156–R159). -/
  hallCode : Nat := 0
  hallSec : Option Nat := none
  /-- Sector of the latest legal code, decoded or not (R158). -/
  hallRef : Option Nat := none
  /-- R159 has zeroed the speed since the last accepted change. -/
  hallStill : Bool := false
  hallNo : Nat := 0
  hallErrs : List Nat := []
  hallIllegal : Option Nat := none
  hallLast : Nat := 0
  /-- Encoder (R160–R162). -/
  quadPos : Nat := 0
  quadAB : Nat := 0
  /-- The edges of the sets not yet released, newest first: the instant, and the position before it (R162). -/
  quadHist : List (Nat × Nat) := []
  /-- The level of Z the input filter has accepted (R156, R161). -/
  quadZ : Bool := false
  quadErrs : List Nat := []
  /-- Zero crossing (R164–R168), instants in taps. -/
  zcLast : Option Nat := none
  zcPrevInt : Option Nat := none
  /-- The latest accepted crossing or forced step, where an interval begins, and whether it was forced (R165). -/
  zcRef : Option (Nat × Bool) := none
  stepT : Nat := 0
  missRun : Nat := 0
  zcGood : Nat := 0
  zcSteer : Bool := false
  zcNext : Option Nat := none
  /-- The instant of the last step event (R167), of the step mask in force, and the 8-cycle instant of the latest evaluation of the advanced angle, by
  its number since reset (R148). -/
  evAt : Nat := 0
  floatAt : Nat := 0
  advNo : Nat := 0
  /-- Injection generator and correlator (R176–R182). -/
  lfsr : Nat := 0
  chipPrev : Int := 0
  effChip : Int := 0
  cD : Word := 0#32
  cQ : Word := 0#32
  cN : Nat := 0
  cCnt : Nat := 0
  iaPrev : Word := 0#32
  ibPrev : Word := 0#32
  /-- The latest released set was correlated. -/
  corrRun : Bool := false
  /-- The latest valid ε, and the latest of all (R193, R197). -/
  eps : Word := 0#32
  epsLast : Word := 0#32
  cdOut : Word := 0#32
  epsOk : Bool := false
  epsSw : Option Word := none
  /-- Consecutive invalid windows and observer measurements (R194). -/
  winBad : Nat := 0
  obsBad : Nat := 0
  obsOk : Bool := false
  pol : Pol := {}
  polResult : Nat := 0
  /-- Flux observer (R185). -/
  psiA : Word := 0#32
  psiB : Word := 0#32
  epsObs : Word := 0#32
  psiAf : Word := 0#32
  /-- Angle tracker (R187): θ̂, ω̂, the instant of its latest update and of its latest measurement. -/
  theta : Word := 0#32
  omega : Word := 0#32
  trkAt : Nat := 0
  measAt : Nat := 0
  est : Est := .idle
  /-- A preset with ASRC = NONE makes θ̂ propagate (R190, R191). -/
  presetNone : Bool := false
  /-- ESTIMATOR raised by a sensor since the last start (R191, TRACK). -/
  sensorBad : Bool := false
  /-- Forced angle (R213). -/
  thetaF : Word := 0#32
  vmSat : Bool := false
  deriving DecidableEq, Repr

/-! ### Start sequencer, halyard, command pin (ch. 5) -/

/-- Sequencer states (R200). -/
inductive SeqSt where
  | off | listen | brake | align | polarity | sync | run | stopping | hold | fault
  deriving DecidableEq, Repr

/-- Sequencer requests (R201): STOP with its mode (0 COAST, 1 RAMP, 2 BRAKE, 3 HOLD). -/
inductive SeqReq where
  | start | stop (mode : Nat) | clear
  deriving DecidableEq, Repr

/-- Why a brake runs (R209). -/
inductive Purpose where
  | reverse | alias_ | overspeed | stop
  deriving DecidableEq, Repr

/-- The start sequencer of one mast. -/
structure Seq where
  st : SeqSt := .off
  /-- Output enable of legs U, V, W (level 3 of R77). -/
  outEn : Bool := false
  /-- Legs U, V, W held LOW by a braking pulse (R208). -/
  brakeLow : Bool := false
  /-- Requests waiting for a boundary, or with a stopped timebase for the next cycle, oldest first, and the SPARCLK cycle each was taken in (R201, R204). -/
  reqs : List (SeqReq × Nat) := []
  /-- What fault reactions command at the next boundary (R203): FAULT with the outputs off; a ramp that ends in FAULT. -/
  pendFault : Bool := false
  pendRamp : Bool := false
  /-- The state an event or a decision leads to at the next boundary; of a BRAKE that it is over, of a STOPPING `hold` that the ramp is complete and
  `off` that its time is over. -/
  goto : Option SeqSt := none
  /-- The number of the boundary the present state was entered at, and the state before it. -/
  enterK : Nat := 0
  prevSt : SeqSt := .off
  /-- LISTEN: its sets, those released, its valid samples newest first (set index, phase, magnitude, instant), the repeat, the outcome. -/
  nL : Nat := 0
  lsnCnt : Nat := 0
  samples : List (Nat × Word × Word × Nat) := []
  repeated : Bool := false
  outcome : Nat := 7
  omegaL : Word := 0#32
  thetaL : Word := 0#32
  emfL : Word := 0#32
  thetaAt : Nat := 0
  /-- BRAKE: purpose, a recorded START, FAULT at its end (also of STOPPING), pulse or pause, periods begun in it, entries of this start. -/
  purpose : Purpose := .stop
  startRec : Bool := false
  /-- The BRAKE was started by a stop, not by LISTEN (R202). -/
  byStop : Bool := false
  endFault : Bool := false
  pulse : Bool := false
  cnt : Nat := 0
  tries : Nat := 0
  pulseCut : Bool := false
  lastE : Word := 0#32
  /-- STOPPING: its mode, end in FAULT, start; ALIGN: its start. -/
  mode : Nat := 0
  since : Nat := 0
  /-- RUN entered at (R227), and the last STALL. -/
  runAt : Nat := 0
  refWhy : Nat := 0
  /-- ASC held for a STOP_ASC reaction until the sequencer leaves FAULT (R373). -/
  ascHold : Bool := false
  deriving DecidableEq, Repr

/-- Halyard states (R229). -/
inductive HalSt where
  | atTarget | ramping | dwell | jam | frozen
  deriving DecidableEq, Repr

/-- The halyard of one mast, with its stall and jam detection. -/
structure Hal where
  st : HalSt := .frozen
  spd : Word := 0#32
  acc : Word := 0#32
  trq : Word := 0#32
  /-- Tack dwell: its start and the direction before it (R218). -/
  dwellAt : Nat := 0
  wasNeg : Bool := false
  /-- Written targets of the previous updating release (R217). -/
  lastSpd : Option Word := none
  lastTrq : Option Word := none
  jamCount : Nat := 0
  jamOn : Bool := false
  jamHold : Option Nat := none
  jamTgt : Word := 0#32
  stallAt : Option Nat := none
  stallEvAt : Nat := 0
  loadAvg : Word := 0#32
  deriving DecidableEq, Repr

/-- The command pin of one mast (R223–R225). -/
structure CmdPin where
  /-- The pin's synchronised level (R223, R534). -/
  lvl : Bool := false
  valid : Bool := false
  /-- Measurements for the mean, newest first. -/
  hist : List Word := []
  /-- The value of the latest in-range measurement, whether the latest one was in range, and the instant rising edges are awaited from. -/
  lastGood : Word := 0#32
  good : Bool := false
  since : Nat := 0
  riseAt : Option Nat := none
  fallAt : Option Nat := none
  goodRun : Nat := 0
  badAt : Option Nat := none
  lost : Bool := false
  deriving DecidableEq, Repr

/-! ### The shroud (ch. 8) -/

/-- The shroud of one mast. -/
structure Shroud where
  ocp : Bool := false
  ocn : Bool := false
  trip : Bool := false
  tripLvl : Bool := false
  /-- The shunt amplifier's output in µV; the words of SHR_OC that later ones have replaced, and when, until the thresholds have settled (R326, R327). -/
  amp : Int := 0
  ocOlds : List (Word × Nat) := []
  /-- Comparators that are asserted, OC_POS in bit 0 and OC_NEG in bit 1 (R602). -/
  ocOn : Nat := 0
  /-- The instant of this period's first cut and the comparators that made it: bit 0 OC_POS, bit 1 OC_NEG (R335, R336). -/
  cutAt : Option Nat := none
  cutBy : Nat := 0
  /-- The legs whose REF it forces low: those of U, V, W in PASS (R335). -/
  cutLegs : Nat := 0
  cbcRun : Nat := 0
  src : Nat := 0
  ns : Nat := 0
  latchAt : Nat := 0
  testAt : Option Nat := none
  testOk : Bool := false
  /-- The safe state in force (R341, R342): 0 none, 1 OFF, 2 ASC; leg X held by a trip routed to it (R342, R343). -/
  safe : Nat := 0
  safeX : Bool := false
  /-- The chopper of leg X declared failed, and failed by an event without a pending record (R352, R385). -/
  chopFailed : Bool := false
  chopFree : Bool := false
  /-- Leg X as a chopper: on now, on since, time on in this period (R93, R353). -/
  chopOn : Bool := false
  chopAcc : Nat := 0
  chopSince : Nat := 0
  deriving DecidableEq, Repr

/-- One mast. -/
structure Mast where
  pwm : Pwm := {}
  sense : Sense := {}
  com : Com := {}
  seq : Seq := {}
  hal : Hal := {}
  cmd : CmdPin := {}
  shr : Shroud := {}
  /-- Boundaries since device reset (R368). -/
  bCount : Nat := 0
  /-- A mast block reset in progress: its start, and a START at its end (R392). -/
  resetAt : Option Nat := none
  restart : Bool := false
  /-- Delay lines of the four legs, high and low (R61–R64): trim codes, last decisions, alternations seen, validity. -/
  trimH : Vector Nat 4 := Vector.replicate 4 0x80
  trimL : Vector Nat 4 := Vector.replicate 4 0x80
  pdLast : Vector Nat 4 := Vector.replicate 4 0
  pdAlt : Vector Nat 4 := Vector.replicate 4 0
  calValid : Vector Bool 4 := Vector.replicate 4 false
  deriving DecidableEq, Repr

/-- Bus group states (R355). -/
inductive BgSt where
  | disabled | normal | refuse | safe
  deriving DecidableEq, Repr

/-- One bus group (R348–R358). -/
structure BusGroup where
  st : BgSt := .disabled
  over1 : Bool := false
  over2 : Bool := false
  under : Bool := false
  /-- The active chopper's mast while it is on, the V_BG that turned it on, and when. -/
  act : Option Nat := none
  chopOn : Bool := false
  vOn : Word := 0#32
  onAt : Nat := 0
  checked : Bool := false
  /-- Start of the count of R357, the latest V_BG where one was made since EN. -/
  clearAt : Nat := 0
  vbg : Option Word := none
  deriving DecidableEq, Repr

/-- Furl (R344–R347). -/
structure Furl where
  furled : Bool := false
  causes : Nat := 0
  pinLow : Bool := false
  deriving DecidableEq, Repr

/-! ### The fault collector (ch. 9) -/

/-- An event delivered to the collector (R362): source, detail, named mast, whether it is marked (R365). -/
structure Ev where
  src : Nat
  detail : Nat
  mast : Option Nat := none
  marked : Bool := false
  deriving DecidableEq, Repr

/-- A fault record (R387). -/
structure Rec where
  seq : Nat := 0
  sec : Nat := 0
  ns : Nat := 0
  detail : Nat := 0
  esc : Bool := false
  mast : Option Nat := none
  react : Nat := 0
  bsev : Nat := 0
  sev : Nat := 0
  src : Nat := 0
  conseq : Bool := false
  acked : Bool := false
  isRead : Bool := false
  deriving DecidableEq, Repr

/-- An open wake (R379): reaction, its mast (none: every present mast), its end and its set. -/
structure Wake where
  react : Nat
  mast : Option Nat
  until_ : Nat
  kmask : Nat
  gmask : Nat
  deriving DecidableEq, Repr

/-- The fault collector. -/
structure Fc where
  events : List Ev := []
  /-- Newest sequence number; 0 none (R377). -/
  seq : Nat := 0
  /-- The on-chip log: (slot, record), at most one per slot (R388). -/
  log : List (Nat × Rec) := []
  pend : List Rec := []
  /-- A record found the pending table full and FC_PEND_FULL is due (R386). -/
  fullDue : Bool := false
  first : Option Rec := none
  /-- The snapshots a read of FC_FIRST0 and of FC_LOG0 took, the outer none before any or once ended (R388, R505). -/
  firstSnap : Option (Option Rec) := none
  logSnap : Option (Option Rec) := none
  /-- Counted events: (source, instant in taps, boundary number) (R368). -/
  stamps : List (Nat × Nat × Nat) := []
  /-- Source and bosun round of its last NOTE or WARN record (R370). -/
  lastRound : List (Nat × Nat) := []
  wakes : List Wake := []
  /-- Records waiting to be stored: in the queue, for a reserved slot (R389). -/
  queue : List (Rec × Word × Word) := []
  rsvQueue : List (Rec × Word × Word) := []
  lastStored : List (Nat × Nat) := []
  /-- A DEVICE_RESET reaction issued at this instant (R373). -/
  resetDue : Option Nat := none
  /-- SUPP counts per source (R370). -/
  supp : List (Nat × Nat) := []
  deriving DecidableEq, Repr

/-! ### The Aupel engine (ch. 6, 7) -/

/-- Flags of a context (R290). -/
structure Flags where
  z : Bool := false
  n : Bool := false
  c : Bool := false
  v : Bool := false
  u : Bool := false
  l : Bool := false
  deriving DecidableEq, Repr

/-- Context states (R233), in the order of their codes. -/
inductive CtxSt where
  | disabled | waiting | runnable | running | blocked | halted | faulted
  deriving DecidableEq, Repr

/-- What a blocked context waits for (R246, R286). -/
inductive Wait where
  /-- A signal access: its ID, the register of a read (none for a write), the value written or received, its start, whether a read's data has come. -/
  | access (sig : Nat) (reg : Option Nat) (val : Word) (since : Nat) (done : Bool)
  /-- A fetch miss of a line of the external window (R524). -/
  | fetch (line : Nat)
  /-- An instruction result ready at an instant. -/
  | result (at_ : Nat)
  /-- Issued END, the end of the activation's outstanding work (R288). -/
  | ending (at_ : Nat)
  deriving DecidableEq, Repr

/-- A trigger: its kind (0 FAULT … 7 DOORBELL) and its parameter words (R235, R320). -/
structure Trig where
  kind : Nat
  a : Nat := 0
  b : Nat := 0
  at_ : Nat := 0
  deriving DecidableEq, Repr

/-- One context. -/
structure Ctx where
  v : Vector Word 16 := Vector.replicate 16 0#32
  /-- The instant each register's latest result can be used, and the flags' (R286). -/
  rdy : Vector Nat 16 := Vector.replicate 16 0
  flRdy : Nat := 0
  /-- The end of the last outstanding work of the activation: cell operations, commits (R288). -/
  workEnd : Nat := 0
  pc : Nat := 0
  fl : Flags := {}
  st : CtxSt := .disabled
  lane : Option (Fin 4) := none
  /-- The lane it last ran on. -/
  ran : Fin 4 := 0
  /-- Pending triggers, at most one per kind (R236). -/
  pend : List Trig := []
  /-- The activation's trigger; none between activations. -/
  act : Option Trig := none
  /-- Whether the activation has begun (pc loaded). -/
  begun : Bool := false
  bank : Nat := 0
  /-- Class in force for this activation after DEMOTE (R243). -/
  demoted : Bool := false
  issues : Nat := 0
  lastIss : Nat := 0
  budgetHit : Bool := false
  /-- Issues since dispatch (R241), the instant the context became runnable, and whether its quantum's end made it so. -/
  qIss : Nat := 0
  since : Nat := 0
  spent : Bool := false
  runWait : Nat := 0
  wait : Option Wait := none
  haltReq : Bool := false
  stepping : Bool := false
  /-- The breakpoints it halted on, until it has issued another instruction (R275). -/
  bkSkip : List Nat := []
  /-- DISABLE waits for the access to end (R234). -/
  disableReq : Bool := false
  /-- SIGNAL_ACCESS already raised in this activation (R249). -/
  noted : Bool := false
  /-- Earliest next issue: the lane is taken until then. -/
  nextAt : Nat := 0
  /-- Number of its latest peer read, which the reply brings back (R247). -/
  reqNo : Nat := 0
  deriving DecidableEq, Repr

/-- One lane. -/
structure Lane where
  act : Bool := true
  flt : Bool := false
  ctx : Option Nat := none
  lastIssue : Nat := 0
  /-- The end of the ENGCLK cycles its latest instruction takes (R231). -/
  freeAt : Nat := 0
  /-- Issues in the present bosun round (R278). -/
  issued : Nat := 0
  load : Word := 0#32
  /-- LANE_EN cleared: out of service at the end of the activation of this context (R267). -/
  leaving : Option Nat := none
  testAt : Option Nat := none
  failed : Bool := false
  deriving DecidableEq, Repr

/-- The engine's shared state. -/
structure Eng where
  ctxs : Vector Ctx 64 := Vector.replicate 64 {}
  lanes : Vector Lane 4 := Vector.replicate 4 {}
  /-- Program banks and the fetched words of the external window: key bank × 2^18 + word. -/
  prog : Sparse := []
  tab : Sparse := []
  /-- Cell words: key 16 × cell + word. -/
  cells : Sparse := []
  /-- Cells whose next step presets first (R258), and cells that have seen an input since CLEAR. -/
  preset : List Nat := []
  seen : List Nat := []
  /-- The latest input of each cell, by cell (R258). -/
  lastIn : Sparse := []
  /-- Engine timers: the next trigger of each running timer. -/
  tmr : Vector (Option Nat) 8 := Vector.replicate 8 none
  /-- Crow's nest (R262–R264). -/
  trcRun : Bool := false
  trcFull : Bool := false
  trcTrig : Bool := false
  trcCount : Nat := 0
  /-- Test injection: n and the PRBS-9 register (R261). -/
  tinjN : Nat := 0
  tinjReg : Nat := 0x1FF
  /-- Posted writes to external signals (R35). -/
  wbuf : List (Nat × Word) := []
  roundAt : Nat := 0
  deriving DecidableEq, Repr

/-! ### The Izengan ring (ch. 11) -/

/-- Port states (R426), in the order of their codes. -/
inductive PortSt where
  | disabled | acquire | quiet | locked | up
  deriving DecidableEq, Repr

/-- One port of the ring. -/
structure Port where
  st : PortSt := .disabled
  /-- The instant the state was entered. -/
  since : Nat := 0
  sig : Bool := false
  /-- Since when the port's receiver, while on, has detected no signal (R426). -/
  noSig : Nat := 0
  lock : Bool := false
  peerLock : Bool := false
  peer : Nat := 0
  wrap : Bool := false
  ups : Nat := 0
  deriving DecidableEq, Repr

/-- A frame handed to a transmitter: class, type and the frame (R434, R435). -/
structure TxFrame where
  cls : Nat
  typ : Nat
  frame : Frame
  deriving DecidableEq, Repr

/-- The ring node. -/
structure Ring where
  ports : Vector Port 2 := Vector.replicate 2 {}
  inserted : Bool := false
  insAt : Nat := 0
  /-- A port has reached UP since insertion (R428). -/
  everUp : Bool := false
  founder : Bool := false
  dup : Bool := false
  retryAt : Option Nat := none
  wrapped : Bool := false
  /-- Cycles started since a BEACON last reported a wrap, or since the wrap (R432). -/
  wrapAge : Nat := 0
  wraps : Nat := 0
  hops : Nat := 0
  /-- Nodes whose BEACON arrived, with the cycles started since (LK_TOPO.NODES). -/
  heard : List (Nat × Nat) := []
  /-- Number of the ring cycle last started (R442). -/
  cycle : Nat := 0
  /-- The express slot of the cycle is used (R443), and the MESSAGE waiting for one: destination and entries (R444). -/
  slotUsed : Bool := false
  /-- A TOPO waits for the next cycle's slot (R443). -/
  topo : Bool := false
  msg : Option (Nat × List Word) := none
  /-- Next SEQ of each class (R434). -/
  seqs : Vector Nat 4 := Vector.replicate 4 0
  /-- First copies delivered, whose second is discarded: source, class, SEQ, low cycle number (R431). -/
  first : List (Nat × Nat × Nat × Nat) := []
  /-- Policing of the present cycle, by port and source: express frames, time bytes, cyclic bytes; bulk buckets; the node's own bucket (R448). -/
  polExp : Vector Nat 64 := Vector.replicate 64 0
  polTime : Vector Nat 64 := Vector.replicate 64 0
  polCyc : Vector Nat 64 := Vector.replicate 64 0
  bucket : Vector Nat 64 := Vector.replicate 64 0
  tokens : Nat := 0
  /-- Own bulk frames waiting for tokens, oldest first. -/
  bulk : List TxFrame := []
  /-- Frames handed to the transmitters since the present cycle began, with the port (0 A, 1 B), newest last. -/
  sent : List (Nat × TxFrame) := []
  /-- STOP: sequence number of the next origination, those being repeated with repeats left and the next instant (R438), and the STOP sets put on the
  ports since the present cycle began: port and symbol s, newest last (R422, R438). -/
  stopNo : Nat := 0
  stopReps : List (Nat × Nat × Nat) := []
  stopSent : List (Nat × Nat) := []
  /-- STOPs forwarded: port, source, number, instant (R439); STOPs received: source, number, instant; the last source; their count. -/
  stopFwd : List (Nat × Nat × Nat × Nat) := []
  stopRx : List (Nat × Nat × Nat) := []
  stopSrc : Nat := 0
  stopCnt : Nat := 0
  /-- Cycles started since the last PUBLISH of each node (R450). -/
  pubAge : Vector Nat 32 := Vector.replicate 32 0
  /-- Loopback test (R454): its start, its results. -/
  loopAt : Option Nat := none
  lbDone : Bool := false
  lbOk : Bool := false
  deriving DecidableEq, Repr

/-! ### Thermal logic and housekeeping (ch. 10) -/

/-- One temperature sensor: 0–23 TS0–TS23, 24–31 TE0–TE7; temperatures in 0.0625 °C. -/
structure Sns where
  /-- The raw count or code of this round, that of the latest round not discarded, and for how many rounds it has been the same (R408, R418). -/
  code : Nat := 0
  raw : Nat := 0
  same : Nat := 0
  /-- The reading of this round where one was made; open or short or out of range (R408: 1, 2, 3). -/
  got : Bool := false
  read : Int := 0
  pre : Nat := 0
  /-- The last valid reading, and the last 32 of them, newest first (R403, R410). -/
  t : Int := 0
  hist : List Int := []
  fail : Bool := false
  why : Nat := 0
  recov : Nat := 0
  /-- TEMP_WARN raised and not yet left (R402); rounds at or above SHUT (R413). -/
  warn : Bool := false
  hot : Nat := 0
  /-- The factor of the round before (R404). -/
  f : Word := 0x3F800000#32
  deriving DecidableEq, Repr

/-- The reef factor of one mast (R405, R411, R412). -/
structure Reef where
  /-- F_m, and REEF as published. -/
  fm : Word := 0x3F800000#32
  reef : Word := 0x3F800000#32
  gov : Nat := 0
  /-- Failed governors and the factors they froze. -/
  frozen : List (Nat × Word) := []
  fallbk : Bool := false
  der : Bool := false
  deriving DecidableEq, Repr

/-- The bosun and the thermal logic. -/
structure Hk where
  /-- The die shut-down latch (R413). -/
  shut : Bool := false
  /-- Number of the next slot, 0–47, of the round, the rounds since reset, the instant the next slot begins (R394). -/
  slot : Nat := 0
  round : Nat := 0
  slotAt : Nat := 0
  running : Bool := false
  /-- Global index of the leg the phase detector visits next (R61). -/
  visit : Nat := 0
  sns : Vector Sns 32 := Vector.replicate 32 {}
  reefs : Vector Reef 16 := Vector.ofFn fun m => { gov := m.val }
  /-- This round's readings are discarded (R418). -/
  discard : Bool := false
  /-- TEMP_RATE raised; rounds with every rate below RATE ÷ 2 since; the condition (R403). -/
  rateOn : Bool := false
  rateLow : Nat := 0
  rateHi : Bool := false
  dieMax : Int := 0
  dieRate : Word := 0#32
  hottest : Nat := 0
  peak : Int := 0
  peakSns : Nat := 0
  /-- A DIE_MAX has been found since the device reset (TPEAK). -/
  peakOn : Bool := false
  /-- Events of slot 46 delivered in slot 47: source, detail, mast (R394). -/
  evq : List (Nat × Nat × Option Nat) := []
  /-- Supply monitors out of range, bit k (R417). -/
  supOut : Nat := 0
  /-- The instant each monitor was last seen to assert (R417). -/
  supAt : Vector Nat 6 := Vector.replicate 6 0
  /-- SHUT in °C and HYST in 0.0625 °C as the latest slot 46 took them (R420). -/
  shutIn : Nat := 145
  hystIn : Int := 80
  deriving DecidableEq, Repr

/-! ### The time base (ch. 12) -/

/-- What a SET_TIME loads (R458, R472): a host's value, or the time base value less an offset θ. -/
inductive TbLoad where
  | host (total : Nat)
  | less (th : Int)
  deriving DecidableEq, Repr

/-- The local time base: seconds, nanoseconds and fraction as one number in 2^−32 ns, and the rate F (R456). -/
structure TimeBase where
  total : Nat := 0
  rate : Nat := 0x2AAAAAAB
  /-- Seconds of the snapshot a read of TB_NS took (R457). -/
  snapSec : Option Nat := none
  /-- A SET_TIME that loads at the next SPARCLK cycle (R458). -/
  load : Option TbLoad := none
  deriving DecidableEq, Repr

/-- Servo states (R469), in the order of their codes. -/
inductive SrvSt where
  | free | acquire | track | hold | revalidate | freerun | mizzen
  deriving DecidableEq, Repr

/-- A Pdelay_Req to be answered (R464, R466): the port, its sequenceId, its ingress timestamp t2 in 2^−32 ns, and its sourcePortIdentity. -/
structure PdAsk where
  port : Nat
  id : Nat
  t2 : Int
  clock : BitVec 64
  portNo : BitVec 16
  deriving DecidableEq, Repr

/-- The servo and the two domains (R464–R477); offsets in 2^−32 ns, instants in taps. -/
structure Servo where
  st : SrvSt := .free
  since : Nat := 0
  /-- Integral and proportional terms and the rate correction ρ (R470). -/
  i : Word := 0#32
  p : Word := 0#32
  rho : Word := 0#32
  /-- Consecutive accepted samples in ACQUIRE, whether AUTO_SET is suppressed for this entry (R477). -/
  good : Nat := 0
  noSet : Bool := false
  /-- The last accepted sample and its instant (R471). -/
  last : Int := 0
  lastAt : Nat := 0
  /-- Samples of REVALIDATE, newest first. -/
  reval : List (Int × Nat) := []
  /-- The latest main Sync accepted or rejected, and that the main master's loss has been taken since (R473). -/
  mainAt : Nat := 0
  mainGone : Bool := false
  /-- Consecutive sync intervals with an accepted main Sync in MIZZEN (R477). -/
  backRun : Nat := 0
  wasTrack : Bool := false
  ofs : Int := 0
  /-- The last 16 mizzen samples, newest first, and the run of samples within 20 ns (R474). -/
  mz : List (Int × Nat) := []
  mzRun : Nat := 0
  /-- The latest mizzen Sync, or the instant ZROLE became SLAVE; the loss of the mizzen master has been taken, until its next Sync (R473). -/
  mzAt : Nat := 0
  mzGone : Bool := false
  /-- Link delays of the ports, exchanges made, validity, the request outstanding with its egress timestamp t1, missed responses, a hop that is too long (R466, R425). -/
  ld : Vector Int 2 := Vector.replicate 2 0
  ldN : Vector Nat 2 := Vector.replicate 2 0
  ldOk : Vector Bool 2 := Vector.replicate 2 false
  pdReq : Vector (Option (Nat × Int)) 2 := Vector.replicate 2 none
  pdMiss : Vector Nat 2 := Vector.replicate 2 0
  longHop : Vector Bool 2 := Vector.replicate 2 false
  /-- Requests received and not yet answered (R464). -/
  pdAsked : List PdAsk := []
  /-- Next sequenceId of main Sync, mizzen Sync, Pdelay_Req. -/
  seqIds : Vector Nat 3 := Vector.replicate 3 0
  /-- TIME frames handed to the transmitters since the ring cycle began: port, messageType, and the frame. -/
  sent : List (Nat × Nat × TimeFrame) := []
  deriving DecidableEq, Repr

/-- A calendar entry (R479): its index, its words, its place in the order of placement, whether it is executed at once under R482, and whether its lateness comes from a time step. -/
structure CalEntry where
  ix : Nat
  w0 : Word
  w1 : Word
  w2 : Word
  w3 : Word
  ord : Nat
  due : Bool := false
  step : Bool := false
  deriving DecidableEq, Repr

/-- A calendar command that waits for the end of its cycle (R488): its rank (a lane's number, 4 the host), the context and the register of its result,
1 INSERT, 2 REMOVE or 3 READ, and its words. -/
structure CalJob where
  rank : Nat
  dest : Option (Fin 64 × Nat)
  cmd : Nat
  w0 : Word
  w1 : Word := 0#32
  w2 : Word := 0#32
  w3 : Word := 0#32
  deriving DecidableEq, Repr

/-- The action calendar: the entries by rising index, the next place. -/
structure Cal where
  entries : List CalEntry := []
  ord : Nat := 0
  /-- The commands of the present cycle, in the order they are carried out (R488). -/
  jobs : List CalJob := []
  deriving DecidableEq, Repr

/-! ### Ports, roles, the store, clocks (ch. 13–15) -/

/-- GPIO pins (R514). -/
structure Gpio where
  inp : Nat := 0
  /-- The instant of each pin's latest change. -/
  chg : Vector Nat 32 := Vector.replicate 32 0
  /-- Changes of GPIO_OUT on MSEL pins held until the sequence ends: the pins, and their levels (R531). -/
  held : Nat := 0
  heldVal : Nat := 0
  deriving DecidableEq, Repr

/-- An entry of the command FIFO: a header, or one write word and whether it was cut short (R498, R509). -/
inductive HEntry where
  | read (addr : Nat) (fix : Bool) (n : Nat)
  | sread (id n : Nat)
  | write (addr : Nat) (fix : Bool)
  | swrite (id : Nat)
  | word (w : Word) (part : Bool)
  | nop
  | snap (g : Nat)
  | release
  | resv
  deriving DecidableEq, Repr

/-- A late access of the host port (R503): of a signal or a register, its number, the signal awaited, its start, the value once it has come. -/
structure Late where
  sig : Bool
  addr : Nat
  id : Option Nat := none
  since : Nat
  got : Option Word := none
  /-- The number of the peer read it waits for (R247). -/
  no : Nat := 0
  deriving DecidableEq, Repr

/-- The host port. -/
structure HostPort where
  fifo : List HEntry := []
  /-- The write header in force and its advancing address (R495). -/
  cur : Option HEntry := none
  /-- The rest of the transaction is discarded (R499). -/
  drop : Bool := false
  /-- The words the last transaction sent. -/
  out : List Word := []
  late : Option Late := none
  /-- The read hold: signal or register, its number, its value (R503). -/
  hold : Option (Bool × Nat × Word) := none
  /-- The snapshot: its group, and its registers with the held value and whether their RC fields are still to be settled (R506, R507). -/
  held : Option Nat := none
  heldRegs : List (Nat × Word × Bool) := []
  /-- An RC access whose word is not yet sent: from the snapshot hold and its address, or live with register key and value taken (R502, R507). -/
  rc : Option (Bool × Nat × Word) := none
  /-- The RC access made ahead for the word after that one (R501, R502). -/
  ahead : Option (Bool × Nat × Word) := none
  /-- The transaction in progress is a write; it is a STATUS. -/
  writing : Bool := false
  status : Bool := false
  /-- Lane count in force, coded as HOST_CFG.LANES. -/
  lanes : Nat := 0
  /-- Number of its latest peer read (R247). -/
  reqNo : Nat := 0
  deriving DecidableEq, Repr

/-- A transaction of the memory port (R519). -/
inductive MemReq where
  /-- A fetch miss of a 64-byte line, by its number in the window. -/
  | fetch (line : Nat)
  /-- A read of an external signal for a context (64: the host port). -/
  | sread (ctx id : Nat)
  | swrite
  | trace (r : Nat) (ws : List Word)
  | prefetch (line : Nat)
  | seq
  deriving DecidableEq, Repr

/-- A phase of a running sequence: its kind (0 OUT, 1 IN, 2 DUMMY), bits or cycles left, lanes, and whether it is DDR (R517, R528). -/
structure Phase where
  kind : Nat
  left : Nat
  lanes : Nat := 1
  ddr : Bool := false
  deriving DecidableEq, Repr

/-- What the port does in a phase of a mapped transaction: it sends bytes, waits for a number of MSCK cycles, or reads a number of bytes (R518). -/
inductive BusData where
  | command (bytes : List Byte)
  | address (bytes : List Byte)
  /-- The mode bits of continuous mode (R525). -/
  | mode (bytes : List Byte)
  | dummy (cycles : Nat)
  /-- Bytes read, on MDQS as read strobe or not. -/
  | read (n : Nat) (strobe : Bool)
  /-- Bytes written; MDQS is driven low, so that none is masked. -/
  | write (bytes : List Byte)
  deriving DecidableEq, Repr

/-- A phase of a mapped transaction: its lanes and its rate (R517). -/
structure BusPhase where
  lanes : Nat
  ddr : Bool
  data : BusData
  deriving DecidableEq, Repr

/-- One time a select is low: 1 MSEL0_N, 2 GPIO31 (R517). -/
structure MemFrame where
  sel : Nat
  phases : List BusPhase
  deriving DecidableEq, Repr

/-- The memory port. -/
structure MemPort where
  /-- The transaction in progress and the instant of its grant; the instant the latest one ended, its select high since (R519). -/
  busy : Option (MemReq × Nat) := none
  endAt : Option Nat := none
  /-- What the port sends by itself for it (R518, R520, R521, R525). -/
  frames : List MemFrame := []
  /-- The window has changed since the prefetch in progress began: its line is not kept (R526). -/
  stale : Bool := false
  /-- What the OUT phases of the sequence in progress have sent: counts of bits, each with the word whose top bits they are (R528). -/
  sent : List (Nat × Word) := []
  /-- Waiting requests: lines missed, external reads in order, trace records, lines to prefetch in the order of their misses. -/
  fetches : List Nat := []
  reads : List (Nat × Nat) := []
  traces : List (Nat × List Word) := []
  pre : List Nat := []
  /-- Prefetch buffers: line and words, most recently used first (R524). -/
  bufs : List (Nat × List Word) := []
  /-- The software sequence waiting or running: its phases, its select, the instant of GO (R528). -/
  seqOn : Option (List Phase × Nat × Nat) := none
  phq : List Word := []
  tx : List Word := []
  rx : List Word := []
  xipCont : Bool := false
  /-- EN of MEM_PSRAM has been cleared and the write buffer drains (R522). -/
  unmap : Bool := false
  trWrapped : Bool := false
  trPos : Nat := 0
  deriving DecidableEq, Repr

/-- The instruction of the test access port: EXTEST, or any other (R585). -/
inductive TapInstr where
  | extest | other
  deriving DecidableEq, Repr

/-- The test access port (R585): TRST_N held low, the instruction, and the gate cells of the boundary-scan register, gate g of leg l of mast m
in cell 8m + 2l + g (0 low, 1 high). -/
structure Tap where
  trstLow : Bool := false
  instr : TapInstr := .other
  gateCells : List Bool := List.replicate 128 false
  /-- The bit TDO shows while the port shifts. -/
  tdo : Option Bool := none
  deriving DecidableEq, Repr

/-- The session and the keys (R536–R544); roles 0 OP, 1 INS, 2 MAK. -/
structure RoleSt where
  role : Nat := 0
  /-- The challenge outstanding: its words, the role asked for, its instant. -/
  chal : Option (List Word × Nat × Nat) := none
  lockUntil : Option Nat := none
  /-- The words ROLE_BUF reads, and those written to it. -/
  rbuf : List Word := List.replicate 8 0#32
  wbuf : List Word := List.replicate 8 0#32
  /-- The instant of the last host or JTAG write, and whether the write being carried out came through JTAG (R546). -/
  lastWrite : Nat := 0
  jtag : Bool := false
  /-- Data ports whose burst has its PORT record (R545). -/
  burst : List Nat := []
  /-- Key slots of the OTP (R539): the maker key, the installer generations oldest first, the image key's X and Y. -/
  kMak : Option (List Word) := none
  kIns : List (List Word) := []
  imgX : Option (List Word) := none
  imgY : Option (List Word) := none
  /-- Unlocks since manufacture, and nonces drawn. -/
  unlocks : Nat := 0
  draws : Nat := 0
  deriving DecidableEq, Repr

/-- A running store command (R553–R558). -/
inductive StCmd where
  /-- Sectors still to erase. -/
  | erase (bank : Nat) (left : List Nat)
  /-- A row: its word address and words. -/
  | prog (at_ : Nat) (ws : List Word)
  | commit (bank : Nat) (ws : List Word)
  | load (pb : Nat)
  /-- A journal entry or commit marker: kind, target, value. -/
  | append (kind tgt : Nat) (val : Word)
  deriving DecidableEq, Repr

/-- A store pulse or erase in progress (R550). -/
inductive Pulse where
  | fault (slot : Nat) (ws : List Word)
  | faultErase (sector : Nat)
  | audit (slot : Nat) (ws : List Word)
  | auditErase (sector : Nat)
  /-- The pulse or erase of the running command. -/
  | cmd
  /-- That of the compaction under way. -/
  | step
  deriving DecidableEq, Repr

/-- A pulse or an erase of a compaction (R558): entry words at a word address, the header that puts the other half in force with n slots behind it, a
sector. -/
inductive JStep where
  | put (i : Nat) (ws : List Word)
  | head (n : Nat) (ws : List Word)
  | wipe (sector : Nat)
  deriving DecidableEq, Repr

/-- The embedded store. -/
structure Store where
  /-- Its 131,072 words, 0xFFFF_FFFF where not listed. -/
  mem : Sparse := []
  pulse : Option Pulse := none
  cmd : Option StCmd := none
  /-- The running command has begun its first pulse or erase (R414, R416). -/
  begun : Bool := false
  /-- ABORT ends the command after its pulse (R561). -/
  abort : Bool := false
  result : Nat := 0
  row : List Word := List.replicate 8 0xFFFFFFFF#32
  rowAt : Nat := 0
  /-- Audit records waiting (R547), the next sequence number and slot, records held. -/
  audQ : List (List Word) := []
  audSeq : Nat := 0
  audPos : Nat := 0
  audCount : Nat := 0
  /-- Next slot of the fault area. -/
  faultPos : Nat := 0
  boots : Nat := 0
  booted : Nat := 0
  /-- The journal: half in force, next slot in it, next sequence number, entries not yet committed, latest committed values, a compaction due or under
  way. -/
  jHalf : Nat := 0
  jPos : Nat := 1
  jSeq : Nat := 0
  jPend : List (Nat × Nat × Word) := []
  jLive : List (Nat × Nat × Word) := []
  compact : Bool := false
  /-- What the compaction under way has still to do (R414, R558). -/
  jSteps : List JStep := []
  /-- ST_MINVER as boot went by it (R561). -/
  bootMin : Word := 0#32
  deriving DecidableEq, Repr

/-- Clocks, reset and boot (R562–R586). -/
structure Clk where
  ready : Bool := false
  /-- The clock monitor reports a loss (R332, R567): level 0 of R77. -/
  lost : Bool := false
  /-- The internal reset is asserted, since when; the power-on reset is asserted, the instant from which every supply has been above its release level
  since; RESET_N low, since when (R569, R573). -/
  inReset : Bool := true
  rstAt : Nat := 0
  porLow : Bool := false
  aboveAt : Option Nat := none
  /-- The supplies in mV (R569, R594). -/
  at_ : Supplies := { vdd := 900, vddio := 3300, vdda := 3300 }
  pinLow : Bool := false
  pinAt : Nat := 0
  /-- Straps sampled (R578), the instant RESET_N was released. -/
  straps : Nat := 0
  relAt : Nat := 0
  /-- The external reference on VREFP is in use (R605). -/
  vrefExt : Bool := false
  /-- Reference chosen (none: not yet; true: CLKREF), the start of the next count, PLL lock. -/
  ref : Option Bool := none
  countAt : Nat := 0
  locked : Bool := false
  /-- The fast calibration has ended (R62). -/
  fastDone : Bool := false
  /-- Boot phase of R579 (BOOT_STAT.PHASE), the bank being tried, whether the other one has been tried, the words of a FLASH bank. -/
  phase : Nat := 0
  bank : Nat := 0
  second : Bool := false
  flash : List Word := []
  /-- A CLOCK reset whose record is due at lock (R568). -/
  clockRec : Option Nat := none
  deriving DecidableEq, Repr

/-- A register write whose fields wait for a boundary (R75): register key, the word in force until then, instant of the write. -/
structure Deferred where
  key : Nat
  old : Word
  at_ : Nat
  /-- Made while the timebase did not run: in force from the next SPARCLK cycle on (R75). -/
  free : Bool := false
  deriving DecidableEq, Repr

/-! ### The present SPARCLK cycle

Some rules order what falls into one SPARCLK cycle (R12, R33, R72, R204, R308, R316, R362, R367, R376, R489, R504). They speak of
the machine as it stood when the cycle began, and of what the cycle has seen since. -/

/-- A write of the staging set: the rank of its writer, the register key, the word; of PWM_CTL the PERIOD, of PWM_COMMIT whether the set becomes
VECTOR (R72, R316). -/
structure StageWr where
  rank : Nat
  key : Nat
  word : Word
  /-- The duty the word was converted from, which a PERIOD staged ahead of it converts anew (R72, R312). -/
  duty : Option Word := none
  deriving DecidableEq, Repr

/-- What a write of the present cycle has for the ring: a MESSAGE to a node, or a bulk frame by type, destination and payload (R35, R444). -/
inductive Post where
  | message (dst : Nat)
  | bulk (typ dst : Nat) (ws : List Word)
  deriving DecidableEq, Repr

/-- An operation on a cell: of the context c by its instruction with the word it gives and the flags it found, of the host by CELL_DATA or by
CELL_CMD (R260). -/
inductive CellOp where
  | lane (c : Fin 64) (w : Word) (parity : Bool) (e : Word) (fl : Flags)
  | data (k : Nat) (w : Word)
  | cmd (k : Nat)
  deriving DecidableEq, Repr

/-- A trace record written: its rank in the order of R260, its type, where it stands, its words (R262). -/
structure TrcRec where
  rank : Nat
  typ : Nat
  dest : Bool
  pos : Nat
  ws : List Word
  deriving DecidableEq, Repr

/-- What the present SPARCLK cycle has seen so far. -/
structure Cyc where
  /-- Bits that hardware has set and counts it has added, by register key (R12, R502). -/
  fresh : List (Nat × Word) := []
  /-- The rank of the last writer of a signal in the order of R33, R308 and R489: 0 the host, 2n + 2 and 2n + 3 lane n in the two ENGCLK cycles, 10
  the calendar. -/
  sigs : List (Nat × Nat) := []
  /-- Writes of the staging sets, oldest first (R72, R316). -/
  stage : List StageWr := []
  /-- What its writes and reads have for the ring, in the order of their ranks (R33, R308, R489). -/
  posts : List (Nat × Post) := []
  /-- The ranks of the writes it has put into the write buffer, in their order there (R308). -/
  bufd : List Nat := []
  /-- Signals a program may write that hardware has updated in it, with what they were before (R33). -/
  hwOld : List (Nat × Word) := []
  /-- Operations on cells by rank, the cell and the operation: by lane in the first and in the second ENGCLK cycle, then the host (R260). -/
  cells : List (Nat × Nat × CellOp) := []
  /-- The trace records it has written, in the order they stand in (R262). -/
  trc : List TrcRec := []
  /-- Writes of GPIO_OUT by rank: the rank, the bits, their levels, whether they toggle instead (R489, R515). -/
  gpio : List (Nat × Nat × Nat × Bool) := []
  /-- Registers written by the calendar: address, index, the bits and their values (R489). -/
  regs : List (Nat × Nat × Word × Word) := []
  /-- The calendar has dispatched an entry in it (R483). -/
  cal : Bool := false
  /-- The host has made an access in it; its next one falls in a later cycle (log entry 86). -/
  host : Bool := false
  deriving DecidableEq, Repr

/-- The machine as it stood when the present SPARCLK cycle began: what a read of the cycle returns (R33, R504) and what the collector's
tests look at (R367, R376). -/
structure Was where
  now : Nat := 0
  regs : Sparse := []
  deferred : List Deferred := []
  sigs : Sparse := []
  masts : Vector Mast 16 := Vector.replicate 16 {}
  bgs : Vector BusGroup 8 := Vector.replicate 8 {}
  furl : Furl := {}
  fc : Fc := {}
  eng : Eng := {}
  ring : Ring := {}
  hk : Hk := {}
  tb : TimeBase := {}
  srv : Servo := {}
  cal : Cal := {}
  gpio : Gpio := {}
  host : HostPort := {}
  mem : MemPort := {}
  role : RoleSt := {}
  store : Store := {}
  clk : Clk := {}
  deriving DecidableEq, Repr

/-- The machine. -/
structure State where
  /-- The commands waiting, first in, first out. -/
  pending : List Instr := []
  /-- Time in taps of 1/15.36 GHz since reset (R42). -/
  now : Nat := 0
  variant : Variant := .sv6480
  /-- The register store: key = address of the mast 0 copy + 0x2000 × index. -/
  regs : Sparse := []
  /-- The writes whose fields wait for a boundary (R75), oldest first. -/
  deferred : List Deferred := []
  /-- The signal plane (R28). -/
  sigs : Sparse := []
  masts : Vector Mast 16 := Vector.replicate 16 {}
  bgs : Vector BusGroup 8 := Vector.replicate 8 {}
  furl : Furl := {}
  fc : Fc := {}
  eng : Eng := {}
  ring : Ring := {}
  hk : Hk := {}
  tb : TimeBase := {}
  srv : Servo := {}
  cal : Cal := {}
  gpio : Gpio := {}
  host : HostPort := {}
  mem : MemPort := {}
  role : RoleSt := {}
  store : Store := {}
  clk : Clk := {}
  tap : Tap := {}
  /-- The present SPARCLK cycle: what it has seen, and the machine as it began. -/
  cyc : Cyc := {}
  was : Was := {}
  deriving DecidableEq, Repr

/-- The machine right after reset. -/
def State.reset : State := {}

end Sys2Proof.Machine
end

