-- ==== Sys2Proof/Machine/F32.lean ====
section
/-! DEFINITION. Machine/F32.lean: binary32 arithmetic as R292–R297 state it: round to nearest, ties to even, subnormals flushed, one quiet NaN. -/

namespace Sys2Proof.Machine

/-- The one NaN the part delivers (R294). -/
def qNaN : Word := 0x7FC00000#32

/-- A binary32 operand taken apart; a subnormal reads as zero of its sign (R293). The finite value is m × 2^e, m > 0. -/
inductive Unpacked where
  | nan
  | inf (neg : Bool)
  | zero (neg : Bool)
  | fin (neg : Bool) (m : Nat) (e : Int)
  deriving DecidableEq, Repr

/-- Take a word apart (R292, R293). -/
def unpack (w : Word) : Unpacked :=
  let neg := bitOf w 31
  let ex := bitsOf w 30 23
  let fr := bitsOf w 22 0
  if ex = 255 then (if fr = 0 then .inf neg else .nan)
  else if ex = 0 then .zero neg
  else .fin neg (2 ^ 23 + fr) ((ex : Int) - 150)

/-- Infinity of a sign. -/
def fInf (neg : Bool) : Word := if neg then 0xFF800000#32 else 0x7F800000#32

/-- Zero of a sign. -/
def fZeroS (neg : Bool) : Word := if neg then 0x80000000#32 else 0x00000000#32

/-- Shift right by `d` with rounding to nearest, ties to even. -/
def rneShift (m d : Nat) : Nat :=
  let q := m >>> d
  let r := m % 2 ^ d
  if d = 0 then m
  else if r > 2 ^ (d - 1) then q + 1
  else if r = 2 ^ (d - 1) then (if q % 2 = 1 then q + 1 else q)
  else q

/-- The binary32 word nearest to ± m × 2^e: rounded to 24 bits with the exponent unbounded, then flushed below 2^−126 and made infinite above the range (R292, R293). -/
def roundPack (neg : Bool) (m : Nat) (e : Int) : Word :=
  if m = 0 then fZeroS neg
  else
    let n := m.log2 + 1
    let q := if n ≤ 24 then m <<< (24 - n) else rneShift m (n - 24)
    let e1 : Int := e + (n : Int) - 24
    let c := decide (q = 2 ^ 24)
    let q2 := if c then 2 ^ 23 else q
    let be : Int := (if c then e1 + 1 else e1) + 150
    if be ≥ 255 then fInf neg
    else if be ≤ 0 then fZeroS neg
    else BitVec.ofNat 32 ((b2n neg) * 2 ^ 31 + be.toNat * 2 ^ 23 + (q2 - 2 ^ 23))

/-- The word nearest to the integer v × 2^e; an exact zero is +0. -/
def fOfScaled (v : Int) (e : Int) : Word := roundPack (decide (v < 0)) v.natAbs e

/-- The word nearest to an integer (R297, I2F and U2F). -/
def fOfInt (v : Int) : Word := fOfScaled v 0

/-- The word nearest to num ÷ den, correctly rounded: the quotient carries a sticky bit. -/
def fOfRat (num : Int) (den : Nat) : Word :=
  if den = 0 then qNaN
  else
    let k := 64 + den.log2
    let n := num.natAbs <<< k
    roundPack (decide (num < 0)) (2 * (n / den) + (if n % den = 0 then 0 else 1)) (-(k : Int) - 1)

/-- A word that is NaN. -/
def fIsNaN (w : Word) : Bool := bitsOf w 30 23 = 255 && bitsOf w 22 0 != 0

/-- A word that is an infinity. -/
def fIsInf (w : Word) : Bool := bitsOf w 30 23 = 255 && bitsOf w 22 0 == 0

/-- A word that is finite. -/
def fFinite (w : Word) : Bool := bitsOf w 30 23 != 255

/-- A word that is ±0 once subnormals are flushed. -/
def fIsZero (w : Word) : Bool := bitsOf w 30 23 == 0

/-- The exact value of a finite word as a scaled integer v × 2^−149; 0 for a word that is not finite. -/
def fScaled (w : Word) : Int :=
  match unpack w with
  | .fin neg m e => if neg then -((m <<< (e + 149).toNat : Nat) : Int) else ((m <<< (e + 149).toNat : Nat) : Int)
  | _ => 0

/-- Sum, difference (R292, R295). -/
def fAdd (a b : Word) : Word :=
  match unpack a, unpack b with
  | .nan, _ => qNaN
  | _, .nan => qNaN
  | .inf x, .inf y => if x = y then fInf x else qNaN
  | .inf x, _ => fInf x
  | _, .inf y => fInf y
  | .zero x, .zero y => fZeroS (x && y)
  | .zero _, .fin n m e => roundPack n m e
  | .fin n m e, .zero _ => roundPack n m e
  | .fin n1 m1 e1, .fin n2 m2 e2 =>
    let e := if e1 ≤ e2 then e1 else e2
    let v1 : Int := ((m1 <<< (e1 - e).toNat : Nat) : Int) * (if n1 then -1 else 1)
    let v2 : Int := ((m2 <<< (e2 - e).toNat : Nat) : Int) * (if n2 then -1 else 1)
    fOfScaled (v1 + v2) e

/-- Sign inverted, NaN canonical (R303, FNEG). -/
def fNeg (a : Word) : Word := if fIsNaN a then qNaN else a ^^^ 0x80000000#32

/-- Sign cleared, NaN canonical (R303, FABS). -/
def fAbs (a : Word) : Word := if fIsNaN a then qNaN else a &&& 0x7FFFFFFF#32

/-- Difference. -/
def fSub (a b : Word) : Word := fAdd a (b ^^^ 0x80000000#32)

/-- Product (R292, R295). -/
def fMul (a b : Word) : Word :=
  match unpack a, unpack b with
  | .nan, _ => qNaN
  | _, .nan => qNaN
  | .inf _, .zero _ => qNaN
  | .zero _, .inf _ => qNaN
  | .inf x, .inf y => fInf (x != y)
  | .inf x, .fin y _ _ => fInf (x != y)
  | .fin x _ _, .inf y => fInf (x != y)
  | .zero x, .zero y => fZeroS (x != y)
  | .zero x, .fin y _ _ => fZeroS (x != y)
  | .fin x _ _, .zero y => fZeroS (x != y)
  | .fin x m1 e1, .fin y m2 e2 => roundPack (x != y) (m1 * m2) (e1 + e2)

/-- Quotient (R292, R295). -/
def fDiv (a b : Word) : Word :=
  match unpack a, unpack b with
  | .nan, _ => qNaN
  | _, .nan => qNaN
  | .inf _, .inf _ => qNaN
  | .zero _, .zero _ => qNaN
  | .inf x, .zero y => fInf (x != y)
  | .inf x, .fin y _ _ => fInf (x != y)
  | .zero x, .inf y => fZeroS (x != y)
  | .fin x _ _, .inf y => fZeroS (x != y)
  | .zero x, .fin y _ _ => fZeroS (x != y)
  | .fin x _ _, .zero y => fInf (x != y)
  | .fin x m1 e1, .fin y m2 e2 =>
    let n := m1 <<< 30
    roundPack (x != y) (2 * (n / m2) + (if n % m2 = 0 then 0 else 1)) (e1 - e2 - 31)

/-- Square root (R292, R295); the root of −0 is −0 (IEEE 754-2019). -/
def fSqrt (a : Word) : Word :=
  match unpack a with
  | .nan => qNaN
  | .inf neg => if neg then qNaN else fInf false
  | .zero neg => fZeroS neg
  | .fin neg m e =>
    if neg then qNaN
    else
      let odd := decide (e % 2 ≠ 0)
      let v := if odd then m <<< 41 else m <<< 40
      let e2 : Int := if odd then e - 41 else e - 40
      let r := isqrt v
      roundPack false (2 * r + (if r * r = v then 0 else 1)) (e2 / 2 - 1)

/-- a × b + c rounded once (R292). -/
def fFma (a b c : Word) : Word :=
  match unpack a, unpack b, unpack c with
  | .nan, _, _ => qNaN
  | _, .nan, _ => qNaN
  | _, _, .nan => qNaN
  | .fin x m1 e1, .fin y m2 e2, .fin z m3 e3 =>
    let ep := e1 + e2
    let e := if ep ≤ e3 then ep else e3
    let p : Int := ((m1 * m2) <<< (ep - e).toNat : Nat) * (if x != y then -1 else 1)
    let q : Int := ((m3 <<< (e3 - e).toNat : Nat) : Int) * (if z then -1 else 1)
    fOfScaled (p + q) e
  | .fin x m1 e1, .fin y m2 e2, .zero _ => roundPack (x != y) (m1 * m2) (e1 + e2)
  | .fin _ _ _, .fin _ _ _, .inf z => fInf z
  | _, _, _ => fAdd (fMul a b) c

/-- A word with its subnormal flushed and its NaN made the quiet one: what a binary32 operand is read as. -/
def fCanon (a : Word) : Word :=
  if fIsNaN a then qNaN else if fIsZero a then a &&& 0x80000000#32 else a

/-- The outcome of a comparison. -/
inductive FRel where
  | lt | eq | gt | un
  deriving DecidableEq, Repr

/-- The order of two words; −0 and +0 are equal, a NaN is unordered (R296). -/
def fCmp (a b : Word) : FRel :=
  match unpack a, unpack b with
  | .nan, _ => .un
  | _, .nan => .un
  | .inf x, .inf y => if x = y then .eq else if x then .lt else .gt
  | .inf x, _ => if x then .lt else .gt
  | _, .inf y => if y then .gt else .lt
  | _, _ => if fScaled a < fScaled b then .lt else if fScaled a = fScaled b then .eq else .gt

/-- a < b, false where unordered. -/
def fLt (a b : Word) : Bool := fCmp a b == .lt

/-- a ≤ b, false where unordered. -/
def fLe (a b : Word) : Bool := fCmp a b == .lt || fCmp a b == .eq

/-- a > b, false where unordered. -/
def fGt (a b : Word) : Bool := fCmp a b == .gt

/-- a ≥ b, false where unordered. -/
def fGe (a b : Word) : Bool := fCmp a b == .gt || fCmp a b == .eq

/-- Minimum: the other operand where one is NaN, −0 below +0 (R296). -/
def fMin (a b : Word) : Word :=
  if fIsNaN a then fCanon b
  else if fIsNaN b then fCanon a
  else match fCmp a b with
    | .lt => fCanon a
    | .gt => fCanon b
    | _ => if bitOf a 31 then fCanon a else fCanon b

/-- Maximum (R296). -/
def fMax (a b : Word) : Word :=
  if fIsNaN a then fCanon b
  else if fIsNaN b then fCanon a
  else match fCmp a b with
    | .lt => fCanon b
    | .gt => fCanon a
    | _ => if bitOf a 31 then fCanon b else fCanon a

/-- The limits a clamp uses: where lo is greater than hi, both are (lo + hi) ÷ 2 (R252, R304). -/
def fLimits (lo hi : Word) : Word × Word :=
  if fGt lo hi then
    let m := fDiv (fAdd lo hi) 0x40000000#32
    (m, m)
  else (lo, hi)

/-- A value limited to [lo, hi]; a NaN limit is not applied on its side (R252, R304). -/
def fClamp (v lo hi : Word) : Word :=
  let l := fLimits lo hi
  if fLt v l.1 then l.1 else if fGt v l.2 then l.2 else v

/-- Rounding directions of R297. -/
inductive IRound where
  | rne | rz | floor | ceil
  deriving DecidableEq, Repr

/-- An exact value v × 2^−149 rounded to an integer. -/
def roundInt (r : IRound) (v : Int) : Int :=
  let d : Int := 2 ^ 149
  match r with
  | .floor => v / d
  | .ceil => -((-v) / d)
  | .rz => if v < 0 then -((-v) / d) else v / d
  | .rne =>
    let q := v / d
    let rm := v % d
    if 2 * rm > d then q + 1 else if 2 * rm = d then (if q % 2 = 0 then q else q + 1) else q

/-- A conversion to an integer within [lo, hi]: the value and whether it saturated (R297); a NaN gives 0. -/
def fToInt (r : IRound) (lo hi : Int) (w : Word) : Int × Bool :=
  match unpack w with
  | .nan => (0, false)
  | .inf neg => if neg then (lo, true) else (hi, true)
  | .zero _ => (0, false)
  | .fin _ _ _ =>
    let i := roundInt r (fScaled w)
    if i < lo then (lo, true) else if i > hi then (hi, true) else (i, false)

/-- One and some other constants as binary32. -/
def fOne : Word := 0x3F800000#32
/-- 2.0 -/
def fTwo : Word := 0x40000000#32
/-- 0.5 -/
def fHalf : Word := 0x3F000000#32
/-- +0.0 -/
def fZero : Word := 0x00000000#32
/-- 2π rounded to binary32. -/
def fTwoPi : Word := 0x40C90FDB#32
/-- π rounded to binary32. -/
def fPi : Word := 0x40490FDB#32
/-- π ÷ 2 rounded to binary32. -/
def fHalfPi : Word := 0x3FC90FDB#32

/-- A time of `t` taps as seconds. -/
def fSeconds (t : Nat) : Word := fOfRat (t : Int) 15360000000

end Sys2Proof.Machine
end

