-- ==== Sys2Proof/Machine/Trig.lean ====
section
/-! DEFINITION. Machine/Trig.lean: sine, cosine, arctangent, rotation and angle reduction (R298): the result is a free value held within the accuracy the spec states; the exact value is reckoned here to 2^−100. -/

namespace Sys2Proof.Machine

/-- 2π × 2^256, rounded down. -/
def twoPi256 : Int := 727543153783532648560469885555459725306786754656784859917544302235877788932370
/-- π × 2^100, rounded down. -/
def pi100 : Int := 3982441812995697363688351113952
/-- 2π to 64 bits, times 2^61 (R298, FWRAP). -/
def twoPi61 : Int := 14488038916154245685

/-- Centre a residue r of modulus p on zero: the value in (−p/2, p/2]. -/
def centre (r p : Int) : Int := if 2 * r > p then r - p else r

/-- The Taylor sum of sine or cosine at scale 2^100: `term` the term of index `k`. -/
def taylor (t2 : Int) : Nat → Nat → Int → Int → Int
  | 0, _, _, acc => acc
  | n + 1, k, term, acc =>
    let nx := -(term * t2 / 2 ^ 100) / (((k + 1) * (k + 2) : Nat) : Int)
    taylor t2 n (k + 2) nx (acc + term)

/-- sin t at scale 2^100, for t in [−π, π]. -/
def sinFix (t : Int) : Int := taylor (t * t / 2 ^ 100) 40 1 t 0

/-- cos t at scale 2^100, for t in [−π, π]. -/
def cosFix (t : Int) : Int := taylor (t * t / 2 ^ 100) 40 0 (2 ^ 100) 0

/-- A finite angle reduced modulo 2π, at scale 2^100. -/
def angleFix (w : Word) : Int :=
  let x : Int := fScaled w * 2 ^ 107
  centre (x % twoPi256) twoPi256 / 2 ^ 156

/-- A value at scale 2^100 as the nearest word. -/
def fOfFix (v : Int) : Word := fOfScaled v (-100)

/-- `free` where it lies within 2^−k of the value v (scale 2^100), else the nearest word. -/
def withinAbs (v : Int) (k : Nat) (free : Word) : Word :=
  if fFinite free && decide ((fScaled free - v * 2 ^ 49).natAbs ≤ 2 ^ (149 - k)) then fCanon free else fOfFix v

/-- The accuracy of FSINCOS: 2^−22 for |va| ≤ 65,536, 2^−16 above (R298). -/
def sinBits (w : Word) : Nat := if fLe (fAbs w) 0x47800000#32 then 22 else 16

/-- sin of a word (R298). -/
def fSin (w : Word) : Word :=
  if fFinite w then withinAbs (sinFix (angleFix w)) (sinBits w) (Config.sinFree w) else qNaN

/-- cos of a word (R298). -/
def fCos (w : Word) : Word :=
  if fFinite w then withinAbs (cosFix (angleFix w)) (sinBits w) (Config.cosFree w) else qNaN

/-- arctan t at scale 2^100 for a small t: the series, `p` the power t^k signed. -/
def atanSeries (t2 : Int) : Nat → Nat → Int → Int → Int
  | 0, _, _, acc => acc
  | n + 1, k, p, acc => atanSeries t2 n (k + 2) (-(p * t2 / 2 ^ 100)) (acc + p / ((k : Nat) : Int))

/-- One halving of the angle of a tangent t: t ÷ (1 + √(1 + t²)). -/
def tanHalf (t : Int) : Int :=
  let r : Int := (isqrt ((2 ^ 100 * 2 ^ 100 + t * t).toNat) : Nat)
  t * 2 ^ 100 / (2 ^ 100 + r)

/-- arctan t at scale 2^100 for 0 ≤ t ≤ 1. -/
def atanFix (t : Int) : Int :=
  let u := tanHalf (tanHalf (tanHalf t))
  8 * atanSeries (u * u / 2 ^ 100) 30 1 u 0

/-- The exact arctangent of finite (y, x), y not zero, at scale 2^100. -/
def atan2Fix (y x : Int) : Int :=
  let ay : Int := y.natAbs
  let ax : Int := x.natAbs
  let a := if ay ≤ ax then atanFix (ay * 2 ^ 100 / ax) else pi100 / 2 - atanFix (ax * 2 ^ 100 / ay)
  let b := if x < 0 then pi100 - a else a
  if y < 0 then -b else b

/-- A result held in (−π, +π]: the words at the ends are 0xC049_0FDA and 0x4049_0FDB (R298). -/
def inWrapRange (w : Word) : Word :=
  if fGt w fPi then fPi else if fLe w 0xC0490FDB#32 then 0xC0490FDA#32 else w

/-- An operand of atan2 as an integer for the ratio: an infinity counts as 1 beside a finite one, which then counts as 0. -/
def atanArgs (y x : Word) : Int × Int :=
  match unpack y, unpack x with
  | .inf n, .inf p => (if n then -1 else 1, if p then -1 else 1)
  | .inf n, _ => (if n then -1 else 1, 0)
  | _, .inf p => (0, if p then -1 else 1)
  | _, _ => (fScaled y, fScaled x)

/-- atan2(y, x) (R298): a zero y is +0 whatever its sign, NaN operands give NaN. -/
def fAtan2 (y x : Word) : Word :=
  if fIsNaN y || fIsNaN x then qNaN
  else if fIsZero y then
    (if fIsZero x || !bitOf x 31 then fZero else fPi)
  else
    let p := atanArgs y x
    if p.1 = 0 then
      -- a finite y beside an infinite x
      (if p.2 > 0 then fZeroS (bitOf y 31) else inWrapRange (if bitOf y 31 then 0xC0490FDB#32 else fPi))
    else inWrapRange (withinAbs (atan2Fix p.1 p.2) 21 (Config.atan2Free y x))

/-- The exact reduction of a finite angle with 2π to 64 bits, at scale 2^149. -/
def wrapExact (w : Word) : Int :=
  let p := twoPi61 * 2 ^ 88
  centre (fScaled w % p) p

/-- An angle reduced to (−π, +π] within 1 ulp of the exact reduction (R298). -/
def fWrap (w : Word) : Word :=
  if fFinite w then
    let r := wrapExact w
    let ulp : Int := 2 ^ (r.natAbs.log2 - 23)
    let f := Config.wrapFree w
    if r = 0 then fZeroS (bitOf w 31)
    else if fFinite f && decide ((fScaled f - r).natAbs ≤ ulp.natAbs) then inWrapRange (fCanon f)
    else inWrapRange (fOfScaled r (-149))
  else qNaN

/-- The two exact outputs of FROT at scale 2^249: (a cos θ + b sin θ, −a sin θ + b cos θ), or with INV the inverse (R304). -/
def rotExact (inv : Bool) (a b th : Word) : Int × Int :=
  let s := sinFix (angleFix th)
  let c := cosFix (angleFix th)
  let x := fScaled a
  let y := fScaled b
  if inv then (x * c - y * s, x * s + y * c) else (x * c + y * s, y * c - x * s)

/-- One output of a rotation, free within 2^−21 × (|a| + |b|) of the exact one (R298). -/
def rotOut (inv second : Bool) (a b th : Word) : Word :=
  let e := rotExact inv a b th
  let v := if second then e.2 else e.1
  let bound := ((fScaled a).natAbs + (fScaled b).natAbs) * 2 ^ 79
  let f := Config.rotFree inv second a b th
  if fFinite f && decide ((fScaled f * 2 ^ 100 - v).natAbs ≤ bound) then fCanon f else fOfScaled v (-249)

/-- The rotation of (a, b) by θ (R304); a NaN or infinite operand makes both outputs NaN (R298). -/
def fRot (inv : Bool) (a b th : Word) : Word × Word :=
  if fFinite a && fFinite b && fFinite th then (rotOut inv false a b th, rotOut inv true a b th)
  else (qNaN, qNaN)

end Sys2Proof.Machine
end

