-- ==== Sys2Proof/Machine/Ops.lean ====
section
/-! DEFINITION. Machine/Ops.lean: the named operations every unit shares: units present, time, the register store, triggers, the raw signal plane, events to the fault collector. -/

namespace Sys2Proof.Machine

/-! ### Units present (R1, R46, R47) -/

/-- Masts present. -/
def Variant.masts : Variant → Nat
  | .sv6480 => 16 | .sv6460 => 12 | .sv6440 => 8 | .sv6420 => 4
/-- Lanes present. -/
def Variant.lanes : Variant → Nat
  | .sv6480 => 4 | .sv6460 => 4 | .sv6440 => 2 | .sv6420 => 2
/-- Contexts present. -/
def Variant.ctxs : Variant → Nat
  | .sv6480 => 64 | .sv6460 => 64 | .sv6440 => 48 | .sv6420 => 32
/-- Correlators, ring and bypass switches present. -/
def Variant.ring : Variant → Bool
  | .sv6420 => false | _ => true
/-- Remote temperature channels present. -/
def Variant.te : Variant → Nat
  | .sv6420 => 4 | _ => 8

/-- Mast m is present. -/
def State.hasMast (s : State) (m : Nat) : Bool := decide (m < s.variant.masts)
/-- Context c is present. -/
def State.hasCtx (s : State) (c : Nat) : Bool := decide (c < s.variant.ctxs)
/-- A signal of an absent mast, or of a peer window on a variant without the ring (R5). -/
def State.sigAbsent (s : State) (id : Nat) : Bool :=
  (decide (0x1000 ≤ id ∧ id < 0x9000) && !s.hasMast ((id - 0x1000) / 0x800)) || (decide (0x80000 ≤ id) && !s.variant.ring)

/-! ### Names of sources (R363, R364) and of trigger kinds (R235) -/

/-- Mast sources: k of R363. -/
abbrev MS.OC_POS : Nat := 0
abbrev MS.OC_NEG : Nat := 1
abbrev MS.TRIP_PIN : Nat := 2
abbrev MS.BUS_OV : Nat := 3
abbrev MS.BUS_UV : Nat := 4
abbrev MS.CHOPPER_FAIL : Nat := 5
abbrev MS.SHUNT_SENSE : Nat := 6
abbrev MS.INLINE_SENSE : Nat := 7
abbrev MS.ESTIMATOR : Nat := 8
abbrev MS.STALL : Nat := 9
abbrev MS.LOOP_OVERRUN : Nat := 10
abbrev MS.COMMAND_LOSS : Nat := 11
/-- Device sources (R364). -/
abbrev DS.FURL_ENTERED : Nat := 0x01
abbrev DS.ABSENT_UNIT : Nat := 0x02
abbrev DS.SIGNAL_ACCESS : Nat := 0x03
abbrev DS.SIGNAL_TIMEOUT : Nat := 0x04
abbrev DS.CELL_NAN : Nat := 0x05
abbrev DS.CELL_GUARD : Nat := 0x06
abbrev DS.ENG_BUDGET : Nat := 0x07
abbrev DS.ENG_EXCEPTION : Nat := 0x08
abbrev DS.LANE_FAULT : Nat := 0x09
abbrev DS.DELAY_CAL : Nat := 0x0A
abbrev DS.SP_FAST : Nat := 0x0B
abbrev DS.CAL_LATE : Nat := 0x0C
abbrev DS.CAL_FULL : Nat := 0x0D
abbrev DS.TIME_HOLDOVER : Nat := 0x0E
abbrev DS.TIME_REJECT : Nat := 0x0F
abbrev DS.TIME_SWITCH : Nat := 0x10
abbrev DS.TIME_SET : Nat := 0x11
abbrev DS.LINK_DOWN : Nat := 0x12
abbrev DS.RING_WRAP : Nat := 0x13
abbrev DS.RING_POLICE : Nat := 0x14
abbrev DS.RING_CODE : Nat := 0x15
abbrev DS.RING_TOPOLOGY : Nat := 0x16
abbrev DS.TEMP_WARN : Nat := 0x17
abbrev DS.TEMP_REEF : Nat := 0x18
abbrev DS.TEMP_RATE : Nat := 0x19
abbrev DS.TEMP_SHUTDOWN : Nat := 0x1A
abbrev DS.TEMP_SENSOR : Nat := 0x1B
abbrev DS.SUPPLY : Nat := 0x1C
abbrev DS.CLOCK_FAULT : Nat := 0x1D
abbrev DS.HOST_PROTO : Nat := 0x1E
abbrev DS.MEM_PORT : Nat := 0x1F
abbrev DS.STORE_ERR : Nat := 0x20
abbrev DS.IMAGE_INVALID : Nat := 0x21
abbrev DS.ROLE_DENIED : Nat := 0x22
abbrev DS.AUTH_FAIL : Nat := 0x23
abbrev DS.PARITY : Nat := 0x24
abbrev DS.FC_PEND_FULL : Nat := 0x25
/-- Trigger kinds in their order of service (R235). -/
abbrev TK.FAULT : Nat := 0
abbrev TK.SAMPLE : Nat := 1
abbrev TK.BOUNDARY : Nat := 2
abbrev TK.CALENDAR : Nat := 3
abbrev TK.TIMER : Nat := 4
abbrev TK.RING : Nat := 5
abbrev TK.WATCH : Nat := 6
abbrev TK.DOORBELL : Nat := 7

/-! ### Time (R42–R44) -/

/-- Taps of one cycle of each clock, and of the time units. -/
def tEng : Nat := 64
def tSpar : Nat := 128
def tHk : Nat := 512
def tUs : Nat := 15360
def tMs : Nat := 15360000
def tSec : Nat := 15360000000

/-- One ENGCLK increment of the time base in 2^−32 ns (R456): 4 ns plus the rate F. -/
def TimeBase.inc (t : TimeBase) : Nat := 4 * 2 ^ 32 + t.rate

/-- Nanoseconds × 2^32 in one second, and the wrap of the 48-bit seconds. -/
def nsSec : Nat := 1000000000 * 2 ^ 32
def tbWrap : Nat := 2 ^ 48 * nsSec

/-- Time passes by `dt` taps: the time base counts the ENGCLK edges of the interval (R456). -/
def State.advance (s : State) (dt : Nat) : State :=
  let n := (s.now + dt) / 64 - s.now / 64
  { s with now := s.now + dt, tb.total := (s.tb.total + n * s.tb.inc) % tbWrap }

/-- The machine as it stands, to be kept. -/
def State.note (s : State) : Was :=
  { now := s.now, regs := s.regs, deferred := s.deferred, sigs := s.sigs, masts := s.masts, bgs := s.bgs, furl := s.furl, fc := s.fc
    eng := s.eng, ring := s.ring, hk := s.hk, tb := s.tb, srv := s.srv, cal := s.cal, gpio := s.gpio, host := s.host, mem := s.mem
    role := s.role, store := s.store, clk := s.clk }

/-- The machine as it stood when the present SPARCLK cycle began. -/
def State.before (s : State) : State :=
  { s with
    now := s.was.now, regs := s.was.regs, deferred := s.was.deferred, sigs := s.was.sigs, masts := s.was.masts, bgs := s.was.bgs
    furl := s.was.furl, fc := s.was.fc, eng := s.was.eng, ring := s.was.ring, hk := s.was.hk, tb := s.was.tb, srv := s.was.srv
    cal := s.was.cal, gpio := s.was.gpio, host := s.was.host, mem := s.was.mem, role := s.was.role, store := s.was.store
    clk := s.was.clk }

/-- A cycle begins: nothing has been seen of it. -/
def State.turn (s : State) : State := { s with cyc := {}, was := s.note }

/-- The local time at an instant near now, in 2^−32 ns, interpolated between ENGCLK edges. -/
def State.localAt (s : State) (t : Nat) : Int :=
  (s.tb.total : Int) + ((t : Int) - ((s.now / 64 * 64 : Nat) : Int)) * (s.tb.inc : Int) / 64

/-- Local seconds and nanoseconds now. -/
def State.tbSec (s : State) : Nat := s.tb.total / nsSec
def State.tbNs (s : State) : Nat := s.tb.total % nsSec / 2 ^ 32

/-! ### The register store (R37–R41) -/

/-- Default classification of a fault source (R363, R364, R614): severity, promotion severity, count, window, unit, stop reaction, restart, idle. -/
def srcDefault (sev psev n win unit stop : Nat) (restart idle : Bool) : Word :=
  BitVec.ofNat 32 (2 ^ 31 + sev * 2 ^ 28 + psev * 2 ^ 25 + n * 2 ^ 21 + win * 2 ^ 14 + unit * 2 ^ 12 + stop * 2 ^ 10 +
    b2n restart * 2 ^ 8 + b2n idle * 2 ^ 7)

/-- Severity and counting of the device sources (R364). -/
def devSrcCfg : Nat → Word
  | 0x01 => srcDefault 1 1 0 0 0 0 false false
  | 0x02 => srcDefault 0 0 0 0 0 0 false false
  | 0x03 => srcDefault 0 0 0 0 0 0 false false
  | 0x04 => srcDefault 1 1 0 0 0 0 false false
  | 0x05 => srcDefault 0 0 0 0 0 0 false false
  | 0x06 => srcDefault 0 0 0 0 0 0 false false
  | 0x07 => srcDefault 1 1 0 0 0 0 false false
  | 0x08 => srcDefault 1 1 0 0 0 0 false false
  | 0x09 => srcDefault 2 2 0 0 0 0 false false
  | 0x0A => srcDefault 1 1 0 0 0 0 false false
  | 0x0B => srcDefault 0 0 0 0 0 0 false false
  | 0x0C => srcDefault 0 0 0 0 0 0 false false
  | 0x0D => srcDefault 1 1 0 0 0 0 false false
  | 0x0E => srcDefault 1 1 0 0 0 0 false false
  | 0x0F => srcDefault 0 1 8 1 2 0 false false
  | 0x10 => srcDefault 1 1 0 0 0 0 false false
  | 0x11 => srcDefault 0 0 0 0 0 0 false false
  | 0x12 => srcDefault 1 1 0 0 0 0 false false
  | 0x13 => srcDefault 1 1 0 0 0 0 false false
  | 0x14 => srcDefault 0 1 15 1 2 0 false false
  | 0x15 => srcDefault 0 1 15 1 2 0 false false
  | 0x16 => srcDefault 1 1 0 0 0 0 false false
  | 0x17 => srcDefault 1 1 0 0 0 0 false false
  | 0x18 => srcDefault 0 0 0 0 0 0 false false
  | 0x19 => srcDefault 2 2 0 0 0 0 false false
  | 0x1A => srcDefault 4 4 0 0 0 0 false false
  | 0x1B => srcDefault 1 1 0 0 0 0 false false
  | 0x1C => srcDefault 1 2 4 1 2 0 false false
  | 0x1D => srcDefault 4 4 0 0 0 0 false false
  | 0x1E => srcDefault 0 0 0 0 0 0 false false
  | 0x1F => srcDefault 1 1 0 0 0 0 false false
  | 0x20 => srcDefault 1 1 0 0 0 0 false false
  | 0x21 => srcDefault 1 1 0 0 0 0 false false
  | 0x22 => srcDefault 0 0 0 0 0 0 false false
  | 0x23 => srcDefault 1 2 5 60 2 0 false false
  | 0x24 => srcDefault 1 4 4 1 2 0 false false
  | 0x25 => srcDefault 4 4 0 0 0 0 false false
  | _ => 0#32

/-- Severity and counting of the mast sources (R363). -/
def mastSrcCfg : Nat → Word
  | 3 => srcDefault 1 1 0 0 0 0 false false
  | 4 => srcDefault 1 1 0 0 0 0 false false
  | 5 => srcDefault 2 2 0 0 0 0 false false
  | 6 => srcDefault 2 2 0 0 0 0 false false
  | 7 => srcDefault 2 2 0 0 0 0 false false
  | 8 => srcDefault 3 3 0 0 0 3 true false
  | 10 => srcDefault 1 3 3 100 0 0 false true
  | 11 => srcDefault 1 1 0 0 0 0 false true
  | _ => srcDefault 3 3 0 0 0 0 false false

/-- A source identifier that is allotted to a unit of this variant (R363, R364). -/
def srcPresent (v : Variant) (src : Nat) : Bool :=
  if src < 0x40 then
    decide (1 ≤ src ∧ src ≤ 0x25) && (v.ring || !(decide (0x12 ≤ src ∧ src ≤ 0x16)))
  else decide (src < 0x40 + 12 * v.masts)

/-- Reset word of FC_SRC_CFG of a source; 0 for a reserved or absent one (R393). -/
def srcCfgReset (v : Variant) (src : Nat) : Word :=
  if srcPresent v src then (if src < 0x40 then devSrcCfg src else mastSrcCfg ((src - 0x40) % 12)) else 0#32

/-- Reset word of FC_CONSEQ of a reaction (R380). -/
def conseqReset : Nat → Word
  | 3 => 0x00028700#32
  | 4 => 0x00064740#32
  | 6 => 0x00064DC0#32
  | 7 => 0x000C8FC0#32
  | _ => 0#32

/-- The reset word of a register key (address of the mast 0 copy + 0x2000 × index), by the reset columns of the register tables. -/
def resetWord (v : Variant) (key : Nat) : Word :=
  let a := key % 0x2000
  let i := key / 0x2000
  if a = R.FC_SRC_CFG then srcCfgReset v i
  else if a = R.FC_CONSEQ then conseqReset i
  else if a = R.ENG_CTL then (if v.lanes = 2 then 0x00106413#32 else 0x0010641F#32)
  else if a = 0x1010 ∨ a = 0x1018 ∨ a = 0x1020 then 0x00000001#32
  else if a = R.SNS_CFG then (if i < 24 then 0x80000000#32 else 0#32)
  else if a = R.REEF_MAP then BitVec.ofNat 32 (2 ^ i)
  else if a = R.HOST_CFG then 0x00000800#32
  else if a = R.RST_CAUSE then 0x00000001#32
  else match regRow a with
    | some r => BitVec.ofNat 32 r.reset
    | none => 0#32

/-- The stored word of a register key. -/
def State.rd (s : State) (key : Nat) : Word := spGet (resetWord s.variant key) s.regs key

/-- Store a word at a register key. -/
def State.wr (s : State) (key : Nat) (w : Word) : State :=
  { s with regs := spSet (resetWord s.variant key) s.regs key w }

/-- The key of a register of mast, context, group, … number `i`. -/
def keyI (a i : Nat) : Nat := a + 0x2000 * i

/-- A field of the stored word of a register with index `i`. -/
def State.fld (s : State) (f : Fld) (i : Nat := 0) : Nat := bitsOf (s.rd (keyI f.addr i)) f.hi f.lo

/-- A one-bit field as a Bool. -/
def State.flag (s : State) (f : Fld) (i : Nat := 0) : Bool := s.fld f i == 1

/-- Note what hardware sets in a register in the present cycle (R12). -/
def noteFresh (key : Nat) (f : Word → Word) : List (Nat × Word) → List (Nat × Word)
  | [] => [(key, f 0#32)]
  | e :: r => if e.1 = key then (key, f e.2) :: r else e :: noteFresh key f r

/-- The bits hardware has set, and the counts it has added, in a register in the present cycle (R12). -/
def State.freshOf (s : State) (key : Nat) : Word :=
  match s.cyc.fresh.find? fun e => e.1 == key with
  | some e => e.2
  | none => 0#32

/-- Hardware sets a field of a register with index `i`. -/
def State.setFld (s : State) (f : Fld) (i v : Nat) : State :=
  { s.wr (keyI f.addr i) (setBitsOf (s.rd (keyI f.addr i)) f.hi f.lo v) with
    cyc.fresh := noteFresh (keyI f.addr i) (fun w => setBitsOf w f.hi f.lo v) s.cyc.fresh }

/-- Hardware sets the bits of a word in a register. -/
def State.orFresh (s : State) (key : Nat) (w : Word) : State :=
  { s.wr key (s.rd key ||| w) with cyc.fresh := noteFresh key (fun x => x ||| w) s.cyc.fresh }

/-- A field with `n` added, saturating at its largest value. -/
def bumpBits (f : Fld) (n : Nat) (w : Word) : Word :=
  setBitsOf w f.hi f.lo (satNat (2 ^ (f.hi + 1 - f.lo) - 1) (bitsOf w f.hi f.lo + n))

/-- Hardware adds to a count field, saturating at its largest value. -/
def State.bump (s : State) (f : Fld) (i : Nat) (n : Nat := 1) : State :=
  { s.wr (keyI f.addr i) (bumpBits f n (s.rd (keyI f.addr i))) with
    cyc.fresh := noteFresh (keyI f.addr i) (bumpBits f n) s.cyc.fresh }

/-- A field of leg `l` of mast `m` (R92: eight offsets a leg). -/
def State.legFld (s : State) (f : Fld) (m l : Nat) : Nat := bitsOf (s.rd (keyI f.addr m + 8 * l)) f.hi f.lo

/-- The word in force of a register whose fields wait for a boundary (R75): the oldest waiting write's old word. -/
def effWord (d : List Deferred) (key : Nat) (w : Word) : Word :=
  match d with
  | [] => w
  | e :: r => if e.key = key then e.old else effWord r key w

/-- A field in force of a register with index `i` (R75). -/
def State.efld (s : State) (f : Fld) (i : Nat := 0) : Nat :=
  bitsOf (effWord s.deferred (keyI f.addr i) (s.rd (keyI f.addr i))) f.hi f.lo

/-- A leg field in force (R75). -/
def State.elegFld (s : State) (f : Fld) (m l : Nat) : Nat :=
  let k := keyI f.addr m + 8 * l
  bitsOf (effWord s.deferred k (s.rd k)) f.hi f.lo

/-- Drop the waiting writes of mast m that a boundary at `b` lets take effect: those made 8 PWMCLK cycles or more before it (R75). -/
def State.applyDeferred (s : State) (m b : Nat) : State :=
  { s with deferred := s.deferred.filter fun d => !(decide (d.key / 0x2000 = m) && decide (d.at_ + 256 ≤ b)) }

/-! ### Parts of the state by number -/

/-- Mast m. -/
def State.mast (s : State) (m : Fin 16) : Mast := s.masts[m]
/-- Replace mast m by a function of it. -/
def State.updM (s : State) (m : Fin 16) (f : Mast → Mast) : State :=
  { s with masts := s.masts.set m (f s.masts[m]) }
/-- Context c. -/
def State.ctx (s : State) (c : Fin 64) : Ctx := s.eng.ctxs[c]
/-- Replace context c by a function of it. -/
def State.updC (s : State) (c : Fin 64) (f : Ctx → Ctx) : State :=
  { s with eng.ctxs := s.eng.ctxs.set c (f s.eng.ctxs[c]) }
/-- The rank of context c among the writers of a SPARCLK cycle: by its lane, then by the ENGCLK cycle (R308, R316). -/
def State.laneRank (s : State) (c : Fin 64) : Nat := 2 * (s.ctx c).ran.val + 2 + s.now / tEng % 2

/-- The rank of an operation of context c among those on a cell and among the trace records of a SPARCLK cycle (R260, R262): by the ENGCLK cycle, then
by its lane; the host's are 8. -/
def State.cellRank (s : State) (c : Fin 64) : Nat := 4 * (s.now / tEng % 2) + (s.ctx c).ran.val

/-- Lane n. -/
def State.lane (s : State) (n : Fin 4) : Lane := s.eng.lanes[n]
/-- Replace lane n by a function of it. -/
def State.updL (s : State) (n : Fin 4) (f : Lane → Lane) : State :=
  { s with eng.lanes := s.eng.lanes.set n (f s.eng.lanes[n]) }
/-- Bus group g. -/
def State.bg (s : State) (g : Fin 8) : BusGroup := s.bgs[g]
/-- Replace bus group g by a function of it. -/
def State.updG (s : State) (g : Fin 8) (f : BusGroup → BusGroup) : State :=
  { s with bgs := s.bgs.set g (f s.bgs[g]) }

/-- Updates of the units of mast m. -/
def State.updPwm (s : State) (m : Fin 16) (f : Pwm → Pwm) : State := s.updM m fun x => { x with pwm := f x.pwm }
def State.updSense (s : State) (m : Fin 16) (f : Sense → Sense) : State := s.updM m fun x => { x with sense := f x.sense }
def State.updCom (s : State) (m : Fin 16) (f : Com → Com) : State := s.updM m fun x => { x with com := f x.com }
def State.updSeq (s : State) (m : Fin 16) (f : Seq → Seq) : State := s.updM m fun x => { x with seq := f x.seq }
def State.updHal (s : State) (m : Fin 16) (f : Hal → Hal) : State := s.updM m fun x => { x with hal := f x.hal }
def State.updCmd (s : State) (m : Fin 16) (f : CmdPin → CmdPin) : State := s.updM m fun x => { x with cmd := f x.cmd }
def State.updShr (s : State) (m : Fin 16) (f : Shroud → Shroud) : State := s.updM m fun x => { x with shr := f x.shr }
def State.updFc (s : State) (f : Fc → Fc) : State := { s with fc := f s.fc }
def State.updEng (s : State) (f : Eng → Eng) : State := { s with eng := f s.eng }

/-- The masts present. -/
def State.mastList (s : State) : List (Fin 16) := (allFin 16).filter fun m => s.hasMast m
/-- The contexts present. -/
def State.ctxList (s : State) : List (Fin 64) := (allFin 64).filter fun c => s.hasCtx c

/-- Do `f` when `c` holds. -/
def State.when (s : State) (c : Bool) (f : State → State) : State := if c then f s else s

/-! ### Events and triggers -/

/-- The outputs of a mast are disabled: neither enabled nor held LOW by a braking pulse. -/
def State.mastIdle (s : State) (m : Option Nat) : Bool :=
  match m with
  | some n => (match s.masts.toArray[n]? with | some x => !x.seq.outEn && !x.seq.brakeLow | none => false)
  | none => false

/-- A detector delivers an event (R362); a source of an absent unit never does. -/
def State.raise (s : State) (src detail : Nat) (mast : Option Nat := none) (marked : Bool := false) : State :=
  if srcPresent s.variant src then
    { s with fc.events := s.fc.events ++ [{ src := src, detail := detail, mast := mast, marked := marked }] }
  else s

/-- Source k of mast m raises (R363). -/
def State.raiseM (s : State) (m : Fin 16) (k detail : Nat) (marked : Bool := false) : State :=
  s.raise (0x40 + 12 * m.val + k) detail (some m.val) marked

/-- Put a trigger among the pending ones; a kind already pending is replaced (R236). -/
def putTrig (t : Trig) : List Trig → List Trig
  | [] => [t]
  | x :: r => if x.kind = t.kind then t :: r else x :: putTrig t r

/-- A trigger reaches context c (R233, R235, R236). -/
def State.trigger (s : State) (cn kind a b : Nat) : State :=
  if h : cn < 64 then
    let c : Fin 64 := ⟨cn, h⟩
    if !s.hasCtx cn then s
    else
      let x := s.ctx c
      let t : Trig := { kind := kind, a := a, b := b, at_ := s.now }
      match x.st with
      | .disabled => s
      | .faulted => s.setFld F.CTX_STAT_TOVR cn 1
      | .waiting => s.updC c fun x => { x with st := .runnable, act := some t, begun := false, since := s.now, spent := false, issues := 0, budgetHit := false, demoted := false, noted := false, runWait := 0 }
      | _ =>
        let s1 := if x.pend.any (fun y => y.kind = kind) then s.setFld F.CTX_STAT_TOVR cn 1 else s
        s1.updC c fun x => { x with pend := putTrig t x.pend }
  else s

/-! ### The raw signal plane (R28) -/

/-- Signal number of offset `o` of mast m's block (R28). -/
def sigM (m o : Nat) : Nat := 0x1000 + 0x800 * m + o

/-- Reset values of a mast block (R198, R229): 0.0 where the tables give none. -/
def mastSigReset : Nat → Word
  | 0x082 => 0x42C80000#32
  | 0x083 => 0x42C80000#32
  | 0x084 => 0x447A0000#32
  | 0x085 => 0x42C80000#32
  | 0x08B => 4#32
  | 0x099 => 0x40400000#32
  | 0x09B => 0x3F800000#32
  | 0x0C0 => 0x7F800000#32
  | 0x0C1 => 0x3F800000#32
  | 0x0C2 => 0x41200000#32
  | 0x0C4 => 0x3F800000#32
  | 0x101 => 7#32
  | _ => 0#32

/-- What an unlisted signal reads as. -/
def sigReset (id : Nat) : Word :=
  if 0x1000 ≤ id ∧ id < 0x9000 then mastSigReset ((id - 0x1000) % 0x800) else 0#32

/-- The stored value of a signal. -/
def State.sig (s : State) (id : Nat) : Word := spGet (sigReset id) s.sigs id

/-- Signal `o` of mast m. -/
def State.msig (s : State) (m : Fin 16) (o : Nat) : Word := s.sig (sigM m o)

/-- The contexts whose watch names a signal, with their condition (R238): read off the stored CTX_TRIG words. -/
def watchers (id : Nat) : Sparse → List (Nat × Bool)
  | [] => []
  | (k, w) :: r =>
    if k % 0x2000 = R.CTX_TRIG ∧ bitOf w 31 = true ∧ bitsOf w 19 0 = id then (k / 0x2000, bitOf w 30) :: watchers id r
    else watchers id r

/-- Fire the watches of a write that changed (or did not change) a signal (R238). -/
def fireWatches (s : State) (id : Nat) (changed : Bool) : List (Nat × Bool) → State
  | [] => s
  | (c, always) :: r =>
    if always || changed then fireWatches (s.trigger c 6 id 0) id changed r else fireWatches s id changed r

/-- Crow's nest start on a write to TRC_TRIG.WSIG (R264). -/
def State.trcWatch (s : State) (id : Nat) : State :=
  if s.flag F.TRC_CTL_EN && s.fld F.TRC_TRIG_COND == 1 && s.fld F.TRC_TRIG_WSIG == id && !s.eng.trcTrig then
    { s with eng.trcTrig := true, eng.trcRun := !s.eng.trcFull }
  else s

/-- Write a signal, whoever writes it: the value, then the watches (R238). -/
def State.putSig (s : State) (id : Nat) (w : Word) : State :=
  let old := s.sig id
  let s1 := { s with sigs := spSet (sigReset id) s.sigs id w }
  (fireWatches s1 id (decide (old ≠ w)) (watchers id s1.regs)).trcWatch id

/-- Hardware writes signal `o` of mast m. -/
def State.putM (s : State) (m : Fin 16) (o : Nat) (w : Word) : State := s.putSig (sigM m o) w

/-- Hardware writes several signals of mast m. -/
def State.putMs (s : State) (m : Fin 16) : List (Nat × Word) → State
  | [] => s
  | (o, w) :: r => (s.putM m o w).putMs m r

/-- An integer as a signal word. -/
def nat32 (n : Nat) : Word := BitVec.ofNat 32 n

/-! ### Shared readings of a mast -/

/-- PWM_CTL.RUN (R52). -/
def State.running (s : State) (m : Fin 16) : Bool := s.flag F.PWM_CTL_RUN m
/-- Centre-aligned counting (R48). -/
def State.centre (s : State) (m : Fin 16) : Bool := s.flag F.PWM_CTL_MODE m
/-- The prescaler p (R48). -/
def State.presc (s : State) (m : Fin 16) : Nat := 2 ^ s.fld F.PWM_CTL_PRESC m
/-- The period in taps of a PERIOD value (R49). -/
def State.perTaps (s : State) (m : Fin 16) (per : Nat) : Nat :=
  32 * per * s.presc m * (if s.centre m then 2 else 1)
/-- The mast is unrigged (R559). -/
def State.unrigged (s : State) (m : Nat) : Bool := (s.fld F.RIG_CTL_UNRIG).testBit m

end Sys2Proof.Machine
end

