-- ==== Sys2Proof/Machine/Pwm.lean ====
section
/-! DEFINITION. Machine/Pwm.lean: staging, commits and reload, the case table, the sheet mask, the gate composition, safe states at the gates, anchoring (ch. 2; R340–R343, R346). -/

namespace Sys2Proof.Machine

/-! ### Staging and commit (R71–R73) -/

/-- The staged values of leg l of mast m, read from its registers (R71). -/
def State.stagedLeg (s : State) (m : Fin 16) (l : Nat) : LegSet :=
  let k := 8 * l
  let dr := s.rd (keyI R.LEG_DT_RISE m + k)
  { a := bitsOf (s.rd (keyI R.LEG_CMP_A m + k)) 20 0
    b := bitsOf (s.rd (keyI R.LEG_CMP_B m + k)) 20 0
    dtr := bitsOf dr 16 0
    dtf := bitsOf (s.rd (keyI R.LEG_DT_FALL m + k)) 16 0
    minp := bitsOf dr 31 24 }

/-- The staging set of mast m (R71). -/
def State.staged (s : State) (m : Fin 16) : PwmSet :=
  { legs := #v[s.stagedLeg m 0, s.stagedLeg m 1, s.stagedLeg m 2, s.stagedLeg m 3]
    period := s.fld F.PWM_CTL_PERIOD m }

/-- A commit completes inside the 8-cycle guard of a boundary at `b`, or in its cycle (R73, cycles −7 to 0). -/
def inGuard (t b : Nat) : Bool := decide (b < t + 256) && decide (t < b + 32)

/-- A commit completed early enough for a boundary at `b` (R73). -/
def Commit.ripe (e : Commit) (b : Nat) : Bool := decide (e.doneAt + 256 ≤ b)

/-- One commit comes before another: by the instants they complete, of one SPARCLK cycle by the ranks of their makers (R24, R316). -/
def Commit.before (e x : Commit) : Bool := if e.cyc = x.cyc then decide (e.rank < x.rank) else decide (e.doneAt < x.doneAt)

/-- A commit takes its place among others, oldest first. -/
def insCommit (e : Commit) : List Commit → List Commit
  | [] => [e]
  | x :: r => if e.before x then e :: x :: r else x :: insCommit e r

/-- Commits without those that a later one of the same tag replaces at every boundary from `t` on (R23, R24, R316). -/
def keepLive (t : Nat) : List Commit → List Commit
  | [] => []
  | e :: r => if r.any fun x => decide (x.tag = e.tag) && x.ripe t then keepLive t r else e :: keepLive t r

/-- The two most recent tags have their entries (R23). -/
def twoTags (l : List Commit) : List Commit :=
  l.filter fun e => decide (((l.map (·.tag)).eraseDups.filter fun k => decide (e.tag < k)).length < 2)

/-- A commit joins the others of its kind. -/
def putCommit (t : Nat) (e : Commit) (l : List Commit) : List Commit := keepLive t (insCommit e l)

/-- LOOP_CFG.DIV in force, 1–16 (R27). -/
def State.loopDiv (s : State) (m : Fin 16) : Nat := s.efld F.LOOP_CFG_DIV m

/-- The earliest boundary still to be carried out cannot come before this instant. -/
def State.liveFrom (s : State) (m : Fin 16) : Nat :=
  let p := (s.mast m).pwm
  if p.counting && decide (p.bNext < s.now) then p.bNext else s.now

/-- A set is committed on mast m, complete at instant `at_` (R72): tagged with a sample set number, or untagged. DESIGN CHOICE, log entry 88:
the due boundary takes LOOP_CFG.DIV as it is in force when the commit is made. -/
def State.commitSet (s : State) (m : Fin 16) (set : PwmSet) (tag sheet : Option Nat) (at_ rank : Nat) : State :=
  let p := (s.mast m).pwm
  let t := s.liveFrom m
  let e : Commit := { set := set, doneAt := at_, sheet := sheet, cyc := s.now / tSpar, rank := rank }
  match tag with
  | none =>
    let late := p.counting && (inGuard at_ p.bNext || (decide (p.k ≠ 0) && inGuard at_ p.bPrev))
    (s.updPwm m fun p => { p with untag := putCommit t e p.untag, hist := putCommit t e p.hist }).when late
      fun s => s.setFld F.PWM_STAT_LATE m 1
  | some k =>
    let due := k + 1 + s.loopDiv m
    let late := p.counting && ((decide (due = p.k) && inGuard at_ p.bNext) ||
      (decide (due + 1 = p.k) && inGuard at_ p.bPrev))
    (s.updPwm m fun p =>
      { p with shadow := twoTags (putCommit t { e with tag := k, due := due } p.shadow), hist := putCommit t e p.hist }).when late
      fun s => s.setFld F.PWM_STAT_LATE m 1

/-! ### Reload at a boundary (R23–R26, R52, R74) -/

/-- The tagged entry a boundary `k` at `b` takes: of the ripe ones that are due or overdue the latest of the newest tag (R23, R26). -/
def dueEntry (l : List Commit) (k b : Nat) : Option Commit :=
  (l.filter fun e => e.ripe b && decide (e.due ≤ k)).foldl
    (fun a e => match a with | some x => if x.tag ≤ e.tag then some e else some x | none => some e) none

/-- The untagged commit a boundary at `b` takes: the synchronising vector, else the latest ripe one (R24, R73, R211). -/
def dueUntag (l : List Commit) (b : Nat) : Option Commit :=
  match l.find? (·.sync) with
  | some e => some e
  | none => (l.filter fun e => e.ripe b).getLast?

/-- The entry loaded at boundary k at `b`: the synchronising vector whatever else is due, else the later of the tagged and the untagged one
(R24, R211). DESIGN CHOICE, log entry 78: of two complete at the same instant the untagged one. -/
def chooseEntry (p : Pwm) (b : Nat) : Option Commit :=
  match dueEntry p.shadow p.k b, dueUntag p.untag b with
  | none, u => u
  | t, none => t
  | some x, some y => if y.sync then some y else if x.doneAt ≤ y.doneAt then some y else some x

/-- Sets whose commit is due at boundary k and missing (R25); with a synchronising vector loaded none counts (R211). -/
def overruns (p : Pwm) (b : Nat) : Nat :=
  if p.untag.any (·.sync) then 0
  else (p.dueSets.filter fun d => decide (d.2 = p.k) && !(p.shadow.any fun e => decide (e.tag = d.1) && e.ripe b)).length

/-- A loaded PERIOD: below 1,200 it is taken as 1,200 (R50). -/
def clampPeriod (per : Nat) : Nat := if per < 1200 then 1200 else per

/-- The set period 0 at `b` starts from: the most recent commit that came early enough, else zero compares with the staged PERIOD, dead
times and MINP (R52, R73). -/
def State.firstSet (s : State) (m : Fin 16) (b : Nat) : PwmSet :=
  match ((s.mast m).pwm.hist.filter fun e => e.ripe b).getLast? with
  | some e => e.set
  | none =>
    let st := s.staged m
    { st with legs := st.legs.map fun l => { l with a := 0, b := 0 } }

/-- A set with its compares at 0 % (R392). -/
def PwmSet.zeroed (x : PwmSet) : PwmSet := { x with legs := x.legs.map fun l => { l with a := 0, b := 0 } }

/-- The reload at the boundary `b` of mast m: the active set, the sheet a SOFT commit carries, LATE and overrun effects (R23–R26, R50, R52, R80).
DESIGN CHOICE, log entry 103: a SHEET loads where SH_SRC is SOFT at its commit and at its load. -/
def State.reload (s : State) (m : Fin 16) (b : Nat) : State :=
  let p := (s.mast m).pwm
  let e := chooseEntry p b
  let n := overruns p b
  let set := if p.k = 0 then some (s.firstSet m b) else e.map (·.set)
  let act0 := set.getD p.act
  let act := if (s.mast m).resetAt.isSome then p.act.zeroed else act0
  let low := decide (act.period < 1200)
  let sheet := if s.efld F.PWM_CTL_SH_SRC m = 0 ∧ (s.mast m).resetAt.isNone = true then (e.bind (·.sheet)) else none
  let s1 := s.updPwm m fun p =>
    { p with
      act := { act with period := clampPeriod act.period }
      untag := p.untag.filter fun e => !(e.ripe b || e.sync)
      shadow := p.shadow.filter fun e => !(e.ripe b && decide (e.due ≤ p.k))
      dueSets := p.dueSets.filter fun d => decide (p.k < d.2)
      sheet := sheet.getD p.sheet }
  let s2 := s1.when low fun s => s.setFld F.PWM_STAT_CFG_ERR m 1
  s2.when (decide (0 < n)) fun s =>
    ((s.bump F.LOOP_OVR_COUNT m n).bump F.LOOP_OVR_TOTAL m n).raiseM m MS.LOOP_OVERRUN 0

/-! ### The case table (R54–R59, R67–R70) -/

/-- A compare value in taps: the tap bits are dropped with a prescaler above 1 or without a valid calibration (R54, R63). -/
def cmpTaps (cal : Bool) (p v : Nat) : Nat :=
  if p = 1 ∧ cal = true then v else v / 32 * 32 * p

/-- A dead time in taps: without a valid calibration rounded up to whole cycles (R63). -/
def dtTaps (cal : Bool) (v : Nat) : Nat := if cal then v else (v + 31) / 32 * 32

/-- What a leg is resolved from (R67, R68). -/
structure LegIn where
  centre : Bool
  stretch : Bool
  cal : Bool
  /-- DRIVE: 0 COMPL, 1 HIGH_ONLY, 2 LOW_ONLY. -/
  drive : Nat
  tLen : Nat
  per : Nat
  p : Nat
  /-- Compare pair as staged values; `c` also carries the exact values (R57). -/
  c : Nat
  b : Nat
  dtr : Nat
  dtf : Nat
  minp : Nat
  deriving DecidableEq, Repr

/-- The flag a row of the case table sets. -/
inductive CaseFlag where
  | none | cfgErr | cmpSat | minpAct
  deriving DecidableEq, Repr

/-- M: the larger of MINP and the floor of 4.167 ns (R67). -/
def LegIn.m (x : LegIn) : Nat := if 32 * x.minp < 64 then 64 else 32 * x.minp
/-- Dead times in force: none with an idle gate (R70). -/
def LegIn.dr (x : LegIn) : Nat := if x.drive = 0 then dtTaps x.cal x.dtr else 0
def LegIn.df (x : LegIn) : Nat := if x.drive = 0 then dtTaps x.cal x.dtf else 0
/-- Compares in taps. -/
def LegIn.ct (x : LegIn) : Nat := cmpTaps x.cal x.p x.c
def LegIn.bt (x : LegIn) : Nat := cmpTaps x.cal x.p x.b
/-- Half a centre-aligned period without trim. -/
def LegIn.half (x : LegIn) : Nat := 32 * x.per * x.p
/-- The requested high time P (R55, R56). -/
def LegIn.high (x : LegIn) : Nat := if x.centre then x.ct + x.bt else x.ct - x.bt
/-- A compare value saturates (R58). -/
def LegIn.sat (x : LegIn) : Bool :=
  decide (32 * x.per ≤ x.c) || (x.centre && decide (32 * x.per ≤ x.b))
/-- REF edges of the requested pulse (R55, R56). -/
def LegIn.rise (x : LegIn) : Int := if x.centre then (x.half : Int) - x.ct else x.bt
def LegIn.fall (x : LegIn) : Int := if x.centre then (x.half : Int) + x.bt else x.ct

/-- An instant as an edge can take it: without a valid calibration on a whole PWMCLK cycle (R63). -/
def LegIn.edge (x : LegIn) (t : Int) : Int := if x.cal then t else t / 32 * 32

/-- The pulse of high time P from which row 4 and the stretched low pulse are made (R58, R63, R68). -/
def LegIn.longest (x : LegIn) : Int := x.edge ((x.tLen : Int) - x.df - x.m)

/-- A stretched high pulse (R69). DESIGN CHOICE, log entry 89: a centre on half a tap rounds down. -/
def LegIn.stretchHigh (x : LegIn) : LegPlan :=
  let on0 : Int := if x.centre then x.edge ((x.rise + x.fall - x.m) / 2) else x.rise + x.dr
  let on1 : Int := if on0 < x.dr then x.dr else on0
  let on2 : Int := if x.longest < on1 + x.m then x.longest - x.m else on1
  .pulse (on2 - x.dr) (on2 + x.m) x.dr x.df

/-- A saturated pulse (R58): about the centre of the period, or from the boundary on. DESIGN CHOICE, log entry 89: rounded as above. -/
def LegIn.saturated (x : LegIn) : LegPlan :=
  let r : Int := if x.centre then x.edge (((x.tLen : Int) - x.longest) / 2) else 0
  .pulse r (r + x.longest) x.dr x.df

/-- The case table (R68): the outcome of a PHASE or FREE leg in PASS, and the flag its row sets. -/
def resolveLeg (x : LegIn) : LegPlan × CaseFlag :=
  if x.c = 0 ∨ (x.centre = false ∧ x.high = 0 ∧ x.c ≠ 0x1FFFFF) then (.low, .none)
  else if x.c = 0x1FFFFF then (.high, .none)
  else if x.tLen < x.dr + x.df + 2 * x.m then (.off, .cfgErr)
  else if x.sat then (x.saturated, .cmpSat)
  else if (x.high : Int) - x.dr < x.m then
    (if x.stretch then x.stretchHigh else .low, .minpAct)
  else if (x.tLen : Int) - x.high - x.df < x.m then
    (if x.stretch then
      -- a stretched low pulse keeps REF's rising edge (R69)
      .pulse x.rise (x.rise + x.longest) x.dr x.df
     else .high, .minpAct)
  else (.pulse x.rise x.fall x.dr x.df, .none)

/-- A shift of both REF edges (R103). -/
def LegPlan.shift (d : Int) : LegPlan → LegPlan
  | .pulse r f a b => .pulse (r + d) (f + d) a b
  | x => x

/-! ### Gate composition (R77–R79, R340–R343, R346) -/

/-- Leg function (R92): 0 UNUSED, 1 PHASE, 2 FREE, 3 CHOPPER. -/
def State.legFunc (s : State) (m : Fin 16) (l : Nat) : Nat := s.legFld F.LEG_CFG_FUNC m l
/-- Leg drive (R92). -/
def State.legDrive (s : State) (m : Fin 16) (l : Nat) : Nat := s.legFld F.LEG_CFG_DRIVE m l

/-- The pin latch of mast m acts on legs U, V, W, or on leg X (R329). -/
def State.tripUVW (s : State) (m : Fin 16) : Bool := (s.mast m).shr.trip && s.fld F.SHR_CTL_ROUTE m != 1
def State.tripX (s : State) (m : Fin 16) : Bool := (s.mast m).shr.trip && s.fld F.SHR_CTL_ROUTE m != 0

/-- The group mast m belongs to (R348). -/
def State.groupOf (s : State) (m : Fin 16) : Option (Fin 8) :=
  (allFin 8).find? fun g => (s.fld F.BG_CFG_MEMBERS g).testBit m

/-- The group's SAFE state requests a safe state of mast m (R355, R356): 0 none, 1 OFF, 2 ASC. -/
def State.groupReq (s : State) (m : Fin 16) : Nat :=
  match s.groupOf m with
  | none => 0
  | some g => if (s.bg g).st = .safe then (if s.flag F.BUS_CFG_BUS_SAFE m then 1 else 2) else 0

/-- The mast's own requests (R333, R373): latched comparators and pin, an ASC held by a reaction. -/
def State.ownReq (s : State) (m : Fin 16) : Nat :=
  let h := (s.mast m).shr
  let oc := h.ocp || h.ocn
  let pin := s.tripUVW m
  let asc := (s.mast m).seq.ascHold
  if (oc && !s.flag F.SHR_CTL_OC_SAFE m) || (pin && !s.flag F.SHR_CTL_TRIP_SAFE m) then 1
  else if oc || pin || asc then 2 else 0

/-- The combined request (R341): OFF prevails over ASC. -/
def State.safeReq (s : State) (m : Fin 16) : Nat :=
  if s.ownReq m = 1 ∨ s.groupReq m = 1 then 1
  else if s.ownReq m = 2 ∨ s.groupReq m = 2 then 2 else 0

/-- The safe state furl holds mast m in (R346): 0 none, 1 OFF, 2 ASC. -/
def State.furlReq (s : State) (m : Fin 16) : Nat :=
  if s.furl.furled then (if s.flag F.BUS_CFG_FURL_SAFE m then 2 else 1) else 0

/-- What a leg of mast m is composed to, level by level (R77): 0 both gates off, 1 low gate on, 2 high gate on, 3 follows REF. -/
def State.legLevel (s : State) (m : Fin 16) (l : Nat) : Nat :=
  let f := s.legFunc m l
  let x := s.mast m
  let safeOf := fun (r : Nat) => if r = 2 then 1 else 0
  if !s.clk.ready || f = 0 then 0
  else if f = 3 then
    (if x.shr.safeX then 0
     else if x.shr.chopOn then (if s.legDrive m l = 2 then 1 else 2) else (if s.legDrive m l = 2 then 2 else 1))
  else if l < 3 then
    (if x.shr.safe ≠ 0 then safeOf x.shr.safe
     else if s.furlReq m ≠ 0 then safeOf (s.furlReq m)
     else if x.resetAt.isSome then 0
     else if x.seq.brakeLow then 1
     else if !x.seq.outEn then 0
     else match (x.pwm.sheet >>> (2 * l)) % 4 with
       | 1 => 0
       | 2 => 1
       | 3 => 2
       | _ => 3)
  else
    (if x.shr.safe ≠ 0 || s.furlReq m ≠ 0 || x.shr.safeX || x.resetAt.isSome then 0
     else if s.elegFld F.LEG_CFG_OEN m l = 0 then 0
     else match (x.pwm.sheet >>> 6) % 4 with
       | 1 => 0
       | 2 => 1
       | 3 => 2
       | _ => 3)

/-- REF over a period (R55, R56, R68): when it rises and when it falls again, taps from the boundary; none where it stays low. A cut forces it
low from `cut` on (R335). -/
def LegPlan.ref (cut : Option Int) : LegPlan → Option (Int × Option Int)
  | .off => none
  | .low => none
  | .high => match cut with
    | some c => if c ≤ 0 then none else some (0, some c)
    | none => some (0, none)
  | .pulse r f _ _ => match cut with
    | some c => if c ≤ r then none else some (r, some (min c f))
    | none => some (r, some f)

/-- REF is high at the end of a period of T taps. -/
def LegPlan.refEnd (cut : Option Int) (tLen : Int) (p : LegPlan) : Bool :=
  match p.ref cut with
  | none => false
  | some (r, f) => decide (r < tLen) && (match f with | some x => decide (tLen ≤ x) | none => true)

/-- Dead times a plan works with: its own, or those of its leg. -/
def LegPlan.dead (d : Int × Int) : LegPlan → Int × Int
  | .pulse _ _ dr df => (dr, df)
  | _ => d

/-- Gates (low, high) that REF asks for `t` taps after the boundary, `was` telling whether REF was high just before it: a gate turns on its
dead time after the transition of REF, one at the boundary included, and off with it (R59, R66). -/
def LegPlan.gates (was : Bool) (d : Int × Int) (cut : Option Int) (t : Int) (p : LegPlan) : Bool × Bool :=
  let dr := (p.dead d).1
  let df := (p.dead d).2
  match p with
  | .off => (false, false)
  | _ => match p.ref cut with
    | none => (!was || decide (df ≤ t), false)
    | some (r, f) =>
      let up := if was && decide (r ≤ 0) then decide (0 ≤ t) else decide (r + dr ≤ t)
      let down := match f with | some x => decide (x + df ≤ t) | none => false
      let held := match f with | some x => decide (t < x) | none => true
      ((decide (t < r) && (!was || decide (df ≤ t))) || down, up && decide (r ≤ t) && held)

/-- Instants at which the gates that REF asks for can change, taps from the boundary. -/
def LegPlan.edges (d : Int × Int) (cut : Option Int) (p : LegPlan) : List Int :=
  let dr := (p.dead d).1
  let df := (p.dead d).2
  match p.ref cut with
  | none => [0, df]
  | some (r, f) => [0, df, r, r + dr] ++ (match f with | some x => [x, x + df] | none => [])

/-- Dead times (rise, fall) of leg l: none with an idle gate, whole cycles without a valid calibration (R63, R66, R70). -/
def State.deadTimes (s : State) (m : Fin 16) (l : Fin 4) : Nat × Nat :=
  let x := s.mast m
  let a := x.pwm.act.legs[l]
  if s.legDrive m l = 0 then (dtTaps x.calValid[l] a.dtr, dtTaps x.calValid[l] a.dtf) else (0, 0)

/-- The cut of leg l in this period, taps from the boundary (R335). -/
def State.cutOf (s : State) (m : Fin 16) (l : Fin 4) : Option Int :=
  let h := (s.mast m).shr
  if h.cutLegs.testBit l.val then h.cutAt.map fun c => (c : Int) - (s.mast m).pwm.bPrev else none

/-- Dead times as integers. -/
def State.deadInt (s : State) (m : Fin 16) (l : Fin 4) : Int × Int := ((s.deadTimes m l).1, (s.deadTimes m l).2)

/-- Gates (low, high) of a leg at an instant since the composition last changed, before the interlock: the composition of R77, the idle gate of a
single-sided drive never driven (R66, R70). -/
def State.gateReq (s : State) (m : Fin 16) (l : Fin 4) (t : Nat) : Bool × Bool :=
  let p := (s.mast m).pwm
  let g : Bool × Bool := match s.legLevel m l with
    | 0 => (false, false)
    | 1 => (true, false)
    | 2 => (false, true)
    | _ => p.plans[l].gates p.refWas[l] (s.deadInt m l) (s.cutOf m l) ((t : Int) - p.bPrev)
  match s.legDrive m l with
  | 1 => (false, g.2)
  | 2 => (g.1, false)
  | _ => g

/-- Gates (low, high) at the balls at such an instant: no gate turns on before the other has been off for its dead time; one that was on when the
composition changed is not turned on again (R57, R78). -/
def State.gatesAt (s : State) (m : Fin 16) (l : Fin 4) (t : Nat) : Bool × Bool :=
  let p := (s.mast m).pwm
  let g := s.gateReq m l t
  let d := s.deadTimes m l
  let off := fun (i : Nat) => p.offAt.toArray.getD i 0
  (g.1 && (p.gateWas.testBit (2 * l.val) || decide (off (2 * l.val + 1) = 0) || decide (off (2 * l.val + 1) + d.2 ≤ t)),
   g.2 && (p.gateWas.testBit (2 * l.val + 1) || decide (off (2 * l.val) = 0) || decide (off (2 * l.val) + d.1 ≤ t)))

/-- Gates (low, high) at the balls now. -/
def State.gates (s : State) (m : Fin 16) (l : Fin 4) : Bool × Bool := s.gatesAt m l s.now

/-- Gates (low, high) just before an instant since the composition last changed. -/
def State.gatesBefore (s : State) (m : Fin 16) (l : Fin 4) (t : Nat) : Bool × Bool :=
  let p := (s.mast m).pwm
  if t ≤ p.gateChg then (p.gateWas.testBit (2 * l.val), p.gateWas.testBit (2 * l.val + 1)) else s.gatesAt m l (t - 1)

/-- Instants since the composition last changed at which a gate of leg l can have changed. -/
def State.gateTimes (s : State) (m : Fin 16) (l : Fin 4) : List Nat :=
  let p := (s.mast m).pwm
  let d := s.deadTimes m l
  let off := fun (i : Nat) => p.offAt.toArray.getD i 0
  let plan := (p.plans[l].edges (s.deadInt m l) (s.cutOf m l)).map fun x => ((p.bPrev : Int) + x).toNat
  (p.gateChg :: (off (2 * l.val) + d.1) :: (off (2 * l.val + 1) + d.2) :: plan).filter fun t =>
    decide (p.gateChg ≤ t) && decide (t ≤ s.now)

/-- The latest of some instants that satisfy a condition, at least `a`. -/
def latestOf (p : Nat → Bool) (a : Nat) (l : List Nat) : Nat := l.foldl (fun a t => if p t then Nat.max a t else a) a

/-- The latest gate edge of leg l up to now, after dead time and mask (R84). -/
def State.lastGateEdge (s : State) (m : Fin 16) (l : Fin 4) : Nat :=
  latestOf (fun t => s.gatesBefore m l t != s.gatesAt m l t) (s.mast m).pwm.lastEdge[l] (s.gateTimes m l)

/-- The gate edges of leg l since the composition last changed, up to now. -/
def State.newEdges (s : State) (m : Fin 16) (l : Fin 4) : List (Nat × Nat) :=
  (((s.gateTimes m l).eraseDups.filter fun t => s.gatesBefore m l t != s.gatesAt m l t)).map fun t => (l.val, t)

/-- The gate edges of the step in force that blanking windows can begin at, up to now (R84, R164). -/
def State.edgesNow (s : State) (m : Fin 16) : List (Nat × Nat) :=
  (allFin 4).flatMap (s.newEdges m) ++ (s.mast m).pwm.stepEdges

/-- The instant gate i (2l the low gate of leg l, 2l + 1 its high gate) was last on (R78). -/
def State.lastOn (s : State) (m : Fin 16) (i : Fin 8) : Nat :=
  let l := Fin.ofNat 4 (i.val / 2)
  let of := fun (g : Bool × Bool) => if i.val % 2 = 0 then g.1 else g.2
  if of (s.gates m l) then s.now
  else latestOf (fun t => of (s.gatesBefore m l t) && !of (s.gatesAt m l t)) (s.mast m).pwm.offAt[i] (s.gateTimes m l)

/-- Note the gates as they stand, before the composition changes (R78, R84). Of several changes of one instant the first finds them. -/
def State.gateMark (s : State) (m : Fin 16) : State :=
  if (s.mast m).pwm.gateChg = s.now then s
  else
    let bits := (allFin 4).foldl (fun acc l =>
      let g := s.gates m l
      acc + b2n g.1 * 2 ^ (2 * l.val) + b2n g.2 * 2 ^ (2 * l.val + 1)) 0
    s.updPwm m fun p =>
      { p with
        gateWas := bits, gateChg := s.now, offAt := Vector.ofFn fun i => s.lastOn m i
        lastEdge := Vector.ofFn fun l => s.lastGateEdge m l
        stepEdges := if (s.mast m).com.drive = 2 then s.edgesNow m else [] }

/-- The share of a period of T taps that begins now for which the high gate of leg l is planned on (R93): from the end of its dead time, the
interlock's included, to its fall. -/
def State.highTime (s : State) (m : Fin 16) (l : Fin 4) (tLen : Nat) : Nat :=
  let p := (s.mast m).pwm
  let off := p.offAt.toArray.getD (2 * l.val) 0
  let free : Int := if off = 0 ∨ p.gateWas.testBit (2 * l.val + 1) = true then 0 else (off : Int) + (s.deadTimes m l).1 - p.bPrev
  let span : Option (Int × Int) := match s.legLevel m l with
    | 2 => some (0, tLen)
    | 3 => (p.plans[l].ref none).map fun x =>
        (if p.refWas[l] && decide (x.1 ≤ 0) then 0 else x.1 + (p.plans[l].dead (s.deadInt m l)).1, (x.2.getD tLen))
    | _ => none
  match span with
  | some (a, e) => if s.legDrive m l = 2 then 0 else (min e tLen - max (max a free) 0).toNat
  | none => 0

/-- Take the safe-state requests into force: a request at once, its end at the boundary while the timebase runs (R341, R342); the same of leg X and
a trip routed to it (R343). -/
def State.refreshSafe (s : State) (m : Fin 16) : State :=
  let stay := (s.mast m).pwm.counting
  let r := s.safeReq m
  let cur := (s.mast m).shr.safe
  let r2 := if r = 0 ∧ stay = true then cur else r
  let x2 := s.tripX m || (stay && (s.mast m).shr.safeX)
  if r2 = cur ∧ x2 = (s.mast m).shr.safeX then s
  else (s.gateMark m).updShr m fun h => { h with safe := r2, safeX := x2 }

/-- Leave the safe state at a boundary when no request is left (R342). -/
def State.leaveSafe (s : State) (m : Fin 16) : State :=
  let r2 := if s.safeReq m = 0 then 0 else (s.mast m).shr.safe
  let x2 := s.tripX m && (s.mast m).shr.safeX
  if r2 = (s.mast m).shr.safe ∧ x2 = (s.mast m).shr.safeX then s
  else (s.gateMark m).updShr m fun h => { h with safe := r2, safeX := x2 }

/-- The output enable of legs U, V, W, and the braking pulse (R200, R208). -/
def State.setOut (s : State) (m : Fin 16) (en low : Bool) : State :=
  let q := (s.mast m).seq
  if q.outEn = en ∧ q.brakeLow = low then s
  else (s.gateMark m).updSeq m fun q => { q with outEn := en, brakeLow := low }

/-- Legs U, V, W may switch: enabled, or pulsed by BRAKE (R53, R200). -/
def State.outputsOn (s : State) (m : Fin 16) : Bool := (s.mast m).seq.outEn || (s.mast m).seq.brakeLow

/-- A new sheet mask in force (R79). -/
def State.setSheet (s : State) (m : Fin 16) (mask : Nat) : State :=
  if (s.mast m).pwm.sheet = mask then s
  else (s.gateMark m).updPwm m fun p => { p with sheet := mask }

/-- Legs U, V, W all in FLOAT (R112). -/
def allFloat (sheet : Nat) : Bool := decide (sheet % 64 = 0x15)

/-! ### Anchoring (R85–R89) -/

/-- N: the period in PWMCLK cycles (R85). -/
def State.gridN (s : State) (m : Fin 16) (per : Nat) : Nat := s.perTaps m per / 32

/-- The grid is valid: 480,000,000 is a multiple of N (R85). -/
def State.gridOk (s : State) (m : Fin 16) (per : Nat) : Bool :=
  decide (s.gridN m per ≠ 0) && decide (480000000 % s.gridN m per = 0)

/-- Position within the second, in taps, of a local time in 2^−32 ns. -/
def tapsInSec (x : Int) : Int := (x % (nsSec : Int)) * 1536 / (100 * 2 ^ 32)

/-- The error e between an instant and the nearest grid instant, in taps, −T/2 to +T/2 (R87). -/
def State.gridErr (s : State) (m : Fin 16) (per t : Nat) : Int :=
  let n : Int := 32 * s.gridN m per
  let o : Int := 32 * s.fld F.PWM_ANCH_OFS m
  let x := (tapsInSec (s.localAt t) - o) % n
  if 2 * x > n then x - n else x

/-- The trim of the next period: −e limited to ±2^SLEW taps (R87). -/
def State.anchTrim (s : State) (m : Fin 16) (e : Int) : Int :=
  let lim : Int := 2 ^ s.fld F.PWM_ANCH_SLEW m
  clampInt (-lim) lim (-e)

/-- PWM_STAT.ANCH_ERR: anchoring enabled on a period without a valid grid (R86). DESIGN CHOICE, log entry 89: the period judged is the active one, so
that a committed PERIOD with a valid grid clears the flag when it loads. -/
def State.anchErr (s : State) (m : Fin 16) : Bool :=
  s.flag F.PWM_ANCH_EN m && !s.gridOk m (s.mast m).pwm.act.period

/-- The anchor at the boundary `b`: the trim of the period that begins, and the lock; B(0) begins the run of 16 that ends at B(16) (R87–R89).
DESIGN CHOICE, log entry 89: a boundary with anchoring off or without a valid grid ends the lock and its run; a timebase that stops keeps the lock. -/
def State.anchorStep (s : State) (m : Fin 16) (b : Nat) : State × Int :=
  let p := (s.mast m).pwm
  if s.flag F.PWM_ANCH_EN m && s.gridOk m p.act.period then
    let e := s.gridErr m p.act.period b
    let run := if e.natAbs ≤ 2 ∧ p.k ≠ 0 then p.anchRun + 1 else 0
    let lock := if e.natAbs > 32 then false else (p.anchLock || decide (16 ≤ run))
    (s.updPwm m fun p => { p with anchRun := run, anchLock := lock }, s.anchTrim m e)
  else (s.updPwm m fun p => { p with anchRun := 0, anchLock := false }, 0)

/-- The instant of B(0) after RUN is set (R52, R89): 16 PWMCLK cycles on, or the first grid instant at least 1 µs on. -/
def State.firstBoundary (s : State) (m : Fin 16) : Nat :=
  let per := clampPeriod (s.firstSet m (s.now + tUs)).period
  if s.flag F.PWM_ANCH_EN m && s.gridOk m per then
    let t := s.now + tUs
    let n : Int := 32 * s.gridN m per
    let o : Int := 32 * s.fld F.PWM_ANCH_OFS m
    let x := (tapsInSec (s.localAt t) - o) % n
    let d := if x = 0 then 0 else n - x
    -- local taps to taps at the present rate: 64 taps take inc, a tap of local time 100 × 2^32 ÷ 1536
    t + (d * (25 * 2 ^ 33) / (12 * (s.tb.inc : Int))).toNat
  else s.now + 512

/-- RUN is set: the timebase starts (R52), one that the boot image sets at READY (R582); a commit already made that completes inside the guard of B(0) is late (R73). DESIGN CHOICE, log entry 90:
RUN set again before the boundary at which a cleared RUN stops the counter leaves the counter running. -/
def State.startRun (s : State) (m : Fin 16) : State :=
  if (s.mast m).pwm.counting || !s.clk.ready then s
  else
    let b := s.firstBoundary m
    (s.updPwm m fun p =>
      { p with counting := true, bNext := b, bPrev := b, k := 0, dueSets := [], shadow := [], anchRun := 0, anchLock := false, fired := 31,
               refWas := Vector.replicate 4 false }).when ((s.mast m).pwm.hist.any fun e => inGuard e.doneAt b)
      fun s => s.setFld F.PWM_STAT_LATE m 1

/-! ### Counter readings (R48, PWM_STAT) -/

/-- Counter ticks and direction of mast m now. -/
def State.counter (s : State) (m : Fin 16) : Nat × Bool :=
  let p := (s.mast m).pwm
  if p.counting ∧ p.bPrev ≤ s.now ∧ p.k ≠ 0 then
    let t := (s.now - p.bPrev) / (32 * s.presc m)
    let per := p.act.period
    if s.centre m then (if t < per then (t, false) else (2 * per - t, true)) else (satNat (per - 1) t, false)
  else (0, false)

end Sys2Proof.Machine
end

