-- ==== Sys2Proof/Machine/Planner.lean ====
section
/-! DEFINITION. Machine/Planner.lean: the window planner: which windows a period has for the shunt samples, how edges move to make them, and where the samples fall (R102–R112, R116). -/

namespace Sys2Proof.Machine

/-- A leg as the planner handles it (R103), in taps from the boundary. -/
structure PLeg where
  l : Nat
  fixed : Bool
  /-- HIGH: never rises in the period. -/
  isHigh : Bool := false
  /-- LOW: never high in the period. -/
  isLow : Bool := false
  rise : Int := 0
  fall : Int
  dr : Int := 0
  df : Int := 0
  m : Int := 0
  /-- The step its edges can move by: a tap, or without a valid calibration a PWMCLK cycle, or with a prescaler above 1 a tick (R54, R63). -/
  g : Nat := 1
  deriving DecidableEq, Repr

/-- R103: the treatment of a leg by its outcome; none is an excluded leg. `half` is where a fixed LOW leg falls. -/
def planLeg (l : Nat) (p : LegPlan) (m g : Nat) (half tLen : Int) : Option PLeg :=
  match p with
  | .off => none
  | .low => some { l := l, fixed := true, isLow := true, rise := half, fall := half }
  | .high => some { l := l, fixed := true, isHigh := true, fall := tLen }
  | .pulse r f dr df => some { l := l, fixed := false, rise := r, fall := f, dr := dr, df := df, m := m, g := g }

/-- Insert in fall order, ties after the legs already there (R104). -/
def insFall (x : PLeg) : List PLeg → List PLeg
  | [] => [x]
  | y :: r => if x.fall < y.fall then x :: y :: r else y :: insFall x r

/-- Legs in fall order, ties in the order given (R104). -/
def fallOrder (l : List PLeg) : List PLeg := l.foldl (fun acc x => insFall x acc) []

/-- The planner's times (R104, PLN_CFG), in taps. -/
structure PTimes where
  settle : Int
  sample : Int
  deriving DecidableEq, Repr
/-- T_WIN (R104). -/
def PTimes.win (p : PTimes) : Int := p.settle + p.sample

/-- The latest instant by which each leg of a list has risen and its high gate is on. -/
def latestRise : Int → List PLeg → Int
  | o, [] => o
  | o, x :: r => latestRise (if x.isHigh ∨ x.isLow then o else if o < x.rise + x.dr then x.rise + x.dr else o) r

/-- The windows of legs in fall order: (opening, closing) of each (R104). -/
def windows : List PLeg → List (Int × Int)
  | x :: y :: r => (latestRise (x.fall + x.df) (y :: r), y.fall) :: windows (y :: r)
  | _ => []

/-- An instant lies strictly inside an interval. -/
def inOpen (t : Int) (w : Int × Int) : Bool := decide (w.1 < t) && decide (t < w.2)

/-- Window w is valid: long enough, and no REF edge of an included leg inside it (R104). -/
def windowOk (p : PTimes) (legs : List PLeg) (w : Int × Int) : Bool :=
  decide (p.win ≤ w.2 - w.1) && legs.all fun x => x.fixed || !(inOpen x.rise w || inOpen x.fall w)

/-- Every window is valid and there is one (R104, R106). -/
def windowsOk (p : PTimes) (legs : List PLeg) : Bool :=
  decide (2 ≤ legs.length) && (windows legs).all (windowOk p legs)

/-- A shift in whole steps of g taps that is enough for d. DESIGN CHOICE, log entry 102: a shift a leg's edges cannot take is made longer. -/
def stepUp (g : Nat) (d : Int) : Int := (d + (g : Int) - 1) / g * g

/-- The room of a leg toward later instants, in whole steps (R105, R106); `lim` is T or T − 2^SLEW. -/
def roomLater (lim : Int) (x : PLeg) : Int :=
  if x.fixed then 0 else if lim - x.df - x.m < x.fall then 0 else (lim - x.df - x.m - x.fall) / x.g * x.g

/-- The step that a list of legs can move by together. -/
def stepOf (l : List PLeg) : Nat := l.foldl (fun a x => if x.fixed then a else Nat.max a x.g) 1

/-- The room of a leg toward earlier instants (R105, R106). -/
def roomEarlier1 (x : PLeg) : Int := if x.fixed then 0 else if x.rise < x.m then 0 else x.rise - x.m

/-- The smallest room of a list of legs (R106). -/
def roomEarlier : List PLeg → Int
  | [] => 0
  | [x] => roomEarlier1 x
  | x :: r => if roomEarlier1 x < roomEarlier r then roomEarlier1 x else roomEarlier r

/-- Move a leg. -/
def PLeg.move (x : PLeg) (d : Int) : PLeg := { x with rise := x.rise + d, fall := x.fall + d }

/-- R106: `done` holds L[1..j] in fall order, the second list L[j+1..n]. none: no plan. -/
def planLoop (p : PTimes) (centre : Bool) (lim : Int) : List PLeg → List PLeg → Option (List PLeg)
  | done, [] => some done
  | done, y :: r =>
    match done.getLast? with
    | none => planLoop p centre lim [y] r
    | some x =>
      let d := latestRise (x.fall + x.df) (y :: r) + p.win - y.fall
      if d ≤ 0 then planLoop p centre lim (done ++ [y]) r
      else
        let a := roomLater lim y
        let e := stepUp (stepOf done) (d - a)
        if stepUp y.g d ≤ a then planLoop p centre lim (done ++ [y.move (stepUp y.g d)]) r
        else if centre && decide (e ≤ roomEarlier done) then
          planLoop p centre lim (done.map (fun z => z.move (-e)) ++ [y.move a]) r
        else none

/-- The procedure of R106 on legs in fall order: the shifted legs where it returns valid. -/
def planShift (p : PTimes) (centre : Bool) (lim : Int) (legs : List PLeg) : Option (List PLeg) :=
  if legs.length < 2 then none
  else match planLoop p centre lim [] legs with
    | none => none
    | some r => if windowsOk p r then some r else none

/-- Round an instant down to a PWMCLK cycle, and into the period's non-negative instants. -/
def toCycle (t : Int) : Nat := (t / 32 * 32).toNat

/-- The instant of a valid window (R108). -/
def windowMid (p : PTimes) (w : Int × Int) : Int := w.1 + p.settle + (w.2 - w.1 - p.settle - p.sample) / 2

/-- The instant between two falls of an invalid plan: the centre, or the opening fall of an empty interval (R108). -/
def fallMid (x y : PLeg) : Int := if y.fall ≤ x.fall then x.fall else x.fall + (y.fall - x.fall) / 2

/-- The two ADC-S instants for legs in fall order (R108); `fix` are the FIXED instants used with fewer than two legs. -/
def sampleTimes (p : PTimes) (ok : Bool) (legs : List PLeg) (fix : Nat × Nat) : Nat × Nat :=
  match legs with
  | [x, y] =>
    let t := if ok then (match windows legs with | w :: _ => windowMid p w | [] => 0) else fallMid x y
    (toCycle t, toCycle t)
  | x :: y :: z :: _ =>
    if ok then (match windows legs with
      | w :: v :: _ => (toCycle (windowMid p w), toCycle (windowMid p v))
      | _ => fix)
    else (toCycle (fallMid x y), toCycle (fallMid y z))
  | _ => fix

/-- The all-high interval at gate level (R109, R116). -/
def highIv (legs : List PLeg) : Option (Int × Int) :=
  match legs with
  | [] => none
  | x :: _ => if legs.any (·.isLow) then none else some (latestRise 0 legs, x.fall)

/-- The all-low interval at gate level (R109, R116). -/
def lowIv (tLen : Int) (legs : List PLeg) : Option (Int × Int) :=
  match legs.getLast? with
  | none => none
  | some _ => some (legs.foldl (fun o x => if o < x.fall + x.df then x.fall + x.df else o) 0, tLen)

/-- Length of an interval, 0 for none. -/
def ivLen : Option (Int × Int) → Int
  | none => 0
  | some w => if w.2 < w.1 then 0 else w.2 - w.1

/-- The offset-sample instant (R116); of two equal intervals the all-high one (log entry 10). -/
def offsetTime (p : PTimes) (tLen : Int) (legs : List PLeg) : Option Nat :=
  let h := highIv legs
  let l := lowIv tLen legs
  match (if ivLen h < ivLen l then l else h) with
  | none => none
  | some w => if w.2 - w.1 < p.win then none else some (toCycle (windowMid p w))

/-- The centre of the zero vector an in-line sample takes (R109); `mid` is half of T of R49. -/
def zeroCentre (centre : Bool) (mid tLen : Int) (legs : List PLeg) : Int :=
  if centre then mid
  else
    let h := highIv legs
    let l := lowIv tLen legs
    if ivLen h = 0 ∧ ivLen l = 0 then mid
    else match (if ivLen l < ivLen h then h else l) with
      | some w => (w.1 + w.2) / 2
      | none => mid

/-- The channel of slot i of a PSEQ word (R97). -/
def slotCh (pseq : Word) (i : Nat) : Nat := bitsOf pseq (3 * i + 2) (3 * i)
/-- The number of slots of a PSEQ word. -/
def slotN (pseq : Word) : Nat := bitsOf pseq 26 24 + 1

/-- The first slot that names IA or IB. -/
def inlineSlot (pseq : Word) : Option Nat := (List.range (slotN pseq)).find? fun i => slotCh pseq i < 2

/-- The ADC-P start (R109): 200 ns is 3,072 taps. -/
def adcpStart (pseq : Word) (centre inl : Bool) (mid tLen : Int) (s2 : Nat) (legs : List PLeg) : Nat :=
  let n : Int := slotN pseq - 1
  let t0 : Int := match inl, inlineSlot pseq with
    | true, some i => zeroCentre centre mid tLen legs - 3072 * i
    | _, _ => (s2 : Int) + 3072 - 3072 * n
  let t1 := if t0 < 3072 then 3072 else t0
  let t2 := if tLen - 3072 < t1 + 3072 * n then tLen - 3072 - 3072 * n else t1
  toCycle t2

/-- What the planner is given for one period. -/
structure PlanIn where
  centre : Bool
  /-- The in-line path feeds the loop (R109, R110). -/
  inl : Bool
  tLen : Nat
  /-- Half of T of R49, where the down-count starts centre-aligned (R103, R109). -/
  mid : Int
  /-- T of R105: that of R49, less 2^SLEW taps with anchoring on. -/
  lim : Int
  times : PTimes
  pseq : Word
  /-- FIXED instants of AUXT0 and AUXT1, for a plan with fewer than two legs (R108). -/
  fix : Nat × Nat
  /-- Outcomes of legs U, V, W with the sheet applied, their M (R67) and the step of their edges. -/
  legs : List (Nat × LegPlan × Nat × Nat)
  deriving DecidableEq, Repr

/-- The legs the planner includes, in fall order (R103, R104). -/
def PlanIn.order (x : PlanIn) : List PLeg :=
  fallOrder (x.legs.filterMap fun e => planLeg e.1 e.2.1 e.2.2.1 e.2.2.2 (if x.centre then x.mid else 0) x.tLen)

/-- The shift of leg l between two leg lists (R103). -/
def shiftOf (l : Nat) (a b : List PLeg) : Int :=
  match a.find? (fun x => x.l = l), b.find? (fun x => x.l = l) with
  | some x, some y => y.fall - x.fall
  | _, _ => 0

/-- The planner's result: the plan, whether the evaluation of R106 returned valid, and the shift of each leg. -/
structure PlanOut where
  plan : Plan
  evalOk : Bool
  shifts : List Int
  deriving DecidableEq, Repr

/-- The window planner (R102–R110, R116). DESIGN CHOICE, log entry 91: while the in-line path feeds the loop, the shunt samples of the period are valid
where the windows of the unshifted pair, which is the pair loaded, are valid; PLAN_OK reports the evaluation. -/
def runPlanner (x : PlanIn) : PlanOut :=
  let l0 := x.order
  let r := planShift x.times x.centre x.lim l0
  let evalOk := r.isSome
  let legs := if x.inl then l0 else r.getD l0
  let ok := if x.inl then windowsOk x.times l0 else evalOk
  let s := sampleTimes x.times ok legs x.fix
  { plan :=
      { active := true, ok := ok, order := legs.map (·.l), s1At := s.1, s2At := s.2
        pAt := adcpStart x.pseq x.centre x.inl x.mid x.tLen s.2 legs
        ofsAt := offsetTime x.times x.tLen legs }
    evalOk := evalOk
    shifts := [0, 1, 2].map fun l => shiftOf l l0 legs }

end Sys2Proof.Machine
end

