-- ==== Sys2Proof/Machine/Sensing.lean ====
section
/-! DEFINITION. Machine/Sensing.lean: the converters, offset tracking, the current path, reconstruction, the sample set, the cross-check (ch. 3). -/

namespace Sys2Proof.Machine

/-! ### Settings in force -/

/-- The word in force of a register of mast m (R75, R137). -/
def State.eword (s : State) (m : Fin 16) (a : Nat) : Word := effWord s.deferred (keyI a m) (s.rd (keyI a m))
/-- GAIN of mast m, code and value (R94). -/
def State.gainCode (s : State) (m : Fin 16) : Nat := s.fld F.SNS_CTL_GAIN m
def State.gain (s : State) (m : Fin 16) : Nat := 4 * 2 ^ s.gainCode m
/-- Shunt resistance in µΩ (R100). -/
def State.rsh (s : State) (m : Fin 16) : Nat := s.efld F.SH_RSH_RSH m
/-- INL_FIT (R101). -/
def State.inlFit (s : State) (m : Fin 16) : Bool := s.flag F.SNS_CTL_INL_FIT m
/-- The in-line path is available (R101). -/
def State.inlAvail (s : State) (m : Fin 16) : Bool :=
  s.inlFit m && !fIsZero (s.eword m R.INL_KA) && !fIsZero (s.eword m R.INL_KB)
/-- Legs U, V, W are off: no gate of theirs may turn on (R118, R120). -/
def State.uvwOff (s : State) (m : Fin 16) : Bool := [0, 1, 2].all fun l => s.legLevel m l == 0
/-- The planner is active (R112). -/
def State.plannerOn (s : State) (m : Fin 16) : Bool :=
  s.efld F.SNS_CTL_PLN_EN m == 1 && (s.mast m).seq.outEn && !allFloat (s.mast m).pwm.sheet
/-- The planner's times (PLN_CFG; T_SAMPLE below 6 is 6); a unit is one SPARCLK period. -/
def State.planTimes (s : State) (m : Fin 16) : PTimes :=
  let t := s.efld F.PLN_CFG_T_SAMPLE m
  { settle := 128 * s.efld F.PLN_CFG_T_SETTLE m, sample := 128 * (if t < 6 then 6 else t) }

/-! ### AUXT instants (R82, R83, R116) -/

/-- MODE, LEG and CONV of AUXT channel n. -/
def State.auxtMode (s : State) (m : Fin 16) (n : Nat) : Nat := bitsOf (s.eword m R.AUXT_CFG) (8 * n + 3) (8 * n)
def State.auxtLeg (s : State) (m : Fin 16) (n : Nat) : Nat := bitsOf (s.eword m R.AUXT_CFG) (8 * n + 5) (8 * n + 4)
def State.auxtConv (s : State) (m : Fin 16) (n : Nat) : Nat := bitsOf (s.eword m R.AUXT_CFG) (8 * n + 7) (8 * n + 6)
def State.auxtTime (s : State) (m : Fin 16) (n : Nat) : Nat := bitsOf (s.eword m R.AUXT_TIME) (8 * n + 7) (8 * n)

/-- A FIXED instant in a period of T taps, on a PWMCLK cycle (R82). -/
def State.fixedAt (s : State) (m : Fin 16) (n tLen : Nat) : Nat := s.auxtTime m n * tLen / 256 / 32 * 32

/-- The instant of AUXT channel n in the present period, taps from its boundary; n = 4 is the offset sample. -/
def State.auxtAt (s : State) (m : Fin 16) (n : Nat) : Option Nat :=
  let c := (s.mast m).sense.cap
  if n = 4 then c.plan.ofsAt
  else match s.auxtMode m n with
    | 1 =>
      if c.plan.active then
        (match n with
          | 0 => some c.plan.s1At
          | 1 => some c.plan.s2At
          | 2 => some c.plan.pAt
          | _ => some (s.fixedAt m n c.tLen))
      else some (s.fixedAt m n c.tLen)
    | 2 => some (s.fixedAt m n c.tLen)
    | _ => none

/-- Length of the blanking windows of AUXT channel n in taps; none where the channel does not blank (R82, R84). -/
def State.blankLen (s : State) (m : Fin 16) (n : Nat) : Nat := 512 * s.auxtTime m n

/-- The edges of leg l begin blanking windows of AUXT channel n (R82). -/
def State.blanksOn (s : State) (m : Fin 16) (n l : Nat) : Bool :=
  match s.auxtMode m n with
  | 3 => s.auxtLeg m n == l
  | 4 => decide (l < 3)
  | _ => false

/-- The blanking window of AUXT channel n of mast m is open (R82, R84); the loss of PWMCLK forces it off (R332). -/
def State.blankOpen (s : State) (m : Fin 16) (n : Nat) : Bool :=
  !s.clk.lost && (allFin 4).any fun l =>
    s.blanksOn m n l && decide (s.now < s.lastGateEdge m l + s.blankLen m n) && decide (s.lastGateEdge m l ≠ 0)

/-- Channel n is routed to ADC-S, to ADC-P. -/
def routesS (conv : Nat) : Bool := conv = 1 || conv = 3
def routesP (conv : Nat) : Bool := conv = 2 || conv = 3

/-- The instant of channel n has come and has not been used in this period. -/
def State.auxtDue (s : State) (m : Fin 16) (n : Nat) : Bool :=
  let p := (s.mast m).pwm
  p.counting && decide (p.k ≠ 0) && !p.fired.testBit n &&
    (match s.auxtAt m n with | some t => decide (p.bPrev + t ≤ s.now) | none => false)

/-! ### ADC-S (R96, R114) -/

/-- Change the samples of set k, whether it belongs to the present period or the one before. -/
def Sense.onCap (x : Sense) (k : Nat) (f : Cap → Cap) : Sense :=
  if x.cap.k = k then { x with cap := f x.cap }
  else match x.capOld with
    | some c => if c.k = k then { x with capOld := some (f c) } else x
    | none => x

/-- A conversion begins: the first two of a period note their instants (T_S1, T_S2). -/
def beginS (x : Sense) (c : ConvS) : Sense :=
  let x1 := { x with adcS := some c }
  match c.idx with
  | some 0 => x1.onCap c.setNo fun k => { k with t1 := c.startAt - k.b0 }
  | some 1 => x1.onCap c.setNo fun k => { k with t2 := c.startAt - k.b0 }
  | _ => x1

/-- A start of ADC-S at instant t (R96); two in one PWMCLK cycle are one (R83). -/
def State.startS (s : State) (m : Fin 16) (t : Nat) : State :=
  let x := (s.mast m).sense
  if x.lastStart / 32 = t / 32 ∧ t ≠ 0 ∧ x.cap.nS ≠ 0 then s
  else
    let i := x.cap.nS
    let c : ConvS := { startAt := t, setNo := x.cap.k, idx := some i }
    let member := decide (i < 2)
    let take := fun (y : Sense) => { y with cap := { y.cap with nS := i + 1, busy := y.cap.busy + b2n member }, lastStart := t }
    match x.adcS, x.sHeld with
    | none, _ => s.updSense m fun y => beginS (take y) c
    | some _, none => (s.updSense m fun y => { take y with sHeld := some c }).setFld F.SNS_STAT_START_LATE m 1
    | some _, some _ =>
      (s.updSense m fun y => { y with cap := { y.cap with lost := true }, lastStart := t }).setFld F.SNS_STAT_START_LOST m 1

/-- The offset sample (R116): none while ADC-S converts or holds a start. -/
def State.startOfs (s : State) (m : Fin 16) (t : Nat) : State :=
  let x := (s.mast m).sense
  if x.adcS.isSome || x.sHeld.isSome then s
  else s.updSense m fun y => { y with adcS := some { startAt := t, setNo := y.cap.k, idx := none } }

/-! ### ADC-P (R97–R99) -/

/-- A start of the ADC-P sequence at instant t (R99, R83). -/
def State.startP (s : State) (m : Fin 16) (t : Nat) : State :=
  let x := (s.mast m).sense
  if x.cap.pStarted then
    if x.cap.pReqAt / 32 = t / 32 then s
    else (s.updSense m fun y => { y with cap := { y.cap with lost := true } }).setFld F.SNS_STAT_START_LOST m 1
  else
    let c : ConvP := { startAt := t, setNo := x.cap.k, pseq := s.eword m R.PSEQ, slot := 0 }
    let take := fun (y : Sense) => { y with cap := { y.cap with pStarted := true, pReqAt := t, pAt := t, busy := y.cap.busy + 1 } }
    match x.adcP with
    | none => s.updSense m fun y => { take y with adcP := some c }
    | some _ => (s.updSense m fun y => { take y with pHeld := some c }).setFld F.SNS_STAT_START_LATE m 1

/-- AUXT channel n reaches its instant (R82, R83, R116). -/
def State.auxtFire (s : State) (m : Fin 16) (n : Nat) : State :=
  match s.auxtAt m n with
  | none => s
  | some d =>
    let t := (s.mast m).pwm.bPrev + d
    let s1 := s.updPwm m fun p => { p with fired := p.fired ||| 2 ^ n }
    if n = 4 then s1.startOfs m t
    else
      let s2 := s1.when (routesS (s.auxtConv m n)) fun s => s.startS m t
      s2.when (routesP (s.auxtConv m n)) fun s => s.startP m t

/-! ### Offset tracking (R117–R120) -/

/-- The factory offset of mast m at its gain, in 2^−16 of a code (R119). -/
def State.factoryOfs (s : State) (m : Fin 16) : Int :=
  (Config.shOfsFactory m.val (s.gainCode m)).toInt * 2 ^ 14
/-- SH_OFS in 2^−16 of a code, and as the register holds it, with 2 fraction bits. -/
def State.shOfs (s : State) (m : Fin 16) : Int := s.factoryOfs m + (s.mast m).sense.ofsDelta
def State.shOfs4 (s : State) (m : Fin 16) : Int := s.shOfs m / 2 ^ 14

/-- |SH_OFS − factory offset| > OFS_MAX (R134). -/
def State.ofsFar (s : State) (m : Fin 16) : Bool :=
  decide (s.efld F.SH_CAL_OFS_MAX m * 65536 < (s.mast m).sense.ofsDelta.natAbs)

/-- The drift row of R134 on the estimate and the limit as they stand: it raises once when the condition first holds. -/
def State.ofsLook (s : State) (m : Fin 16) : State :=
  if s.ofsFar m then
    if (s.mast m).sense.ofsDevRun = 0 then (s.updSense m fun x => { x with ofsDevRun := 1 }).raiseM m MS.SHUNT_SENSE 0 else s
  else s.updSense m fun x => { x with ofsDevRun := 0 }

/-- One step of the estimate toward a code (R117). -/
def State.trackOfs (s : State) (m : Fin 16) (code : Int) (tc : Nat) : State :=
  (s.updSense m fun x =>
    { x with ofsDelta := x.ofsDelta + (code * 65536 - (s.factoryOfs m + x.ofsDelta)) / 2 ^ tc }).ofsLook m

/-- An offset sample (R117): rejected when it is too far off, and the rejection row of R134. -/
def State.offsetSample (s : State) (m : Fin 16) (code : Int) : State :=
  if s.efld F.SNS_CTL_OFS_EN m = 0 then s
  else if s.efld F.PLN_CFG_OFS_REJ m * 65536 < (code * 65536 - s.shOfs m).natAbs then
    let n := (s.mast m).sense.ofsRejRun + 1
    let s1 := (s.updSense m fun x => { x with ofsRejRun := n }).setFld F.SNS_STAT_OFS_REJ m 1
    s1.when (decide (n % 64 = 0)) fun s => s.raiseM m MS.SHUNT_SENSE 0
  else (s.updSense m fun x => { x with ofsRejRun := 0 }).trackOfs m code (s.efld F.PLN_CFG_OFS_TC m)

/-- A shunt code at the end of the range (R114). -/
def satS (code : Int) : Bool := decide (code = -8192) || decide (code = 8191)

/-- An ADC-S code arrives (R96, R114, R116–R118). DESIGN CHOICE, log entry 104: SH_SAT looks at the codes of S1 and S2, not at that of the offset sample
or of a discarded conversion. -/
def State.doneS (s : State) (m : Fin 16) (c : ConvS) (raw : Int) : State :=
  let s0 := s.updSense m fun x => { x with adcS := none }
  let code := Config.trimS m.val (s.gainCode m) raw
  match c.idx with
  | none => s0.offsetSample m code
  | some i =>
    if 2 ≤ i then s0
    else
      let s1 := s0.updSense m fun x => x.onCap c.setNo fun k =>
        { k with s1 := (if i = 0 then some raw else k.s1), s2 := (if i = 0 then k.s2 else some raw), busy := k.busy - 1, sat := k.sat || satS raw }
      let s2 := s1.when (satS raw) fun s => s.setFld F.SNS_STAT_SH_SAT m 1
      s2.when (s.efld F.SNS_CTL_OFS_EN m == 1 && !s.plannerOn m && (s.mast m).pwm.counting && s.uvwOff m)
        fun s => s.trackOfs m code 4

/-- An ADC-P slot completes (R97). -/
def State.doneP (s : State) (m : Fin 16) (c : ConvP) (raw : Nat) : State :=
  let last := decide (slotN c.pseq ≤ c.slot + 1)
  s.updSense m fun x =>
    let y := x.onCap c.setNo fun k =>
      { k with pSlots := k.pSlots ++ [(c.slot, slotCh c.pseq c.slot, raw)], busy := k.busy - b2n last }
    { y with adcP := if last then none else some { c with slot := c.slot + 1 } }

/-! ### The current path (R121–R123, R135) -/

/-- The injection generator runs (R176). -/
def State.injRuns (s : State) (m : Fin 16) : Bool :=
  let e := (s.mast m).com.est
  s.efld F.INJ_CFG_EN m == 1 && (e == .polarity || e == .low || e == .blend)

/-- The path of the coming period and its reason (R121). DESIGN CHOICE, log entry 35: the sequencer states of row 4 are ALIGN (standstill) and
POLARITY; a state with injection is one in which the generator runs. -/
def State.decidePath (s : State) (m : Fin 16) : Bool × Nat :=
  let x := (s.mast m).sense
  let q := (s.mast m)
  match s.efld F.SNS_CTL_PATH m with
  | 1 => (false, 5)
  | 2 => (true, 4)
  | _ =>
    let why := if q.seq.st = .polarity ∨ q.seq.st = .align ∨ s.injRuns m = true then 1
      else if x.shuntBad then 3
      else if x.recovery then 2 else 0
    if why = 0 then (false, 0)
    else if !s.inlAvail m || x.inlBar then (false, 6) else (true, why)

/-! ### The sample set (R100, R113–R115, R124, R130–R133, R136) -/

/-- Shunt current of a code (R100), 0.0 with RSH = 0 (R101). -/
def State.shuntAmps (s : State) (m : Fin 16) (raw : Int) : Word :=
  let code := Config.trimS m.val (s.gainCode m) raw
  let r := s.rsh m
  if r = 0 then fZero
  else fOfRat ((4 * code - s.shOfs4 m) * 8000000 * s.efld F.SH_CAL_XGAIN m) (5 * 4 * 8192 * s.gain m * r * 32768)

/-- The trimmed code of a slot's raw code (R100). -/
def pCode (m : Fin 16) (ch raw : Nat) : Int := Config.trimP m.val ch raw

/-- The raw code of the last slot that converted a channel (R131). -/
def chRaw (l : List (Nat × Nat × Nat)) (ch : Nat) : Option Nat :=
  (l.reverse.find? fun e => e.2.1 = ch).map fun e => e.2.2

/-- A channel's voltage with a divider of `div` ÷ 64, 0.0 when the channel is not in the sequence (R100, R131). -/
def chVolts (m : Fin 16) (l : List (Nat × Nat × Nat)) (ch div : Nat) : Word :=
  match chRaw l ch with
  | none => fZero
  | some raw => fOfRat (pCode m ch raw * 3 * div) (4096 * 64)

/-- In-line current A (ch 0) or B (ch 1) (R100). -/
def State.inlAmps (s : State) (m : Fin 16) (l : List (Nat × Nat × Nat)) (ch : Nat) : Word :=
  if !s.inlFit m then fZero
  else match chRaw l ch with
    | none => fZero
    | some raw =>
      let o : Int := if ch = 0 then s.efld F.INL_OFS_OFS_A m else s.efld F.INL_OFS_OFS_B m
      fMul (fOfRat ((pCode m ch raw - o) * 3) 4096) (s.eword m (if ch = 0 then R.INL_KA else R.INL_KB))

/-- A code inside 8–4,087 (R124). -/
def inlCodeOk (m : Fin 16) (ch : Nat) : Option Nat → Bool
  | none => false
  | some raw => decide (8 ≤ pCode m ch raw) && decide (pCode m ch raw ≤ 4087)

/-- The phases IA and IB stand for (R124). -/
def inlPhases (ph : Nat) : Nat × Nat :=
  match ph with
  | 1 => (1, 2)
  | 2 => (2, 0)
  | _ => (0, 1)

/-- Currents of phases U, V, W from two of them (R124). -/
def threeFrom (a b : Nat) (ia ib : Word) : List Word :=
  [0, 1, 2].map fun p => if p = a then ia else if p = b then ib else fSub (fNeg ia) ib

/-- SHUNT_REASON of a set, the first cause in the order 5, 2, 1, 3, 7, 6, 4 (R136). -/
def shuntReason (rsh : Nat) (c : Cap) : Nat :=
  if !c.plan.active || rsh = 0 then 5
  else if c.plan.order.length < 2 then 2
  else if !c.plan.ok then 1
  else if c.changed then 3
  else if c.nS = 0 ∨ (c.plan.order.length = 3 ∧ c.nS < 2) then 7
  else if c.lost then 6
  else if c.sat then 4 else 0

/-- Phase currents of the shunt, by fall order (R113). -/
def shuntPhases (order : List Nat) (i1 i2 : Word) : List Word :=
  match order with
  | [a, b] => [0, 1, 2].map fun p => if p = a then fNeg i1 else if p = b then i1 else fZero
  | [a, _, c] => [0, 1, 2].map fun p => if p = a then fNeg i1 else if p = c then i2 else fSub i1 i2
  | _ => [fZero, fZero, fZero]

/-- The path of the period that the coming boundary begins, with the settings and the bar it brings (R75, R123, R135). -/
def State.pathFor (s : State) (m : Fin 16) : Bool × Nat :=
  ((s.applyDeferred m (s.mast m).pwm.bNext).updSense m fun x => { x with inlBar := x.inlBarNext }).decidePath m

/-- The decision for the coming period is taken on the conditions 8 PWMCLK cycles before its boundary, once time reaches them (R123). -/
def State.pathLook (s : State) (m : Fin 16) (t : Nat) : State :=
  let x := s.mast m
  if x.pwm.counting && x.sense.pathNext.isNone && decide (x.pwm.bNext ≤ t + 256) then
    s.updSense m fun y => { y with pathNext := some (s.pathFor m) }
  else s

/-- No conversion was started in the period (R132). -/
def Cap.empty (c : Cap) : Bool := decide (c.nS = 0) && !c.pStarted

/-- The set to be released next. -/
def Sense.nextSet (x : Sense) : Option Cap :=
  match x.capOld with
  | some c => some c
  | none => if x.released then none else some x.cap

/-- A routed instant of the present period is still to come, on a route. -/
def State.instantLeft (s : State) (m : Fin 16) (r : Nat → Bool) : Bool :=
  [0, 1, 2, 3].any fun n => (s.auxtAt m n).isSome && r (s.auxtConv m n) && !(s.mast m).pwm.fired.testBit n

/-- The second ADC-S instant of the present period has not come (R111, R337): a conversion that would be the second is still to be started, or one of
the two is held. -/
def State.beforeS2 (s : State) (m : Fin 16) : Bool :=
  let x := (s.mast m).sense
  let held := match x.sHeld with | some c => c.idx == some 0 || c.idx == some 1 | none => false
  (s.mast m).pwm.counting && (held || (decide (x.cap.nS < 2) && s.instantLeft m routesS))

/-- Every conversion of the present period's set has been made: none outstanding, and no routed instant of the period left that could belong to it. -/
def State.setDone (s : State) (m : Fin 16) : Bool :=
  let x := (s.mast m).sense
  match x.capOld with
  | some c => decide (c.busy = 0)
  | none =>
    let c := x.cap
    !x.released && decide (c.busy = 0) && !c.empty && (decide (2 ≤ c.nS) || !s.instantLeft m routesS) &&
      (c.pStarted || !s.instantLeft m routesP)

/-- Raise INLINE_SENSE or SHUNT_SENSE of mast m when a condition holds. -/
def State.raiseInl (s : State) (m : Fin 16) (c : Bool) : State := s.when c fun s => s.raiseM m MS.INLINE_SENSE 0
def State.raiseSh (s : State) (m : Fin 16) (c : Bool) : State := s.when c fun s => s.raiseM m MS.SHUNT_SENSE 0

/-- The reference check (R130, R134) on the set's REF code; a period without one ends the runs of consecutive periods. -/
def State.refCheck (s : State) (m : Fin 16) (raw : Option Nat) : State :=
  match raw with
  | none => s.updSense m fun x => { x with refBadRun := 0, refGoodRun := 0 }
  | some r =>
    let x := (s.mast m).sense
    let ok := decide (2024 ≤ pCode m 7 r) && decide (pCode m 7 r ≤ 2072)
    if ok then s.updSense m fun x =>
      { x with refBadRun := if x.refBad && decide (x.refGoodRun + 1 < 16) then x.refBadRun else 0, refGoodRun := x.refGoodRun + 1, refBad := x.refBad && decide (x.refGoodRun + 1 < 16) }
    else
      let n := x.refBadRun + 1
      let bad := x.refBad || decide (2 ≤ n)
      (s.updSense m fun x => { x with refGoodRun := 0, refBadRun := n, refBad := bad }).raiseInl m
        (decide (2 ≤ n) && decide ((n - 2) % 16 = 0))

/-- The in-line offsets follow the codes while no current flows (R120, R134). -/
def State.inlOffsets (s : State) (m : Fin 16) (c : Cap) : State :=
  let l := c.pSlots
  match chRaw l 0, chRaw l 1 with
  | some a, some b =>
    let vb := chVolts m l 5 (s.efld F.VDIV_VBUS_DIV m)
    let hi := fSub vb fHalf
    let inside := [2, 3, 4].all fun ch =>
      let v := chVolts m l ch (s.efld F.VDIV_VPH_DIV m)
      fLe fHalf v && fLe v hi
    if c.off && s.uvwOff m && s.inlFit m && inside then
      let x := (s.mast m).sense
      let na := x.inlA + (pCode m 0 a * 65536 - x.inlA) / 16
      let nb := x.inlB + (pCode m 1 b * 65536 - x.inlB) / 16
      let ra := (na + 32768) / 65536
      let rb := (nb + 32768) / 65536
      let bad := decide (ra < 1024) || decide (3072 < ra) || decide (rb < 1024) || decide (3072 < rb)
      let n := if bad then x.inlOfsBad + 1 else 0
      let s1 := s.updSense m fun x => { x with inlA := na, inlB := nb, inlOfsBad := n }
      let s2 := (s1.setFld F.INL_OFS_OFS_A m ra.toNat).setFld F.INL_OFS_OFS_B m rb.toNat
      s2.raiseInl m (bad && decide ((n - 1) % 16 = 0))
    else s
  | _, _ => s

/-- A period's contribution to the cross-check (R127). -/
def State.xchkAdd (s : State) (m : Fin 16) (both : Bool) (sh : List Word) (ia ib : Word) : State :=
  let x := (s.mast m).sense
  match x.xRun with
  | none => s
  | some 0 => s
  | some n =>
    let ph := inlPhases (s.fld F.SNS_CTL_INL_PH m)
    let lim := fOfRat (s.efld F.XCHK_CFG_MIN m) 20
    let s1 := s.updSense m fun x => { x with xRun := some (n - 1) }
    if !both then s1
    else s1.updSense m fun x =>
      let sa := sh.getD ph.1 fZero
      let sb := sh.getD ph.2 fZero
      let ua := fGe (fAbs ia) lim
      let ub := fGe (fAbs ib) lim
      { x with
        xN := x.xN + b2n ua + b2n ub
        xA := if ua then fAdd x.xA (fMul sa ia) else x.xA
        xA2 := if ua then fAdd x.xA2 (fMul ia ia) else x.xA2
        xB := if ub then fAdd x.xB (fMul sb ib) else x.xB
        xB2 := if ub then fAdd x.xB2 (fMul ib ib) else x.xB2 }

/-- The counts behind the rows of R134 that run per set, and the runs of R115 and R122. DESIGN CHOICE, log entry 92: every released set counts toward the
interval of R126, with the in-line path fitted or not. -/
def State.setRuns (s : State) (m : Fin 16) (c : Cap) (shOk iOk inlBad : Bool) : State :=
  let x := (s.mast m).sense
  let inv := if shOk then 0 else x.invRun + 1
  let held := decide (16 ≤ inv) && (!s.inlAvail m || x.inlBar || s.efld F.SNS_CTL_PATH m == 1)
  let row3 := if held then x.invHold + 1 else 0
  let bad := if inlBad then x.inlBadRun + 1 else 0
  let iv := if c.inline && !iOk then x.ivBadRun + 1 else 0
  let dev := if s.ofsFar m then x.ofsDevRun + 1 else 0
  let s1 := s.updSense m fun x =>
    { x with invRun := inv, invHold := row3, recInv := (if shOk then 0 else x.recInv + 1), inlBadRun := bad, ivBadRun := iv, ofsDevRun := dev, xPeriods := x.xPeriods + 1 }
  let s2 := s1.raiseSh m (decide (0 < dev) && decide ((dev - 1) % 16 = 0))
  let s3 := s2.raiseSh m (decide (0 < row3) && decide ((row3 - 1) % 16 = 0))
  let s4 := s3.raiseInl m (decide (4 ≤ bad) && decide (bad % 4 = 0))
  s4.raiseInl m (decide (16 ≤ iv) && decide (iv % 16 = 0))

/-- What the release of a set leaves to the units behind it. -/
structure SetInfo where
  k : Nat := 0
  iOk : Bool := false
  shOk : Bool := false
  vOk : Bool := false
  deriving DecidableEq, Repr

/-- The second conversion of a set: with two included legs the first stands for it where it is missing (R114). -/
def Cap.second (c : Cap) : Option Int :=
  match c.s2 with
  | some x => some x
  | none => if c.plan.order.length = 2 then c.s1 else none

/-- The release of a set: its signals, codes, checks and rows (R20, R21, R100–R137). DEDUCED, log entry 93: what a missing ADC-S conversion would give is not
written. DESIGN CHOICE, log entry 104: a set without an ADC-P sequence has every channel of it written 0.0, and INLINE_ONLY without both gains is invalid. -/
def State.writeSet (s : State) (m : Fin 16) (c : Cap) : State × SetInfo :=
  let x := (s.mast m).sense
  let why := shuntReason (s.rsh m) c
  let shOk := decide (why = 0)
  let s0 := s.refCheck m (chRaw c.pSlots 7)
  let refOk := (chRaw c.pSlots 7).isNone || !(s0.mast m).sense.refBad
  let vOk := c.pStarted && refOk
  let ra := chRaw c.pSlots 0
  let rb := chRaw c.pSlots 1
  let inlBad := s.inlFit m && ((ra.isSome && !inlCodeOk m 0 ra) || (rb.isSome && !inlCodeOk m 1 rb))
  let inlValid := inlCodeOk m 0 ra && inlCodeOk m 1 rb && refOk && s.inlAvail m
  let iOk := if c.inline then inlValid && !c.barred else shOk
  let i1 := match c.s1 with | some x => s.shuntAmps m x | none => fZero
  let i2 := match c.second with | some x => s.shuntAmps m x | none => fZero
  let ia := s.inlAmps m c.pSlots 0
  let ib := s.inlAmps m c.pSlots 1
  let sh := shuntPhases c.plan.order i1 i2
  let ph := inlPhases (s.fld F.SNS_CTL_INL_PH m)
  let cur := if c.inline then threeFrom ph.1 ph.2 ia ib else sh
  let dp := s.efld F.VDIV_VPH_DIV m
  let vbus := chVolts m c.pSlots 5 (s.efld F.VDIV_VBUS_DIV m)
  let s1 := (s0.when inlBad fun s => s.setFld F.SNS_STAT_INL_SAT m 1).inlOffsets m c
  let s2 := (s1.xchkAdd m (shOk && inlValid) sh ia ib).setRuns m c shOk iOk inlBad
  let inv := satNat 255 (s2.mast m).sense.invRun
  let s3 := s2.putMs m ((if iOk then [(0x000, cur.getD 0 fZero), (0x001, cur.getD 1 fZero), (0x002, cur.getD 2 fZero)] else []) ++
    (if c.s1.isSome then [(0x003, i1), (0x010, fSeconds c.t1)] else []) ++
    (if c.second.isSome then [(0x004, i2), (0x011, fSeconds (if c.s2.isSome then c.t2 else c.t1))] else []) ++
    (if c.empty then [] else
      [(0x005, ia), (0x006, ib),
       (0x007, fOfRat (s.shOfs4 m * 8) (5 * 4 * 8192 * s.gain m)),
       (0x00A, nat32 (b2n c.inline)), (0x00B, nat32 c.reason), (0x00D, nat32 inv),
       (0x00F, x.xK),
       (0x020, chVolts m c.pSlots 2 dp), (0x021, chVolts m c.pSlots 3 dp), (0x022, chVolts m c.pSlots 4 dp),
       (0x023, vbus), (0x024, chVolts m c.pSlots 6 64), (0x025, chVolts m c.pSlots 7 64)]) ++
    [(0x008, b2w iOk), (0x009, b2w shOk), (0x00C, nat32 c.k), (0x00E, nat32 why), (0x026, b2w vOk)])
  let s4 := s3.updSense m fun x =>
    { x with
      rawS1 := match c.s1 with | some r => (r % 16384).toNat | none => x.rawS1
      rawS2 := match c.second with | some r => (r % 16384).toNat | none => x.rawS2
      rawP := if c.pStarted then c.pSlots else x.rawP
      lastVbus := if vOk then vbus else x.lastVbus
      released := if x.capOld.isSome then x.released else true
      capOld := none }
  (s4, { k := c.k, iOk := iOk, shOk := shOk, vOk := vOk })

/-- Release of set k triggers the loop context of mast m, every DIV-th time (R22, R27, R76). -/
def State.loopTrigger (s : State) (m : Fin 16) (k : Nat) : State :=
  if s.efld F.LOOP_CFG_LEN m = 0 then s.updPwm m fun p => { p with relCount := 0 }
  else
    let n := s.loopDiv m
    let go := decide ((s.mast m).pwm.relCount % n = 0)
    let s1 := s.updPwm m fun p =>
      { p with relCount := p.relCount + 1, dueSets := if go then p.dueSets ++ [(k, k + 1 + n)] else p.dueSets }
    s1.when go fun s => s.trigger (s.efld F.LOOP_CFG_LCTX m) TK.SAMPLE m.val k

/-- The timebase stops: validity flags to 0 (R133). -/
def State.dropValid (s : State) (m : Fin 16) : State := s.putMs m [(0x008, 0#32), (0x009, 0#32), (0x026, 0#32)]

/-- The sheet mask changed outside the reload: the present period's shunt is spoiled before its second ADC-S instant, the coming one's inside the
evaluation (R111). -/
def State.spoilShunt (s : State) (m : Fin 16) : State :=
  let p := (s.mast m).pwm
  s.updSense m fun x =>
    { x with
      cap := { x.cap with changed := x.cap.changed || s.beforeS2 m }
      chgNext := x.chgNext || (p.counting && decide (p.bNext < s.now + 256)) }

/-! ### The cross-check (R126–R129) -/

/-- A cross-check interval has elapsed (R126). -/
def State.xchkDue (s : State) (m : Fin 16) : Bool :=
  let n := s.efld F.XCHK_CFG_INT m
  s.inlFit m && decide (n ≠ 0) && decide (2 ^ (n + 7) ≤ (s.mast m).sense.xPeriods)

/-- The interval restarts; a test starts while the shunt feeds the loop for reason 0 and none runs (R126). -/
def State.xchkStart (s : State) (m : Fin 16) : State :=
  let x := (s.mast m).sense
  let go := !x.inline && decide (x.reason = 0) && x.xRun.isNone
  s.updSense m fun x =>
    if go then { x with xPeriods := 0, xRun := some (2 ^ (s.efld F.XCHK_CFG_LEN m + 4)), xN := 0, xA := fZero, xA2 := fZero, xB := fZero, xB2 := fZero }
    else { x with xPeriods := 0 }

/-- Trim of an in-line gain by its own K (R129): the new gain, and whether it was limited. -/
def trimGain (ka host k step : Word) : Word × Bool :=
  let k1 := fClamp k (fSub fOne step) (fAdd fOne step)
  let v := fMul ka k1
  let a := fMul host 0x3F4CCCCD#32
  let b := fMul host 0x3FA00000#32
  let lo := fMin a b
  let hi := fMax a b
  (fClamp v lo hi, fLt v lo || fGt v hi)

/-- A number kept between two bounds, the lower one first. -/
def clampNat (lo hi v : Nat) : Nat := if v < lo then lo else if hi < v then hi else v

/-- Trim of XGAIN by K, the step in 0.01 % (R129): the new gain, and whether it was limited. -/
def trimXgain (xg host : Nat) (k : Word) (step : Nat) : Nat × Bool :=
  let v := clampNat ((xg * (10000 - step) + 9999) / 10000) (xg * (10000 + step) / 10000) (fToInt .rne 0 65535 (fDiv (fOfInt xg) k)).1.toNat
  let lo := (host * 4 + 4) / 5
  let hi := host * 5 / 4
  (clampNat lo hi v, decide (v < lo) || decide (hi < v))

/-- K of sums, 1.0 where an input made no contribution. -/
def kOf (a a2 : Word) : Word := if fIsZero a2 then fOne else fDiv a a2

/-- The end of a cross-check test (R128, R129); its K is shown from the next release on (R21). -/
def State.xchkEnd (s : State) (m : Fin 16) : State :=
  let x := (s.mast m).sense
  let k := fDiv (fAdd x.xA x.xB) (fAdd x.xA2 x.xB2)
  let few := decide (x.xN < 64)
  let within := fLe (fAbs (fSub k fOne)) (fOfRat (s.efld F.XCHK_CFG_TOL m) 1000)
  let pass := !few && within && !x.xForceFail
  let refInl := s.efld F.SNS_CTL_XCAL_REF m == 1
  let s0 := s.updSense m fun x => { x with xRun := none, xK := k }
  if few && !x.xForceFail then s0.updSense m fun x => { x with xRes := 3 }
  else if pass then
    let s1 := s0.updSense m fun x => { x with xRes := 1, xFails := 0 }
    if s.efld F.SNS_CTL_XCAL_TRIM m = 0 then s1
    else
      let step := fOfRat (s.efld F.XCHK_CFG_XSTEP m) 10000
      if refInl then
        let t := trimXgain (s.fld F.SH_CAL_XGAIN m) x.hostXG k (s.efld F.XCHK_CFG_XSTEP m)
        (s1.setFld F.SH_CAL_XGAIN m t.1).updSense m fun x => { x with xForceFail := t.2 }
      else
        let a := trimGain (s.rd (keyI R.INL_KA m)) x.hostKA (kOf x.xA x.xA2) step
        let b := trimGain (s.rd (keyI R.INL_KB m)) x.hostKB (kOf x.xB x.xB2) step
        ((s1.wr (keyI R.INL_KA m) a.1).wr (keyI R.INL_KB m) b.1).updSense m fun x => { x with xForceFail := a.2 || b.2 }
  else
    let n := x.xFails + 1
    let s1 := (s0.updSense m fun x => { x with xRes := 2, xFails := n, xForceFail := false }).setFld F.SNS_STAT_XCHK_FAIL m 1
    if n < 2 then s1 else if refInl then s1.raiseM m MS.SHUNT_SENSE 0 else s1.raiseM m MS.INLINE_SENSE 0

end Sys2Proof.Machine
end

