-- ==== Sys2Proof/Machine/Commute.lean ====
section
/-! DEFINITION. Machine/Commute.lean: drives and step events, luff shaping, Hall, encoder and zero-crossing decoding, the modulator, injection and correlator, polarity, observer, tracker and estimator (ch. 4). -/

namespace Sys2Proof.Machine

/-! ### Angles -/

/-- An angle of `d` degrees, in radians. -/
def degW (d : Int) : Word := fOfScaled (pi100 * d / 180) (-100)
/-- sine and cosine to the nearest word (log entry 7). -/
def hSin (w : Word) : Word := if fFinite w then fOfFix (sinFix (angleFix w)) else qNaN
def hCos (w : Word) : Word := if fFinite w then fOfFix (cosFix (angleFix w)) else qNaN
/-- An angle modulo 2π, in [0, 2π) (R187, log entry 16). -/
def angMod (w : Word) : Word :=
  if fFinite w then
    let r := fOfScaled (fScaled w % (twoPi61 * 2 ^ 88)) (-149)
    if fGe r fTwoPi then fZero else r
  else qNaN
/-- An angle difference wrapped to ±π. -/
def angDiff (a b : Word) : Word :=
  let w := fSub a b
  if fFinite w then fOfScaled (wrapExact w) (-149) else qNaN
/-- 1/√3 and √3/2. -/
def fInvSqrt3 : Word := 0x3F13CD3A#32
def fSqrt3Half : Word := 0x3F5DB3D7#32

/-! ### Settings (R138–R140) -/

def State.comMode (s : State) (m : Fin 16) : Nat := s.fld F.COM_CTL_MODE m
def State.asrc (s : State) (m : Fin 16) : Nat := s.fld F.COM_CTL_ASRC m
/-- Pole pairs (R142). -/
def State.polePairs (s : State) (m : Fin 16) : Nat := s.fld F.COM_CTL_PP m + 1
/-- Correlators are present (R195). -/
def State.hasCorr (s : State) : Bool := s.variant.ring
/-- The table direction is reverse (R145). -/
def State.reverse (s : State) (m : Fin 16) : Bool := (s.mast m).com.rev
/-- Set a flag of COM_STAT. -/
def State.comFlag (s : State) (m : Fin 16) (f : Fld) : State := s.setFld f m 1
def State.comCfgErr (s : State) (m : Fin 16) : State := s.setFld F.COM_STAT_CFG_ERR m 1

/-! ### The six-step tables (R143, R144) -/

/-- Mask bits 5:0 of a step (R144). -/
def stepMask : Nat → Nat
  | 0 => 0x18 | 1 => 0x24 | 2 => 0x21 | 3 => 0x12 | 4 => 0x06 | 5 => 0x09 | _ => 0x00
/-- Two steps follow each other in the cycle of six. -/
def adjacent6 (a b : Nat) : Bool := (a + 1) % 6 == b % 6 || (b + 1) % 6 == a % 6
/-- The step of sector n in the table direction (R144). -/
def sectorStep (rev : Bool) (n : Nat) : Nat := if rev then (n + 3) % 6 else n % 6
/-- The sector of a step. -/
def stepSector (rev : Bool) (k : Nat) : Nat := if rev then (k + 3) % 6 else k % 6
/-- Centre of sector n, degrees (R143). -/
def sectorCentre (n : Nat) : Int := 60 * (n : Int) - 120
/-- The sector an angle lies in (R143), from the angle in 1/scale of a turn. -/
def sectorOf (th : Word) : Nat :=
  let p : Int := twoPi61 * 2 ^ 88
  let x := (fScaled th + p * 5 / 12) % p
  (x * 6 / p).toNat

/-- Mask bits 7:6 (R141). -/
def State.xBits (s : State) (m : Fin 16) : Nat := s.efld F.COM_CTL_XSHEET m * 64
/-- The whole mask of a step event: 0–5 a step, 6 all PASS (R141, R144). -/
def State.evMask (s : State) (m : Fin 16) (code : Nat) : Nat := s.xBits m + stepMask code

/-! ### Step events (R81, R141, R147–R155) -/

/-- STEP_T follows the step events where no zero crossing steers (log entry 17). -/
def stepTime (asrc : Nat) (c : Com) (t : Nat) : Com :=
  if asrc = 3 ∨ c.evAt = 0 then c
  else
    let i := t - c.evAt
    { c with stepT := (match c.zcPrevInt with | some p => (i + p) / 2 | none => i), zcPrevInt := some i }

/-- A step event that names a step has come at instant t (R167). -/
def Com.noteEvent (c : Com) (asrc code t : Nat) : Com := if code < 6 then { stepTime asrc c t with evAt := t } else c

/-- A leg U, V or W is in FLOAT with mask b and was not with mask a (R144, R164). -/
def newFloat (a b : Nat) : Bool := (List.range 3).any fun l => (b >>> (2 * l)) % 4 == 1 && (a >>> (2 * l)) % 4 != 1

/-- A mask applies: the step in force changes with it, and a phase that was not in FLOAT enters it (R164). Gate edges so far blank on for the length
of a window at most (R84). -/
def State.applyStep (s : State) (m : Fin 16) (code t : Nat) : State :=
  let fl := newFloat (s.mast m).pwm.sheet (s.evMask m code)
  let s1 := (s.setSheet m (s.evMask m code)).updCom m fun c =>
    { c with
      step := (if code < 6 then code else c.step), stepHeld := c.stepHeld || decide (code < 6), luff := none
      floatAt := if fl then t else c.floatAt }
  s1.updPwm m fun p => { p with stepEdges := p.stepEdges.filter fun e => decide (t < e.2 + 512 * 256) }

/-- A hard step, with SKIP where it is not an adjacent one (R150). -/
def State.hardStep (s : State) (m : Fin 16) (code t : Nat) : State :=
  let skip := decide (code < 6) && !adjacent6 (s.mast m).com.step code && decide ((s.mast m).com.step ≠ code)
  (s.applyStep m code t).when skip fun s => s.comFlag m F.COM_STAT_SKIP

/-- The step an event is compared with: the end of a transfer in progress, or the step in force (R150, R155). -/
def Com.target (c : Com) : Nat := match c.luff with | some l => l.toS | none => c.step

/-- A step event at instant t (R80, R81, R141, R150); one that comes during a transfer waits for the boundary that ends it (R155). -/
def State.stepEvent (s : State) (m : Fin 16) (code t : Nat) : State :=
  let x := s.mast m
  if s.comMode m = 0 then s
  else if s.efld F.PWM_CTL_SH_SRC m ≠ 1 then s.comCfgErr m
  else if x.pwm.stepPend.isEmpty && decide (code < 6) && decide (x.com.target = code) &&
      (x.com.luff.isSome || decide (x.pwm.sheet = s.evMask m code)) then s
  else
    let s1 := s.updCom m fun c => c.noteEvent (s.asrc m) code t
    if !x.pwm.counting then s1.hardStep m code t
    else if x.com.luff.isSome || s.efld F.LUFF_CFG_EN m == 1 || s.efld F.PWM_CTL_SH_SYNC m == 1 then
      s1.updPwm m fun p => { p with stepPend := p.stepPend ++ [(code, t)] }
    else (s1.hardStep m code t).spoilShunt m

/-- The mask during a transfer: the leg whose state does not change keeps it, the others are in PASS (R151, R152). -/
def luffMask (a b : Nat) : Nat :=
  let f := fun (l : Nat) =>
    let x := (stepMask a >>> (2 * l)) % 4
    let y := (stepMask b >>> (2 * l)) % 4
    if x = y then x * 4 ^ l else 0
  f 0 + f 1 + f 2

/-- n_eff (R154). -/
def State.nEff (s : State) (m : Fin 16) (t : Nat) : Nat :=
  let a := s.efld F.LUFF_CFG_LEN m + 1
  let b := if t = 0 then 0 else (s.mast m).com.stepT / (2 * t)
  if b < 1 then 1 else if b < a then b else a

/-- The transfer in progress ends in its final state (R151, R155). -/
def State.luffEnd (s : State) (m : Fin 16) (t : Nat) : State :=
  match (s.mast m).com.luff with
  | none => s
  | some l => s.applyStep m l.toS t

/-- An event is taken at a boundary (R150, R151). -/
def State.takeStep (s : State) (m : Fin 16) (code b tLen : Nat) : State :=
  let c := (s.mast m).com
  if code < 6 ∧ c.step = code ∧ (s.mast m).pwm.sheet = s.evMask m code then s
  else if s.efld F.LUFF_CFG_EN m = 1 ∧ c.drive = 2 ∧ code < 6 ∧ adjacent6 c.step code = true ∧
      (s.mast m).pwm.sheet % 64 = stepMask c.step then
    let n := s.nEff m tLen
    (s.setSheet m (s.xBits m + luffMask c.step code)).updCom m fun c =>
      { c with luff := some { n := n, i := 1, fromS := c.step, toS := code } }
  else s.hardStep m code b

/-- Step events and the transfer at a boundary at `b` (R81, R151, R155). DESIGN CHOICE, log entry 105: an event in the last period of a transfer finds
it complete and sets no LUFF_CUT. -/
def State.stepBoundary (s : State) (m : Fin 16) (b tLen : Nat) : State :=
  let s1 := match (s.mast m).com.luff with
    | some l => if l.n ≤ l.i then s.luffEnd m b else s
    | none => s
  let pend := (s1.mast m).pwm.stepPend
  let ripe := pend.filter fun e => decide (e.2 + 256 ≤ b)
  let s2 := s1.updPwm m fun p => { p with stepPend := pend.filter fun e => !decide (e.2 + 256 ≤ b) }
  match ripe.getLast? with
  | none => s2.updCom m fun c => { c with luff := c.luff.map fun l => { l with i := l.i + 1 } }
  | some e =>
    let s3 := if (s2.mast m).com.luff.isSome then (s2.luffEnd m b).comFlag m F.COM_STAT_LUFF_CUT else s2
    s3.takeStep m e.1 b tLen

/-- The commutation unit holds its mask: PASS in vector drive, in step drive that of the step an event of this drive has named; an event that waits
for its boundary keeps the mask until then (R81, R141). -/
def State.holdMask (s : State) (m : Fin 16) (b : Nat) : State :=
  let x := s.mast m
  if s.comMode m = 0 ∨ s.efld F.PWM_CTL_SH_SRC m ≠ 1 ∨ x.com.luff.isSome = true ∨ x.pwm.stepPend.isEmpty = false ∨
      (x.com.drive = 2 ∧ x.com.stepHeld = false) then s
  else
    let code := if x.com.drive = 1 then 6 else x.com.step
    if x.pwm.sheet = s.evMask m code then s else s.applyStep m code b

/-! ### Luff shapes (R152, R153) -/

/-- A 16-bit entry of table memory at a byte address. -/
def State.tab16 (s : State) (byte : Nat) : Nat :=
  bitsOf (spGet 0#32 s.eng.tab (byte / 4 % 4096)) (8 * (byte % 4) + 15) (8 * (byte % 4))

/-- f(i) as a numerator at scale 2^100, for period number i of n (R153). -/
def State.luffF (s : State) (m : Fin 16) (i n : Nat) : Nat :=
  match s.efld F.LUFF_CFG_SHAPE m with
  | 0 => 2 ^ 100 * (i + 1) / n
  | 2 =>
    let p := 64 * (i + 1) / n - 1
    let e := if p = 63 then 65535 else s.tab16 (128 * s.efld F.LUFF_CFG_TAB m + 2 * p)
    2 ^ 100 * e / 65535
  | _ => ((2 ^ 100 - cosFix (pi100 * (i + 1) / n)) / 2).toNat

/-- The shaped compare of leg l during a transfer (R152); none for the leg that keeps its state. -/
def State.luffCmp (s : State) (m : Fin 16) (lf : Luff) (l cD : Nat) : Option Nat :=
  let a := (stepMask lf.fromS >>> (2 * l)) % 4
  let b := (stepMask lf.toS >>> (2 * l)) % 4
  if a = b then none
  else
    let f := s.luffF m (lf.i - 1) lf.n
    -- legs of value 1 float: outgoing LOW and incoming PASS follow f, the others 1 − f
    let g := if (b = 1 ∧ a = 2) ∨ (a = 1 ∧ b = 0) then f else 2 ^ 100 - f
    some ((cD * g + 2 ^ 99) / 2 ^ 100)

/-! ### The angle tracker (R187, R188) -/

/-- θ̂ is held: in IDLE, but for the preset of ASRC NONE (R191). -/
def Com.angleHeld (c : Com) : Bool := c.est == .idle && !c.presetNone

/-- θ̂ at an instant, from its latest update (R148); held in IDLE (R191). -/
def Com.thetaAt (c : Com) (t : Nat) : Word :=
  let d : Int := (t : Int) - c.trkAt
  if c.angleHeld then c.theta else fAdd c.theta (fMul c.omega (if d < 0 then fNeg (fSeconds d.natAbs) else fSeconds d.natAbs))

/-- The natural frequency in force (R192). -/
def State.trkWn (s : State) (m : Fin 16) (w : Word) : Word :=
  let lo := fOfInt (s.efld F.AT_CFG_WN_LO m)
  let hi := fOfInt (4 * s.efld F.AT_CFG_WN_HI m)
  match (s.mast m).com.est with
  | .high => hi
  | .blend => fAdd (fMul (fSub fOne w) lo) (fMul w hi)
  | .track => Config.wnTrack (s.efld F.AT_CFG_WN_LO m) (s.efld F.AT_CFG_WN_HI m)
  | _ => lo

/-- The blend weight w (R192). -/
def State.blendW (s : State) (m : Fin 16) : Word :=
  let a := fAbs (s.mast m).com.omega
  let w1 := fOfInt (s.efld F.HND_CFG_WH1 m)
  let w2 := fOfInt (s.efld F.HND_CFG_WH2 m)
  if fLe w2 w1 then (if fGe a w2 then fOne else fZero)
  else fClamp (fDiv (fSub a w1) (fSub w2 w1)) fZero fOne

/-- The largest tracked speed (R187). -/
def fWmax : Word := 0x46F57000#32

/-- One measurement with error e at instant t (R187, R188). DEDUCED, log entry 16: θ̂ is carried to that instant, which is that of its latest update. -/
def State.measure (s : State) (m : Fin 16) (e : Word) (t : Nat) : State :=
  let c := (s.mast m).com
  let tu := fSeconds (t - c.measAt)
  let wn := s.trkWn m (s.blendW m)
  let kp := fMul (fMul (fMul fTwo (fOfRat (s.efld F.AT_CFG_ZETA m) 8)) wn) tu
  let ki := fMul (fMul wn wn) tu
  let cp := fGt kp fOne
  let ci := fGt (fMul ki tu) 0x3E800000#32
  let kp1 := if cp then fOne else kp
  let ki1 := if ci then fDiv 0x3E800000#32 tu else ki
  let s1 := s.updCom m fun c =>
    { c with
      theta := angMod (fAdd (c.thetaAt t) (fMul kp1 e))
      omega := fClamp (fAdd c.omega (fMul ki1 e)) (fNeg fWmax) fWmax
      trkAt := t, measAt := t }
  s1.when (cp || ci) fun s => s.comFlag m F.COM_STAT_AT_CLAMP

/-- θ̂ propagates to the boundary at b (R187): by ω̂ × T, or from a measurement in the period on (log entry 16); held in IDLE but for the preset of
ASRC NONE (R191). -/
def State.propagate (s : State) (m : Fin 16) (b : Nat) : State :=
  s.updCom m fun c => { c with theta := (if c.angleHeld then c.theta else angMod (c.thetaAt b)), trkAt := b }

/-! ### Estimator states (R191–R194) -/

/-- The advanced angle at instant t (R148). -/
def State.advAngle (s : State) (m : Fin 16) (t : Nat) : Word :=
  let c := (s.mast m).com
  let adv := fOfScaled (pi100 * s.efld F.ZC_CFG_ADV m / 360) (-100)
  let th := c.thetaAt t
  if c.rev then fSub th adv else fAdd th adv

/-- Nothing is left of a steering by zero crossings (R166, R168) but the count of missed ones, which an accepted crossing alone clears (R167). -/
def Com.zcClear (c : Com) : Com :=
  { c with zcGood := 0, zcSteer := false, zcNext := none, zcLast := none, zcRef := none }

/-- A state whose consecutive invalid windows count (R194). -/
def Est.counts (e : Est) : Bool := e == .polarity || e == .low || e == .blend

/-- Enter an estimator state: leaving IDLE restarts the generator and the window, entering HIGH notes the sector of the advanced angle, entering or
leaving it clears the steering (R140, R148, R168, R176, R181). -/
def State.setEst (s : State) (m : Fin 16) (e : Est) : State :=
  let n := sectorOf (s.advAngle m s.now)
  s.updCom m fun c =>
    let c1 := { c with est := e, winBad := if c.est.counts && e.counts then c.winBad else 0, obsBad := 0, pol := if e = .polarity then {} else c.pol }
    let c2 := if c.est = .idle then { c1 with lfsr := 2047, epsOk := false, corrRun := false } else c1
    let c3 := if e = .high then { c2 with sector := n } else c2
    let c4 := if e = .track then { c3 with hallStill := false } else c3
    if (c.est = .high) = (e = .high) then c4 else c4.zcClear

/-- Loss: LOST and ESTIMATOR (R194). -/
def State.estLost (s : State) (m : Fin 16) : State :=
  if (s.mast m).com.est = .lost then s else (s.setEst m .lost).raiseM m MS.ESTIMATOR 0

/-- The output enable of U, V, W has turned off (R191). -/
def State.estOff (s : State) (m : Fin 16) : State :=
  s.updCom m fun c => { c.zcClear with est := (if c.est = .track then .track else .idle), presetNone := false }

/-- The states the speed leads to (R192). -/
def State.estMove (s : State) (m : Fin 16) : State :=
  let c := (s.mast m).com
  let a := fAbs c.omega
  let w1 := fOfInt (s.efld F.HND_CFG_WH1 m)
  let w2 := fOfInt (s.efld F.HND_CFG_WH2 m)
  let h := fMax (fMul (fSub w2 w1) 0x3E800000#32) (fMul w1 0x3D800000#32)
  match c.est with
  | .low => if fGe a w1 then s.setEst m .blend else s
  | .blend =>
    if fGe (s.blendW m) fOne then s.setEst m .high
    else if fLt a (fSub w1 h) then s.setEst m .low else s
  | .high => if fLt a (fSub w2 h) then s.setEst m .blend else s
  | _ => s

/-- A preset by the start sequencer (R190). DESIGN CHOICE, log entry 105: MODE is no condition of the states of SENSORLESS, nor of the injection
(R138, R176). -/
def State.preset (s : State) (m : Fin 16) (th om : Word) (t : Nat) : State :=
  let s1 := s.updCom m fun c =>
    { c with theta := angMod th, omega := fClamp om (fNeg fWmax) fWmax, trkAt := t, measAt := t, presetNone := decide (s.asrc m = 0) }
  if s.asrc m = 3 then
    let a := fAbs om
    if fLt a (fOfInt (s.efld F.HND_CFG_WH1 m)) then s1.setEst m .low
    else if fGe a (fOfInt (s.efld F.HND_CFG_WH2 m)) then s1.setEst m .high else s1.setEst m .blend
  else s1

/-- A sensor fault of the tracker: ESTIMATOR, and EST_VALID 0 until the next start (R158, R161, R191). -/
def State.sensorFault (s : State) (m : Fin 16) : State :=
  (s.updCom m fun c => { c with sensorBad := true }).raiseM m MS.ESTIMATOR 0

/-- A measurement of a sensor in TRACK (R159, R162). -/
def State.sensorMeasure (s : State) (m : Fin 16) (src : Nat) (ang : Word) (t : Nat) : State :=
  let c := (s.mast m).com
  if c.est = .track ∧ s.asrc m = src then s.measure m (angDiff ang (c.thetaAt t)) t else s

/-! ### Drives (R140, R148) -/

/-- The drive MODE, ASRC and the estimator state ask for; step drive with SENSORLESS is entered by a sector change only (R140). -/
def State.driveWanted (s : State) (m : Fin 16) : Nat :=
  match s.comMode m with
  | 1 => if s.asrc m = 3 then (if (s.mast m).com.est = .high then (if (s.mast m).com.drive = 2 then 2 else 1) else 1) else 2
  | 2 => 1
  | _ => 0

/-- The drive follows at a boundary, or at once at rest; entering vector drive is a step event to PASS (R140, R141). -/
def State.refreshDrive (s : State) (m : Fin 16) (t : Nat) : State :=
  let d := s.driveWanted m
  let old := (s.mast m).com.drive
  if d = old then s
  else
    let s1 := s.updCom m fun c => { c with drive := d, stepHeld := false }
    if d = 1 then s1.stepEvent m 6 t else s1

/-- The advanced angle has left sector n by more than 2° (R148). -/
def leftSector (n : Nat) (a : Word) : Bool :=
  fGt (fAbs (angDiff a (degW (sectorCentre n)))) (degW 32)

/-- R168: step drive is entered from HIGH at instant t. -/
def State.enterStepDrive (s : State) (m : Fin 16) (at_ : Nat) : State :=
  s.updCom m fun c =>
    let w := fAbs c.omega
    let t := (fToInt .rne 0 (2 ^ 40) (fMul (fDiv (fDiv fPi (fOfInt 3)) w) (fOfInt 15360000000))).1.toNat
    { c.zcClear with drive := 2, stepHeld := false, stepT := t, zcPrevInt := some t, evAt := at_ }

/-- The steering of step drive is by the advanced angle (R147, R168). -/
def State.angleSteers (s : State) (m : Fin 16) : Bool :=
  let c := (s.mast m).com
  decide (s.comMode m = 1) &&
    (match s.asrc m with
      | 1 => decide (s.efld F.ZC_CFG_ADV m ≠ 0)
      | 2 => true
      | 3 => c.est == .high && (!c.zcSteer || decide (2 ≤ c.missRun) || decide (c.drive ≠ 2))
      | _ => false)

/-- The latest evaluation instant of the advanced angle, every 8 SPARCLK cycles (R148), by its number; DESIGN CHOICE, log entry 94: counted from
reset. -/
def State.advTick (s : State) : Nat := s.now / (8 * tSpar)

/-- The evaluation of the advanced angle is due (R148). -/
def State.advDue (s : State) (m : Fin 16) : Bool := s.hasMast m && decide ((s.mast m).com.advNo < s.advTick)

/-- The evaluation of the advanced angle (R147, R148, R140). -/
def State.advCheck (s : State) (m : Fin 16) : State :=
  let t := s.advTick * (8 * tSpar)
  let a := s.advAngle m t
  let n := (s.mast m).com.sector
  let s0 := s.updCom m fun c => { c with advNo := s.advTick }
  if s.angleSteers m && fFinite a && leftSector n a then
    let n1 := sectorOf a
    let s1 := s0.updCom m fun c => { c with sector := n1 }
    let s2 := if s.asrc m = 3 ∧ (s.mast m).com.drive ≠ 2 then s1.enterStepDrive m t else s1
    s2.stepEvent m (sectorStep (s.reverse m) n1) t
  else s0

/-! ### Hall (R156–R159) -/

/-- GPIO input level. -/
def State.pin (s : State) (n : Nat) : Bool := s.gpio.inp.testBit n
/-- The instant a pin last changed. -/
def State.pinChg (s : State) (n : Nat) : Nat := s.gpio.chg.toArray.getD n 0

/-- Hall code at the pins now, and the instant it became stable (R156). -/
def State.hallPins (s : State) (m : Fin 16) : Nat × Nat :=
  let p := s.efld F.HALL_CFG_PIN m
  (b2n (s.pin p) + 2 * b2n (s.pin (p + 1)) + 4 * b2n (s.pin (p + 2)),
   Nat.max (s.pinChg p) (Nat.max (s.pinChg (p + 1)) (s.pinChg (p + 2))))

/-- A new code has been stable long enough (R156). -/
def State.hallDue (s : State) (m : Fin 16) : Bool :=
  let h := s.hallPins m
  decide (h.1 ≠ (s.mast m).com.hallCode) && decide (h.2 + 128 * s.efld F.HALL_CFG_FILT m ≤ s.now)

/-- The sector of a code; none for an illegal one (R157, R158). -/
def State.hallSector (s : State) (m : Fin 16) (h : Nat) : Option Nat :=
  if h = 0 ∨ h = 7 then none else some (bitsOf (s.eword m R.HALL_CFG) (3 * (h - 1) + 2) (3 * (h - 1)))

/-- An illegal code or a non-adjacent change is counted (R158). DESIGN CHOICE, log entry 105: the fourth empties the list, so four new ones raise
ESTIMATOR again. -/
def State.hallError (s : State) (m : Fin 16) : State :=
  let c := (s.mast m).com
  let l := (c.hallNo :: c.hallErrs).filter fun n => decide (c.hallNo < n + 256)
  let s1 := (s.comFlag m F.COM_STAT_HALL_ERR).updCom m fun c => { c with hallErrs := if 4 ≤ l.length then [] else l }
  s1.when (decide (4 ≤ l.length)) fun s => s.sensorFault m

/-- The boundary angle of sector n entered from sector p, degrees (R159). -/
def hallBoundary (p n : Nat) : Int := if (p + 1) % 6 = n then 60 * (n : Int) - 150 else 60 * (n : Int) - 90

/-- A Hall code is accepted (R156–R159, R147). -/
def State.hallAccept (s : State) (m : Fin 16) : State :=
  let h := s.hallPins m
  let c := (s.mast m).com
  let s1 := s.updCom m fun c => { c with hallCode := h.1, hallNo := c.hallNo + 1 }
  match s.hallSector m h.1 with
  | none => (s1.updCom m fun c => { c with hallIllegal := some h.2 }).hallError m
  | some n =>
    let s2 := s1.updCom m fun c => { c with hallIllegal := none, hallRef := some n }
    let step := fun (s : State) =>
      if s.comMode m = 1 ∧ s.asrc m = 1 ∧ s.efld F.ZC_CFG_ADV m = 0 then
        (s.updCom m fun c => { c with sector := n }).stepEvent m (sectorStep (s.reverse m) n) h.2
      else s
    match c.hallRef with
    | none => step (s2.updCom m fun c => { c with hallSec := some n, hallLast := h.2, hallStill := false })
    | some p =>
      if p = n then s2
      else if adjacent6 p n then
        let s3 := s2.updCom m fun c => { c with hallSec := some n, hallLast := h.2, hallStill := false }
        step (s3.sensorMeasure m 1 (fAdd (degW (hallBoundary p n)) (s.msig m 0x064)) h.2)
      else s2.hallError m

/-- The illegal code has stayed 100 µs (R158). -/
def State.hallIllegalDue (s : State) (m : Fin 16) : Bool :=
  match (s.mast m).com.hallIllegal with
  | some t => decide (t + 100 * tUs ≤ s.now)
  | none => false

/-- No change for the longer of 50 ms and 4 × STEP_T, while HALL feeds the tracker (R159). -/
def State.hallStillDue (s : State) (m : Fin 16) : Bool :=
  let c := (s.mast m).com
  c.est == .track && decide (s.asrc m = 1) && c.hallSec.isSome && !c.hallStill &&
    decide (c.hallLast + Nat.max (50 * tMs) (4 * c.stepT) ≤ s.now)

/-- The rotor stands (R159). -/
def State.hallStop (s : State) (m : Fin 16) : State :=
  let n := (s.mast m).com.hallSec.getD 0
  s.updCom m fun c =>
    { c with hallStill := true, omega := fZero, theta := angMod (fAdd (degW (sectorCentre n)) (s.msig m 0x064)), trkAt := s.now }

/-! ### Encoder (R160–R162) -/

/-- Encoder levels A and B now, and the instant they became stable. -/
def State.quadPins (s : State) (m : Fin 16) : Nat × Nat :=
  let p := s.efld F.QUAD_CFG_PIN m
  (b2n (s.pin p) + 2 * b2n (s.pin (p + 1)), Nat.max (s.pinChg p) (s.pinChg (p + 1)))

/-- An edge is accepted (R160). -/
def State.quadDue (s : State) (m : Fin 16) : Bool :=
  let h := s.quadPins m
  decide (h.1 ≠ (s.mast m).com.quadAB) && decide (h.2 + 128 * s.efld F.QUAD_CFG_FILT m ≤ s.now)

/-- QUAD_ERR, and ESTIMATOR at the fourth within a bosun round (R161). -/
def State.quadError (s : State) (m : Fin 16) : State :=
  let c := (s.mast m).com
  let l := (s.hk.round :: c.quadErrs).filter fun r => r = s.hk.round
  let s1 := (s.comFlag m F.COM_STAT_QUAD_ERR).updCom m fun c => { c with quadErrs := l }
  s1.when (decide (l.length = 4)) fun s => s.sensorFault m

/-- The next state of A and B (A in bit 0) in forward rotation, A leading (R160). -/
def quadNext : Nat → Nat
  | 0 => 1 | 1 => 3 | 3 => 2 | _ => 0

/-- The position changes at instant t; while the timebase runs, what it was before is kept for the sets not yet released (R162). -/
def State.quadMove (s : State) (m : Fin 16) (pos t : Nat) : State :=
  let keep := (s.mast m).pwm.counting
  s.updCom m fun c => { c with quadPos := pos, quadHist := if keep then (t, c.quadPos) :: c.quadHist else [] }

/-- An accepted edge moves the position (R160). -/
def State.quadAccept (s : State) (m : Fin 16) : State :=
  let h := s.quadPins m
  let c := (s.mast m).com
  let cpr := s.efld F.QUAD_CFG_CPR m
  let s1 := s.updCom m fun c => { c with quadAB := h.1 }
  if cpr = 0 then s1
  else if quadNext c.quadAB = h.1 then s1.quadMove m ((c.quadPos + 1) % cpr) h.2
  else if quadNext h.1 = c.quadAB then s1.quadMove m ((c.quadPos + cpr - 1) % cpr) h.2
  else s1.quadError m

/-- The input filter of Z: its level counts once it has been stable for FILT (R156, R160). -/
def State.zStable (s : State) (m : Fin 16) : Bool :=
  decide (s.pinChg (s.efld F.QUAD_CFG_PIN m + 2) + 128 * s.efld F.QUAD_CFG_FILT m ≤ s.now)

/-- The level of Z that the filter lets through becomes the accepted one (R156, R160). -/
def State.noteZ (s : State) (m : Fin 16) : State :=
  s.when (s.zStable m) fun s => s.updCom m fun c => { c with quadZ := s.pin (s.efld F.QUAD_CFG_PIN m + 2) }

/-- Before GPIO pin p changes, every encoder whose Z it is notes the level it leaves (R156, R161). -/
def State.noteZs (s : State) (p : Fin 32) : State :=
  (allFin 16).foldl (fun (s : State) (m : Fin 16) => s.when (decide (s.efld F.QUAD_CFG_PIN m + 2 = p.val)) fun s => s.noteZ m) s

/-- A rise of Z from an accepted low to an accepted high (R161, R156). -/
def State.quadZDue (s : State) (m : Fin 16) : Bool :=
  let p := s.efld F.QUAD_CFG_PIN m + 2
  s.efld F.QUAD_CFG_ZEN m == 1 && s.pin p && decide (s.pinChg p ≠ 0) && s.zStable m && !(s.mast m).com.quadZ

/-- The index (R161). -/
def State.quadIndexed (s : State) (m : Fin 16) : State :=
  let p := s.efld F.QUAD_CFG_PIN m + 2
  let cpr := s.efld F.QUAD_CFG_CPR m
  let pos := (s.mast m).com.quadPos
  let off := if pos ≤ cpr - pos then pos else cpr - pos
  let t := s.pinChg p
  let s1 := (s.updCom m fun c => { c with quadZ := true }).quadMove m 0 t
  s1.when (decide (2 < off)) fun s => s.quadError m

/-- The position as it was at instant t: what the first change after it found (R162). -/
def Com.posAt (c : Com) (t : Nat) : Nat :=
  match (c.quadHist.filter fun e => decide (t < e.1)).getLast? with
  | some e => e.2
  | none => c.quadPos

/-- The encoder's measurement at a release, the position as it was at ts (R162). -/
def State.quadMeasure (s : State) (m : Fin 16) (ts : Nat) : State :=
  let cpr := s.efld F.QUAD_CFG_CPR m
  let pos := (s.mast m).com.posAt ts
  let s1 := s.updCom m fun c => { c with quadHist := c.quadHist.filter fun e => decide (ts < e.1) }
  if cpr = 0 then s1
  else
    let ang := fOfScaled (twoPi61 * 2 ^ 39 * (s.polePairs m * pos) / cpr) (-100)
    s1.sensorMeasure m 2 (fAdd ang (s.msig m 0x064)) ts

/-! ### Zero crossing (R163–R168) -/

/-- The level a crossing of sector n leads to, 1 above the neutral: rising in odd sectors forward, in even ones in reverse (R143). -/
def crossRises (rev : Bool) (n : Nat) : Bool := decide (n % 2 = 1) != rev

/-- Windows in rising order of their start. -/
def insWin (w : Nat × Nat) : List (Nat × Nat) → List (Nat × Nat)
  | [] => [w]
  | x :: r => if w.1 ≤ x.1 then w :: x :: r else x :: insWin w r

/-- The cycles from a to b − 1 that no window, of those in rising order of start, covers. -/
def uncovered (a b : Nat) : List (Nat × Nat) → Nat
  | [] => b - a
  | w :: r => (min w.1 b - a) + uncovered (max a w.2) b r

/-- The blanking windows of the zero-crossing detector in SPARCLK cycles (R84, R164). -/
def State.zcWindows (s : State) (m : Fin 16) : List (Nat × Nat) :=
  let n := s.efld F.ZC_CFG_BLNK m
  let cyc := fun (t : Nat) => (t + 127) / tSpar
  if s.efld F.ZC_CFG_BLNK_EN m = 0 ∨ s.clk.lost = true then []
  else ((s.edgesNow m).filter fun e => s.blanksOn m n e.1).foldl (fun l e => insWin (cyc e.2, cyc (e.2 + s.blankLen m n)) l) []

/-- The output of the floating phase's comparator is at level `lvl` and reached it `age` taps ago: the crossing may be accepted (R164). The mask of the
step in force applies, so that its phase floats, the cycle it
was reached in lies outside blanking, FILT cycles outside blanking have passed, and the demagnetisation interval was over. -/
def State.zcDue (s : State) (m : Fin 16) (lvl : Bool) (age : Nat) : Bool :=
  let x := s.mast m
  let c := x.com
  let tz := s.now - age
  let a := tz / tSpar
  let w := s.zcWindows m
  let demag := Nat.max (c.stepT * s.efld F.ZC_CFG_DEMAG m / 64) (2 * x.pwm.tLen)
  decide (c.drive = 2) && decide (s.asrc m = 3) && c.est == .high && c.luff.isNone &&
    c.stepHeld && decide (x.pwm.sheet % 64 = stepMask c.step) && lvl == crossRises c.rev (stepSector c.rev c.step) &&
    decide (uncovered a (a + 1) w = 1) && decide (s.efld F.ZC_CFG_FILT m ≤ uncovered a (s.now / tSpar) w) &&
    decide (c.floatAt + demag ≤ tz) && (match c.zcLast with | some t => decide (t < c.floatAt) | none => true)

/-- The next step of the cycle in the table direction. -/
def Com.nextStep (c : Com) : Nat := if c.rev then (c.target + 5) % 6 else (c.target + 1) % 6

/-- A crossing, or a forced step, comes at instant t: the interval it ends counts unless a forced step began it too, and STEP_T is the mean of the
last two (R165). -/
def Com.interval (c : Com) (forced : Bool) (t : Nat) : Com :=
  let c1 := { c with zcRef := some (t, forced) }
  match c.zcRef with
  | none => c1
  | some (r, f) =>
    if f && forced then c1
    else
      let i := t - r
      { c1 with stepT := (match c.zcPrevInt with | some p => (i + p) / 2 | none => i), zcPrevInt := some i }

/-- The next step event after a crossing at tz (R166), ADV in 0.5°. DESIGN CHOICE, log entry 94: the PWMCLK cycle is that of the exact instant, and none
before the crossing. -/
def zcNextAt (tz stepT adv : Nat) : Nat := Nat.max tz ((tz + stepT * (60 - adv) / 120) / 32 * 32)

/-- A crossing is accepted (R164–R168). -/
def State.zcAccept (s : State) (m : Fin 16) (age : Nat) : State :=
  let tz := s.now - age
  let c := (s.mast m).com
  let n := stepSector c.rev c.step
  let e := angDiff (degW (sectorCentre n)) (c.thetaAt tz)
  let good := if fLe (fAbs e) (degW 15) then c.zcGood + 1 else 0
  let s1 := s.updCom m fun c =>
    let c1 := c.interval false tz
    { c1 with zcLast := some tz, missRun := 0, zcGood := good, zcSteer := c.zcSteer || decide (3 ≤ good) }
  let s2 := s1.measure m e tz
  let c2 := (s2.mast m).com
  if c2.zcSteer then s2.updCom m fun c => { c with zcNext := some (zcNextAt tz c2.stepT (s.efld F.ZC_CFG_ADV m)) } else s2

/-- The step timer has run out: the zero crossings steer (R147, R166, R168). -/
def State.zcStepDue (s : State) (m : Fin 16) : Bool :=
  let c := (s.mast m).com
  c.est == .high && decide (c.drive = 2) && decide (s.asrc m = 3) && c.zcSteer && decide (c.missRun < 2) &&
    (match c.zcNext with | some t => decide (t ≤ s.now) | none => false)

/-- The step event of the timer (R166). -/
def State.zcStep (s : State) (m : Fin 16) : State :=
  let c := (s.mast m).com
  let t := c.zcNext.getD s.now
  let s1 := s.updCom m fun c => { c with zcNext := none, sector := stepSector c.rev c.nextStep, evAt := t }
  s1.stepEvent m c.nextStep t

/-- The instant a crossing is missed (R167). -/
def Com.missAt (c : Com) : Nat := c.evAt + c.stepT + c.stepT / 2

/-- No crossing 1.5 × STEP_T after the last step event (R167). -/
def State.zcMissDue (s : State) (m : Fin 16) : Bool :=
  let c := (s.mast m).com
  decide (c.drive = 2) && decide (s.asrc m = 3) && c.est == .high && c.zcNext.isNone && decide (c.stepT ≠ 0) &&
    decide (c.missAt ≤ s.now) && (match c.zcLast with | some t => decide (t < c.evAt) | none => true)

/-- A step is forced (R167, R194). -/
def State.zcForce (s : State) (m : Fin 16) : State :=
  let c := (s.mast m).com
  let t := c.missAt
  let s1 := (s.comFlag m F.COM_STAT_ZC_MISS).updCom m fun c =>
    let c1 := c.interval true t
    { c1 with missRun := c.missRun + 1, sector := stepSector c.rev c.nextStep, evAt := t }
  let s2 := s1.stepEvent m c.nextStep t
  s2.when (decide (6 ≤ c.missRun + 1)) fun s => s.estLost m

/-! ### The vector modulator (R169–R173) -/

/-- What the modulator converts with. -/
structure VmIn where
  vbus : Word
  zseq : Nat
  modMax : Nat
  per : Nat
  /-- Dead-time compensation of each leg, as a duty. -/
  dtc : List Word
  deriving DecidableEq, Repr

/-- 2^60 and 2^−70. -/
def fBig : Word := 0x5D800000#32
def fDown70 : Word := 0x1C800000#32

/-- The conversion: three CMP_A values and whether the vector was limited (R170–R173). -/
def vmConvert (x : VmIn) (va vb : Word) : List Nat × Bool :=
  if fLt x.vbus fOne then
    ([16 * x.per, 16 * x.per, 16 * x.per], true)
  else
    let lim := fMul (if x.zseq = 0 then fMul x.vbus fHalf else fMul x.vbus fInvSqrt3) (fOfRat x.modMax 255)
    -- components too large to be squared are scaled down by 2^70 first
    let big := fGe (fAbs va) fBig || fGe (fAbs vb) fBig
    let wa := if big then fMul va fDown70 else va
    let wb := if big then fMul vb fDown70 else vb
    let mag := fSqrt (fAdd (fMul wa wa) (fMul wb wb))
    let sat := big || fGt mag lim
    let k := fDiv lim mag
    let a := if sat then fMul wa k else va
    let b := if sat then fMul wb k else vb
    let h := fNeg (fMul a fHalf)
    let q := fMul fSqrt3Half b
    let v := [a, fAdd h q, fSub h q]
    let lo := fMin (v.getD 0 fZero) (fMin (v.getD 1 fZero) (v.getD 2 fZero))
    let hi := fMax (v.getD 0 fZero) (fMax (v.getD 1 fZero) (v.getD 2 fZero))
    let hb := fMul x.vbus fHalf
    let v0 := match x.zseq with
      | 0 => fZero
      | 2 => fSub (fNeg hb) lo
      | 3 => fSub hb hi
      | _ => fNeg (fMul (fAdd hi lo) fHalf)
    let cl := match x.zseq with
      | 2 => v.findIdx? fun y => y == lo
      | 3 => v.findIdx? fun y => y == hi
      | _ => none
    let duty := (v.zip x.dtc).map fun e => fAdd (fAdd fHalf (fDiv (fAdd e.1 v0) x.vbus)) e.2
    (duty.mapIdx fun i d =>
      if cl = some i then (if x.zseq = 2 then 0 else 0x1FFFFF)
      else if fLe d fZero then 0
      else if fGe d fOne then 0x1FFFFF
      else (fToInt .rne 0 0x1FFFFF (fMul d (fOfInt (32 * x.per)))).1.toNat, sat)

/-- σ of a leg (R173). -/
def State.dtcSigma (s : State) (m : Fin 16) (l : Nat) : Word :=
  let i := s.msig m l
  let k := s.msig m 0x065
  if s.msig m 0x008 = 0#32 then fZero
  else if fIsZero k then (if fIsZero i then fZero else if bitOf i 31 then fNeg fOne else fOne)
  else fClamp (fDiv i k) (fNeg fOne) fOne

/-- The modulator's inputs for a staging set (R170–R173). -/
def State.vmIn (s : State) (m : Fin 16) (set : PwmSet) : VmIn :=
  let z := s.efld F.VM_CTL_ZSEQ m
  let dt := fun (l : Nat) =>
    let g := set.legs.toArray.getD l {}
    if s.efld F.VM_CTL_DTC m = 0 then fZero
    else fMul (s.dtcSigma m l) (fOfRat (g.dtr + g.dtf : Nat) (2 * s.perTaps m set.period))
  { vbus := (s.mast m).sense.lastVbus
    zseq := if (z = 2 ∨ z = 3) ∧ s.injRuns m = true then 1 else z
    modMax := s.efld F.VM_CTL_MOD_MAX m
    per := set.period
    dtc := [dt 0, dt 1, dt 2] }

/-- A set with both compares of U, V and W replaced: what the sequence of R183 makes is all that loads. -/
def PwmSet.withPair (x : PwmSet) (l : List Nat) : PwmSet :=
  let f := fun (g : LegSet) (i : Nat) => { g with a := l.getD i 0, b := l.getD i 0 }
  { x with legs := #v[f x.legs[0] 0, f x.legs[1] 1, f x.legs[2] 2, x.legs[3]] }

/-- A set with CMP_A of U, V and W replaced. -/
def PwmSet.withCmp (x : PwmSet) (l : List Nat) : PwmSet :=
  { x with legs := #v[{ x.legs[0] with a := l.getD 0 0 }, { x.legs[1] with a := l.getD 1 0 }, { x.legs[2] with a := l.getD 2 0 }, x.legs[3]] }

/-- What a commit of the staging set loads: of VECTOR kind, the modulator's conversion, and whether it was limited (R169–R172). -/
def State.commitValue (s : State) (m : Fin 16) : PwmSet × Bool :=
  let st := s.staged m
  if (s.mast m).com.kindVec then
    let r := vmConvert (s.vmIn m st) (s.rd (keyI R.VM_VA m)) (s.rd (keyI R.VM_VB m))
    (st.withCmp r.1, r.2)
  else (st, false)

/-- What a conversion leaves in COM_STAT: VM_SAT of one that was limited, KIND_ERR in step drive (R146, R172). -/
def State.convFlags (s : State) (m : Fin 16) (sat : Bool) : State :=
  let s1 := (s.updCom m fun c => { c with vmSat := sat }).when sat fun s => s.comFlag m F.COM_STAT_VM_SAT
  s1.when (decide ((s.mast m).com.drive = 2)) fun s => s.comFlag m F.COM_STAT_KIND_ERR

/-- A part of the staging set of mast m takes a value: a register, the PERIOD of PWM_CTL, or under the key of PWM_COMMIT its kind (R71, R169). -/
def State.stagePut (s : State) (m : Fin 16) (key : Nat) (w : Word) : State :=
  if key = keyI R.PWM_CTL m then s.wr key (setBitsOf (s.rd key) 15 0 w.toNat)
  else if key = keyI R.PWM_COMMIT m then s.updCom m fun c => { c with kindVec := w != 0#32 }
  else s.wr key w

/-- The value a part of the staging set had when the present cycle began. -/
def State.stageWas (s : State) (m : Fin 16) (key : Nat) : Word :=
  if key = keyI R.PWM_CTL m then nat32 (s.before.fld F.PWM_CTL_PERIOD m)
  else if key = keyI R.PWM_COMMIT m then b2w (s.before.mast m).com.kindVec
  else s.before.rd key

/-- The write of a part of the staging set that stands among the writers up to a rank: the last of the highest rank (R72, R316). -/
def stageTop (l : List StageWr) (key rank : Nat) : Option StageWr :=
  l.foldl (fun a e => if e.key = key ∧ e.rank ≤ rank then (match a with | some x => if x.rank ≤ e.rank then some e else a | none => some e) else a) none

/-- A duty as a compare value: the nearest to d × 32 × PERIOD, the ends exact (R312). -/
def cmpDuty (per : Nat) (d : Word) : Nat :=
  if fLe d fZero then 0
  else if fGe d fOne then 0x1FFFFF
  else (clampInt 0 0x1FFFFF (roundInt .rne (fScaled d * (32 * per : Nat)))).toNat

/-- The PERIOD of the staging set of mast m as the writers of the present cycle up to a rank leave it (R72, R312). -/
def State.stagePer (s : State) (m : Fin 16) (rank : Nat) : Nat :=
  let key := keyI R.PWM_CTL m
  if s.cyc.stage.any fun e => e.key == key then
    (match stageTop s.cyc.stage key rank with | some e => e.word | none => s.stageWas m key).toNat % 65536
  else s.fld F.PWM_CTL_PERIOD m

/-- A key of the leg and vector registers of mast m. -/
def stageKey (m : Fin 16) (key : Nat) : Bool := decide (key / 0x2000 = m.val ∧ key % 0x2000 / 256 = 16)

/-- The compares of mast m that this cycle has converted from duties follow the PERIOD staged ahead of them (R72, R312). -/
def State.reduty (s : State) (m : Fin 16) : State :=
  let f := fun (e : StageWr) =>
    match e.duty with
    | some d => if stageKey m e.key then { e with word := nat32 (cmpDuty (s.stagePer m e.rank) d) } else e
    | none => e
  let s1 : State := { s with cyc.stage := s.cyc.stage.map f }
  ((s1.cyc.stage.filter fun e => e.duty.isSome && stageKey m e.key).map (·.key)).eraseDups.foldl
    (fun t k => match stageTop s1.cyc.stage k 10 with | some e => t.stagePut m k e.word | none => t) s1

/-- The staging set of mast m as the writers of the present cycle up to a rank leave it: what a commit of that rank copies (R72, R316). -/
def State.stageView (s : State) (m : Fin 16) (rank : Nat) : State :=
  (((s.cyc.stage.map (·.key)).eraseDups).filter fun k => decide (k / 0x2000 = m.val)).foldl
    (fun t k => t.stagePut m k (match stageTop s.cyc.stage k rank with | some e => e.word | none => s.stageWas m k)) s

/-- The commits of the present cycle behind a rank copy the staging set anew (R72, R316). -/
def State.restage (s : State) (m : Fin 16) (rank : Nat) : State :=
  let f := fun (l : List Commit) => l.map fun e =>
    if e.cyc = s.now / tSpar ∧ rank < e.rank ∧ e.sync = false then { e with set := ((s.stageView m e.rank).commitValue m).1 } else e
  s.updPwm m fun p => { p with untag := f p.untag, shadow := f p.shadow, hist := f p.hist }

/-- A writer of some rank writes a part of the staging set of mast m: what a writer of a higher rank has written in the cycle stands, and its
commits take the parts it has not (R72, R316). A PERIOD converts the duties behind it anew (R312). -/
def State.stageWr (s : State) (m : Fin 16) (rank key : Nat) (w : Word) (duty : Option Word := none) : State :=
  let s1 : State := { s with cyc.stage := s.cyc.stage ++ [{ rank := rank, key := key, word := w, duty := duty }] }
  let s2 := match stageTop s1.cyc.stage key 10 with | some e => s1.stagePut m key e.word | none => s1
  (s2.when (decide (key = keyI R.PWM_CTL m)) fun s => s.reduty m).restage m rank

/-- The kind of the staging set of mast m is written with its compares or its vector (R169). -/
def State.stageKind (s : State) (m : Fin 16) (rank : Nat) (vec : Bool) : State := s.stageWr m rank (keyI R.PWM_COMMIT m) (b2w vec)

/-- A commit of mast m at instant t by a maker of some rank, with its tag and sheet (R72, R80, R169, R170): a VECTOR commit completes 4 SPARCLK
cycles later. -/
def State.commitAt (s : State) (m : Fin 16) (tag sheet : Option Nat) (t rank : Nat) : State :=
  let v := s.stageView m rank
  let x := v.commitValue m
  let vec := (v.mast m).com.kindVec
  let soft := decide (s.efld F.PWM_CTL_SH_SRC m = 0)
  let s1 := (s.when vec fun s => s.convFlags m x.2).when (sheet.isSome && !soft) fun s => s.setFld F.PWM_STAT_CFG_ERR m 1
  s1.commitSet m x.1 tag (if soft then sheet else none) (if vec then t + 4 * tSpar else t) rank

/-! ### Injection (R176–R180) -/

/-- Length and second tap of a PRBS (R177). -/
def prbsTaps : Nat → Nat × Nat
  | 0 => (7, 6) | 2 => (11, 9) | _ => (9, 5)

/-- One step of the generator: the output bit and the next register; the bit enters at the bottom and is the output (log entry 18). -/
def prbsStep (prbs r : Nat) : Bool × Nat :=
  let t := prbsTaps prbs
  let b := xor (r.testBit (t.1 - 1)) (r.testBit (t.2 - 1))
  (r.testBit (t.1 - 1), (r * 2 + b2n b) % 2 ^ t.1)

/-- A chip as ±1. -/
def chipOf (b : Bool) : Int := if b then 1 else -1

/-- The blend weight the injection amplitude is reduced by (R178, R191). -/
def State.injBlend (s : State) (m : Fin 16) : Word := if (s.mast m).com.est = .blend then s.blendW m else fZero

/-- The compare offset of leg l for a chip (R178). -/
def State.injDelta (s : State) (m : Fin 16) (l per : Nat) (chip : Int) (th : Word) : Int :=
  let vb := (s.mast m).sense.lastVbus
  let v := fMul (fOfRat (chip * s.efld F.INJ_CFG_VINJ m) 100) (fSub fOne (s.injBlend m))
  let u := hCos (match l with | 0 => th | 1 => fSub th (degW 120) | _ => fAdd th (degW 120))
  (fToInt .rne (-2097151) 2097151 (fMul (fDiv (fMul v u) vb) (fOfInt (32 * per)))).1

/-- The chips of the period that begins, and the generator after them (R177, R179). -/
def State.nextChips (s : State) (m : Fin 16) : Int × Int × Nat :=
  let c := (s.mast m).com
  let p := s.efld F.INJ_CFG_PRBS m
  let a := prbsStep p c.lfsr
  if s.efld F.INJ_CFG_CHIP m = 0 then (chipOf a.1, chipOf a.1, a.2)
  else
    let b := prbsStep p a.2
    (chipOf a.1, chipOf b.1, b.2)

/-- The effective chip: the mean of two chips (R180). -/
def effChip (a b : Int) : Int := if a = b then a else 0

/-! ### The correlator (R181, R182, R194) -/

/-- An invalid window (R182, R194). -/
def State.badWindow (s : State) (m : Fin 16) : State :=
  let n := (s.mast m).com.winBad + 1
  let s1 := (s.comFlag m F.COM_STAT_EPS_INV).updCom m fun c => { c with epsOk := false, winBad := n, pol := { c.pol with good := 0, wins := c.pol.wins + 1 } }
  let c := (s1.mast m).com
  let lost := decide (s.efld F.AT_CFG_LOSS_N m ≤ n)
  match c.est with
  | .polarity => s1.when lost fun s => s.estLost m
  | .low => s1.when lost fun s => s.estLost m
  | .blend => s1.when (lost && !c.obsOk) fun s => s.estLost m
  | _ => s1

/-- A valid angle error ε (R182, R183, R187). -/
def State.goodWindow (s : State) (m : Fin 16) (e : Word) : State :=
  let good := fLt (fAbs e) (degW 5)
  let s1 := s.updCom m fun c =>
    { c with eps := e, epsOk := true, winBad := 0, pol := { c.pol with good := (if good then c.pol.good + 1 else 0), wins := c.pol.wins + 1 } }
  match (s1.mast m).com.est with
  | .polarity => if (s1.mast m).com.pol.phase = .settle then s1.measure m e s.now else s1
  | .low => s1.measure m e s.now
  | _ => s1

/-- The tracking phase of POLARITY is over: the pulses begin (R183). -/
def State.polSettled (s : State) (m : Fin 16) : State :=
  let c := (s.mast m).com
  if c.est = .polarity ∧ c.pol.phase = .settle ∧ (4 ≤ c.pol.good ∨ 64 ≤ c.pol.wins) then
    s.updCom m fun c => { c with pol := { c.pol with phase := .plus, n := 0 } }
  else s

/-- A window is complete (R181). -/
def State.winDue (s : State) (m : Fin 16) : Bool :=
  s.hasCorr && s.injRuns m && decide (2 ^ s.efld F.INJ_CFG_WIN m ≤ (s.mast m).com.cCnt)

/-- The end of a window (R182). -/
def State.winEnd (s : State) (m : Fin 16) : State :=
  let c := (s.mast m).com
  let ksal := fSub fOne (fDiv (s.msig m 0x061) (s.msig m 0x062))
  let q := fMul fPi 0x3E800000#32
  let e := fClamp (fDiv c.cQ (fMul ksal c.cD)) (fNeg q) q
  let cd := fDiv c.cD (fOfInt c.cN)
  let ok := fGe ksal 0x3D4CCCCD#32 && fGe cd (s.msig m 0x066) && fFinite e
  let s1 := s.updCom m fun c => { c with cD := fZero, cQ := fZero, cN := 0, cCnt := 0, cdOut := cd, epsLast := e }
  (if ok then s1.goodWindow m e else s1.badWindow m).polSettled m

/-- The currents of a set in α, β (R175). -/
def State.iAB (s : State) (m : Fin 16) : Word × Word :=
  (s.msig m 0x000, fMul (fSub (s.msig m 0x001) (s.msig m 0x002)) fInvSqrt3)

/-- Rotation of (α, β) by θ into (d, q). -/
def toDQ (a b th : Word) : Word × Word :=
  (fAdd (fMul a (hCos th)) (fMul b (hSin th)), fSub (fMul b (hCos th)) (fMul a (hSin th)))

/-- A set is accumulated while the generator runs (R180, R181); it and its last chip are kept for the next one. Set 0 has none before it. DESIGN CHOICE,
log entry 20: a window begins anew with the first set after the generator has stood. -/
def State.correlate (s : State) (m : Fin 16) (c : Cap) (iOk : Bool) (th : Word) : State :=
  let x := (s.mast m).com
  let on := s.injRuns m
  let e := if c.k = 0 then 0 else effChip x.chipPrev c.chipA
  let ab := s.iAB m
  let d1 := toDQ ab.1 ab.2 th
  let d0 := toDQ x.iaPrev x.ibPrev th
  let use := iOk && decide (c.k ≠ 0)
  let w := fOfInt e
  s.updCom m fun x =>
    let y := if x.corrRun then x else { x with cD := fZero, cQ := fZero, cN := 0, cCnt := 0 }
    let z := if on then
        { y with
          effChip := e
          cCnt := y.cCnt + 1
          cN := y.cN + b2n (decide (e ≠ 0))
          cD := if use then fAdd y.cD (fMul w (fSub d1.1 d0.1)) else y.cD
          cQ := if use then fAdd y.cQ (fMul w (fSub d1.2 d0.2)) else y.cQ }
      else { x with effChip := 0 }
    { z with corrRun := on, chipPrev := c.chipB, iaPrev := ab.1, ibPrev := ab.2 }

/-! ### Polarity (R183, R184) -/

/-- Length of a pulse (R183): POL_N, 8 when it is 0. -/
def State.polN (s : State) (m : Fin 16) : Nat := let n := (s.msig m 0x069).toNat; if n = 0 then 8 else n
/-- |i_d| of the latest set. -/
def State.idAbs (s : State) (m : Fin 16) : Word := fAbs (s.msig m 0x04C)

/-- The present phase of the pulses is over (R183). -/
def State.polDue (s : State) (m : Fin 16) : Bool :=
  let c := (s.mast m).com
  let byI := fGe (s.idAbs m) (s.msig m 0x068) && decide (c.pol.n ≠ 0)
  c.est == .polarity &&
    (match c.pol.phase with
      | .settle => false
      | .plus => decide (s.polN m ≤ c.pol.n) || byI
      | .minus => decide (s.polN m ≤ c.pol.n) || byI
      | .zero1 => decide (c.pol.nPlus ≤ c.pol.n)
      | .zero2 => decide (c.pol.nMinus ≤ c.pol.n))

/-- The decision of two pulses (R184): 1 north, 2 south, 0 neither. -/
def polDecide (p : Pol) : Nat :=
  let k : Word := 0x3F900000#32
  if p.nPlus < p.nMinus ∨ (p.nPlus = p.nMinus ∧ fGt p.iPlus (fMul k p.iMinus) = true) then 1
  else if p.nMinus < p.nPlus ∨ (p.nPlus = p.nMinus ∧ fGt p.iMinus (fMul k p.iPlus) = true) then 2 else 0

/-- A phase of the pulses ends (R183, R184). -/
def State.polNext (s : State) (m : Fin 16) : State :=
  let c := (s.mast m).com
  let p := c.pol
  let put := fun (q : Pol) => s.updCom m fun c => { c with pol := q }
  match p.phase with
  | .settle => s
  | .plus => put { p with phase := .zero1, nPlus := p.n, iPlus := s.idAbs m, n := 0 }
  | .zero1 => put { p with phase := .minus, n := 0 }
  | .minus => put { p with phase := .zero2, nMinus := p.n, iMinus := s.idAbs m, n := 0 }
  | .zero2 =>
    match polDecide p with
    | 1 => (s.updCom m fun c => { c with polResult := 1 }).setEst m .low
    | 2 => (s.updCom m fun c => { c with polResult := 2, theta := angMod (fAdd c.theta fPi) }).setEst m .low
    | _ =>
      if p.second then (s.updCom m fun c => { c with polResult := 3 }).estLost m
      else put { p with phase := .plus, n := 0, second := true }

/-- The compares of U, V, W while POLARITY runs, by the modulator with SVM, and whether the vector was limited (R172, R173, R183). -/
def State.polCmp (s : State) (m : Fin 16) (th : Word) : List Nat × Bool :=
  let p := (s.mast m).com.pol
  let v := if p.second then fMul (s.msig m 0x067) 0x3FC00000#32 else s.msig m 0x067
  let a := match p.phase with | .plus => v | .minus => fNeg v | _ => fZero
  let x := s.vmIn m (s.mast m).pwm.act
  vmConvert { x with zseq := 1 } (fMul a (hCos th)) (fMul a (hSin th))

/-! ### The observer (R185, R186) -/

/-- The flux observer at a release: over a period of T taps, with θ̂ at the sampling instant (R185, R186). -/
def State.observe (s : State) (m : Fin 16) (tLen : Nat) (th : Word) : State :=
  let c := (s.mast m).com
  let t := fSeconds tLen
  let rs := s.msig m 0x060
  let lq := s.msig m 0x062
  let wc := s.msig m 0x06A
  let pm := s.msig m 0x063
  let va := s.msig m 0x04E
  let vb := s.msig m 0x04F
  let ia := s.msig m 0x04A
  let ib := s.msig m 0x04B
  let pa := fAdd c.psiA (fMul t (fSub (fSub va (fMul rs ia)) (fMul wc c.psiA)))
  let pb := fAdd c.psiB (fMul t (fSub (fSub vb (fMul rs ib)) (fMul wc c.psiB)))
  let k := fDiv wc c.omega
  let ca := fSub (fAdd pa (fMul k pb)) (fMul lq ia)
  let cb := fSub (fSub pb (fMul k pa)) (fMul lq ib)
  let af := fSqrt (fAdd (fMul ca ca) (fMul cb cb))
  let e := angDiff (hAtan2 cb ca) th
  let ok := fGe (fAbs c.omega) (fMul fTwo wc) && fGe af (fMul fHalf pm) && fLe af (fMul 0x3FC00000#32 pm) &&
    !fIsZero lq && !fIsZero pm && fFinite e
  s.updCom m fun c => { c with psiA := pa, psiB := pb, psiAf := af, epsObs := e, obsOk := ok }
where
  /-- Four-quadrant arctangent to the nearest word. -/
  hAtan2 (y x : Word) : Word :=
    if fFinite y && fFinite x then fOfFix (atan2Fix (atanArgs y x).1 (atanArgs y x).2) else qNaN

/-- The estimator's measurement at a release: the observer in HIGH, the blend in BLEND (R187, R193, R194). -/
def State.highMeasure (s : State) (m : Fin 16) (t : Nat) : State :=
  let c := (s.mast m).com
  match c.est with
  | .blend =>
    let w := s.blendW m
    if c.epsOk && c.obsOk then s.measure m (fAdd (fMul (fSub fOne w) c.eps) (fMul w c.epsObs)) t
    else if c.epsOk then s.measure m c.eps t
    else if c.obsOk then s.measure m c.epsObs t else s
  | .high =>
    if c.drive = 2 then s
    else if c.obsOk then (s.measure m c.epsObs t).updCom m fun c => { c with obsBad := 0 }
    else
      let n := c.obsBad + 1
      let s1 := s.updCom m fun c => { c with obsBad := n }
      s1.when (decide (16 * s.efld F.AT_CFG_LOSS_N m ≤ n)) fun s => s.estLost m
  | _ => s

/-- EPS_SW on a variant without correlators (R195). -/
def State.takeEpsSw (s : State) (m : Fin 16) : State :=
  match (s.mast m).com.epsSw with
  | none => s
  | some e =>
    let s1 := s.updCom m fun c => { c with epsSw := none }
    if s.hasCorr then s1
    else (if fIsNaN e then s1.badWindow m else s1.goodWindow m e).polSettled m

/-! ### Signals of a release (R174, R175, R189, R197) -/

/-- The mean current-sampling instant of a set (R162, R189): the in-line hold, or the mean of the two shunt instants, of which the
second is the first where one conversion serves for both (R114, R136). -/
def Cap.sampleMid (c : Cap) : Nat :=
  if c.inline ∧ c.pStarted = true then
    c.pAt + 3072 * (match c.pSlots.find? (fun e => decide (e.2.1 < 2)) with | some e => e.1 | none => 0)
  else if c.nS = 0 then c.b0 + c.tLen / 2
  else if c.nS = 1 then c.b0 + c.t1
  else c.b0 + (c.t1 + c.t2) / 2

/-- EST_VALID (R191). -/
def Com.estValid (c : Com) : Bool :=
  match c.est with
  | .track => !c.sensorBad
  | .low => true
  | .blend => true
  | .high => true
  | _ => false

/-- EST_STATE as a number (R197). -/
def Est.num : Est → Nat
  | .idle => 0 | .polarity => 1 | .low => 2 | .blend => 3 | .high => 4 | .lost => 5 | .track => 6

/-- SECTOR (R197): the decoded Hall sector, the sector of the steps, or that of θ̂. -/
def State.sectorNow (s : State) (m : Fin 16) : Nat :=
  let c := (s.mast m).com
  if s.asrc m = 1 then c.hallSec.getD 0
  else if c.drive = 2 then c.sector
  else sectorOf c.theta

/-- The vectors of a set (R174, R175), before the observer. -/
def State.writeVectors (s : State) (m : Fin 16) (c : Cap) (th : Word) : State :=
  let ab := s.iAB m
  let dq := toDQ ab.1 ab.2 th
  let vb := c.vbus
  s.putMs m
    [(0x04A, ab.1), (0x04B, ab.2), (0x04C, dq.1), (0x04D, dq.2),
     (0x04E, fMul (fDiv (fSub (fSub (fMul fTwo c.dU) c.dV) c.dW) (fOfInt 3)) vb),
     (0x04F, fMul (fMul (fSub c.dV c.dW) fInvSqrt3) vb)]

/-- The estimator's signals (R189, R197). -/
def State.writeEst (s : State) (m : Fin 16) (c : Cap) : State :=
  let x := (s.mast m).com
  let ts := c.sampleMid
  let th := angMod (x.thetaAt ts)
  let n := s.loopDiv m
  let lead : Int := ((2 * n + 3) * c.tLen : Nat) - 2 * ((ts : Int) - c.b0)
  let out := angMod (fAdd th (fMul x.omega (fOfRat lead (2 * 15360000000))))
  s.putMs m
    [(0x040, th), (0x041, out), (0x042, x.omega), (0x043, fDiv x.omega (fOfInt (s.polePairs m))),
     (0x044, nat32 x.est.num), (0x045, b2w x.estValid), (0x046, s.blendW m), (0x047, nat32 x.drive),
     (0x048, nat32 (s.sectorNow m)), (0x049, nat32 x.step),
     (0x050, if s.hasCorr then x.epsLast else fZero), (0x051, if s.hasCorr then x.cdOut else fZero),
     (0x052, x.epsObs), (0x053, x.psiAf), (0x054, fSeconds x.stepT), (0x055, nat32 x.missRun),
     (0x056, nat32 x.hallCode), (0x057, nat32 x.quadPos), (0x058, nat32 x.polResult),
     (0x059, wordOfInt x.effChip), (0x05A, b2w x.vmSat)]

/-- The commutation unit at a release (R162, R174–R194). -/
def State.comRelease (s : State) (m : Fin 16) (c : Cap) (iOk : Bool) : State :=
  let ts := c.sampleMid
  let th := (s.mast m).com.thetaAt ts
  let s1 := s.writeVectors m c th
  let s2 := s1.observe m c.tLen th
  let s3 := s2.quadMeasure m ts
  let s4 := (s3.correlate m c iOk th).takeEpsSw m
  let s5 := (s4.highMeasure m s.now).estMove m
  s5.writeEst m c

end Sys2Proof.Machine
end

