-- ==== Sys2Proof/Machine/Halyard.lean ====
section
/-! DEFINITION. Machine/Halyard.lean: the halyard's ramps, tack dwell, stall and jam, load average, and the command pin (R216–R228). -/

namespace Sys2Proof.Machine

/-! ### Settings -/

/-- A rate signal: positive and finite, else its reset value (R222, R229). -/
def State.rateSig (s : State) (m : Fin 16) (o : Nat) : Word :=
  let w := s.msig m o
  if fFinite w && fGt w fZero then w else mastSigReset o

/-- DETECT in rad/s (R205). -/
def State.detect (s : State) (m : Fin 16) : Word := fOfInt (s.fld F.CATCH_CFG_DETECT m)
/-- Torque mode (R219). -/
def State.tmode (s : State) (m : Fin 16) : Bool := s.flag F.HAL_CFG_TMODE m
/-- The mean mechanical speed ω̂ ÷ PP. -/
def State.omegaM (s : State) (m : Fin 16) : Word := fDiv (s.mast m).com.omega (fOfInt (s.polePairs m))

/-- I_LIM_EFF (R220). -/
def State.iLimEff (s : State) (m : Fin 16) : Word :=
  let mx := fOfRat (s.fld F.HAL_LIM_I_MAX m) 100
  let l := s.msig m 0x0C0
  fMul (if fIsNaN l then mx else fMin l mx) (s.msig m 0x0C1)

/-- The written targets (R217, R224): with SRC = CMD the one of the mode is CMD_VAL. -/
def State.spdTgt (s : State) (m : Fin 16) : Word := s.msig m 0x080
def State.trqTgt (s : State) (m : Fin 16) : Word := s.msig m 0x081

/-- Clamp to ±a; NaN stays NaN. -/
def fClampAbs (v a : Word) : Word := fClamp v (fNeg a) a

/-- Sign of a finite value as ±1 or 0. -/
def fSign (w : Word) : Int := if fIsZero w || fIsNaN w then 0 else if bitOf w 31 then -1 else 1

/-- The halyard's target r (R216); none for a NaN SPD_TGT. -/
def State.halTarget (s : State) (m : Fin 16) : Option Word :=
  let x := s.mast m
  let mx := fOfInt (s.fld F.HAL_LIM_SPD_MAX m)
  if x.seq.st = .stopping ∨ x.seq.st = .hold then some fZero
  else if x.hal.jamOn then some (fClampAbs x.hal.jamTgt mx)
  else if fIsNaN (s.spdTgt m) then none else some (fClampAbs (s.spdTgt m) mx)

/-! ### The speed ramp (R216–R218) -/

/-- What a ramp works with. -/
structure RampIn where
  r : Word
  acc : Word
  dec : Word
  jerk : Word
  dt : Word
  dwell : Bool
  deriving DecidableEq, Repr

/-- The result of a ramp step: SPD_OUT, ACC_OUT, and whether a tack dwell starts. -/
structure RampOut where
  v : Word
  a : Word
  tack : Bool := false
  deriving DecidableEq, Repr

/-- The procedure halyard_speed (R216). -/
def halyardSpeed (x : RampIn) (v a : Word) : RampOut :=
  let e := fSub x.r v
  if fIsZero e && fIsZero a then { v := v, a := a }
  else
    let s := fSign e
    let sw := fOfInt s
    let aLim :=
      if fIsZero v || decide (fSign v = s) then x.acc
      else if fSign x.r = s then
        fMin x.dec (fMax x.acc (fSqrt (fAdd (fMul x.acc x.acc) (fMul (fMul fTwo x.jerk) (fAbs v)))))
      else x.dec
    let vRun := fDiv (fMul a (fAbs a)) (fMul fTwo x.jerk)
    let aCmd := if fGt (fMul sw (fSub e vRun)) fZero then fMul sw aLim else fZero
    let jd := fMul x.jerk x.dt
    let a1 := fAdd a (fClamp (fSub aCmd a) (fNeg jd) jd)
    let v1 := fAdd v (fMul a1 x.dt)
    let past := decide (fSign (fSub x.r v1) ≠ s)
    let v2 := if past then x.r else v1
    let a2 := if past then fZero else a1
    if !fIsZero v && decide (fSign v2 ≠ fSign v) && x.dwell then { v := fZero, a := fZero, tack := true }
    else { v := v2, a := a2 }

/-- TACK_DWELL in taps (R218). -/
def State.dwellTaps (s : State) (m : Fin 16) : Nat := s.fld F.HAL_CFG_TACK_DWELL m * (tMs / 10)

/-- The table direction follows the sign of SPD_OUT; zero keeps it (R145). -/
def State.tableDir (s : State) (m : Fin 16) : State :=
  let v := (s.mast m).hal.spd
  if fIsZero v || fIsNaN v then s else s.updCom m fun c => { c with rev := bitOf v 31 }

/-- The halyard updates in these states (R216). -/
def halActive (q : SeqSt) : Bool := q == .run || q == .stopping || q == .hold

/-- A change of the written targets is too fast (R217). -/
def State.spFast (s : State) (m : Fin 16) (dt : Word) : Bool :=
  let h := (s.mast m).hal
  let far := fun (a b lim : Word) => fGt (fAbs (fSub a b)) lim
  (match h.lastSpd with
    | some p => far (s.spdTgt m) p (fMul (fMax (s.rateSig m 0x082) (s.rateSig m 0x083)) dt)
    | none => false) ||
  (match h.lastTrq with
    | some p => far (s.trqTgt m) p (fMul (s.rateSig m 0x085) dt)
    | none => false)

/-- TRQ_OUT moves toward its target by at most TRQ_SLEW × dt; 0 is the target while stopping (R214, R219). -/
def State.trqStep (s : State) (m : Fin 16) (dt : Word) : Word :=
  let h := (s.mast m).hal
  let q := (s.mast m).seq.st
  let stop := q == .stopping || q == .hold
  if fIsNaN (s.trqTgt m) && !stop then h.trq
  else
    let lim := s.iLimEff m
    let t := if stop then fZero else fClampAbs (s.trqTgt m) lim
    let d := fMul (s.rateSig m 0x085) dt
    fClampAbs (fAdd h.trq (fClampAbs (fSub t h.trq) d)) lim

/-- REGEN_REF in force (R221). -/
def State.regen (s : State) (m : Fin 16) : Bool := s.msig m 0x0C5 != 0#32

/-- The speed-mode update (R216, R218, R221). -/
def State.halSpeed (s : State) (m : Fin 16) (dt : Word) : State :=
  let h := (s.mast m).hal
  match s.halTarget m with
  | none => s
  | some r =>
    -- a dwell ends early when the target takes back the direction before the tack (R218)
    let back := decide (h.st = .dwell) && decide (fSign r = (if h.wasNeg then -1 else 1))
    if h.st = .dwell ∧ back = false then s
    else
      let x : RampIn := { r := r, acc := s.rateSig m 0x082, dec := s.rateSig m 0x083, jerk := s.rateSig m 0x084, dt := dt, dwell := decide (s.fld F.HAL_CFG_TACK_DWELL m ≠ 0) }
      let o := halyardSpeed x h.spd h.acc
      let wm := s.omegaM m
      let coast := s.regen m && fLt (fAbs o.v) (fAbs wm)
      let v := if coast then wm else o.v
      let a := if coast then fZero else o.a
      let at_ := fIsZero (fSub r v) && fIsZero a
      let hold := h.jamOn && at_ && h.jamHold.isNone
      s.updHal m fun h =>
        { h with
          spd := v, acc := a
          wasNeg := if o.tack then bitOf h.spd 31 else h.wasNeg
          dwellAt := if o.tack then s.now else h.dwellAt
          jamHold := if hold then some s.now else h.jamHold
          st := if o.tack && !coast then .dwell else if h.jamOn then .jam else if at_ then .atTarget else .ramping }

/-- The torque-mode update: SPD_OUT follows the motor (R219). -/
def State.halTorque (s : State) (m : Fin 16) : State :=
  let h := (s.mast m).hal
  let stop := (s.mast m).seq.st == .stopping || (s.mast m).seq.st == .hold
  let t := if stop then fZero else fClampAbs (s.trqTgt m) (s.iLimEff m)
  s.updHal m fun h' => { h' with spd := s.omegaM m, acc := fZero, st := if fIsZero (fSub t h.trq) then .atTarget else .ramping }

/-- Freeze the halyard; its outputs are 0.0 in OFF and when a start begins (R200). -/
def State.halFreeze (s : State) (m : Fin 16) (zero : Bool) : State :=
  s.updHal m fun h =>
    let h1 := { h with st := .frozen, lastSpd := none, lastTrq := none, stallAt := none, jamOn := false, jamHold := none }
    if zero then { h1 with spd := fZero, acc := fZero, trq := fZero } else h1

/-! ### Stall and jam (R226, R227), load (R228) -/

/-- A sample set is a stall set (R226). -/
def State.stallSet (s : State) (m : Fin 16) : Bool :=
  let h := (s.mast m).hal
  let v := fAbs h.spd
  decide ((s.mast m).seq.st = .run) && !s.tmode m && decide (s.fld F.STALL_CFG_STALL_T m ≠ 0) && !h.jamOn && decide (h.st ≠ .dwell) &&
    fGe (fMul v (fOfInt (s.polePairs m))) (s.detect m) &&
    fLt (fAbs (s.omegaM m)) (fMul (fOfRat (s.fld F.STALL_CFG_WFRAC m) 16) v) &&
    fGe (fAbs (s.msig m 0x04D)) (fMul (fOfRat (s.fld F.STALL_CFG_IFRAC m) 16) (s.iLimEff m))

/-- Stall sets have lasted STALL_T (R226). -/
def State.stallDue (s : State) (m : Fin 16) : Bool :=
  match (s.mast m).hal.stallAt with
  | some t => decide (t + s.fld F.STALL_CFG_STALL_T m * 10 * tMs ≤ s.now)
  | none => false

/-- A stall event (R227). -/
def State.stall (s : State) (m : Fin 16) : State :=
  let h := (s.mast m).hal
  let s1 := s.updHal m fun h => { h with stallAt := none, stallEvAt := s.now }
  if h.jamCount < s.fld F.STALL_CFG_JAM_N m then
    let t := fMul (fOfInt (-(fSign (s.spdTgt m)))) (s.msig m 0x086)
    ((s1.updHal m fun h =>
      { h with jamCount := h.jamCount + 1, jamOn := true, jamHold := none, jamTgt := t, spd := s.omegaM m, acc := fZero, st := .jam }).setFld F.SEQ_STAT_JAM m 1).tableDir m
  else s1.raiseM m MS.STALL 0

/-- The reversal has been held for JAM_T (R227). -/
def State.jamHoldDue (s : State) (m : Fin 16) : Bool :=
  match (s.mast m).hal.jamHold with
  | some t => decide (t + s.fld F.STALL_CFG_JAM_T m * 50 * tMs ≤ s.now)
  | none => false

/-- The target returns to SPD_TGT (R227). -/
def State.jamHoldEnd (s : State) (m : Fin 16) : State :=
  s.updHal m fun h => { h with jamOn := false, jamHold := none, st := if h.st = .jam then .ramping else h.st }

/-- 10 s in RUN without a stall event (R227). -/
def State.jamClearDue (s : State) (m : Fin 16) : Bool :=
  let x := s.mast m
  decide (x.seq.st = .run) && decide (x.hal.jamCount ≠ 0) && decide (Nat.max x.hal.stallEvAt x.seq.runAt + 10 * tSec ≤ s.now)

/-- The dwell of a tack is over (R218). -/
def State.dwellDue (s : State) (m : Fin 16) : Bool :=
  let h := (s.mast m).hal
  decide (h.st = .dwell) && decide (h.dwellAt + s.dwellTaps m ≤ s.now)

/-- LOAD_AVG of a release (R228). -/
def State.loadStep (s : State) (m : Fin 16) (dt : Word) : Word :=
  let x := s.mast m
  if x.seq.st = .run ∧ x.hal.st = .atTarget then
    let tc := s.msig m 0x0C4
    let tc1 := if fFinite tc && fGt tc fZero then tc else fOne
    fAdd x.hal.loadAvg (fDiv (fMul (fSub (fAbs (s.msig m 0x04D)) x.hal.loadAvg) dt) tc1)
  else x.hal.loadAvg

/-- HAL_STATE as a number (R229). -/
def HalSt.num : HalSt → Nat
  | .atTarget => 0 | .ramping => 1 | .dwell => 2 | .jam => 3 | .frozen => 4

/-- SPD_OUT, ACC_OUT, TRQ_OUT and HAL_STATE as the halyard has them (R229). -/
def State.halOut (s : State) (m : Fin 16) : List (Nat × Word) :=
  let h := (s.mast m).hal
  [(0x088, h.spd), (0x089, h.acc), (0x08A, h.trq), (0x08B, nat32 h.st.num)]

/-! ### The command pin (R223–R225) -/

/-- PMODE (R223): 0 OFF, 1 ANALOG, 2 DUTY, 3 FREQ. -/
def State.pmode (s : State) (m : Fin 16) : Nat := s.fld F.CMD_CFG_PMODE m

/-- A measurement lies in the valid range of its mode (R223); DUTY is judged by its frequency. -/
def State.cmdInRange (s : State) (m : Fin 16) (v freq : Word) : Bool :=
  match s.pmode m with
  | 1 => fGe v (fOfRat (s.fld F.CMD_LOSS_LO m) 80) && fLe v (fOfRat (s.fld F.CMD_LOSS_HI m) 80)
  | 2 => fGe freq (fOfInt 8) && fLe freq (fOfInt 50000)
  | 3 => fGe freq fOne && fLe freq (fOfInt 100000)
  | _ => false

/-- Mean of the latest measurements. -/
def fMean : List Word → Word
  | [] => fZero
  | x :: l => fDiv (l.foldl fAdd x) (fOfInt ((l.length + 1 : Nat) : Int))

/-- A measurement is taken (R223, R225): the history, the run of valid ones, the start of an invalid run. -/
def State.cmdTake (s : State) (m : Fin 16) (v freq : Word) : State :=
  let ok := s.cmdInRange m v freq
  s.updCmd m fun c =>
    let n := if ok then c.goodRun + 1 else 0
    let back := decide (16 ≤ n)
    { c with
      hist := (v :: c.hist).take (2 ^ s.fld F.CMD_CFG_FILT m)
      good := ok, goodRun := n, valid := c.valid || back, lost := c.lost && !back
      badAt := if ok then none else some (c.badAt.getD s.now) }

/-- CMD_VAL of a CMD_RAW (R224). -/
def State.cmdScale (s : State) (m : Fin 16) (raw : Word) : Word :=
  let il := s.msig m 0x098
  let ih := s.msig m 0x099
  let ol := s.msig m 0x09A
  let oh := s.msig m 0x09B
  if fIsZero (fSub ih il) then ol
  else fClamp (fAdd ol (fDiv (fMul (fSub raw il) (fSub oh ol)) (fSub ih il))) (fMin ol oh) (fMax ol oh)

/-- The value the loss policy holds (R225). -/
def State.lossVal (s : State) (m : Fin 16) : Word :=
  if s.fld F.CMD_CFG_LPOL m = 1 then s.msig m 0x09C else (s.mast m).cmd.lastGood

/-- The command pin at a release (R223–R225). -/
def State.cmdRelease (s : State) (m : Fin 16) (vOk : Bool) : State :=
  let s1 := if s.pmode m = 1 ∧ vOk = true then s.cmdTake m (s.msig m 0x024) fZero else s
  let c := (s1.mast m).cmd
  let raw := if s.pmode m = 0 then fZero else fMean c.hist
  let v0 := s1.cmdScale m raw
  let v := if c.lost then s1.lossVal m else v0
  let s2 := s1.updCmd m fun c => { c with lastGood := if c.good && !c.lost then v0 else c.lastGood }
  let s3 := s2.putMs m [(0x090, raw), (0x091, v), (0x092, b2w c.valid)]
  if s.fld F.HAL_CFG_SRC m = 1 then s3.putM m (if s.tmode m then 0x081 else 0x080) v else s3

/-- An edge on a command pin at SPARCLK resolution (R223): the level it leads to, the rising one noted in CMD_PIN.EDGE in DUTY and FREQ mode (R534),
and the measurement. -/
def State.cmdEdge (s0 : State) (m : Fin 16) (rising : Bool) : State :=
  let t := s0.now / tSpar * tSpar
  let c := (s0.mast m).cmd
  let s1 := s0.updCmd m fun c => { c with lvl := rising }
  let s := s1.when (rising && !c.lvl && decide (2 ≤ s0.pmode m)) fun s => s.orFresh R.CMD_PIN (nat32 (2 ^ (16 + m.val)))
  if s.pmode m < 2 ∨ c.lvl = rising then s
  else if !rising then s.updCmd m fun c => { c with fallAt := some t }
  else
    let s1 := match c.riseAt with
      | none => s
      | some r =>
        let per := fSeconds (t - r)
        let freq := fDiv fOne per
        let high := match c.fallAt with | some f => if r ≤ f then f - r else 0 | none => 0
        s.cmdTake m (if s.pmode m = 2 then fOfRat (high : Nat) (t - r) else freq) freq
    s1.updCmd m fun c => { c with riseAt := some t, since := t }

/-- LOSS_T in taps (R225): 0 is taken as 1. -/
def State.lossTaps (s : State) (m : Fin 16) : Nat :=
  let n := s.fld F.CMD_LOSS_LOSS_T m
  (if n = 0 then 1 else n) * (tMs / 10)

/-- The command is lost (R225). -/
def State.lossDue (s : State) (m : Fin 16) : Bool :=
  let c := (s.mast m).cmd
  let n := s.lossTaps m
  decide (s.pmode m ≠ 0) && !c.lost &&
    ((match c.badAt with | some t => decide (t + n ≤ s.now) | none => false) ||
      (decide (2 ≤ s.pmode m) && decide (c.since + n ≤ s.now)))

/-! ### The halyard at a release (R216–R228) -/

/-- The halyard's part of a release, with T of the set (R216–R229). -/
def State.halRelease (s : State) (m : Fin 16) (tLen : Nat) : State :=
  let dt := fSeconds tLen
  let q := (s.mast m).seq.st
  let s1 :=
    if halActive q then
      let s1 := s.when (s.spFast m dt) fun s => s.raise DS.SP_FAST 0 (some m.val)
      let t := s1.trqStep m dt
      let t1 := if s1.regen m && decide (fSign t = -(fSign (s.mast m).com.omega)) then fZero else t
      let s2 := s1.updHal m fun h => { h with trq := t1, lastSpd := some (s.spdTgt m), lastTrq := some (s.trqTgt m) }
      (if s.tmode m then s2.halTorque m else s2.halSpeed m dt).tableDir m
    else s
  let st := s1.stallSet m
  let s2 := s1.updHal m fun h =>
    { h with stallAt := if st then some (h.stallAt.getD s.now) else none, loadAvg := s1.loadStep m dt }
  let h := (s2.mast m).hal
  s2.putMs m (s2.halOut m ++ [(0x0C2, s2.iLimEff m), (0x0C3, h.loadAvg), (0x105, nat32 h.jamCount)])

end Sys2Proof.Machine
end

