-- ==== Sys2Proof/Machine/Sequencer.lean ====
section
/-! DEFINITION. Machine/Sequencer.lean: the start sequencer: requests, states, LISTEN, braking, synchronising, alignment, stopping (R200–R215). -/

namespace Sys2Proof.Machine

/-- States with the outputs enabled throughout (R200). -/
def SeqSt.on : SeqSt → Bool
  | .align => true | .polarity => true | .run => true | .stopping => true | .hold => true | _ => false

/-- Code of a state (R200). -/
def SeqSt.num : SeqSt → Nat
  | .off => 0 | .listen => 1 | .brake => 2 | .align => 3 | .polarity => 4 | .sync => 5 | .run => 6 | .stopping => 7 | .hold => 8 | .fault => 9

/-- Set a flag of SEQ_STAT. -/
def State.seqFlag (s : State) (m : Fin 16) (f : Fld) : State := s.setFld f m 1

/-- A reason in REF_WHY (R230); a refused START also sets START_REF (R202). -/
def State.refuse (s : State) (m : Fin 16) (why : Nat) (start : Bool) : State :=
  (s.updSeq m fun q => { q with refWhy := why }).when start fun s => s.seqFlag m F.SEQ_STAT_START_REF

/-! ### Entering a state (R200) -/

/-- Outputs of a state (R200, R208): enabled, and held low by a braking pulse. -/
def Seq.outs (q : Seq) : Bool × Bool := (q.st.on, decide (q.st = .brake) && q.pulse)

/-- Bring the output enable in line with the state; the estimator leaves its state when the outputs turn off (R191, R200). -/
def State.seqOuts (s : State) (m : Fin 16) (t : Nat) : State :=
  let was := (s.mast m).seq.outEn
  let o := (s.mast m).seq.outs
  let s1 := s.setOut m o.1 o.2
  if was && !o.1 then s1.estOff m
  else if !was && o.1 && decide ((s.mast m).com.drive = 1) && decide ((s.mast m).pwm.sheet ≠ s.evMask m 6) then s1.stepEvent m 6 t
  else s1

/-- Enter a state at instant t (R200, R201, R227, R373); what it was before stays that of the period before where a boundary makes two changes. -/
def State.enterSeq (s : State) (m : Fin 16) (st : SeqSt) (t : Nat) : State :=
  let old := (s.mast m).seq.st
  let k := (s.mast m).pwm.k
  let s1 := s.updSeq m fun q =>
    { q with st := st, prevSt := if q.enterK = k ∧ k ≠ 0 then q.prevSt else old, enterK := k, goto := none, since := t
             ascHold := q.ascHold && decide (st = .fault)
             runAt := if st = .run then t else q.runAt }
  let s2 := if halActive st then s1 else s1.halFreeze m (decide (st = .off) || decide (st = .listen))
  let starts := old == .sync || old == .align || old == .polarity || old == .listen
  let s3 := if st = .run ∧ starts = true then s2.updHal m fun h => { h with jamCount := 0 } else s2
  let s4 := if halActive st ∧ halActive old = false then s3.updHal m fun h => { h with st := .ramping, lastSpd := none, lastTrq := none } else s3
  let s5 := (s4.seqOuts m t).refreshSafe m
  if (s.mast m).pwm.counting then s5 else s5.putMs m ((0x100, nat32 st.num) :: s5.halOut m)

/-! ### LISTEN (R205–R207) -/

/-- n_L for a period of T taps (R205). -/
def State.listenLen (s : State) (m : Fin 16) (tLen : Nat) : Nat :=
  let a := s.fld F.SEQ_CFG_LISTEN_T m * tMs
  let d := s.fld F.CATCH_CFG_DETECT m
  -- 4π ÷ DETECT seconds in taps
  let b := if d = 0 then a else (pi100.toNat * 4 * tSec) / (d * 2 ^ 100) + 1
  let n := ((if b < a then b else a) + tLen - 1) / tLen
  if n < 16 then 16 else n

/-- LISTEN begins, of n sets. -/
def State.beginListen (s : State) (m : Fin 16) (n : Nat) (again : Bool) (t : Nat) : State :=
  (s.updSeq m fun q => { q with nL := n, lsnCnt := 0, samples := [], repeated := again }).enterSeq m .listen t

/-- PSEQ samples VU, VV and VW (R207). -/
def State.phasesSampled (s : State) (m : Fin 16) : Bool :=
  let p := s.rd (keyI R.PSEQ m)
  [2, 3, 4].all fun ch => (List.range (slotN p)).any fun i => slotCh p i = ch

/-- The back-EMF vector of the latest set (R205). -/
def State.emfAB (s : State) (m : Fin 16) : Word × Word :=
  let u := s.msig m 0x020
  let v := s.msig m 0x021
  let w := s.msig m 0x022
  (fDiv (fSub (fSub (fMul fTwo u) v) w) (fOfInt 3), fMul (fSub v w) fInvSqrt3)

/-- Arctangent to the nearest word. -/
def hAtan2 (y x : Word) : Word :=
  if fFinite y && fFinite x then fOfFix (atan2Fix (atanArgs y x).1 (atanArgs y x).2) else qNaN

/-- The mean sampling instant of the VU, VV and VW slots of a set (R205). -/
def Cap.phaseMid (c : Cap) : Nat :=
  let l := [2, 3, 4].map fun ch => match c.pSlots.reverse.find? (fun e => e.2.1 = ch) with | some e => e.1 | none => 0
  c.pAt + 3072 * (l.foldl (· + ·) 0) / 3

/-- Sum and count over successive pairs, newest first: the unwrapped change, and the pairs that jump more than π/2 (R205). -/
def phaseSteps : List (Nat × Word × Word × Nat) → Word × Nat
  | x :: y :: r =>
    let d := angDiff x.2.1 y.2.1
    let p := phaseSteps (y :: r)
    (fAdd d p.1, b2n (fGt (fAbs d) fHalfPi) + p.2)
  | _ => (fZero, 0)

/-- What LISTEN yields. -/
structure Heard where
  outcome : Nat
  omega : Word
  theta : Word
  emf : Word
  at_ : Nat
  deriving DecidableEq, Repr

/-- ω_L from the samples of the second half (R205). -/
def listenOmega (n : Nat) (l : List (Nat × Word × Word × Nat)) : Word :=
  let h := l.filter fun e => decide (n < 2 * e.1)
  match h.head?, h.getLast? with
  | some a, some b => if a.2.2.2 ≤ b.2.2.2 then fZero else fDiv (phaseSteps h).1 (fSeconds (a.2.2.2 - b.2.2.2))
  | _, _ => fZero

/-- The requested direction D (R205). -/
def State.wantDir (s : State) (m : Fin 16) : Int :=
  let t := if s.tmode m then s.trqTgt m else (s.halTarget m).getD fZero
  if fSign t ≠ 0 then fSign t else if (s.mast m).com.rev then -1 else 1

/-- The decision of LISTEN (R205). -/
def State.hear (s : State) (m : Fin 16) : Heard :=
  let q := (s.mast m).seq
  let l := q.samples
  let w := listenOmega q.nL l
  let emf := fMean (l.map fun e => e.2.2.1)
  let last := l.headD (0, fZero, fZero, 0)
  let th := angDiff last.2.1 (fMul (fOfInt (fSign w)) fHalfPi)
  let emin := fOfRat (s.fld F.CATCH_CFG_EMIN m) 20
  let quiet := (l.filter fun e => fLt e.2.2.1 emin).length
  let d := s.wantDir m * fSign w
  let o :=
    if l.length - 1 < 4 * (phaseSteps l).2 then 4
    else if l.length < 2 * quiet ∨ fLt (fAbs w) (s.detect m) = true ∨ fIsZero w = true then 0
    else if 0 < d ∧ fLe (fAbs w) (fOfInt (s.fld F.CATCH_CFG_CATCH_MAX m)) = true then 1
    else if d < 0 then 2 else 3
  { outcome := o, omega := w, theta := th, emf := emf, at_ := last.2.2.2 }

/-- A set of LISTEN is released (R205, R207). -/
def State.listenSet (s : State) (m : Fin 16) (c : Cap) (vOk : Bool) : State :=
  let q := (s.mast m).seq
  if q.st ≠ .listen ∨ c.k < q.enterK ∨ q.goto.isSome = true then s
  else
    let ab := s.emfAB m
    let e := (q.lsnCnt + 1, hAtan2 ab.2 ab.1, fSqrt (fAdd (fMul ab.1 ab.1) (fMul ab.2 ab.2)), c.phaseMid)
    let s1 := s.updSeq m fun q => { q with lsnCnt := q.lsnCnt + 1, samples := if vOk then e :: q.samples else q.samples }
    let q1 := (s1.mast m).seq
    if q1.lsnCnt < q1.nL then s1
    else if 2 * q1.samples.length < q1.nL then s1.updSeq m fun q => { q with goto := some (if q.repeated then .off else .listen) }
    else
      let h := s1.hear m
      let s2 := s1.putMs m [(0x101, nat32 h.outcome), (0x102, h.omega), (0x103, h.theta), (0x104, h.emf)]
      s2.updSeq m fun q =>
        { q with
          outcome := h.outcome, omegaL := h.omega, thetaL := h.theta, emfL := h.emf, thetaAt := h.at_
          goto := some (match h.outcome with | 1 => .sync | 0 => .run | _ => .brake) }

/-! ### Standstill path, braking, synchronising (R206–R213) -/

/-- The estimator refuses a standstill start (R176). -/
def State.estRefuses (s : State) (m : Fin 16) : Bool := !s.centre m || s.efld F.INJ_CFG_EN m != 1

/-- The standstill path (R206, R207). -/
def State.standstill (s : State) (m : Fin 16) (t : Nat) : State :=
  let mode := s.comMode m
  let a := s.asrc m
  if mode = 1 ∧ a = 0 then
    let s1 := s.enterSeq m .align t
    let s2 := s1.updCom m fun c => { c with thetaF := angMod (degW (sectorCentre 0)), sector := 0 }
    if s.efld F.PWM_CTL_SH_SRC m = 1 then s2.applyStep m 0 t else s2.comCfgErr m
  else if mode ≠ 0 ∧ a = 3 then
    if s.estRefuses m then ((s.comCfgErr m).refuse m 2 false).enterSeq m .off t
    else (s.enterSeq m .polarity t).setEst m .polarity
  else s.enterSeq m .run t

/-- BRAKE begins with a pulse (R208, R210): more entries than BRK_TRY end the start in FAULT with STALL. -/
def State.beginBrake (s : State) (m : Fin 16) (p : Purpose) (t : Nat) : State :=
  let n := (s.mast m).seq.tries + 1
  if p ≠ .stop ∧ s.fld F.SEQ_CFG_BRK_TRY m < n then (s.enterSeq m .fault t).raiseM m MS.STALL 0
  else
    (s.updSeq m fun q =>
      { q with
        purpose := p, pulse := true, cnt := 0, pulseCut := false, startRec := false, byStop := decide (p = .stop)
        tries := (if p = .stop then q.tries else n) }).enterSeq m .brake t

/-- Pulse and pause lengths (R208, BRK_CFG). -/
def State.brkOn (s : State) (m : Fin 16) : Nat := let n := s.fld F.BRK_CFG_BRK_ON m; if n = 0 then 1 else n
def State.brkOff (s : State) (m : Fin 16) : Nat := let n := s.fld F.BRK_CFG_BRK_OFF m; if n < 4 then 4 else n

/-- The pulse is over (R208). -/
def State.pulseDone (s : State) (m : Fin 16) : Bool :=
  let q := (s.mast m).seq
  decide (q.st = .brake) && q.pulse && (decide (s.brkOn m ≤ q.cnt) || q.pulseCut)

/-- The pause is over (R208). -/
def State.pauseDone (s : State) (m : Fin 16) : Bool :=
  let q := (s.mast m).seq
  decide (q.st = .brake) && !q.pulse && decide (s.brkOff m ≤ q.cnt) && q.goto.isNone

/-- The pause starts (R208). -/
def State.pulseEnd (s : State) (m : Fin 16) (t : Nat) : State :=
  (s.updSeq m fun q => { q with pulse := false, cnt := 0, pulseCut := false }).seqOuts m t

/-- The end condition of R209 holds. -/
def State.brakeStops (s : State) (m : Fin 16) : Bool :=
  let q := (s.mast m).seq
  let sensor := s.asrc m == 1 || s.asrc m == 2
  let psi := s.msig m 0x063
  if fIsZero psi && !sensor then fLt q.lastE (fOfRat (s.fld F.CATCH_CFG_EMIN m) 20)
  else
    let w := if sensor then fAbs (s.mast m).com.omega else fAbs (fDiv q.lastE psi)
    if q.purpose = .overspeed then fLe w (fOfInt (s.fld F.CATCH_CFG_CATCH_MAX m)) else fLt w (s.detect m)

/-- The pause ends: braking goes on with a pulse, or ends in the state of its purpose (R209). -/
def State.pauseEnd (s : State) (m : Fin 16) (t : Nat) : State :=
  if !s.brakeStops m then (s.updSeq m fun q => { q with pulse := true, cnt := 0 }).seqOuts m t
  else s.updSeq m fun q => { q with goto := some .off }

/-- The state a BRAKE that is over ends in (R209), by its purpose then (R202): `run` stands for the standstill path. -/
def Seq.brakeEnd (q : Seq) : SeqSt :=
  match q.purpose with
  | .reverse => .run
  | .alias_ => .run
  | .overspeed => .listen
  | .stop => if q.endFault then .fault else if q.startRec then .listen else .off

/-- A preset leads the estimator into a state that needs the injection generator (R176, R190). -/
def State.presetInjects (s : State) (m : Fin 16) (om : Word) : Bool :=
  decide (s.comMode m ≠ 0) && decide (s.asrc m = 3) && fLt (fAbs om) (fOfInt (s.efld F.HND_CFG_WH2 m))

/-- SYNC begins at the boundary t (R211 steps 1 and 2). A catch whose estimator state needs the generator is refused as R176 says; DESIGN CHOICE, log entry
94: the sequencer answers as at the boundary into POLARITY (R207). -/
def State.beginSync (s : State) (m : Fin 16) (t : Nat) : State :=
  let q := (s.mast m).seq
  if s.presetInjects m q.omegaL && s.estRefuses m then ((s.comCfgErr m).refuse m 2 false).enterSeq m .off t
  else
    let th := fAdd q.thetaL (fMul q.omegaL (fSeconds (t - q.thetaAt)))
    let s1 := ((s.enterSeq m .sync t).updHal m fun h =>
      { h with spd := fDiv q.omegaL (fOfInt (s.polePairs m)), acc := fZero, trq := if s.tmode m then fZero else h.trq }).tableDir m
    let s2 := s1.preset m th q.omegaL t
    s2.when (decide (s.comMode m = 1) && decide (s.asrc m = 0)) fun s =>
      s.updCom m fun c => { c with thetaF := angMod th, sector := sectorOf th }

/-- SYNC_VQ (R211 step 3). -/
def State.syncVq (s : State) (m : Fin 16) : Word :=
  let q := (s.mast m).seq
  let psi := s.msig m 0x063
  if fIsZero psi then (if fSign q.omegaL < 0 then fNeg q.emfL else q.emfL) else fMul (s.mast m).com.omega psi

/-- The set of SYNC is released: SYNC_VD, SYNC_VQ and the synchronising vector (R211 steps 3 and 4). -/
def State.syncSet (s : State) (m : Fin 16) (c : Cap) : State :=
  let q := (s.mast m).seq
  if q.st ≠ .sync ∨ c.k < q.enterK then s
  else
    let vq := s.syncVq m
    let s1 := s.putMs m [(0x08C, fZero), (0x08D, vq)]
    if s.comMode m = 2 ∨ (s.comMode m = 1 ∧ (s.mast m).com.drive = 1) then
      let x := (s.mast m).com
      let th := fAdd (x.thetaAt c.b0) (fMul x.omega (fOfRat (3 * c.tLen : Nat) (2 * 15360000000)))
      let st := s.staged m
      let r := vmConvert (s.vmIn m st) (fNeg (fMul vq (hSin th))) (fMul vq (hCos th))
      let e : Commit := { set := st.withCmp r.1, doneAt := s.now + 4 * tSpar, sync := true, cyc := s.now / tSpar }
      let s2 := (s1.updCom m fun c => { c with vmSat := r.2 }).when r.2 fun s => s.comFlag m F.COM_STAT_VM_SAT
      s2.updPwm m fun p => { p with untag := insCommit e p.untag, hist := insCommit e p.hist }
    else s1

/-- Forced angle of SOFT_STEP with ASRC = NONE in RUN (R213). -/
def State.forcedAngle (s : State) (m : Fin 16) (b tLen : Nat) : State :=
  let x := s.mast m
  if x.seq.st = .run ∧ s.comMode m = 1 ∧ s.asrc m = 0 then
    let w := fMul x.hal.spd (fOfInt (s.polePairs m))
    let th := angMod (fAdd x.com.thetaF (fMul w (fSeconds tLen)))
    let n := sectorOf th
    let s1 := s.updCom m fun c => { c with thetaF := th, theta := th, omega := fClamp w (fNeg fWmax) fWmax, trkAt := b }
    if n = x.com.sector then s1
    else (s1.updCom m fun c => { c with sector := n }).stepEvent m (sectorStep x.com.rev n) b
  else s

/-! ### Requests (R201, R202, R204) -/

/-- A record of STOP-MAST or above for this mast is unacknowledged (R202). -/
def State.mastSerious (s : State) (m : Fin 16) : Bool := s.fc.pend.any fun r => decide (r.mast = some m.val) && decide (3 ≤ r.sev)

/-- The mast's bus group is in SAFE (R356). -/
def State.groupSafe (s : State) (m : Fin 16) : Bool :=
  match s.groupOf m with
  | some g => (s.bg g).st == .safe
  | none => false

/-- Why a START is refused in OFF, BRAKE, STOPPING or HOLD (R160, R201, R207, R356, R559); 0: not. -/
def State.startWhy (s : State) (m : Fin 16) : Nat :=
  if s.unrigged m then 4
  else if !(s.mast m).pwm.counting then 1
  else if s.groupSafe m then 6
  else if s.asrc m = 2 ∧ s.efld F.QUAD_CFG_CPR m = 0 then 3
  else if s.phasesSampled m = false then 7 else 0

/-- An accepted START is counted (R210, R229). -/
def State.countStart (s : State) (m : Fin 16) : State :=
  let s1 := s.putM m 0x106 (s.msig m 0x106 + 1#32)
  (s1.updSeq m fun q => { q with tries := 0 }).updCom m fun c => { c with sensorBad := false }

/-- Rank of a request: the higher outranks (R204). -/
def SeqReq.rank (fault : Bool) : SeqReq → Nat
  | .stop 0 => 6 | .stop 2 => 5 | .stop 1 => 4 | .stop _ => 3
  | .clear => if fault then 2 else 1
  | .start => if fault then 1 else 2

/-- STOPPING begins, or its mode changes (R202, R214). -/
def State.beginStopping (s : State) (m : Fin 16) (mode : Nat) (fault : Bool) (t : Nat) : State :=
  (s.updSeq m fun q => { q with mode := mode, endFault := fault }).enterSeq m .stopping t

/-- A START acts (R202). DESIGN CHOICE, log entry 105: CFG_ERR of R160 is set where reason 3 is recorded, not where an earlier reason is. -/
def State.actStart (s : State) (m : Fin 16) (t : Nat) : State :=
  let q := (s.mast m).seq
  let tLen := s.perTaps m (clampPeriod (s.mast m).pwm.act.period)
  let go := fun (f : State → State) =>
    let w := s.startWhy m
    if w = 0 then f (s.countStart m)
    else (s.refuse m w true).when (decide (w = 3)) fun s => s.comCfgErr m
  match q.st with
  | .off => go fun s => s.beginListen m (s.listenLen m tLen) false t
  | .brake =>
    if !q.byStop then s
    else if q.endFault then s.refuse m 5 true
    else go fun s => s.updSeq m fun q => { q with startRec := true }
  | .stopping => if q.endFault then s.refuse m 5 true else go fun s => s.enterSeq m .run t
  | .hold => go fun s => s.enterSeq m .run t
  | .fault => s.refuse m 5 true
  | _ => s

/-- A STOP acts (R202). -/
def State.actStop (s : State) (m : Fin 16) (mode t : Nat) : State :=
  let q := (s.mast m).seq
  match q.st with
  | .off => s
  | .fault => s
  | .brake =>
    if q.byStop then
      (if mode = 0 then s.enterSeq m (if q.endFault then .fault else .off) t else s)
    else if mode = 2 then s.updSeq m fun q => { q with purpose := .stop, endFault := false, startRec := false }
    else s.enterSeq m .off t
  | .run =>
    if mode = 0 then s.enterSeq m .off t
    else if mode = 2 then (s.updSeq m fun q => { q with endFault := false }).beginBrake m .stop t
    else s.beginStopping m mode false t
  | .stopping =>
    if mode = 0 then s.enterSeq m (if q.endFault then .fault else .off) t
    else if mode = 2 then s.beginBrake m .stop t
    else if q.endFault then s
    else s.updSeq m fun q => { q with mode := mode }
  | _ => s.enterSeq m .off t

/-- A CLEAR acts (R202). -/
def State.actClear (s : State) (m : Fin 16) (t : Nat) : State :=
  if (s.mast m).seq.st ≠ .fault then s
  else if s.mastSerious m then s.seqFlag m F.SEQ_STAT_CFG_ERR
  else s.enterSeq m .off t

/-- A request acts (R202). -/
def State.actReq (s : State) (m : Fin 16) (r : SeqReq) (t : Nat) : State :=
  match r with
  | .start => s.actStart m t
  | .stop k => s.actStop m k t
  | .clear => s.actClear m t

/-- Two requests of one cycle: the one taken, and CMD_DROP for the other (R204). -/
def State.seqArb (s : State) (m : Fin 16) (r : SeqReq) (cyc : Nat) (l : List (SeqReq × Nat)) : List (SeqReq × Nat) × Bool :=
  let f := decide ((s.mast m).seq.st = .fault)
  match l.find? fun e => e.2 = cyc with
  | none => (l ++ [(r, cyc)], false)
  | some e =>
    if SeqReq.rank f e.1 < SeqReq.rank f r then ((l.filter fun x => decide (x.2 ≠ cyc)) ++ [(r, cyc)], true) else (l, true)

/-- A request is taken (R201, R204, R575): it waits for the boundary, with a stopped timebase for the next cycle. -/
def State.seqRequest (s : State) (m : Fin 16) (r : SeqReq) : State :=
  if !s.hasMast m then s
  else if (s.mast m).resetAt.isSome then s.seqFlag m F.SEQ_STAT_CMD_DROP
  else if s.unrigged m then s.refuse m 4 (decide (r = .start))
  else
    let x := s.seqArb m r (s.now / tSpar) (s.mast m).seq.reqs
    (s.updSeq m fun q => { q with reqs := x.1 }).when x.2 fun s => s.seqFlag m F.SEQ_STAT_CMD_DROP

/-- With a stopped timebase the requests taken in earlier cycles act (R201, R204). -/
def State.seqTurn (s : State) (m : Fin 16) : State :=
  let q := (s.mast m).seq
  let ripe := q.reqs.filter fun e => decide (e.2 < s.now / tSpar)
  if (s.mast m).pwm.counting || ripe.isEmpty then s
  else ripe.foldl (fun s e => s.actReq m e.1 s.now) (s.updSeq m fun q => { q with reqs := q.reqs.filter fun e => !decide (e.2 < s.now / tSpar) })

/-- The sequencers at the beginning of a cycle. -/
def State.seqCycle (s : State) : State := s.mastList.foldl (fun s m => s.seqTurn m) s

/-! ### Reactions (R203) -/

/-- FAULT with the outputs off (R203, STOP_COAST, STOP_ASC, FURL): at the next boundary, or at once with a stopped timebase. -/
def State.seqFault (s : State) (m : Fin 16) : State :=
  if (s.mast m).seq.st = .fault then s
  else if (s.mast m).pwm.counting then s.updSeq m fun q => { q with pendFault := true }
  else s.enterSeq m .fault s.now

/-- STOP_RAMP takes effect at instant t (R203). -/
def State.actRamp (s : State) (m : Fin 16) (t : Nat) : State :=
  match (s.mast m).seq.st with
  | .run => s.beginStopping m 1 true t
  | .hold => s.beginStopping m 1 true t
  | .stopping => s.updSeq m fun q => { q with endFault := true }
  | .fault => s
  | _ => s.enterSeq m .fault t

/-- STOP_RAMP (R203). -/
def State.seqRamp (s : State) (m : Fin 16) : State :=
  if (s.mast m).pwm.counting then s.updSeq m fun q => { q with pendRamp := true } else s.actRamp m s.now

/-! ### Stopping (R214, R215) -/

/-- The ramp is complete (R214). -/
def State.rampDone (s : State) (m : Fin 16) : Bool :=
  let h := (s.mast m).hal
  if s.tmode m then fIsZero h.trq
  else fIsZero h.spd && fLt (fAbs (s.mast m).com.omega) (s.detect m)

/-- The state a STOPPING ends in: with the ramp complete by its mode, with its time over with the outputs off (R214, R215). -/
def Seq.stopEnd (q : Seq) : SeqSt := if q.endFault then .fault else if q.mode = 3 ∧ q.goto ≠ some .off then .hold else .off

/-- STOPPING has lasted STOP_TMO (R215). -/
def State.stopTmoDue (s : State) (m : Fin 16) : Bool :=
  let q := (s.mast m).seq
  let n := s.fld F.SEQ_CFG_STOP_TMO m
  decide (q.st = .stopping) && decide (n ≠ 0) && decide (q.since + n * 10 * tMs ≤ s.now) && q.goto != some .off

/-- The timeout ends the stop at the next boundary (R215). -/
def State.stopTmo (s : State) (m : Fin 16) : State :=
  (s.seqFlag m F.SEQ_STAT_STOP_TMO).updSeq m fun q => { q with goto := some .off }

/-- ALIGN has lasted ALIGN_T (R213). -/
def State.alignDue (s : State) (m : Fin 16) : Bool :=
  let q := (s.mast m).seq
  decide (q.st = .align) && decide (q.since + s.fld F.SEQ_CFG_ALIGN_T m * tMs ≤ s.now) && q.goto.isNone

/-! ### The sequencer at a boundary and at a release -/

/-- What the sequencer's own state leads to at the boundary t (R200, R205–R215). -/
def State.seqMove (s : State) (m : Fin 16) (t : Nat) : State :=
  let q := (s.mast m).seq
  let tLen := s.perTaps m (clampPeriod (s.mast m).pwm.act.period)
  let n := s.listenLen m tLen
  match q.st, q.goto with
  | .listen, some .listen => s.beginListen m q.nL true t
  | .listen, some .off => (s.refuse m 7 false).enterSeq m .off t
  | .listen, some .sync => s.beginSync m t
  | .listen, some .run => s.standstill m t
  | .listen, some _ => s.beginBrake m (match q.outcome with | 4 => .alias_ | 2 => .reverse | _ => .overspeed) t
  | .brake, some _ =>
    (match q.brakeEnd with
      | .run => s.standstill m t
      | .listen => s.beginListen m (if q.purpose = .overspeed then Nat.min n 32 else n) false t
      | x => s.enterSeq m x t)
  | .align, some x => s.enterSeq m x t
  | .sync, _ => s.enterSeq m .run t
  | .polarity, _ =>
    (match (s.mast m).com.est with
      | .low => s.enterSeq m .run t
      | .lost => s.enterSeq m .fault t
      | _ => s)
  | .stopping, some _ => s.enterSeq m q.stopEnd t
  | _, _ => s

/-- Pulses and pauses of BRAKE at a boundary (R208). -/
def State.brakeBoundary (s : State) (m : Fin 16) (t : Nat) : State :=
  let s1 := if s.pulseDone m then s.pulseEnd m t else if s.pauseDone m then s.pauseEnd m t else s
  s1

/-- The sequencer at the boundary t: reactions, then requests in the order taken, then its own moves (R201, R203). -/
def State.seqBoundary (s : State) (m : Fin 16) (t : Nat) : State :=
  let s0 := s.brakeBoundary m t
  let q := (s0.mast m).seq
  let s1 := s0.updSeq m fun q => { q with pendFault := false, pendRamp := false, reqs := [] }
  let s2 := if q.pendFault then s1.enterSeq m .fault t else if q.pendRamp then s1.actRamp m t else s1
  let s3 := q.reqs.foldl (fun s e => s.actReq m e.1 t) s2
  let moved := decide ((s3.mast m).seq.st ≠ q.st)
  let s4 := if moved then s3 else s3.seqMove m t
  -- a STOPPING begun from HOLD by a reaction is judged at this boundary (R203)
  let s5 := if (s4.mast m).seq.st = .stopping ∧ q.st = .hold ∧ s4.rampDone m = true then s4.enterSeq m (s4.mast m).seq.stopEnd t else s4
  if (s5.mast m).seq.st = .brake then s5.updSeq m fun q => { q with cnt := q.cnt + 1 } else s5

/-- The largest in-line current magnitude of the latest set (R208). -/
def State.inlMax (s : State) (m : Fin 16) : Word :=
  let a := s.msig m 0x005
  let b := s.msig m 0x006
  fMax (fMax (fAbs a) (fAbs b)) (fAbs (fAdd a b))

/-- The sequencer at a release (R205, R208, R209, R211). -/
def State.seqRelease (s : State) (m : Fin 16) (c : Cap) (vOk : Bool) : State :=
  let s1 := (s.listenSet m c vOk).syncSet m c
  let q := (s1.mast m).seq
  let own := decide (q.enterK ≤ c.k)
  let brkI := s.fld F.BRK_CFG_BRK_I m
  let cut := decide (q.st = .brake) && q.pulse && own && s.inlFit m && decide (brkI ≠ 0) &&
    fGe (s.inlMax m) (fMul (fOfRat brkI 100) (s.msig m 0x0C1))
  let ab := s.emfAB m
  let e := fSqrt (fAdd (fMul ab.1 ab.1) (fMul ab.2 ab.2))
  let s2 := s1.updSeq m fun q =>
    { q with
      pulseCut := q.pulseCut || cut
      lastE := if q.st = .brake ∧ q.pulse = false ∧ vOk = true then e else q.lastE }
  s2.putMs m [(0x100, nat32 (if own then q.st else q.prevSt).num)]

/-- The ramp is judged by the outputs and the speed of the release (R214). -/
def State.rampRelease (s : State) (m : Fin 16) : State :=
  let q := (s.mast m).seq
  if q.st = .stopping ∧ q.goto.isNone = true ∧ s.rampDone m = true then s.updSeq m fun q => { q with goto := some .hold } else s

end Sys2Proof.Machine
end

