-- ==== Sys2Proof/Machine/BusGroup.lean ====
section
/-! DEFINITION. Machine/BusGroup.lean: the eight bus groups: conditions, choppers, group states, recovery (R348–R358). -/

namespace Sys2Proof.Machine

/-! ### Members and settings -/

/-- Mast m is a member of group g (R348). -/
def State.inGroup (s : State) (g : Fin 8) (m : Nat) : Bool := (s.fld F.BG_CFG_MEMBERS g).testBit m
/-- The members of group g that are present. -/
def State.members (s : State) (g : Fin 8) : List (Fin 16) := s.mastList.filter fun m => s.inGroup g m
/-- A threshold of 0.1 V units times a / b. -/
def deciV (n a b : Nat) : Word := fOfRat (n * a : Nat) (10 * b)
def State.ov1 (s : State) (g : Fin 8) : Word := deciV (s.fld F.BG_OV_OV1 g) 1 1
def State.ov2 (s : State) (g : Fin 8) : Word := deciV (s.fld F.BG_OV_OV2 g) 1 1
/-- BUS_CLEAR in taps; 0 is taken as 1 (R357). -/
def State.busClear (s : State) (g : Fin 8) : Nat :=
  let n := s.fld F.BG_UV_BUS_CLEAR g
  (if n = 0 then 1 else n) * 10 * tMs
/-- No member's timebase runs (R349). -/
def State.noMeas (s : State) (g : Fin 8) : Bool := (s.members g).all fun m => !(s.mast m).pwm.counting
/-- V_BG (R349): the highest latest valid V_BUS of the members whose timebases run. -/
def State.busVolts (s : State) (g : Fin 8) : Word :=
  ((s.members g).filter fun m => (s.mast m).pwm.counting).foldl (fun v m => fMax v (s.mast m).sense.lastVbus) fZero
/-- The group's REGEN_REF (R355). -/
def State.groupRegen (s : State) (g : Fin 8) : Bool :=
  match (s.bg g).st with
  | .disabled => false
  | .normal => (s.bg g).over1
  | _ => true

/-! ### Choppers (R352–R354) -/

/-- Leg X of mast m has function CHOPPER. -/
def State.isChopper (s : State) (m : Fin 16) : Bool := s.legFunc m 3 == 3
/-- The chopper of mast m is failed (R352, R385). -/
def State.chopFailed (s : State) (m : Fin 16) : Bool := (s.mast m).shr.chopFailed
/-- The chopper of mast m can be the active one (R352). -/
def State.chopUsable (s : State) (m : Fin 16) : Bool :=
  s.isChopper m && !s.chopFailed m && !s.unrigged m && !s.tripX m
/-- The active chopper (R352): that of the lowest-numbered usable member. -/
def State.activeChop (s : State) (g : Fin 8) : Option (Fin 16) := (s.members g).find? fun m => s.chopUsable m

/-- Leg X of mast m switches as a chopper (R353), its on-time kept for the duty of R93. -/
def State.setChop (s : State) (m : Fin 16) (on : Bool) : State :=
  let h := (s.mast m).shr
  if h.chopOn = on then s
  else (s.gateMark m).updShr m fun h =>
    { h with chopOn := on, chopSince := s.now, chopAcc := if on then h.chopAcc else h.chopAcc + (s.now - h.chopSince) }

/-- Only the active chopper of the group is on, and only while the group holds it on (R353). -/
def State.applyChop (s : State) (g : Fin 8) : State :=
  let b := s.bg g
  (s.members g).foldl (fun s m => s.setChop m (b.chopOn && decide (b.act = some m.val))) s

/-- A chopper fails (R354, R339): its mast's source, off at once, and NORMAL becomes REFUSE (R355). -/
def State.chopFail (s : State) (g : Option (Fin 8)) (m : Fin 16) : State :=
  let s1 := ((s.updShr m fun h => { h with chopFailed := true }).setChop m false).raiseM m MS.CHOPPER_FAIL 0
  match g with
  | none => s1
  | some g => s1.updG g fun b =>
      let mine := decide (b.act = some m.val)
      { b with
        st := if b.st = .normal then .refuse else b.st
        clearAt := if b.st = .normal then s.now else b.clearAt
        chopOn := b.chopOn && !mine
        act := if mine then none else b.act }

/-- The check of the chopper that is on (R354). -/
def State.chopCheck (s : State) (g : Fin 8) (v : Word) : State :=
  let b := s.bg g
  let n := s.fld F.BG_UV_CHOP_T g
  match b.act with
  | none => s
  | some a =>
    if h : a < 16 then
      if b.chopOn ∧ n ≠ 0 ∧ b.checked = false ∧ b.onAt + n * 50 * tUs ≤ s.now then
        let s1 := s.updG g fun b => { b with checked := true }
        if fGt v (fSub b.vOn (fOfRat (s.fld F.BG_CFG_CHOP_DV g) 2)) then s1.chopFail (some g) ⟨a, h⟩ else s1
      else s
    else s

/-- The active chopper by V_BG (R352, R353): a take-over starts with the next chopper off. -/
def State.chopSwitch (s : State) (g : Fin 8) (v : Word) : State :=
  let act := (s.activeChop g).map (·.val)
  let on := deciV (s.fld F.BG_CHOP_CH_ON g) 1 1
  let off := deciV (s.fld F.BG_CHOP_CH_OFF g) 1 1
  let s1 := s.updG g fun b =>
    let was := b.chopOn && decide (b.act = act)
    let now := act.isSome && (fGe v on || (was && !fLe v off))
    { b with
      act := act, chopOn := now
      vOn := if now && !was then v else b.vOn
      onAt := if now && !was then s.now else b.onAt
      checked := if now && !was then false else b.checked }
  s1.applyChop g

/-! ### Evaluation and group states (R349, R350, R355, R357, R358) -/

/-- Raise a bus source on members (R358). -/
def State.raiseBus (s : State) (l : List (Fin 16)) (k detail : Nat) (marked : Bool) : State :=
  l.foldl (fun s m => s.raiseM m k detail marked) s

/-- The members' safe states follow the group's state (R341, R342). -/
def State.refreshGroup (s : State) (g : Fin 8) : State := (s.members g).foldl (fun s m => s.refreshSafe m) s

/-- Group g enters a state (R355); the count of R357 begins with it. -/
def State.enterBg (s : State) (g : Fin 8) (st : BgSt) : State :=
  (s.updG g fun b => { b with st := st, clearAt := s.now }).refreshGroup g

/-- An evaluation of group g (R349, R350, R353, R354, R355, R358). -/
def State.evalGroup (s : State) (g : Fin 8) : State :=
  let b := s.bg g
  if b.st = .disabled then s
  else
    let v := s.busVolts g
    let n1 := s.fld F.BG_OV_OV1 g
    let nu := s.fld F.BG_UV_UV g
    let o1 := fGe v (s.ov1 g) || (b.over1 && !fLt v (deciV n1 31 32))
    let o2 := fGe v (s.ov2 g) || (b.over2 && !fLt v (s.ov1 g))
    let uv := fLe v (deciV nu 1 1) || (b.under && !fGt v (deciV nu 33 32))
    let s1 := s.updG g fun b =>
      { b with over1 := o1, over2 := o2, under := uv, vbg := some v, clearAt := if fGe v (s.ov1 g) then s.now else b.clearAt }
    let s2 := s1.chopCheck g v
    let s3 := if fGe v (s.ov2 g) ∧ (s2.bg g).st ≠ .safe then s2.enterBg g .safe else s2
    let ms := s3.members g
    let s4 := if o2 && !b.over2 then s3.raiseBus ms MS.BUS_OV 2 true
      else if o1 && !b.over1 then s3.raiseBus ms MS.BUS_OV 1 false else s3
    let s5 := s4.when (uv && !b.under) fun s => s.raiseBus (ms.filter fun m => s.outputsOn m) MS.BUS_UV 0 false
    s5.chopSwitch g v

/-- The bus has stayed below OV1 for BUS_CLEAR (R357). -/
def State.recoveryDue (s : State) (g : Fin 8) : Bool :=
  let b := s.bg g
  (b.st == .refuse || b.st == .safe) && !s.flag F.BG_CFG_ACK_ONLY g && decide (b.clearAt + s.busClear g ≤ s.now) &&
    (match b.vbg with | some v => fLt v (s.ov1 g) | none => true)

/-- Recovery to NORMAL (R357). -/
def State.recover (s : State) (g : Fin 8) : State := s.enterBg g .normal

/-- BG_SEL.ACK of group g (R357). -/
def State.ackGroup (s : State) (g : Fin 8) : State :=
  let b := s.bg g
  let low := match b.vbg with | some v => fLt v (s.ov1 g) | none => false
  if b.st ≠ .refuse ∧ b.st ≠ .safe then s
  else if low then s.recover g else s.setFld F.BG_STAT_ACK_REF g 1

/-- With no member's timebase running the group's choppers are off (R349). -/
def State.chopUnseen (s : State) (g : Fin 8) : State :=
  if s.noMeas g then s.updG g fun b => { b with chopOn := false } else s

/-- A write of BG_CFG took effect: EN starts or stops the group (R355). -/
def State.refreshBgEn (s : State) (g : Fin 8) : State :=
  let en := s.flag F.BG_CFG_EN g
  if en ∧ (s.bg g).st = .disabled then
    (s.updG g fun _ => { st := .normal, clearAt := s.now }).refreshGroup g
  else if !en ∧ (s.bg g).st ≠ .disabled then
    let s1 := s.updG g fun b => { b with chopOn := false, act := none }
    ((s1.applyChop g).updG g fun _ => {}).refreshGroup g
  else (s.chopUnseen g).applyChop g

/-- A timebase stopped (R349). -/
def State.groupStopped (s : State) (m : Fin 16) : State :=
  match s.groupOf m with
  | none => s
  | some g => (s.chopUnseen g).applyChop g

/-- REGEN_REF of a member at its release: its group's value as the release finds it (R356). -/
def State.regenRelease (s : State) (m : Fin 16) : State :=
  s.putM m 0x0C5 (match s.groupOf m with | none => 0#32 | some g => b2w (s.groupRegen g))

/-- The evaluation of the group of a member whose set has V_VALID (R349). -/
def State.busRelease (s : State) (m : Fin 16) (vOk : Bool) : State :=
  match s.groupOf m with
  | none => s
  | some g => if vOk then s.evalGroup g else s

/-- BG_STAT as read (R361). -/
def State.bgStat (s : State) (g : Fin 8) : Word :=
  let b := s.bg g
  let st := match b.st with | .disabled => 0 | .normal => 1 | .refuse => 2 | .safe => 3
  let on := b.st != .disabled
  let failed := (s.members g).foldl (fun a m => a + b2n (s.chopFailed m) * 2 ^ m.val) 0
  let w := s.rd (keyI R.BG_STAT g)
  let w1 := setBitsOf (setBitsOf (setBitsOf w 31 30 st) 29 29 (b2n b.chopOn)) 28 25 (match s.activeChop g with | some m => m.val | none => 0)
  let w2 := setBitsOf (setBitsOf w1 24 24 (b2n (on && b.vbg.isSome && (s.activeChop g).isNone))) 23 23 (b2n b.over1)
  setBitsOf (setBitsOf (setBitsOf w2 22 22 (b2n b.under)) 19 19 (b2n (on && s.noMeas g))) 15 0 failed

end Sys2Proof.Machine
end

