-- ==== Sys2Proof/Machine/Shroud.lean ====
section
/-! DEFINITION. Machine/Shroud.lean: the shroud of each mast: blanking, latches, cycle-by-cycle cuts, clear and self-test (R326–R343, R359, R360). -/

namespace Sys2Proof.Machine

/-! ### The comparators (R326, R327) -/

/-- A comparator (0 OC_POS, 1 OC_NEG) is asserted at the threshold of a word of SHR_OC: the amplifier's output is above +V_P or below −V_N, a code
being 1,562.5 µV (R326). -/
def ocOver (bit : Nat) (amp : Int) (w : Word) : Bool :=
  if bit = 0 then decide ((3125 * bitsOf w 9 0 : Nat) < 2 * amp) else decide (2 * amp < -((3125 * bitsOf w 25 16 : Nat) : Int))

/-- The level of a comparator that was at `held`: it asserts above the threshold and releases 6 mV below it (R326, R602; DEDUCED, log entry 107). -/
def ocIs (bit : Nat) (amp : Int) (w : Word) (held : Bool) : Bool :=
  ocOver bit amp w || (held && ocOver bit (if bit = 0 then amp + 6000 else amp - 6000) w)

/-- The comparators' outputs as the amplifier and a threshold word leave them (R602). -/
def Shroud.ocNow (h : Shroud) (w : Word) : Nat := b2n (ocIs 0 h.amp w (h.ocOn.testBit 0)) + 2 * b2n (ocIs 1 h.amp w (h.ocOn.testBit 1))

/-- A comparator's level now: while its threshold settles, for 500 ns after a write, a free value where the codes decide differently (R327). -/
def State.ocLevel (s : State) (m : Fin 16) (bit : Nat) : Bool :=
  let h := (s.mast m).shr
  let held := h.ocOn.testBit bit
  let lvl := ocIs bit h.amp (s.rd (keyI R.SHR_OC m)) held
  let olds := h.ocOlds.filter fun e => decide (s.now < e.2 + 7680)
  if olds.all fun e => ocIs bit h.amp e.1 held == lvl then lvl else Config.ocSettling m.val bit s.now

/-- SHR_OC takes another word (R327). -/
def State.ocWritten (s : State) (m : Fin 16) (old : Word) : State :=
  s.updShr m fun h =>
    { h with ocOn := h.ocNow (s.rd (keyI R.SHR_OC m)), ocOlds := (old, s.now) :: h.ocOlds.filter fun e => decide (s.now < e.2 + 7680) }

/-! ### Blanking (R331) -/

/-- The comparators, the pin are blanked now (R331). -/
def State.ocBlank (s : State) (m : Fin 16) : Bool := s.flag F.SHR_CTL_BLK_EN m && s.blankOpen m (s.fld F.SHR_CTL_BLK m)
def State.tripBlank (s : State) (m : Fin 16) : Bool := s.flag F.SHR_CTL_TRIP_BLK m && s.ocBlank m

/-! ### Latches (R333, R334, R339) -/

/-- SHR_STAT.LATCH. -/
def Shroud.latch (h : Shroud) : Bool := h.ocp || h.ocn || h.trip

/-- SHR_TIME of a latch (R334): the first since LATCH was 0; of one PWMCLK cycle the first in the order OC_POS, OC_NEG, pin. -/
def State.noteLatch (s : State) (m : Fin 16) (code : Nat) : State :=
  s.updShr m fun h =>
    if !h.latch then { h with src := code, ns := s.tbNs, latchAt := s.now }
    else if h.latchAt / 32 = s.now / 32 ∧ code < h.src then { h with src := code } else h

/-- A latch is set (R333, R334): 1 OC_POS, 2 OC_NEG, 3 the pin. -/
def State.setLatch (s : State) (m : Fin 16) (code : Nat) : State :=
  let h := (s.mast m).shr
  let old := match code with | 1 => h.ocp | 2 => h.ocn | _ => h.trip
  if old then s
  else
    let s1 := (s.noteLatch m code).gateMark m
    let s2 := s1.updShr m fun h => match code with
      | 1 => { h with ocp := true }
      | 2 => { h with ocn := true }
      | _ => { h with trip := true }
    let s3 := ((s2.bump F.SHR_CNT_TRIPS m).raiseM m (code - 1) 0).refreshSafe m
    -- a pin routed to a chopper's leg fails the chopper (R339)
    let x := decide (code = 3) && s.fld F.SHR_CTL_ROUTE m != 0 && s.isChopper m
    s3.when x fun s => s.chopFail (s.groupOf m) m

/-- A cut of the present period (R335–R337). -/
def State.cutRef (s : State) (m : Fin 16) (bit : Nat) : State :=
  let h := (s.mast m).shr
  match h.cutAt with
  | some t =>
    if t / 32 = s.now / 32 ∧ h.cutBy.testBit bit = false then
      let s1 := s.updShr m fun h => { h with cutBy := h.cutBy ||| 2 ^ bit }
      -- the latch of this period's run has been set already (R336)
      s1.when (decide (h.cbcRun = 0)) fun s => s.setLatch m (bit + 1)
    else s
  | none =>
    let legs := [0, 1, 2].foldl (fun a l => if ((s.mast m).pwm.sheet >>> (2 * l)) % 4 = 0 then a + 2 ^ l else a) 0
    let s1 := s.updShr m fun h =>
      { h with cutAt := some s.now, cutBy := 2 ^ bit, cutLegs := legs, cbcRun := satNat 255 (h.cbcRun + 1) }
    let s2 := (s1.setFld F.SHR_STAT_CBC m 1).bump F.SHR_CNT_CBC m
    s2.updSense m fun x => { x with cap := { x.cap with changed := x.cap.changed || s.beforeS2 m } }

/-- The consecutive cuts have reached CBC_MAX (R336). -/
def State.cbcDue (s : State) (m : Fin 16) : Bool :=
  let h := (s.mast m).shr
  let n := s.fld F.SHR_CBC_CBC_MAX m
  h.cutAt.isSome && decide (n ≠ 0) && decide (n ≤ h.cbcRun)

/-- The latch of the comparators that cut first (R336). -/
def State.cbcLatch (s : State) (m : Fin 16) : State :=
  let by_ := (s.mast m).shr.cutBy
  let s1 := s.updShr m fun h => { h with cbcRun := 0 }
  let s2 := s1.when (by_.testBit 0) fun s => s.setLatch m 1
  s2.when (by_.testBit 1) fun s => s.setLatch m 2

/-- A comparator that is asserted acts (R333, R335); without PWMCLK cycle-by-cycle acts as latched (R332). -/
def State.compAct (s : State) (m : Fin 16) (bit : Nat) (cbc : Bool) : State :=
  if cbc && !s.clk.lost then s.cutRef m bit else s.setLatch m (bit + 1)

/-- The shroud judges its inputs as they stand now: enabled, asserted and not blanked (R331, R333, R335). -/
def State.shroudLook (s : State) (m : Fin 16) : State :=
  let h := (s.mast m).shr
  let oc := s.ocBlank m
  let tb := s.tripBlank m
  let s1 := s.when (s.ocLevel m 0 && s.flag F.SHR_CTL_OCP_EN m && !oc) fun s => s.compAct m 0 (s.flag F.SHR_CTL_OCP_CBC m)
  let s2 := s1.when (s.ocLevel m 1 && s.flag F.SHR_CTL_OCN_EN m && !oc) fun s => s.compAct m 1 (s.flag F.SHR_CTL_OCN_CBC m)
  s2.when (h.tripLvl && s.flag F.SHR_CTL_TRIP_EN m && !tb) fun s => s.setLatch m 3

/-- The cut ends at a boundary; a period without one ends the run (R335, R336). -/
def State.cutEnd (s : State) (m : Fin 16) : State :=
  let s1 := if s.cbcDue m then s.cbcLatch m else s
  s1.updShr m fun h =>
    { h with cutAt := none, cutBy := 0, cutLegs := 0, cbcRun := if h.cutAt.isSome then h.cbcRun else 0
             chopAcc := 0, chopSince := s.now }

/-- SHR_CMD.CLR (R338, R342). -/
def State.shroudClear (s : State) (m : Fin 16) : State :=
  let h := (s.mast m).shr
  let a := s.ocLevel m 0 && s.flag F.SHR_CTL_OCP_EN m
  let b := s.ocLevel m 1 && s.flag F.SHR_CTL_OCN_EN m
  let c := h.tripLvl && s.flag F.SHR_CTL_TRIP_EN m
  let ref := (h.ocp && a) || (h.ocn && b) || (h.trip && c)
  let s1 := (s.gateMark m).updShr m fun h => { h with ocp := h.ocp && a, ocn := h.ocn && b, trip := h.trip && c }
  (s1.refreshSafe m).when ref fun s => s.setFld F.SHR_STAT_CLR_REF m 1

/-- SHR_CMD.TEST (R360). -/
def State.shroudTest (s : State) (m : Fin 16) : State :=
  if s.outputsOn m || (s.mast m).shr.latch then s.setFld F.SHR_STAT_CFG_ERR m 1
  else s.updShr m fun h => { h with testAt := some s.now }

/-- SHR_STAT as read (R359). -/
def State.shrStat (s : State) (m : Fin 16) : Word :=
  let h := (s.mast m).shr
  let w := s.rd (keyI R.SHR_STAT m)
  let w1 := setBitsOf (setBitsOf (setBitsOf (setBitsOf w 31 31 (b2n h.latch)) 30 30 (b2n h.ocp)) 29 29 (b2n h.ocn)) 28 28 (b2n h.trip)
  let w2 := setBitsOf (setBitsOf (setBitsOf w1 26 26 (b2n (s.ocLevel m 0))) 25 25 (b2n (s.ocLevel m 1))) 24 24 (b2n h.tripLvl)
  let w3 := setBitsOf (setBitsOf (setBitsOf w2 23 22 h.safe) 21 21 (b2n (s.ownReq m != 0))) 20 20 (b2n (s.groupReq m != 0))
  setBitsOf (setBitsOf (setBitsOf w3 19 19 (b2n s.furl.furled)) 16 16 (b2n h.testOk)) 15 8 h.cbcRun

/-- SHR_TIME and BUS_CFG as read (R359). -/
def State.shrTime (s : State) (m : Fin 16) : Word :=
  let h := (s.mast m).shr
  nat32 (h.src * 2 ^ 30 + h.ns % 2 ^ 30)
def State.busCfg (s : State) (m : Fin 16) : Word :=
  let w := s.rd (keyI R.BUS_CFG m)
  match s.groupOf m with
  | none => setBitsOf w 3 0 0
  | some g => setBitsOf w 3 0 (8 + g.val)

end Sys2Proof.Machine
end

