-- ==== Sys2Proof/Machine/Furl.lean ====
section
/-! DEFINITION. Machine/Furl.lean: origination of a ring STOP and furl (R344–R347, R366, R438). -/

namespace Sys2Proof.Machine

/-- Furl causes by their FURL_STAT bits (R344). -/
abbrev FC.PIN : Nat := 0
abbrev FC.HOST : Nat := 1
abbrev FC.RING : Nat := 2
abbrev FC.REACTION : Nat := 3
abbrev FC.THERMAL : Nat := 4
abbrev FC.SOFT : Nat := 5

/-- Symbol s of a STOP set; the symbol after it is its inverse (R422, R439). -/
def stopSymbol (src no : Nat) : Nat := src % 32 + no % 8 * 32

/-- A STOP set is put on ports: recorded, unless the transmitters are high-impedance (R424, R438). -/
def State.putStop (s : State) (ports : List Nat) (src no : Nat) : State :=
  s.when s.ring.inserted fun s => { s with ring.stopSent := s.ring.stopSent ++ ports.map fun q => (q, stopSymbol src no) }

/-- The node originates a STOP (R438): four sendings at 1 µs, a new number each time. -/
def State.stopOriginate (s : State) : State :=
  if !s.variant.ring then s
  else
    let s1 := s.putStop [0, 1] (s.fld F.LK_CFG_NODE) s.ring.stopNo
    { s1 with ring.stopReps := s1.ring.stopReps ++ [(s.ring.stopNo, 3, s.now + tUs)], ring.stopNo := (s.ring.stopNo + 1) % 8 }

/-- Note the gates of every mast before its composition changes (R78). -/
def State.gateMarkAll (s : State) : State := s.mastList.foldl (fun s m => s.gateMark m) s

/-- The detail of this cycle's FURL_ENTERED is the lowest bit number among the causes of the cycle (R366). -/
def lowerFurl (d : Nat) : List Ev → List Ev
  | [] => []
  | e :: r => (if e.src = DS.FURL_ENTERED ∧ e.detail ≠ 0xFF then { e with detail := min d e.detail } else e) :: lowerFurl d r

/-- The causes in the mask `by_` furl the device, or add their bits to a furl (R344, R346, R366, R438). -/
def State.furlBy (s : State) (by_ : Nat) : State :=
  let d := (lowBit by_ 6 0).getD 0
  if by_ = 0 then s
  else if s.furl.furled then { s with furl.causes := s.furl.causes ||| by_, fc.events := lowerFurl d s.fc.events }
  else
    let s1 := s.gateMarkAll
    let s2 := { s1 with furl := { s1.furl with furled := true, causes := s1.furl.causes ||| by_ } }
    let s3 := s2.raise DS.FURL_ENTERED d
    let s4 := s3.mastList.foldl (fun s m => s.seqFault m) s3
    s4.when (decide (by_ ≠ 2 ^ FC.RING) && s.flag F.LK_CTL_FURL_TX) fun s => s.stopOriginate

/-- One cause. -/
def State.furlEnter (s : State) (cause : Nat) : State := s.furlBy (2 ^ cause)

/-- Outputs whose FAULT waits for the boundary turn off as furl ends: U, V and W stay off until CLEAR and START (R347). -/
def State.furlOff (s : State) (m : Fin 16) : State :=
  if (s.mast m).seq.pendFault && s.outputsOn m then (s.setOut m false false).estOff m else s

/-- FURL_CTL.CLR (R347). -/
def State.furlLeave (s : State) : State :=
  if !s.furl.furled then s
  else if !s.furl.pinLow && !s.hk.shut then
    let s1 : State := { s.gateMarkAll with furl := { s.furl with furled := false, causes := 0 } }
    s1.mastList.foldl (fun s m => s.furlOff m) s1
  else
    let keep := b2n s.furl.pinLow * 2 ^ FC.PIN + b2n s.hk.shut * 2 ^ FC.THERMAL
    { s with furl := { s.furl with causes := s.furl.causes &&& keep } }.setFld F.FURL_STAT_CLR_REF 0 1

/-- A write of FURL_CTL (R361): SET prevails over CLR. -/
def State.furlCtl (s : State) (w : Word) : State :=
  if bitOf w 30 then s.furlEnter FC.SOFT else if bitOf w 31 then s.furlLeave else s

/-- FURL_STAT as read (R361). -/
def State.furlStat (s : State) : Word :=
  let w := s.rd R.FURL_STAT
  setBitsOf (setBitsOf (setBitsOf w 31 31 (b2n s.furl.furled)) 30 30 (b2n s.furl.pinLow)) 5 0 s.furl.causes

end Sys2Proof.Machine
end

