-- ==== Sys2Proof/Machine/Ring.lean ====
section
/-! DEFINITION. Machine/Ring.lean: the Izengan ring node: ports, insertion, wrap, frames, policing, STOP, cycles, messages, peer windows, loopback (ch. 11). -/

namespace Sys2Proof.Machine

/-! ### Settings and small operations -/

/-- Change the ring node. -/
def State.updRing (s : State) (f : Ring → Ring) : State := { s with ring := f s.ring }
def State.port (s : State) (q : Fin 2) : Port := s.ring.ports[q]
def State.updPort (s : State) (q : Fin 2) (f : Port → Port) : State :=
  s.updRing fun r => { r with ports := r.ports.set q (f r.ports[q]) }

/-- The node number (LK_CFG.NODE), and the UID (R45). -/
def State.node (s : State) : Nat := s.fld F.LK_CFG_NODE
def uid0 : Nat := Config.uid.toNat % 2 ^ 32
/-- The node may train and insert (R426). -/
def State.ringEn (s : State) : Bool :=
  s.variant.ring && s.flag F.LK_CTL_EN && !s.flag F.LK_CTL_BYPASS && !s.ring.dup
/-- T_Q in taps (R426). -/
def ringTq : Nat := tMs + uid0 % 256 * 4 * tUs
/-- T_C in local nanoseconds (R442). -/
def State.cycNs (s : State) : Nat := 1000 * s.fld F.LK_CFG_CYC
/-- The number of the ring cycle the local time lies in (R442). -/
def State.cycNow (s : State) : Nat :=
  if s.cycNs = 0 then 0 else s.tb.total / 2 ^ 32 / s.cycNs % 2 ^ 32

/-- Enter a port state (R426). -/
def State.setPort (s : State) (q : Fin 2) (st : PortSt) : State :=
  s.updPort q fun p =>
    let p1 := { p with st := st, since := s.now }
    match st with
    | .disabled => { p1 with sig := false, lock := false, peerLock := false, wrap := false }
    -- the receiver of a disabled port was off: it seeks signal from now on
    | .acquire => { p1 with lock := false, peerLock := false, noSig := if p.st = .disabled then s.now else p.noSig }
    | .quiet => { p1 with sig := false }
    | .locked => { p1 with sig := true, lock := true }
    | .up => { p1 with ups := satNat 255 (p.ups + 1) }

/-- The receiver of port q detects signal, or no longer does (R426, R453): a quiet port returns to ACQUIRE. -/
def State.signal (s : State) (q : Fin 2) (present : Bool) : State :=
  let s1 := if present ∧ (s.port q).st = .quiet then s.setPort q .acquire else s
  s1.updPort q fun p => { p with sig := present, noSig := if p.sig && !present then s.now else p.noSig }

/-- ACQUIRE has lasted, and no signal has been detected, for T_Q (R426). -/
def State.quietDue (s : State) (q : Fin 2) : Bool :=
  let p := s.port q
  p.st == .acquire && !p.sig && decide (p.since + ringTq ≤ s.now) && decide (p.noSig + ringTq ≤ s.now)

/-- WRAPPED and its signal (R432, R452). -/
def State.setWrapped (s : State) (w : Bool) : State :=
  let s1 := s.updRing fun r => { r with wrapped := w, wrapAge := if w then 0 else r.wrapAge }
  if s.ring.wrapped = w then s1 else s1.putSig 0x30B (b2w w)

/-- The switches close: the node leaves the ring (R424). -/
def State.ringClose (s : State) : State :=
  s.updRing fun r => { r with inserted := false, founder := false, everUp := false
                              ports := r.ports.map fun p => { p with wrap := false } }

/-- EN, BYPASS or DUP changed (R426). -/
def State.ringRefresh (s : State) : State :=
  if s.ringEn then
    let s1 := if (s.port 0).st = .disabled then s.setPort 0 .acquire else s
    if (s1.port 1).st = .disabled then s1.setPort 1 .acquire else s1
  else (((s.setPort 0 .disabled).setPort 1 .disabled).ringClose).updRing fun r => { r with retryAt := none }

/-! ### Sending (R431, R434, R443, R448) -/

/-- The other port. -/
def otherPort (q : Fin 2) : Fin 2 := Fin.ofNat 2 (1 - q.val)
/-- Where traffic for a port leaves: at the other port where the node wraps at it (R432). -/
def State.outPort (s : State) (q : Fin 2) : Fin 2 := if (s.port q).wrap then otherPort q else q
/-- The ports a frame of this node leaves by, each with its lane of origin: CW at port B and CCW at port A, or CW only while WRAPPED (R431, R432). -/
def State.lanesOut (s : State) : List (Fin 2 × Bool) :=
  if s.ring.wrapped then [(s.outPort 1, false)] else [(s.outPort 1, false), (s.outPort 0, true)]

/-- Put a frame of this node on the lanes (R431, R432). -/
def State.emit (s : State) (f : TxFrame) : State :=
  s.updRing fun r => { r with sent := r.sent ++ s.lanesOut.map fun e => (e.1.val, { f with frame := { f.frame with dir := e.2 } }) }

/-- A frame of this node: its SEQ and cycle number taken (R434). -/
def State.ownFrame (s : State) (cls typ dst : Nat) (ws : List Word) : TxFrame × State :=
  let n := s.ring.seqs.toArray.getD cls 0
  ({ cls := cls, typ := typ
     frame := { dir := false, src := BitVec.ofNat 5 s.node, dst := BitVec.ofNat 6 dst, hops := 0#6
                seq := BitVec.ofNat 8 n, cycle := BitVec.ofNat 16 s.cycNow, words := ws } },
   s.updRing fun r => { r with seqs := r.seqs.set (cls % 4) ((n + 1) % 256) (Nat.mod_lt _ (by decide)) })

/-- Send an own frame at once; nothing leaves a node that is not inserted (R424). -/
def State.sendOwn (s : State) (cls typ dst : Nat) (ws : List Word) : State :=
  if s.ring.inserted then
    let f := s.ownFrame cls typ dst ws
    f.2.emit f.1
  else s

/-- The status symbol of the LINK sets this node sends at port q: LOCK, INS and the node number (R422). -/
def State.linkStatus (s : State) (q : Fin 2) : Nat := b2n (s.port q).lock * 128 + b2n s.ring.inserted * 64 + s.node % 32

/-- The eight bytes of a frame's header (R434). -/
def TxFrame.header (f : TxFrame) : List Nat :=
  let h := f.frame
  [f.cls % 4 * 64 + f.typ % 64, b2n h.dir * 64 + h.src.toNat, h.dst.toNat, h.hops.toNat, h.seq.toNat, h.words.length % 256,
   h.cycle.toNat % 256, h.cycle.toNat / 256]

/-- What stands between SOF and EOF of a frame with header `h` and payload bytes `l`: both, and their CRC-32, little-endian (R434). -/
def frameBytes (h l : List Nat) : List Nat := h ++ l ++ bytesLE (crc32 (h ++ l))

/-- The bytes of a frame of words as it leaves. -/
def TxFrame.bytes (f : TxFrame) : List Nat := frameBytes f.header (bytesOf f.frame.words)

/-- Length of a frame in symbols (R434). -/
def frameLen (ws : List Word) : Nat := 14 + 4 * ws.length

/-- Own bulk frames leave while the node's own bucket holds their length, with the cycle number of their sending (R434, R448). -/
def sendBulk (s : State) : List TxFrame → State
  | [] => s.updRing fun r => { r with bulk := [] }
  | f :: l =>
    let n := frameLen f.frame.words
    if n ≤ s.ring.tokens then sendBulk ((s.updRing fun r => { r with tokens := r.tokens - n }).emit { f with frame.cycle := BitVec.ofNat 16 s.cycNow }) l
    else s.updRing fun r => { r with bulk := f :: l }

/-- The bulk frames that wait go out as far as they may; none leaves a node that is not inserted (R424, R448). -/
def State.serveBulk (s : State) : State := if s.ring.inserted then sendBulk s s.ring.bulk else s

/-- Queue an own bulk frame (R436, R448). -/
def State.queueBulk (s : State) (typ dst : Nat) (ws : List Word) : State :=
  let f := s.ownFrame 3 typ dst ws
  (f.2.updRing fun r => { r with bulk := r.bulk ++ [f.1] }).serveBulk

/-- The status word of a BEACON or TOPO (R435). -/
def State.wrapStatus (s : State) : Word := nat32 (b2n (s.port 0).wrap + 2 * b2n (s.port 1).wrap)

/-- A TOPO frame takes the express slot, of the next cycle where that of the present one is used (R432, R443). -/
def State.sendTopo (s : State) : State :=
  if s.ring.slotUsed then s.updRing fun r => { r with topo := r.inserted }
  else (s.updRing fun r => { r with slotUsed := true, topo := false }).sendOwn 0 2 63 [s.wrapStatus]

/-- LINK_DOWN or RING_WRAP is raised, with its interrupt flag (R513). -/
def State.raiseRing (s : State) (src detail : Nat) : State := (s.setFld F.HOST_IFLG_RING 0 1).raise src detail

/-- Wrap or unwrap at port q (R432, R433). -/
def State.setWrapAt (s : State) (q : Fin 2) (w : Bool) : State :=
  if (s.port q).wrap = w then s
  else
    let s1 := (s.updPort q fun p => { p with wrap := w }).raiseRing DS.RING_WRAP (q.val + if w then 0 else 2)
    if w then ((s1.updRing fun r => { r with wraps := satNat 255 (r.wraps + 1) }).setWrapped true).sendTopo else s1

/-! ### Training and insertion (R426–R430, R433) -/

/-- A port may be inserted. -/
def portReady (p : Port) : Bool := p.st == .locked || p.st == .quiet

/-- Insertion may take place (R427, R428). -/
def State.insertDue (s : State) : Bool :=
  s.ringEn && !s.ring.inserted && portReady (s.port 0) && portReady (s.port 1) && s.ring.retryAt.isNone

/-- The node opens its switches (R427). -/
def State.ringInsert (s : State) : State :=
  let f := decide ((s.port 0).st = .quiet) && decide ((s.port 1).st = .quiet)
  s.updRing fun r => { r with inserted := true, insAt := s.now, everUp := false, founder := f, tokens := 0, sent := [], topo := false }

/-- 100 µs after insertion: no port UP closes the switches, one port UP wraps at the other (R428). -/
def State.insertTmo (s : State) : State :=
  let a := decide ((s.port 0).st = .up)
  let b := decide ((s.port 1).st = .up)
  if !a && !b && !s.ring.everUp then
    ((s.ringClose.setPort 0 .acquire).setPort 1 .acquire).updRing fun r => { r with retryAt := some (s.now + 10 * tMs) }
  else if a && !b then s.setWrapAt 1 true
  else if b && !a then s.setWrapAt 0 true else s

/-- A LINK set of the peer (R422, R426). -/
def State.linkSet (s : State) (q : Fin 2) (lock : Bool) (node : Nat) : State :=
  let s1 := s.updPort q fun p => { p with peerLock := lock, peer := node }
  if (s.port q).st = .locked ∧ s.ring.inserted = true ∧ lock = true then
    (s1.setPort q .up).updRing fun r => { r with everUp := true }
  else s1

/-- A port leaves UP (R429). -/
def State.linkDrop (s : State) (q : Fin 2) : State :=
  let s1 := (s.setPort q .acquire).raiseRing DS.LINK_DOWN q.val
  if (s1.port 0).st ≠ .up ∧ (s1.port 1).st ≠ .up then s1.ringClose else s1.setWrapAt q true

/-! ### Receiving (R431, R437, R448) -/

/-- Index of a source's policing entry at a port. -/
def polIx (q : Fin 2) (src : BitVec 5) : Fin 64 := ⟨32 * q.val + src.toNat, by have := src.isLt; have := q.isLt; omega⟩

/-- Bucket depth in bytes (LK_POLICE.DEPTH; 0 is taken as 1), and its refill (R448). -/
def State.bulkDepth (s : State) : Nat := let n := s.fld F.LK_POLICE_DEPTH; 64 * (if n = 0 then 1 else n)
def State.bulkRate (s : State) : Nat := 16 * s.fld F.LK_POLICE_RATE

/-- Key of LK_ERR of port q. -/
def errFld (f : Fld) (q : Fin 2) : Fld := { f with addr := f.addr + q.val }

/-- Policing of a received frame (R448): whether it passes. -/
def State.police (s : State) (q : Fin 2) (cls typ : Nat) (f : Frame) : Bool × State :=
  let i := polIx q f.src
  let n := f.words.length
  -- a TIME frame is 58 symbols long (R462)
  let len := if cls = 1 then 58 else frameLen f.words
  let ok := match cls with
    | 0 => decide (s.ring.polExp[i] < 2) && decide (n ≤ (if typ = 1 then 8 else 2))
    | 1 => decide (s.ring.polTime[i] + len ≤ 64)
    | 2 => decide (s.ring.polCyc[i] + len ≤ 4 * s.fld F.LK_POLICE_CYC_MAX)
    | _ => decide (len ≤ s.ring.bucket[i])
  if ok then
    (true, s.updRing fun r => match cls with
      | 0 => { r with polExp := r.polExp.set i (r.polExp[i] + 1) }
      | 1 => { r with polTime := r.polTime.set i (r.polTime[i] + len) }
      | 2 => { r with polCyc := r.polCyc.set i (r.polCyc[i] + len) }
      | _ => { r with bucket := r.bucket.set i (r.bucket[i] - len) })
  else (false, (s.bump (errFld F.LK_ERR0_POLICED q) 0).raise DS.RING_POLICE f.src.toNat)

/-- Forwarding of a frame that arrived at port q, HOPS incremented: out of the other port, or back where the node wraps there (R431, R432, R434). -/
def State.forward (s : State) (q : Fin 2) (cls typ : Nat) (f : Frame) : State :=
  let h := f.hops.toNat + 1
  if f.src.toNat = s.node ∨ 63 ≤ h then s
  else s.updRing fun r =>
    { r with sent := r.sent ++ [((s.outPort (otherPort q)).val, { cls := cls, typ := typ, frame := { f with hops := BitVec.ofNat 6 h } })] }

/-- The first copy of a frame is delivered, the second is not (R431). -/
def State.firstCopy (s : State) (cls : Nat) (f : Frame) : Bool × State :=
  let e := (f.src.toNat, cls, f.seq.toNat, f.cycle.toNat)
  if s.ring.first.contains e then (false, s.updRing fun r => { r with first := r.first.filter fun x => !(x == e) })
  else (true, s.updRing fun r => { r with first := r.first ++ [e] })

/-- A frame is for this node. -/
def State.forMe (s : State) (f : Frame) : Bool := decide (f.dst.toNat = s.node) || decide (f.dst.toNat = 63)

/-- A valid frame arrives at port q: policed, forwarded, and delivered by `act` where it is the first copy and for this node. -/
def State.rxFrame (s : State) (q : Fin 2) (cls typ : Nat) (f : Frame) (act : State → State) : State :=
  if (s.port q).st ≠ .up ∨ s.ring.inserted = false then s
  else
    let p := s.police q cls typ f
    if !p.1 then p.2
    else
      let s1 := p.2.forward q cls typ f
      if f.src.toNat = s.node then s1
      else
        let c := s1.firstCopy cls f
        if c.1 && c.2.forMe f then act c.2 else c.2

/-- A dropped frame, or a code error outside a frame: code errors are counted as such, dropped frames as CRC errors (R422, R435, R437, LK_ERRq). -/
def State.frameDrop (s : State) (q : Fin 2) (e : FrameErr) : State :=
  let s1 := s.when (decide (e ≠ .stray)) fun s => s.bump (errFld F.LK_ERR0_CRC q) 0
  (s1.when (decide (e = .code) || decide (e = .stray)) fun s => s.bump (errFld F.LK_ERR0_CODE q) 0).raise DS.RING_CODE 0

/-- An error may be seen at port q: a frame's where frames are received, a code error wherever symbols are (R426, R437). -/
def State.errSeen (s : State) (q : Fin 2) (e : FrameErr) : Bool :=
  ((s.port q).st == .up && s.ring.inserted) || (decide (e = .stray) && (s.port q).st == .locked) || (decide (e = .stray) && (s.port q).st == .up)

/-- A BEACON (R425, R430, R432, LK_TOPO). -/
def State.beacon (s : State) (q : Fin 2) (f : Frame) : State :=
  if (s.port q).st ≠ .up ∨ s.ring.inserted = false then s
  else if f.src.toNat = s.node then
    let u := (f.words.headD 0#32).toNat
    let p := s.police q 0 0 f
    if !p.1 then p.2
    else if u = uid0 then
      let h := f.hops.toNat + 1
      (p.2.updRing fun r => { r with hops := h }).when (decide (32 < h)) fun s => s.raise DS.RING_TOPOLOGY 0
    else
      let s1 := p.2.raise DS.RING_TOPOLOGY 1
      if u < uid0 then (s1.updRing fun r => { r with dup := true }).ringRefresh else s1
  else s.rxFrame q 0 0 f fun s =>
    let st := (f.words.getD 1 0#32).toNat % 4
    s.updRing fun r =>
      { r with heard := (f.src.toNat, 0) :: r.heard.filter fun e => decide (e.1 ≠ f.src.toNat)
               wrapAge := if st = 0 then r.wrapAge else 0 }

/-! ### Peer writes, messages, publications (R444, R445, R449–R451) -/

/-- A signal a peer may write (R450). -/
def State.peerOk (s : State) (id : Nat) : Bool :=
  s.flag F.LK_CTL_PWR &&
    (decide (0x9000 ≤ id ∧ id < 0x10000) ||
     (decide (0x1000 ≤ id ∧ id < 0x9000) && decide (0x200 ≤ (id - 0x1000) % 0x800) && s.hasMast ((id - 0x1000) / 0x800)))

/-- A peer write (R450). -/
def State.peerWrite (s : State) (id : Nat) (v : Word) : State :=
  if s.peerOk id then s.putSig id v
  else (s.setFld F.LK_STAT_PWR_REF 0 1).raise DS.SIGNAL_ACCESS 0

/-- The entries of a MESSAGE: valid ones are applied (R444). -/
def State.applyMsg (s : State) : List Word → State
  | i :: v :: l => (if bitOf i 31 then s.peerWrite (bitsOf i 19 0) v else s).applyMsg l
  | _ => s

/-- The entries of a WRITE (R435). -/
def State.applyWrites (s : State) : List Word → State
  | i :: v :: l => (s.peerWrite (bitsOf i 19 0) v).applyWrites l
  | _ => s

/-- A MESSAGE has been applied (R451): kind RING with class 0 and the source. -/
def State.msgTrig (s : State) (src : Nat) : State :=
  s.when (s.flag F.LK_TRIG_EXP_EN) fun s => s.trigger (s.fld F.LK_TRIG_EXP_CTX) TK.RING 0 src

/-- The MESSAGE waiting goes out in a free express slot (R443, R444). -/
def State.flushMsg (s : State) : State :=
  match s.ring.msg with
  | some e =>
    if s.ring.inserted && !s.ring.slotUsed then
      (s.updRing fun r => { r with slotUsed := true, msg := none }).sendOwn 0 1 e.1 e.2
    else s
  | none => s

/-- A MESSAGE to node d, or with 63 to all nodes, with the entries as they stand (R444). -/
def State.sendMsg (s : State) (d : Nat) : State :=
  let e := [0, 1, 2, 3].flatMap fun i => [s.sig (0x300 + i), s.sig (0x304 + i)]
  if d = s.node then (s.applyMsg e).msgTrig s.node
  else
    let s1 := s.when s.ring.msg.isSome fun s => s.setFld F.LK_STAT_MSG_OVR 0 1
    (s1.updRing fun r => { r with msg := some (d, e) }).flushMsg

/-- What a write or read has for the ring takes its place in the order of the ranks, behind its equals (R33, R308, R489). -/
def insPost (e : Nat × Post) : List (Nat × Post) → List (Nat × Post)
  | [] => [e]
  | x :: r => if e.1 < x.1 then e :: x :: r else x :: insPost e r

/-- A write or read of some rank has something for the ring, which takes it at the end of the SPARCLK cycle (R33, R308, R444, R489; log entry 84). -/
def State.post (s : State) (rank : Nat) (p : Post) : State := { s with cyc.posts := insPost (rank, p) s.cyc.posts }

/-- The ring takes one of them (R35, R444). -/
def State.sendPost (s : State) : Post → State
  | .message d => s.sendMsg d
  | .bulk typ dst ws => s.queueBulk typ dst ws

/-- At the end of a cycle the ring takes what its writes and reads have for it, in the order of their ranks. -/
def State.sendPosts (s : State) : State := s.cyc.posts.foldl (fun s e => s.sendPost e.2) { s with cyc.posts := [] }

/-- Key of LK_PWIN of window p; the signals of its mirror (R449). -/
def State.pwin (s : State) (f : Fld) (p : Nat) : Nat := s.fld f p
/-- The window is enabled. -/
def State.pwinOn (s : State) (p : Nat) : Bool := s.pwin F.LK_PWIN_EN p == 1
/-- Offset o of window p is mirrored (R449). -/
def State.mirrored (s : State) (p o : Nat) : Bool :=
  let lo := 16 * s.pwin F.LK_PWIN_MOFS p
  decide (lo ≤ o) && decide (o < lo + 16 * s.pwin F.LK_PWIN_MLEN p)
/-- The peer's signal an offset of window p maps to (R449). -/
def State.pwinTarget (s : State) (p o : Nat) : Nat := s.pwin F.LK_PWIN_BASE p * 0x1000 + o

/-- A published value reaches the mirrors of one window (R449). -/
def State.mirrorAt (s : State) (p src id : Nat) (v : Word) : State :=
  let b := s.pwin F.LK_PWIN_BASE p * 0x1000
  if s.pwinOn p && decide (s.pwin F.LK_PWIN_NODE p = src) && decide (b ≤ id) && decide (id - b < 0x8000) && s.mirrored p (id - b) then
    s.putSig (0x80000 + 0x8000 * p + (id - b)) v
  else s

/-- The values of a PUBLISH frame reach the mirrors of every window of its node (R449). -/
def State.mirror (s : State) (src id : Nat) : List Word → State
  | [] => s
  | v :: l => ((List.range 16).foldl (fun s p => s.mirrorAt p src id v) s).mirror src (id + 1) l

/-- A PUBLISH frame is applied (R447, R449, R451). -/
def State.published (s : State) (f : Frame) (last : Bool) : State :=
  let d := f.words.headD 0#32
  let src := f.src.toNat
  let s1 := s.mirror src (bitsOf d 19 0) ((f.words.drop 1).take (bitsOf d 25 20 + 1))
  let s2 := s1.updRing fun r => { r with pubAge := r.pubAge.set src 0 f.src.isLt }
  let late := decide (1 < (s.cycNow + 65536 - f.cycle.toNat) % 65536) && decide ((s.cycNow + 65536 - f.cycle.toNat) % 65536 < 32768)
  let s3 := s2.when late fun s => s.setFld F.LK_STAT_CYC_LATE 0 1
  s3.when (last && s.flag F.LK_TRIG_CYC_EN && decide (s.fld F.LK_TRIG_CYC_NODE = src)) fun s =>
    s.trigger (s.fld F.LK_TRIG_CYC_CTX) TK.RING 2 src

/-! ### The cycle (R442–R448) -/

/-- A new ring cycle has begun (R442). -/
def State.cycleDue (s : State) : Bool := s.variant.ring && decide (s.cycNow ≠ s.ring.cycle)

/-- The time base has stepped, or T_C has changed: cycles begin at the multiples of T_C of the new time, the one that is at such an instant now and no
cycle in its middle (R442). -/
def State.cycleSync (s : State) : State :=
  let k := s.cycNow
  let at0 := decide (0 < s.cycNs) && decide (s.tb.total / 2 ^ 32 % s.cycNs = 0)
  s.updRing fun r => { r with cycle := if at0 then (k + 2 ^ 32 - 1) % 2 ^ 32 else k }

/-- Nodes heard in the last two cycles, this one included (LK_TOPO). -/
def Ring.nodes (r : Ring) : Nat := if r.inserted then (r.heard.filter fun e => decide (e.2 ≤ 2)).length + 1 else 0

/-! ### STOP (R438–R440) -/

/-- A valid STOP arrives at port q (R439, R440); `cut`: a frame was being received (R438). -/
def State.stopRx (s : State) (q : Fin 2) (src no : Nat) (cut : Bool) : State :=
  let s0 := s.when cut fun s => s.bump (errFld F.LK_ERR0_ABORT q) 0
  if src = s.node then s0
  else
    let old := 100 * tUs
    let heard := s.ring.stopRx.filter fun e => decide (s.now < e.2.2 + old)
    let isNew := !(heard.any fun e => decide (e.1 = src) && decide (e.2.1 = no))
    let out : Nat := (s.outPort (otherPort q)).val
    let fwd := s.ring.stopFwd.filter fun e => decide (s.now < e.2.2.2 + old)
    let again := fwd.any fun e => decide (e.1 = out) && decide (e.2.1 = src) && decide (e.2.2.1 = no)
    let s1 := s0.updRing fun r =>
      { r with
        stopSrc := src
        stopCnt := if isNew then satNat 255 (r.stopCnt + 1) else r.stopCnt
        stopRx := if isNew then heard ++ [(src, no, s.now)] else heard
        stopFwd := if again || !r.inserted then fwd else fwd ++ [(out, src, no, s.now)] }
    let s2 := s1.when (!again) fun s => s.putStop [out] src no
    s2.when (s.flag F.LK_CTL_STOP_RX) fun s => s.furlEnter FC.RING

/-- LK_STOP.SEND (R438, R440). -/
def State.stopSend (s : State) (w : Word) : State :=
  if bitOf w 31 then s.stopOriginate.furlEnter FC.RING else s

/-- A repeat of a STOP is due (R438). -/
def State.stopRepDue (s : State) : Bool := s.ring.stopReps.any fun e => decide (e.2.2 ≤ s.now)

/-- One STOP that is being repeated: sent again where its repeat is due (R438). -/
def State.stopAgain (s : State) (e : Nat × Nat × Nat) : State :=
  if e.2.2 ≤ s.now then
    let s1 := s.putStop [0, 1] s.node e.1
    if e.2.1 ≤ 1 then s1 else s1.updRing fun r => { r with stopReps := r.stopReps ++ [(e.1, e.2.1 - 1, e.2.2 + tUs)] }
  else s.updRing fun r => { r with stopReps := r.stopReps ++ [e] }

/-- The repeats that are due are sent (R438). -/
def State.stopRepeat (s : State) : State := s.ring.stopReps.foldl State.stopAgain (s.updRing fun r => { r with stopReps := [] })

/-! ### Loopback (R454) -/

/-- A write of LK_DIAG (R454). -/
def State.loopback (s : State) (w : Word) : State :=
  if !bitOf w 31 then s
  else if s.flag F.LK_CTL_EN then s.setFld F.LK_STAT_CFG_ERR 0 1
  else s.updRing fun r => { r with loopAt := some s.now, lbDone := false, lbOk := false }

/-! ### Registers as read (R453) -/

/-- Code of a port state. -/
def PortSt.num : PortSt → Nat
  | .disabled => 0 | .acquire => 1 | .quiet => 2 | .locked => 3 | .up => 4

/-- LK_PORT of port q; EYE is what the receiver measures. -/
def State.lkPort (s : State) (q : Fin 2) : Word :=
  let p := s.port q
  let eye := if p.st = .disabled then 0 else (Config.linkEye q.val s.now).toNat
  nat32 (p.st.num * 2 ^ 29 + b2n p.sig * 2 ^ 28 + b2n p.lock * 2 ^ 27 + b2n p.peerLock * 2 ^ 26 + b2n p.wrap * 2 ^ 25 +
    p.peer % 32 * 2 ^ 20 + eye * 2 ^ 8 + p.ups)

/-- LK_STAT. -/
def State.lkStat (s : State) : Word :=
  let r := s.ring
  setBitsOf (setBitsOf (setBitsOf (setBitsOf (s.rd R.LK_STAT) 31 31 (b2n r.inserted)) 30 30 (b2n r.wrapped)) 29 29 (b2n r.dup)) 28 28 (b2n r.founder)

/-- LK_STOP, LK_TOPO, LK_DIAG, LK_PWIN. -/
def State.lkStop (s : State) : Word := nat32 (s.ring.stopSrc * 256 + s.ring.stopCnt)
def State.lkTopo (s : State) : Word := nat32 (s.ring.hops % 64 * 2 ^ 24 + s.ring.wraps * 2 ^ 16 + s.ring.nodes % 64)
def State.lkDiag (s : State) : Word :=
  nat32 (b2n s.ring.loopAt.isSome * 2 ^ 31 + b2n s.ring.lbDone * 2 ^ 30 + b2n s.ring.lbOk * 2 ^ 29)
def State.lkPwin (s : State) (p : Nat) : Word :=
  let n := s.pwin F.LK_PWIN_NODE p
  setBitsOf (s.rd (keyI R.LK_PWIN p)) 30 30 (b2n (s.pwinOn p && decide (3 ≤ s.ring.pubAge.toArray.getD n 0)))

end Sys2Proof.Machine
end

