-- ==== Sys2Proof/Machine/Calendar.lean ====
section
/-! DEFINITION. Machine/Calendar.lean: the action calendar's entries: checks, insertion, lateness, removal, time steps (R479–R488). -/

namespace Sys2Proof.Machine

/-! ### The fields of an entry (R479) -/

def CalEntry.late (e : CalEntry) : Nat := bitsOf e.w0 31 30
def CalEntry.ns (e : CalEntry) : Nat := bitsOf e.w0 29 0
def CalEntry.sec (e : CalEntry) : Nat := e.w1.toNat
def CalEntry.action (e : CalEntry) : Nat := bitsOf e.w2 23 20
def CalEntry.arg (e : CalEntry) : Nat := bitsOf e.w2 19 0
/-- The interval in ns; 0: one-shot. -/
def CalEntry.ival (e : CalEntry) : Nat := bitsOf e.w2 27 24 * 10 ^ bitsOf e.w2 31 28

/-- d of R481: the instant less the local time, in ns. -/
def State.calD (s : State) (e : CalEntry) : Int :=
  sextNat 32 (e.sec + 2 ^ 32 - s.tbSec % 2 ^ 32) * 1000000000 + ((e.ns : Int) - s.tbNs)

/-- CAL_GUARD in ns. -/
def State.calGuard (s : State) : Int := s.fld F.CAL_CTL_GUARD * 10

/-- The instant of an entry moved on by `n` ns. -/
def CalEntry.advance (e : CalEntry) (n : Nat) : CalEntry :=
  let t := e.ns + n
  { e with w0 := setBitsOf e.w0 29 0 (t % 1000000000), w1 := nat32 (e.sec + t / 1000000000) }

/-- Bits of ARG and of VALUE an action uses (R480); none for a reserved action. -/
def calMask : Nat → Option (Nat × Nat)
  | 0 => some (0xFFFFF, 0xFFFFFFFF)
  | 1 => some (0x37F, 0)
  | 2 => some (0xF, 0xFFFFFFFF)
  | 3 => some (0x3F, 0)
  | 4 => some (0x31F, 0)
  | 5 => some (0x3, 0)
  | 6 => some (0x33F, 0x3FFFF)
  | _ => none

/-- An entry breaks check 1 of R481. -/
def CalEntry.bad (e : CalEntry) : Bool :=
  match calMask e.action with
  | none => true
  | some k =>
    decide (e.arg &&& k.1 ≠ e.arg) || decide (e.w3.toNat &&& k.2 ≠ e.w3.toNat) || decide (1000000000 ≤ e.ns) ||
    decide (9 < bitsOf e.w2 31 28) || (decide (e.ival ≠ 0) && decide (e.ival < 1000)) ||
    (decide (e.action = 4) && decide (bitsOf e.w2 9 8 = 3)) || (decide (e.action = 6) && decide (bitsOf e.w2 9 8 = 3)) ||
    (decide (e.action = 1) && decide (4 ≤ bitsOf e.w2 6 4))

/-- The action names an absent unit: a mast, a context, or a signal of an absent unit (R5, R7, R481). -/
def State.calAbsent (s : State) (e : CalEntry) : Bool :=
  match e.action with
  | 0 => s.sigAbsent e.arg
  | 1 => !s.hasMast (bitsOf e.w2 3 0)
  | 2 => !s.hasMast (bitsOf e.w2 3 0)
  | 3 => !s.hasCtx (bitsOf e.w2 5 0)
  | 6 => !s.hasCtx (bitsOf e.w2 5 0)
  | _ => false

/-! ### The entries by index -/

/-- Entries the calendar holds (R479). -/
def calSize : Nat := 12288

/-- The lowest free index from `i` on, of entries by rising index. -/
def freeIx (i : Nat) : List CalEntry → Nat
  | [] => i
  | e :: l => if e.ix = i then freeIx (i + 1) l else i

/-- Put an entry at its index. -/
def putEntry (e : CalEntry) : List CalEntry → List CalEntry
  | [] => [e]
  | x :: l => if x.ix < e.ix then x :: putEntry e l else if x.ix = e.ix then e :: l else e :: x :: l

def dropEntry (ix : Nat) (l : List CalEntry) : List CalEntry := l.filter fun e => decide (e.ix ≠ ix)
def findEntry (ix : Nat) (l : List CalEntry) : Option CalEntry := l.find? fun e => decide (e.ix = ix)

/-- CAL_COUNT follows the entries (R490). -/
def State.calPub (s : State) : State := s.putSig 0x422 (nat32 s.cal.entries.length)
def State.calPut (s : State) (e : CalEntry) : State := { s with cal.entries := putEntry e s.cal.entries }.calPub
def State.calFree (s : State) (ix : Nat) : State := { s with cal.entries := dropEntry ix s.cal.entries }.calPub

/-- CAL_STAT.LATE or DROP, with the interrupt flag when it becomes 1 (R513). -/
def State.calFlag (s : State) (f : Fld) : State :=
  (s.when (s.fld f == 0) fun s => s.setFld F.HOST_IFLG_CAL 0 1).setFld f 0 1

/-! ### Lateness (R482, R484–R486) -/

/-- An entry whose instant is closer than CAL_GUARD, or past, is handled by its LATE field (R482); REJECT as DROP (R484, R486). -/
def State.calLate (s : State) (e : CalEntry) (step : Bool) : State :=
  let det := e.late + 4 * b2n step
  let d := s.calD e
  let per : Int := e.ival
  if e.late = 0 then (s.calPut { e with due := true, step := step }).raise DS.CAL_LATE det
  else if e.late = 3 ∧ e.ival ≠ 0 then
    let k := (s.calGuard - d + per - 1) / per
    (s.calPut (e.advance (e.ival * k.toNat))).raise DS.CAL_LATE det
  else
    let s1 := (s.calFlag F.CAL_STAT_DROP).raise DS.CAL_LATE det none true
    if e.ival = 0 then (s1.bump F.CAL_CNT_DROPPED 0).calFree e.ix
    else
      -- its first instant after that one that is not past
      let k : Int := if d < 0 then (per - 1 - d) / per else 1
      (s1.bump F.CAL_CNT_DROPPED 0 k.toNat).calPut (e.advance (e.ival * k.toNat))

/-- Entries in the order of their instants, those of one instant as placed (R483). -/
def State.calBefore (s : State) (a b : CalEntry) : Bool :=
  decide (s.calD a < s.calD b) || (decide (s.calD a = s.calD b) && decide (a.ord < b.ord))

/-- Insertion into an ordered list. -/
def State.calIns (s : State) (e : CalEntry) : List CalEntry → List CalEntry
  | [] => [e]
  | x :: l => if s.calBefore e x then e :: x :: l else x :: s.calIns e l

/-- Handle every entry whose instant lies in the past, in order of instant (R486). -/
def State.calSweep (s : State) (step : Bool) : State :=
  let past := s.cal.entries.filter fun e => decide (s.calD e < 0) && !e.due
  (past.foldl (fun l e => s.calIns e l) []).foldl (fun s e => s.calLate e step) s

/-! ### Commands (R481, R487, R488) -/

/-- A refused insertion. -/
def State.calRefuse (s : State) (r : Int) : State × Int := (s.setFld F.CAL_STAT_REJ 0 1, r)

/-- An insertion (R481): the result is the index, or a negative code. -/
def State.calInsert (s : State) (w0 w1 w2 w3 : Word) : State × Int :=
  let e : CalEntry := { ix := freeIx 0 s.cal.entries, w0 := w0, w1 := w1, w2 := w2, w3 := w3, ord := s.cal.ord }
  if e.bad then s.calRefuse (-4)
  else if s.calAbsent e then (s.raise DS.ABSENT_UNIT 0).calRefuse (-3)
  else if calSize ≤ e.ix then ((s.bump F.CAL_CNT_FULL 0).raise DS.CAL_FULL 0).calRefuse (-1)
  else if s.calD e < s.calGuard ∧ e.late = 2 then (s.bump F.CAL_CNT_REJECTED 0).calRefuse (-2)
  else
    let s1 := { s with cal.ord := s.cal.ord + 1 }
    (if s.calD e < s.calGuard then (s1.calPut e).calLate e false else s1.calPut e, e.ix)

/-- A removal (R487). -/
def State.calRemove (s : State) (ix : Nat) : State × Int :=
  if calSize ≤ ix then (s, -4)
  else match findEntry ix s.cal.entries with
    | none => (s, -1)
    | some _ => (s.calFree ix, 0)

/-- CAL_CMD READ (R487). -/
def State.calRead (s : State) (ix : Nat) : State × Int :=
  if calSize ≤ ix then (s, -4)
  else
    let put := fun (e : Word × Word × Word × Word) =>
      (((s.wr R.CAL_W0 e.1).wr R.CAL_W1 e.2.1).wr R.CAL_W2 e.2.2.1).wr R.CAL_W3 e.2.2.2
    match findEntry ix s.cal.entries with
    | none => (put (0#32, 0#32, 0#32, 0#32), -1)
    | some e => (put (e.w0, e.w1, e.w2, e.w3), 0)

/-- CAL_RES of a host command (R318, R492). -/
def State.calRes (r : State × Int) : State := r.1.setFld F.CAL_RES_RES 0 (r.2 % 65536).toNat

/-- A command takes its place among those of its cycle: behind those of its rank, lanes before the host (R488). -/
def insJob (j : CalJob) : List CalJob → List CalJob
  | [] => [j]
  | x :: r => if j.rank < x.rank then j :: x :: r else x :: insJob j r

/-- A command waits for the end of its cycle (R488). -/
def State.calAsk (s : State) (j : CalJob) : State := { s with cal.jobs := insJob j s.cal.jobs }

/-- CAL_RES.BUSY: a host command is in progress (R488). -/
def State.calBusy (s : State) : Bool := s.cal.jobs.any fun j => j.dest.isNone

/-- A host write of CAL_CMD, discarded while CAL_RES.BUSY reads 1 in this cycle (R488, R492). -/
def State.calCmd (s : State) (w : Word) : State :=
  if bitsOf w 31 30 = 0 then s
  else if s.calBusy || s.before.calBusy then s.setFld F.CAL_STAT_CFG_ERR 0 1
  else if bitsOf w 31 30 = 1 then
    s.calAsk { rank := 4, dest := none, cmd := 1, w0 := s.rd R.CAL_W0, w1 := s.rd R.CAL_W1, w2 := s.rd R.CAL_W2, w3 := s.rd R.CAL_W3 }
  else s.calAsk { rank := 4, dest := none, cmd := bitsOf w 31 30, w0 := nat32 (bitsOf w 13 0) }

/-- A calendar command is carried out: its result (R481, R487). -/
def State.calRun (s : State) (j : CalJob) : State × Int :=
  match j.cmd with
  | 1 => s.calInsert j.w0 j.w1 j.w2 j.w3
  | 2 => s.calRemove j.w0.toNat
  | _ => s.calRead j.w0.toNat

/-! ### Dispatch (R483–R485) -/

/-- The earliest entry; one executed at once goes before (R482, R483). -/
def State.calFirst (s : State) : Option CalEntry :=
  s.cal.entries.foldl (fun o e => match o with
    | none => some e
    | some x => if (e.due && !x.due) || (e.due == x.due && s.calBefore e x) then some e else some x) none

/-- An entry is due (R483). -/
def State.calDue (s : State) : Option CalEntry :=
  if s.flag F.CAL_CTL_EN then s.calFirst.filter fun e => e.due || decide (s.calD e ≤ 0) else none

/-- The record of a late execution (R485); an entry executed at once under R482 has raised CAL_LATE already. -/
def State.calRan (s : State) (e : CalEntry) : State :=
  let l := -(s.calD e)
  if l ≤ s.calGuard then s
  else
    let ns : Int := if 2 ^ 31 - 1 < l then 2 ^ 31 - 1 else l
    ((((s.putSig 0x420 (nat32 e.ix)).putSig 0x421 (wordOfInt ns)).bump F.CAL_CNT_LATE_RUN 0).calFlag F.CAL_STAT_LATE).when (!e.due) fun s =>
      s.raise DS.CAL_LATE (e.late + 4 * b2n e.step)

/-- The entry after its dispatch: freed, or its next instant (R484). -/
def State.calNext (s : State) (e : CalEntry) : State :=
  if e.ival = 0 then s.calFree e.ix
  else
    let e1 := { e.advance e.ival with due := false, step := false }
    if s.calD e1 < 0 then (s.calPut e1).calLate e1 false else s.calPut e1

/-- CAL_STAT and CAL_NEXT as read (R492). -/
def State.calStat (s : State) : Word :=
  let n := s.cal.entries.length
  setBitsOf (setBitsOf (s.rd R.CAL_STAT) 31 31 (b2n (decide (calSize ≤ n)))) 13 0 n
def State.calNextReg (s : State) : Word :=
  match s.calFirst with
  | none => 0#32
  | some e => nat32 (2 ^ 31 + e.ix)

end Sys2Proof.Machine
end

