-- ==== Sys2Proof/Machine/TimeBase.lean ====
section
/-! DEFINITION. Machine/TimeBase.lean: SET_TIME, the servo, the two domains, link delays, time frames, capture units (R455–R478). -/

namespace Sys2Proof.Machine

/-! ### Settings -/

def State.updSrv (s : State) (f : Servo → Servo) : State := { s with srv := f s.srv }
/-- Roles (TB_CTL): 0 NONE, 1 SLAVE, 2 MASTER. -/
def State.mrole (s : State) : Nat := s.fld F.TB_CTL_MROLE
def State.zrole (s : State) : Nat := s.fld F.TB_CTL_ZROLE
/-- 0 is taken as 1. -/
def atLeast1 (n : Nat) : Nat := if n = 0 then 1 else n
/-- The sync interval T_S = 4 × T_C (R464), in taps and as a number of seconds. -/
def State.tsTaps (s : State) : Nat := 4 * s.fld F.LK_CFG_CYC * tUs
/-- SYNC_TMO in taps (R473). -/
def State.syncTmo (s : State) : Nat := atLeast1 (s.fld F.PTP_CFG_SYNC_TMO) * s.tsTaps
/-- SERVO_STEP in 2^−32 ns (R471). -/
def State.srvStep (s : State) : Int := atLeast1 (s.fld F.SRV_CFG_STEP) * 2 ^ 32
/-- RATE_MAX and PH_MAX as rates (R470). -/
def State.rateMax (s : State) : Word := fOfRat (25 * atLeast1 (s.fld F.SRV_CFG_RATE_MAX) : Nat) 1000000
def State.phMax (s : State) : Word := fOfRat (atLeast1 (s.fld F.SRV_CFG_PH_MAX) : Nat) 1000000
/-- One ns in 2^−32 ns. -/
def nsOne : Int := 2 ^ 32

/-! ### SET_TIME (R458, R486) -/

/-- Load the time base; entries the step passed are handled (R458, R486). -/
def State.loadTime (s : State) (total detail : Nat) : State :=
  let fwd := decide (s.tb.total < total)
  -- the accumulator is cleared (R458)
  let s1 := (({ s with tb.total := total % tbWrap / 2 ^ 32 * 2 ^ 32 }).setFld F.TB_STAT_SET_DONE 0 1).raise DS.TIME_SET detail
  (s1.when fwd fun s => s.calSweep true).cycleSync

/-- Enter a servo state (R469). -/
def State.enterSrv (s : State) (st : SrvSt) : State :=
  (s.updSrv fun v => { v with st := st, since := s.now, good := 0, reval := [], backRun := 0
                              noSet := false, wasTrack := v.wasTrack || decide (st = .track) }).putSig 0x402
    (nat32 (match st with | .free => 0 | .acquire => 1 | .track => 2 | .hold => 3 | .revalidate => 4 | .freerun => 5 | .mizzen => 6))

/-- Enter ACQUIRE; the wait for the master begins anew. -/
def State.acquire (s : State) (noSet : Bool) : State :=
  (s.enterSrv .acquire).updSrv fun v => { v with noSet := noSet, mainAt := s.now, mainGone := false }

/-- A SET_TIME loads the time base as the next SPARCLK cycle begins (R458, R472); after a host's a slave's servo acquires anew. -/
def State.tbLoad (s : State) : State :=
  let s0 : State := { s with tb.load := none }
  match s.tb.load with
  | none => s
  | some (.host t) => (s0.loadTime t 0).when (decide (s0.mrole = 1)) fun s => s.acquire false
  | some (.less th) => s0.loadTime (((s.tb.total : Int) - th) % (tbWrap : Int)).toNat 1

/-- A host SET_TIME (R458): refused for 1,000,000,000 ns or more. -/
def State.setTime (s : State) : State :=
  let ns := s.fld F.SET_NS_NS
  if 1000000000 ≤ ns then s.setFld F.TB_STAT_CFG_ERR 0 1
  else { s with tb.load := some (.host ((s.fld F.SET_SEC_LO_SEC + 2 ^ 32 * s.fld F.SET_SEC_HI_SEC) * nsSec + ns * 2 ^ 32)) }

/-- AUTO_SET by an offset θ (R472). -/
def State.autoSet (s : State) (th : Int) : State := { s with tb.load := some (.less th) }

/-! ### The servo (R470, R471) -/

/-- F of a rate correction ρ (R456). -/
def rateOf (rho : Word) : Nat :=
  ((0x2AAAAAAB : Int) - (fToInt .rne (-2147483648) 2147483647 (fMul rho (fOfInt 17895000000))).1).toNat

/-- A rate correction takes effect: F and SRV_RATE (R456, R470). -/
def State.setRho (s : State) (rho : Word) : State :=
  ({ s with tb.rate := rateOf rho, srv.rho := rho }).putSig 0x401 rho

/-- An accepted sample (R470). -/
def State.accept (s : State) (th : Int) : State :=
  let ts := s.tsTaps
  -- θ ÷ T_S: 2^−32 ns over taps of 1/15.36 GHz
  let x := if ts = 0 then fZero else fOfRat (th * 1536) (100 * 2 ^ 32 * ts)
  let i := fClamp (fAdd s.srv.i (fMul (fOfRat (s.fld F.SRV_CFG_KI) 4096) x)) (fNeg s.rateMax) s.rateMax
  let p := fClamp (fMul (fOfRat (s.fld F.SRV_CFG_KP) 256) x) (fNeg s.phMax) s.phMax
  let rho := fClamp (fAdd i p) (fNeg s.rateMax) s.rateMax
  (s.updSrv fun v => { v with i := i, p := p, last := th, lastAt := s.now }).setRho rho

/-- The phase correction a rate makes over an interval of taps, in 2^−32 ns. -/
def phaseOver (rate : Word) (taps : Nat) : Int := fScaled rate * taps * 100 * 2 ^ 32 / (1536 * 2 ^ 149)

/-- The offset predicted from the last accepted sample (R471). -/
def State.predicted (s : State) : Int := s.srv.last - phaseOver s.srv.p (s.now - s.srv.lastAt)

/-- A sample lies within STEP of the prediction (R471). -/
def State.nearPred (s : State) (th : Int) : Bool := decide ((th - s.predicted).natAbs ≤ s.srvStep.toNat)

/-- A rejected sample (R471). -/
def State.rejectSample (s : State) : State := (s.setFld F.TB_STAT_REJ 0 1).raise DS.TIME_REJECT 0

/-- |θ| calls for AUTO_SET (R472). -/
def State.setDue (s : State) (th : Int) : Bool :=
  s.flag F.TB_CTL_AUTO_SET && decide (atLeast1 (s.fld F.PTP_CFG_SET_MIN) * 1000 * nsOne.toNat ≤ th.natAbs)

/-- A sample in ACQUIRE (R469, R472). -/
def State.acqSample (s : State) (th : Int) : State :=
  let first := decide (s.srv.good = 0) && !s.srv.noSet
  let s1 := if first && s.setDue th then (s.autoSet th).updSrv fun v => { v with last := 0, lastAt := s.now } else s.accept th
  let n := s.srv.good + 1
  if 4 ≤ n then s1.enterSrv .track else s1.updSrv fun v => { v with good := n }

/-- Samples of REVALIDATE brought to the instant of the newest by the held rate (R471). -/
def State.revalued (s : State) (l : List (Int × Nat)) : List Int :=
  l.map fun e => e.1 - phaseOver s.srv.p (s.now - e.2)

/-- A sample in REVALIDATE (R471, R472). -/
def State.revSample (s : State) (th : Int) : State :=
  let l := ((th, s.now) :: s.srv.reval).take 4
  let v := s.revalued l
  let hi := v.foldl max th
  let lo := v.foldl min th
  if l.length = 4 ∧ hi - lo ≤ s.srvStep then
    let mean := v.foldl (· + ·) 0 / 4
    if s.setDue mean then (((s.autoSet mean).updSrv fun v => { v with last := 0, lastAt := s.now })).enterSrv .track
    else (s.accept mean).enterSrv .track
  else s.updSrv fun v => { v with reval := l }

/-- An offset sample of the main domain (R469–R472, R477). -/
def State.mainSample (s : State) (th : Int) : State :=
  let s0 := (s.updSrv fun v => { v with ofs := th, mainAt := s.now, mainGone := false }).putSig 0x400 (wordOfInt (th / nsOne))
  match s.srv.st with
  | .free => s
  | .acquire => s0.acqSample th
  | .track => if s.nearPred th then s0.accept th else s0.rejectSample.enterSrv .hold
  | .hold => if s.nearPred th then (s0.accept th).enterSrv .track else s0.rejectSample
  | .revalidate => s0.revSample th
  | .freerun => (s0.acquire false).acqSample th
  | .mizzen =>
    -- an interval without an accepted Sync breaks the run (R477)
    let n := if s.now < s.srv.mainAt + 2 * s.tsTaps then s.srv.backRun + 1 else 1
    let s1 := s0.updSrv fun v => { v with backRun := n }
    if s.flag F.TB_CTL_REVERT && decide (64 ≤ n) then (s1.acquire true).raise DS.TIME_SWITCH 1 else s1

/-! ### The mizzen domain (R474–R476) -/

/-- Slope of the least-squares line through (instant, −θ), as a rate (R474). -/
def mzSlope (l : List (Int × Nat)) : Word :=
  let n : Int := l.length
  let t0 : Int := ((l.getLast?.map (·.2)).getD 0 : Nat)
  let sx := l.foldl (fun a e => a + ((e.2 : Int) - t0)) 0
  let sy := l.foldl (fun a e => a - e.1) 0
  let sxx := l.foldl (fun a e => a + ((e.2 : Int) - t0) * ((e.2 : Int) - t0)) 0
  let sxy := l.foldl (fun a e => a - e.1 * ((e.2 : Int) - t0)) 0
  let den := n * sxx - sx * sx
  if den ≤ 0 then fZero else fOfRat ((n * sxy - sx * sy) * 1536) (den.toNat * 100 * 2 ^ 32)

/-- This node sends its own time as the mizzen domain (R475). -/
def State.mzOwn (s : State) : Bool := decide (s.zrole = 2)

/-- The mizzen domain is valid now (R474, R475). -/
def State.mzValid (s : State) : Bool :=
  if s.mzOwn then s.srv.wasTrack
  else decide (s.zrole = 1) && decide (16 ≤ s.srv.mzRun) &&
    (match s.srv.mz.head? with | some e => decide (s.now ≤ e.2 + s.syncTmo) | none => false)

/-- MZ_RATE and MZ_OFS (R474, R475). -/
def State.mzRate (s : State) : Word := if s.mzOwn then fZero else mzSlope s.srv.mz
def State.mzOfs (s : State) : Int :=
  if s.mzOwn || s.srv.mz.isEmpty then 0
  else -(s.srv.mz.foldl (fun a e => a + e.1) 0) / (s.srv.mz.length * nsOne)

/-- Entry into MIZZEN (R476). -/
def State.toMizzen (s : State) : State :=
  let i := fClamp (fSub s.srv.rho s.mzRate) (fNeg s.rateMax) s.rateMax
  let s1 := ((s.enterSrv .mizzen).raise DS.TIME_SWITCH 0).updSrv fun v =>
    { v with i := i, p := fZero, last := -(s.mzOfs * nsOne), lastAt := s.now }
  -- on the mizzen master itself F stays at its last value
  if s.mzOwn then s1 else s1.setRho i

/-- The mizzen domain is no longer valid in MIZZEN (R469). -/
def State.mizzenEnd (s : State) : State := (s.enterSrv .freerun).raise DS.TIME_HOLDOVER 0

/-- The mizzen domain has become valid in FREERUN, or is no longer valid in MIZZEN, by what was written (R469). -/
def State.mzFollow (s : State) : State :=
  if s.srv.st = .freerun ∧ s.mzValid = true then s.toMizzen
  else if s.srv.st = .mizzen ∧ s.mzValid = false then s.mizzenEnd else s

/-- The main master is lost (R469, R473). -/
def State.masterLost (s : State) : State :=
  let s1 := (s.setFld F.TB_STAT_SYNC_LOST 0 1).updSrv fun v => { v with mainGone := true }
  if s.mzValid then s1.toMizzen else s1.mizzenEnd

/-- No main Sync has been accepted or rejected for SYNC_TMO intervals on a slave, and this has not been taken yet (R473). -/
def State.mainQuiet (s : State) : Bool := !(s.srv.st == .free) && !s.srv.mainGone && decide (s.srv.mainAt + s.syncTmo ≤ s.now)

/-- The main master is lost while the servo works on it (R469, R473). -/
def State.mainLost (s : State) : Bool :=
  (s.srv.st == .acquire || s.srv.st == .track || s.srv.st == .hold || s.srv.st == .revalidate) && s.mainQuiet

/-- The mizzen master is lost, and this has not been taken yet (R473). -/
def State.mzLost (s : State) : Bool :=
  decide (s.zrole = 1) && !s.srv.mzGone && decide (s.srv.mzAt + s.syncTmo ≤ s.now)

/-- A master is lost now, or in MIZZEN the mizzen domain is no longer valid (R469, R473). -/
def State.lostDue (s : State) : Bool := s.mainQuiet || s.mzLost || (s.srv.st == .mizzen && !s.mzValid)

/-- What MASTER_LOST does (R469, R473). -/
def State.lostNow (s : State) : State :=
  let s1 := s.when s.mzLost fun s => ((s.setFld F.TB_STAT_SYNC_LOST 0 1).updSrv fun v => { v with mzGone := true }).putSig 0x407 (b2w s.mzValid)
  if s.mainLost then s1.masterLost
  else
    -- in FREERUN and MIZZEN the loss is noted, and no state follows from it
    let s2 := s1.when s.mainQuiet fun s => (s.setFld F.TB_STAT_SYNC_LOST 0 1).updSrv fun v => { v with mainGone := true }
    if s.srv.st = .mizzen ∧ s.mzValid = false then s2.mizzenEnd else s2

/-- An offset sample of the mizzen domain (R474, R470, R471). -/
def State.mzSample (s : State) (th : Int) : State :=
  let r := s.mzRate
  let near := match s.srv.mz.head? with
    | none => false
    | some e => decide ((e.1 - th - phaseOver r (s.now - e.2)).natAbs ≤ 20 * 2 ^ 32)
  let s1 := s.updSrv fun v => { v with mz := ((th, s.now) :: v.mz).take 16, mzRun := if near then v.mzRun + 1 else 0, mzAt := s.now, mzGone := false }
  let s2 := ((s1.putSig 0x405 (wordOfInt s1.mzOfs)).putSig 0x406 s1.mzRate).putSig 0x407 (b2w s1.mzValid)
  if s2.srv.st = .mizzen then (if s.nearPred th then s2.accept th else s2.rejectSample)
  else s2.mzFollow

/-- TB_CMD.REVERT (R477). -/
def State.revert (s : State) : State :=
  if s.srv.st = .mizzen then (s.acquire true).raise DS.TIME_SWITCH 1 else s.setFld F.TB_STAT_CFG_ERR 0 1

/-- A write of TB_CMD (R491). -/
def State.tbCmd (s : State) (w : Word) : State :=
  (s.when (bitOf w 0) fun s => s.setTime).when (bitOf w 1) fun s => s.revert

/-- The roles were written, `z` the ZROLE before (R469, R473, R475): the wait for a mizzen master begins with the role of its slave. -/
def State.refreshRole (s0 : State) (z : Nat) : State :=
  let s1 := s0.when (decide (s0.zrole = 1) && decide (z ≠ 1)) fun s => s.updSrv fun v => { v with mzAt := s.now, mzGone := false }
  let s := (s1.putSig 0x405 (wordOfInt s1.mzOfs)).putSig 0x406 s1.mzRate
  if s.mrole = 1 then (if s.srv.st = .free then s.acquire false else s.mzFollow)
  else if s.srv.st = .free then s else s.enterSrv .free

/-! ### Time frames (R461–R468) -/

/-- TIME_DROP (R490). -/
def State.timeDrop (s : State) : State := s.putSig 0x408 (s.sig 0x408 + 1#32)

/-- The timestamp of now: the local time at 1/32 of ENGCLK (R459). -/
def State.stamp (s : State) (t : Nat) : Int := s.localAt (t / 2 * 2)

/-- The timestamp of a TIME frame's SOF that port q transmits, handed to its transmitter now (R459). -/
def State.egress (s : State) (q : Nat) : Int := s.stamp (s.now + Config.sofDelay q s.now)

/-- The link delay of port q in 2^−32 ns. -/
def State.linkDelay (s : State) (q : Fin 2) : Int := s.srv.ld[q]

/-- A Sync at port q (R463, R465, R467, R468). -/
def State.sync (s : State) (q : Fin 2) (f : TimeFrame) : State :=
  if (s.port q).st ≠ .up ∨ s.ring.inserted = false then s
  else
    let p := s.police q 1 (if f.mizzen then 0x10 else 0) f.hdr
    if !p.1 then p.2
    else if f.version ≠ 2#4 ∨ f.twoStep = true ∨
        f.dom.toNat ≠ (if f.mizzen then s.fld F.PTP_CFG_DOM_Z else s.fld F.PTP_CFG_DOM_M) ∨ s.srv.ldOk[q] = false then p.2.timeDrop
    else if f.hdr.src.toNat = s.node then p.2
    else
      let ld := s.linkDelay q
      let out : Nat := (s.outPort (otherPort q)).val
      let res := (s.egress out - s.stamp s.now) / 2 ^ 16
      let hops := f.hdr.hops.toNat + 1
      let fw : TimeFrame := { f with hdr := { f.hdr with hops := BitVec.ofNat 6 hops }, corr := BitVec.ofInt 64 (f.corr.toInt + ld / 2 ^ 16 + res) }
      let s1 := p.2.when (decide (hops < 63)) fun s => s.updSrv fun v => { v with sent := v.sent ++ [(out, 0, fw)] }
      let c := s1.firstCopy 1 f.hdr
      if !c.1 then c.2
      else
        let origin : Int := f.sec.toNat * nsSec + f.ns.toNat * 2 ^ 32
        let raw := s.stamp s.now - ld - origin - f.corr.toInt * 2 ^ 16
        -- the shorter way round the 48-bit seconds (R455)
        let half : Int := tbWrap / 2
        let th := (raw + half) % (tbWrap : Int) - half
        if f.mizzen then (if s.zrole = 1 then c.2.mzSample th else c.2)
        else if s.mrole = 1 then c.2.mainSample th else c.2

/-- A Pdelay_Req at port q is to be answered (R466). -/
def State.pdReq (s : State) (q : Fin 2) (f : TimeFrame) : State :=
  if (s.port q).st ≠ .up then s
  else
    let p := s.police q 1 2 f.hdr
    if !p.1 then p.2
    else if f.version ≠ 2#4 ∨ f.twoStep = true then p.2.timeDrop
    else p.2.updSrv fun v => { v with pdAsked := v.pdAsked ++ [⟨q.val, f.seqId.toNat, s.stamp s.now, f.clockId, f.portNo⟩] }

/-- LINK_DELAY of port q (R466, R490). -/
def State.pubDelay (s : State) (q : Fin 2) : State :=
  s.putSig (0x403 + q.val) (if s.srv.ldOk[q] then fOfRat s.srv.ld[q] (1000000000 * 2 ^ 32) else fZero)

/-- A link delay sample D of port q is filtered (R466, R425). -/
def State.delaySample (s : State) (q : Fin 2) (d : Int) : State :=
  let tc := s.fld F.PTP_CFG_PD_TC
  let ld := s.srv.ld[q] + (d - s.srv.ld[q]) / 2 ^ (if tc < 8 then tc else 8)
  let n := s.srv.ldN[q] + 1
  let ok := decide (4 ≤ n)
  let long := ok && decide (150 * nsOne < ld)
  let s1 := s.updSrv fun v =>
    { v with ld := v.ld.set q ld, ldN := v.ldN.set q n, ldOk := v.ldOk.set q ok, pdReq := v.pdReq.set q none
             pdMiss := v.pdMiss.set q 0, longHop := v.longHop.set q long }
  (s1.pubDelay q).when (long && !s.srv.longHop[q]) fun s => s.raise DS.RING_TOPOLOGY (2 + q.val)

/-- A Pdelay_Resp at port q whose SOF came `ago` taps before: D = ((t4 − t1) − turnaround) ÷ 2, by the port's own timestamps (R459, R466). -/
def State.pdResp (s : State) (q : Fin 2) (f : TimeFrame) (ago : Nat) : State :=
  if (s.port q).st ≠ .up then s
  else
    let p := s.police q 1 3 f.hdr
    if !p.1 then p.2
    else if f.version ≠ 2#4 ∨ f.twoStep = true then p.2.timeDrop
    else match s.srv.pdReq[q] with
      | some (id, t1) =>
        if id = f.seqId.toNat then p.2.delaySample q ((s.stamp (s.now - ago) - t1 - f.corr.toInt * 2 ^ 16) / 2) else p.2
      | none => p.2

/-- The delay of port q is no longer valid (R466). -/
def State.delayLost (s : State) (q : Fin 2) : State :=
  (s.updSrv fun v => { v with ldN := v.ldN.set q 0, ldOk := v.ldOk.set q false, pdReq := v.pdReq.set q none
                              pdMiss := v.pdMiss.set q 0, longHop := v.longHop.set q false }).pubDelay q

/-- A port that is not UP has no valid delay (R466). -/
def State.delaysFollow (s : State) : State :=
  let one := fun (s : State) (q : Fin 2) => if (s.port q).st ≠ .up ∧ s.srv.ldN[q] ≠ 0 then s.delayLost q else s
  one (one s 0) 1

/-- round(log2) of a time in µs, as seconds, for times below 1 s (logMessageInterval, R463). -/
def logInterval (us : Nat) : Int :=
  match (List.range 24).find? fun j => decide (10 ^ 12 ≤ us * us * 2 ^ (2 * j + 1)) with
  | some j => -(j : Int)
  | none => -24

/-- A TIME frame of this node on port q: messageType, lane of origin, header `h`, sequenceId, correctionField, the port identity a response answers;
originTimestamp is the SOF timestamp of that port for a Sync, else 0 (R459, R462, R463). -/
def State.ownTime (s : State) (h : Frame) (typ : Nat) (mizzen : Bool) (q : Nat) (dir : Bool) (id : Nat) (corr : Int) (ask : BitVec 64 × BitVec 16) : State :=
  let t := (s.egress q % (tbWrap : Int)).toNat
  let fr : TimeFrame :=
    { hdr := { h with dir := dir }, mizzen := mizzen, version := 2#4, twoStep := false
      ptpTs := s.flag F.TB_CTL_PTPTS, clockId := Config.uid, portNo := BitVec.ofNat 16 (q + 1)
      control := if typ = 0 then 0#8 else 5#8
      logInt := if typ = 0 then BitVec.ofInt 8 (logInterval (4 * s.fld F.LK_CFG_CYC)) else 0x7F#8
      dom := BitVec.ofNat 8 (if mizzen then s.fld F.PTP_CFG_DOM_Z else s.fld F.PTP_CFG_DOM_M)
      corr := BitVec.ofInt 64 corr, seqId := BitVec.ofNat 16 id
      sec := if typ = 0 then BitVec.ofNat 48 (t / nsSec) else 0#48
      ns := if typ = 0 then BitVec.ofNat 32 (t % nsSec / 2 ^ 32) else 0#32
      reqClock := ask.1, reqPort := ask.2 }
  s.updSrv fun v => { v with sent := v.sent ++ [(q, typ, fr)] }

/-- A number as n bytes, most significant first. -/
def netBytes : Nat → Nat → List Nat
  | 0, _ => []
  | n + 1, v => netBytes n (v / 256) ++ [v % 256]

/-- The 44 bytes of a TIME frame's PTP message, in network byte order (R461–R463): header, then originTimestamp, or requestingPortIdentity of a
response. The places of the fields are those of IEEE 1588-2019, which R461 names (log entry 29). -/
def timePayload (f : TimeFrame) (typ : Nat) : List Nat :=
  [typ % 16, 0x10 + f.version.toNat, 0, 44, f.dom.toNat, 0, b2n f.twoStep * 2, b2n f.ptpTs * 8] ++
  netBytes 8 f.corr.toNat ++ [0, 0, 0, 0] ++ netBytes 8 f.clockId.toNat ++ netBytes 2 f.portNo.toNat ++ netBytes 2 f.seqId.toNat ++
  [f.control.toNat, f.logInt.toNat] ++
  (if typ = 3 then netBytes 8 f.reqClock.toNat ++ netBytes 2 f.reqPort.toNat else netBytes 6 f.sec.toNat ++ netBytes 4 f.ns.toNat)

/-- The bytes of a TIME frame as it leaves: TYPE is the messageType with the domain slot in bit 4, LEN is 11 words (R434, R461, R462). -/
def timeBytes (f : TimeFrame) (typ : Nat) : List Nat :=
  frameBytes ((TxFrame.header ⟨1, typ + b2n f.mizzen * 16, f.hdr⟩).set 5 11) (timePayload f typ)

/-- The next sequenceId of a kind (R463). -/
def State.nextId (s : State) (k : Fin 3) : Nat × State :=
  (s.srv.seqIds[k], s.updSrv fun v => { v with seqIds := v.seqIds.set k ((v.seqIds[k] + 1) % 65536) })

/-- A Sync on the lanes, by an inserted node: the copies of one frame, each with its own origin time (R424, R431, R432, R463, R464). -/
def State.sendSync (s : State) (mizzen : Bool) : State :=
  if s.ring.inserted then
    let i := s.nextId (if mizzen then 1 else 0)
    let f := i.2.ownFrame 1 0 63 []
    s.lanesOut.foldl (fun s e => s.ownTime f.1.frame 0 mizzen e.1.val e.2 i.1 0 (0#64, 0#16)) f.2
  else s

/-- A Pdelay_Req on port q while it is UP; a second one without a response ends the delay's validity (R464, R466). -/
def State.askDelay (s : State) (q : Fin 2) : State :=
  if (s.port q).st ≠ .up then s
  else
    let miss := if s.srv.pdReq[q].isSome then s.srv.pdMiss[q] + 1 else 0
    let s1 := if 2 ≤ miss then s.delayLost q else s
    let i := s1.nextId 2
    let s2 := i.2.updSrv fun v => { v with pdReq := v.pdReq.set q (some (i.1, s.egress q.val)), pdMiss := v.pdMiss.set q miss }
    let f := s2.ownFrame 1 2 63 []
    f.2.ownTime f.1.frame 2 false q.val (decide (q = 0)) i.1 0 (0#64, 0#16)

/-- One request is answered: turnaround t3 − t2 in ns × 2^16, the identity of the port that asked (R462, R466). -/
def State.answerDelay (s : State) (e : PdAsk) : State :=
  if (s.port (Fin.ofNat 2 e.port)).st = .up then
    let f := s.ownFrame 1 3 63 []
    f.2.ownTime f.1.frame 3 false e.port (decide (e.port = 0)) e.id ((s.egress e.port - e.t2) / 2 ^ 16) (e.clock, e.portNo)
  else s

/-- The responses to the requests received (R464, R466). -/
def State.answerDelays (s : State) : State := s.srv.pdAsked.foldl State.answerDelay (s.updSrv fun v => { v with pdAsked := [] })

/-- The time frames of a ring cycle (R464, R475). -/
def State.timeCycle (s : State) : State :=
  let c := s.ring.cycle % 16
  let s0 := s.updSrv fun v => { v with sent := [] }
  if c % 4 = 0 then s0.when (decide (s.mrole = 2)) fun s => s.sendSync false
  else if c % 4 = 2 then s0.when (decide (s.zrole = 2) && s.srv.wasTrack) fun s => s.sendSync true
  else if c = 1 then (s0.askDelay 0).askDelay 1
  else if c = 3 then s0.answerDelays else s0

/-! ### Capture units (R460) -/

/-- Capture unit n records the time base. -/
def State.capture (s : State) (n : Nat) : State :=
  let b := 0x410 + 4 * n
  let new : Fld := ⟨R.TSC_STAT, 8 * n + 7, 8 * n + 7⟩
  let ovr : Fld := ⟨R.TSC_STAT, 8 * n + 6, 8 * n + 6⟩
  let s1 := (s.when (s.fld new == 1) fun s => s.setFld ovr 0 1).setFld new 0 1
  let s2 := (s1.putSig b (nat32 (s.tbSec % 2 ^ 32))).putSig (b + 1) (nat32 (s.tbSec / 2 ^ 32))
  (s2.putSig (b + 2) (nat32 s.tbNs)).putSig (b + 3) (s.sig (b + 3) + 1#32)

/-- Unit n captures an edge of this sense (R460, TSC_CFG). -/
def State.capOn (s : State) (n : Nat) (rising : Bool) : Bool :=
  let w := s.rd R.TSC_CFG
  let e := bitsOf w (8 * n + 6) (8 * n + 5)
  bitOf w (8 * n + 7) && (if rising then decide (e = 1 ∨ e = 3) else decide (e = 2 ∨ e = 3))

/-- The units that capture this edge of pin p: PINn names it (R460, TSC_CFG). -/
def State.capAt (s : State) (p : Nat) (rising : Bool) (n : Nat) : Bool :=
  s.capOn n rising && decide (bitsOf (s.rd R.TSC_CFG) (8 * n + 4) (8 * n) = p)

/-- TB_STAT as read (R491). -/
def State.tbStat (s : State) : Word :=
  let n := match s.srv.st with | .free => 0 | .acquire => 1 | .track => 2 | .hold => 3 | .revalidate => 4 | .freerun => 5 | .mizzen => 6
  setBitsOf (setBitsOf (setBitsOf (setBitsOf (s.rd R.TB_STAT) 31 29 n) 28 28 (b2n s.mzValid)) 27 27 (b2n (s.srv.st == .mizzen))) 26 26 (b2n (s.srv.st == .track))

end Sys2Proof.Machine
end

