-- ==== Sys2Proof/Machine/Signals.lean ====
section
/-! DEFINITION. Machine/Signals.lean: GPIO pins and reading and writing the signal plane by the engine, the host and the calendar (R28–R35, R514–R516, R520). -/

namespace Sys2Proof.Machine

/-! ### GPIO (R514, R515, R531) -/

/-- Function code of pin p. -/
def State.gpioFunc (s : State) (p : Nat) : Nat :=
  bitsOf (s.rd (R.GPIO_FUNC0 + p / 16)) (2 * (p % 16) + 1) (2 * (p % 16))

/-- The PSRAM region is mapped (R520). -/
def State.psMapped (s : State) : Bool := s.flag F.MEM_PSRAM_EN

/-- Pins of function MSEL, as a mask; GPIO31 is none of them while the PSRAM region is mapped (R514). -/
def State.mselMask (s : State) : Nat :=
  (List.range 32).foldl (fun a p => if s.gpioFunc p = 1 ∧ (p ≠ 31 ∨ s.psMapped = false) then a + 2 ^ p else a) 0

/-- The level pin p is driven to; none: not driven. The hardware select of a mapped PSRAM is low while a transaction runs on it. -/
def State.gpioDrive (s : State) (p : Nat) : Option Bool :=
  let out := (s.rd R.GPIO_OUT).toNat.testBit p
  if !s.clk.locked then (if p = 31 then some true else none)
  else if !s.clk.ready then none
  else if p = 31 && s.psMapped then
    some (match s.mem.busy with
      | some (.sread _ _, _) | some (.swrite, _) | some (.trace _ _, _) => false
      | some (.seq, _) => (match s.mem.seqOn with | some q => q.2.1 != 2 | none => true)
      | _ => true)
  else match s.gpioFunc p with
    | 0 => if (s.rd R.GPIO_DIR).toNat.testBit p then some out else none
    | 1 => some out
    | 2 => if out then none else some false
    | _ => none

/-- GPIO_OUT takes levels: bits of `mask` those of `v`; a change of an MSEL pin waits for the end of a running sequence (R531). -/
def State.gpioPut (s : State) (mask v : Nat) : State :=
  let old := (s.rd R.GPIO_OUT).toNat
  let hold := if s.mem.seqOn.isSome then s.mselMask &&& mask else 0
  let now := mask &&& (2 ^ 32 - 1 - hold)
  let w := BitVec.ofNat 32 ((old &&& (2 ^ 32 - 1 - now)) ||| (v &&& now))
  let s1 := (s.wr R.GPIO_OUT w).putSig 0x501 w
  if hold = 0 then s1
  else
    { s1 with gpio.held := s1.gpio.held ||| hold,
              gpio.heldVal := (s1.gpio.heldVal &&& (2 ^ 32 - 1 - hold)) ||| (v &&& hold) }

/-- A write of GPIO_OUT takes its place in the order of the sources, behind those of its rank (R489, R515). -/
def insGpio (e : Nat × Nat × Nat × Bool) : List (Nat × Nat × Nat × Bool) → List (Nat × Nat × Nat × Bool)
  | [] => [e]
  | x :: r => if e.1 < x.1 then e :: x :: r else x :: insGpio e r

/-- The levels after the writes of a cycle, by the levels before it (R515). -/
def gpioFold (l : List (Nat × Nat × Nat × Bool)) (v : Nat) : Nat :=
  l.foldl (fun v e =>
    let (_, mask, w, tog) := e
    (v &&& (2 ^ 32 - 1 - mask)) ||| ((if tog then v ^^^ mask else w) &&& mask)) v

/-- The levels asked of GPIO_OUT when the present cycle began: those that wait for a sequence to end among them. -/
def State.gpioAsked (s : State) : Nat :=
  ((s.before.rd R.GPIO_OUT).toNat &&& (2 ^ 32 - 1 - s.was.gpio.held)) ||| s.was.gpio.heldVal

/-- A write of GPIO_OUT by a source of some rank: bits of `mask` take those of `v`, or toggle; the writes of one cycle act in the order of their ranks
(R489, R515). -/
def State.gpioOut (s : State) (rank mask v : Nat) (tog : Bool := false) : State :=
  let l : List (Nat × Nat × Nat × Bool) := insGpio (rank, mask, v, tog) s.cyc.gpio
  ({ s with cyc.gpio := l }).gpioPut (l.foldl (fun (a : Nat) (e : Nat × Nat × Nat × Bool) => a ||| e.2.1) 0) (gpioFold l s.gpioAsked)

/-- A synchronised edge of pin p (R514). -/
def State.gpioEdge (s : State) (p : Fin 32) (level : Bool) : State :=
  if s.gpio.inp.testBit p.val = level then s
  else
    let i := if level then s.gpio.inp + 2 ^ p.val else s.gpio.inp - 2 ^ p.val
    let s1 : State := { s with gpio.inp := i, gpio.chg := s.gpio.chg.set p s.now }
    (s1.orFresh R.GPIO_EDGE (BitVec.ofNat 32 (2 ^ p.val))).putSig 0x500 (BitVec.ofNat 32 i)

/-! ### Who may write which signal (R28–R30, R136, R197–R198, R229, R278, R452, R490, R516) -/

/-- Offsets of a mast block a program or the host may write. -/
def mastOp (cmdSrc : Bool) (o : Nat) : Bool :=
  decide (0x200 ≤ o) || decide (0x060 ≤ o ∧ o ≤ 0x06A) || decide (o = 0x070) ||
  (decide (o = 0x080 ∨ o = 0x081) && !cmdSrc) || decide (0x082 ≤ o ∧ o ≤ 0x086) ||
  decide (0x098 ≤ o ∧ o ≤ 0x09C) || decide (o = 0x0C0) || decide (o = 0x0C4)

/-- Device signals a program or the host may write. -/
def devOp (id : Nat) : Bool := decide (id = 0x200) || decide (0x300 ≤ id ∧ id ≤ 0x308) || decide (id = 0x501 ∨ id = 0x502)

/-- Signals mapped to the PSRAM: M of R520. -/
def State.psWords (s : State) : Nat :=
  let z := 2 ^ s.fld F.MEM_PSRAM_SIZE * 1048576
  let n := (z - s.fld F.MEM_PSRAM_TRACE * 16384) / 4
  if n < 458752 then n else 458752

/-- What a signal is, to a reader or writer other than its hardware. -/
inductive SigKind where
  /-- On chip, writable or owned by hardware. -/
  | op | hw
  /-- Of a unit that is absent (R5). -/
  | absent
  /-- External and mapped, or not (R31). -/
  | ext | none_
  /-- Of a peer window: mirrored, or at node and ID (R449, R450). -/
  | mirror
  | peer (node target : Nat)
  deriving DecidableEq, Repr

/-- The kind of a signal. -/
def State.sigKind (s : State) (id : Nat) : SigKind :=
  if id < 0x1000 then (if devOp id then .op else .hw)
  else if id < 0x9000 then
    let m := (id - 0x1000) / 0x800
    if !s.hasMast m then .absent
    else if mastOp (s.fld F.HAL_CFG_SRC m == 1) ((id - 0x1000) % 0x800) then .op else .hw
  else if id < 0x10000 then .op
  else if id < 0x80000 then (if s.psMapped && decide (id - 0x10000 < s.psWords) then .ext else .none_)
  else if !s.variant.ring then .absent
  else
    let p := (id - 0x80000) / 0x8000
    let o := (id - 0x80000) % 0x8000
    if !s.pwinOn p || decide (0x10000 ≤ s.pwinTarget p o) then .none_
    else if s.mirrored p o then .mirror
    else .peer (s.pwin F.LK_PWIN_NODE p) (s.pwinTarget p o)

/-- The value of an on-chip or mirrored signal, those formed on reading among them. -/
def State.sigNow (s : State) (id : Nat) : Word :=
  if id = 0x407 then b2w s.mzValid
  else if id = 0x500 then BitVec.ofNat 32 s.gpio.inp
  else if id = 0x501 then s.rd R.GPIO_OUT
  else if id = 0x502 then 0#32
  else s.sig id

/-- What a read of an on-chip or mirrored signal returns: of one that hardware has updated in the present SPARCLK cycle, the value before that (R33);
of one of an absent unit, 0.0 (R5). -/
def State.sigRead (s : State) (id : Nat) : Word :=
  match s.sigKind id with
  | .absent => 0#32
  | .op => (match s.cyc.hwOld.find? fun e => e.1 == id with | some e => e.2 | none => s.sigNow id)
  | _ => s.before.sigNow id

/-- Hardware is about to update a signal that programs may write: what it is until then is noted (R33). -/
def State.noteHw (s : State) (id : Nat) : State :=
  if s.cyc.hwOld.any fun e => e.1 == id then s else { s with cyc.hwOld := (id, s.sigNow id) :: s.cyc.hwOld }

/-- Held changes are applied at the end of the sequence (R531). -/
def State.gpioRelease (s : State) : State :=
  if s.gpio.held = 0 then s
  else
    let s1 : State := { s.noteHw 0x501 with gpio.held := 0, gpio.heldVal := 0 }
    s1.gpioPut s.gpio.held s.gpio.heldVal

/-- A signal formed from its source is written where it has changed. -/
def State.putNew (s : State) (id : Nat) (w : Word) : State := if s.sig id = w then s else s.putSig id w

/-- The signals formed from their sources are written as a cycle begins: MZ_VALID and RING_NODES where they have changed, GPIO_IN_S always (R238, R452,
R490, R516). -/
def State.sigTick (s : State) : State :=
  let s1 := (s.putNew 0x407 (b2w s.mzValid)).putNew 0x309 (nat32 s.ring.nodes)
  if s1.clk.locked then (fireWatches s1 0x500 false (watchers 0x500 s1.regs)).trcWatch 0x500 else s1

/-! ### Publications and the ring cycle (R442–R448) -/

/-- The PUBLISH frames of a range (R445): up to 63 signals each. -/
def publishRange (fuel : Nat) (s : State) (id n : Nat) : State :=
  match fuel with
  | 0 => s
  | fuel + 1 =>
    if n = 0 then s
    else
      let k := if n < 63 then n else 63
      let s1 := s.sendOwn 2 0 63 (nat32 (id + (k - 1) * 2 ^ 20) :: (List.range k).map fun i => s.sigRead (id + i))
      publishRange fuel s1 (id + k) (n - k)

/-- The publications of a cycle (R445). -/
def State.publish (s : State) : State :=
  [0, 1].foldl (fun s n =>
    let w := s.rd (R.LK_PUB0 + n)
    if bitOf w 31 then publishRange 17 s (bitsOf w 15 0) (bitsOf w 25 16) else s) s

/-- A ring cycle begins (R442–R445, R448, R432, R450). -/
def State.cycleStart (s : State) : State :=
  let c := s.cycNow
  let add := s.bulkRate
  let dep := s.bulkDepth
  let fill := fun (n : Nat) => if dep < n + add then dep else n + add
  let s1 := s.updRing fun r =>
    { r with
      cycle := c, slotUsed := false, sent := [], stopSent := []
      wrapAge := if (s.port 0).wrap || (s.port 1).wrap then 0 else r.wrapAge + 1
      heard := (r.heard.map fun e => (e.1, e.2 + 1)).filter fun e => decide (e.2 ≤ 2)
      first := r.first.filter fun e => decide ((c + 65536 - e.2.2.2) % 65536 ≤ 2)
      polExp := Vector.replicate 64 0, polTime := Vector.replicate 64 0, polCyc := Vector.replicate 64 0
      bucket := r.bucket.map fill, tokens := fill r.tokens
      pubAge := r.pubAge.map (· + 1) }
  let s2 := if s1.ring.wrapped ∧ 2 ≤ s1.ring.wrapAge then s1.setWrapped false else s1
  let s3 := ((s2.sendOwn 0 0 63 [nat32 uid0, s2.wrapStatus]).when s2.ring.topo fun s => s.sendTopo).flushMsg
  let s4 := s3.publish
  let s5 := s4.serveBulk
  (s5.putSig 0x309 (nat32 s5.ring.nodes)).putSig 0x30A (nat32 c)

/-! ### Writing -/

/-- Outcome of a signal write: the state, whether the write was discarded so that a context's U is set (R291), whether it must wait for the write buffer (R35). -/
structure SigWr where
  st : State
  bad : Bool := false
  wait : Bool := false

/-- A write is discarded and reported (R30, R31, R35). -/
def State.sigBad (s : State) : SigWr := { st := s.raise DS.SIGNAL_ACCESS 0, bad := true }

/-- A writer of a higher rank has written the signal in the present cycle (R33, R308, R489). -/
def State.outranked (s : State) (rank id : Nat) : Bool := s.cyc.sigs.any fun e => e.1 == id && decide (rank < e.2)

/-- The write of a signal by a writer of some rank is noted; a read returns what it writes. -/
def State.noteSig (s : State) (rank id : Nat) : State :=
  { s with cyc.sigs := (id, rank) :: s.cyc.sigs.filter (fun e => e.1 != id), cyc.hwOld := s.cyc.hwOld.filter fun e => e.1 != id }

/-- An on-chip signal is written by a writer of some rank: one behind the writers of the cycle so far has its value replaced at once, and its
watches fire (R33, R238, R308, R489). -/
def State.putRank (s : State) (rank id : Nat) (w : Word) : State :=
  if s.outranked rank id then (fireWatches s id (decide (s.before.sig id ≠ w)) (watchers id s.regs)).trcWatch id
  else (s.noteSig rank id).putSig id w

/-- An OP signal of the device or of a mast takes a value, with what the write does beside (R195, R444, R516). -/
def State.opWrite (s : State) (rank id : Nat) (w : Word) : State :=
  if id = 0x308 then
    if 32 ≤ w.toNat ∧ w.toNat ≠ 63 then s.setFld F.LK_STAT_CFG_ERR 0 1
    else (s.putRank rank id w).post rank (.message w.toNat)
  else if id = 0x501 then s.gpioOut rank (2 ^ 32 - 1) w.toNat
  else if id = 0x502 then
    ((s.putSig id w).orFresh R.HOST_BELL (w &&& 0xFFFF#32)).setFld F.HOST_IFLG_BELL 0 1
  else
    let s1 := s.putRank rank id w
    if h : 0x1000 ≤ id ∧ id < 0x9000 ∧ (id - 0x1000) % 0x800 = 0x070 ∧ !s.variant.ring then
      s1.updCom ⟨(id - 0x1000) / 0x800, by omega⟩ fun c => { c with epsSw := if s.outranked rank id then c.epsSw else some w }
    else s1

/-- The latest value of a signal in the write buffer. -/
def bufVal (l : List (Nat × Word)) (id : Nat) : Option Word := ((l.filter fun e => decide (e.1 = id)).getLast?).map (·.2)

/-- A write takes its place among those of the present cycle, whose ranks are given (R287, R308). -/
def insBuf (rank : Nat) (e : Nat × Word) : List Nat → List (Nat × Word) → List (Nat × Word)
  | x :: rs, y :: l => if rank < x then e :: y :: l else y :: insBuf rank e rs l
  | _, l => l ++ [e]

/-- A write enters the write buffer, before those that writers of a higher rank have made in the same cycle: the last entries, of the given ranks
(R35, R287, R308). -/
def bufPut (ranks : List Nat) (rank : Nat) (e : Nat × Word) (l : List (Nat × Word)) : List (Nat × Word) :=
  let n := min ranks.length l.length
  l.take (l.length - n) ++ insBuf rank e (ranks.drop (ranks.length - n)) (l.drop (l.length - n))

/-- A rank takes its place among others, behind its equals. -/
def insRank (rank : Nat) : List Nat → List Nat
  | [] => [rank]
  | x :: r => if rank < x then rank :: x :: r else x :: insRank rank r

/-- A write of some rank enters the write buffer (R35, R308). -/
def State.bufAdd (s : State) (rank id : Nat) (w : Word) : State :=
  { s with eng.wbuf := bufPut s.cyc.bufd rank (id, w) s.eng.wbuf, cyc.bufd := insRank rank s.cyc.bufd }

/-- A write by a context, the host or the calendar, with its rank (R30–R35, R308, R489). -/
def State.writeSig (s : State) (rank id : Nat) (w : Word) : SigWr :=
  match s.sigKind id with
  | .op => { st := s.opWrite rank id w }
  | .hw | .none_ | .mirror => s.sigBad
  | .absent => { st := s.raise DS.ABSENT_UNIT 0 }
  | .ext =>
    -- one whose higher-ranked successor has left the buffer already changes nothing (R308)
    if s.outranked rank id && (bufVal s.eng.wbuf id).isNone then { st := s }
    else if s.eng.wbuf.length < 16 then { st := (s.when (!s.outranked rank id) fun s => s.noteSig rank id).bufAdd rank id w }
    else { st := s, wait := true }
  | .peer node t => { st := s.post rank (.bulk 2 node [BitVec.ofNat 32 t, w]) }

/-! ### Reading -/

/-- Outcome of a signal read: a value, or a wait for the memory port or the ring. -/
structure SigRd where
  st : State
  val : Word := 0#32
  wait : Bool := false
  absent : Bool := false

/-- The tag word of a peer read: its number modulo 2^25, and the reader (R247, R435; log entry 96). -/
def peerTag (no who : Nat) : Word := nat32 (no % 2 ^ 25 * 2 ^ 7 + who)

/-- The rank of a reader in the order of R308: context `who` by its lane, the host port as 64 before them. -/
def State.readRank (s : State) (who : Nat) : Nat := if h : who < 64 then s.laneRank ⟨who, h⟩ else 0

/-- The next peer read of context `who`, or of the host port as 64, is numbered: its number. -/
def State.nextReq (s : State) (who : Nat) : Nat × State :=
  if h : who < 64 then
    let n := (s.ctx ⟨who, h⟩).reqNo + 1
    (n, s.updC ⟨who, h⟩ fun x => { x with reqNo := n })
  else (s.host.reqNo + 1, { s with host.reqNo := s.host.reqNo + 1 })

/-- A read by context `who`, or by the host port as 64 (R31–R35, R246). -/
def State.readSig (s : State) (who id : Nat) : SigRd :=
  match s.sigKind id with
  | .op | .hw | .mirror => { st := s, val := s.sigRead id }
  | .none_ => { st := s }
  | .absent => { st := s, absent := true }
  | .ext =>
    match bufVal s.eng.wbuf id with
    | some v => { st := s, val := v }
    | none => { st := { s with mem.reads := s.mem.reads ++ [(who, id)] }, wait := true }
  | .peer node t => let q := s.nextReq who; { st := q.2.post (s.readRank who) (.bulk 0 node [peerTag q.1 who, BitVec.ofNat 32 t]), wait := true }

/-- A signal whose write WSIG may name: on chip, or a mirrored peer signal (R238). -/
def State.watchable (s : State) (id : Nat) : Bool :=
  decide (id < 0x10000) || (s.sigKind id == .mirror)

end Sys2Proof.Machine
end

