-- ==== Sys2Proof/Machine/Cells.lean ====
section
/-! DEFINITION. Machine/Cells.lean: the compensator cells, test injection and the crow's nest (R250–R264). -/

namespace Sys2Proof.Machine

/-! ### The crow's nest (R262–R264) -/

/-- Capture begins (R264). -/
def State.trcStart (s : State) : State := { s with eng.trcTrig := true, eng.trcRun := !s.eng.trcFull }

/-- A start condition of code `cond` is met (R264). -/
def State.trcCond (s : State) (cond : Nat) : State :=
  if s.flag F.TRC_CTL_EN && s.fld F.TRC_TRIG_COND == cond && !s.eng.trcTrig then s.trcStart else s

/-- TRC_CTL takes a word (R264). -/
def State.trcCtl (s : State) (w : Word) : State :=
  let was := s.flag F.TRC_CTL_EN
  let s1 := s.wr R.TRC_CTL w
  if !bitOf w 31 then { s1 with eng.trcRun := false, cyc.trc := [] }
  else if was then s1
  else
    let s2 := (List.range 1024).foldl (fun s i => s.putSig (0xC00 + i) 0#32) s1
    { s2 with cyc.trc := [], eng.trcRun := false, eng.trcFull := false, eng.trcTrig := false, eng.trcCount := 0,
              mem.trPos := 0, mem.trWrapped := false }.trcCond 0

/-- Records the buffer or the trace region holds (R263, R521). -/
def State.trcRoom (s : State) : Nat :=
  if s.flag F.TRC_CTL_DEST then (if s.psMapped then 1024 * s.fld F.MEM_PSRAM_TRACE else 0) else 256

/-- The words of a record (R262). -/
def trcWords (typ ctx tag ns : Nat) (a b : Word) : List Word :=
  [nat32 (typ * 2 ^ 28 + ctx * 2 ^ 22 + tag % 2 ^ 22), nat32 ns, a, b]

/-- Put four words into consecutive signals. -/
def putFrom (s : State) (id : Nat) : List Word → State
  | [] => s
  | w :: r => putFrom (s.putSig id w) (id + 1) r

/-- A record by rank among others: behind those of its rank. -/
def insTrc (e : TrcRec) : List TrcRec → List TrcRec
  | [] => [e]
  | x :: r => if x.rank ≤ e.rank then x :: insTrc e r else e :: x :: r

/-- A record of the present cycle stands where it belongs. -/
def State.trcPut (s : State) (e : TrcRec) : State :=
  if e.dest then { s with mem.traces := s.mem.traces.map fun x => if x.1 = e.pos then (e.pos, e.ws) else x }
  else { s with sigs := (e.ws.mapIdx fun i w => (0xC00 + 4 * e.pos + i, w)).foldl (fun l x => spSet (sigReset x.1) l x.1 x.2) s.sigs }

/-- The records of the present cycle change places until they stand in the order of `l`, which holds them (R262). -/
def State.trcOrder (s : State) (l : List TrcRec) : State :=
  let r := (s.cyc.trc.zip l).map fun e => { e.2 with dest := e.1.dest, pos := e.1.pos }
  r.foldl (fun s e => s.trcPut e) { s with cyc.trc := r }

/-- The record `e` joins those of the present cycle: at a place of its own, or, lost, in place of one of a higher rank (R262, R263). -/
def State.trcJoin (s : State) (e : TrcRec) (lost : Bool) : State :=
  let l := insTrc e s.cyc.trc
  let s1 : State := if lost then s else { s with cyc.trc := s.cyc.trc ++ [e] }
  if s.cyc.trc.any fun x => decide (e.rank < x.rank) then s1.trcOrder l else s1

/-- A trace record is offered (R262, R263); those of one SPARCLK cycle stand in the order of R260. -/
def State.trcRecord (s : State) (typ ctx tag : Nat) (a b : Word) : State :=
  let rank := if typ = 4 then 8 else s.cellRank (Fin.ofNat 64 ctx)
  if s.flag F.TRC_CTL_EN && s.eng.trcTrig && (s.fld F.TRC_CTL_SRC).testBit (typ - 1) then
    let room := s.trcRoom
    let ws := trcWords typ ctx tag s.tbNs a b
    if !s.eng.trcRun || room = 0 then
      if s.eng.trcFull || room = 0 then
        (s.bump F.TRC_STAT_LOST 0).trcJoin { rank := rank, typ := typ, dest := false, pos := 0, ws := ws } true
      else s
    else
      let r := s.eng.trcCount % room
      let s1 : State := { s with eng.trcCount := s.eng.trcCount + 1 }
      let s2 :=
        if s.flag F.TRC_CTL_DEST then
          { s1 with mem.traces := s1.mem.traces ++ [(r, ws)], mem.trPos := (r + 1) % room,
                    mem.trWrapped := s1.mem.trWrapped || decide (r + 1 = room) }
        else putFrom s1 (0xC00 + 4 * r) ws
      let s3 := if !s.flag F.TRC_CTL_WRAP && decide (r + 1 = room) then { s2 with eng.trcFull := true, eng.trcRun := false } else s2
      s3.trcJoin { rank := rank, typ := typ, dest := s.flag F.TRC_CTL_DEST, pos := r, ws := ws } false
  else s

/-- TRC_STAT as read, RC field from the store. -/
def State.trcStat (s : State) : Word :=
  (s.rd R.TRC_STAT &&& maskOf 27 16) |||
    nat32 (b2n s.eng.trcRun * 2 ^ 31 + b2n s.eng.trcFull * 2 ^ 30 + b2n s.eng.trcTrig * 2 ^ 29 + satNat 65535 s.eng.trcCount)

/-! ### Cell words (R250, R251) -/

/-- Word k of cell n. -/
def State.cw (s : State) (n k : Nat) : Word := spGet 0#32 s.eng.cells (16 * n + k)
/-- Set word k of cell n. -/
def State.setCw (s : State) (n k : Nat) (w : Word) : State :=
  s.updEng fun e => { e with cells := spSet 0#32 e.cells (16 * n + k) w }
/-- Set several words of cell n. -/
def State.setCws (s : State) (n : Nat) : List (Nat × Word) → State
  | [] => s
  | (k, w) :: r => (s.setCw n k w).setCws n r

def State.cellForm (s : State) (n : Nat) : Nat := bitsOf (s.cw n 0) 1 0
def State.cellClosed (s : State) (n : Nat) : Bool := bitOf (s.cw n 0) 31
def State.cellMan (s : State) (n : Nat) : Bool := bitOf (s.cw n 0) 30
def State.cellRole (s : State) (n : Nat) : Nat := bitsOf (s.cw n 0) 29 28

/-- The latest input e_l (R258). -/
def State.cellLast (s : State) (n : Nat) : Word :=
  if !s.eng.seen.contains n then 0#32
  else match s.cellForm n with
    | 0 => spGet 0#32 s.eng.lastIn n
    | 1 => s.cw n 13
    | _ => s.cw n 11

/-- An input reaches the input history (R255). -/
def State.cellHist (s : State) (n : Nat) (e : Word) : State :=
  let ws : List (Nat × Word) := match s.cellForm n with
    | 0 => []
    | 1 => [(13, e)]
    | 2 => [(12, s.cw n 11), (11, e)]
    | _ => [(13, s.cw n 12), (12, s.cw n 11), (11, e)]
  (s.setCws n ws).updEng fun x =>
    { x with seen := if x.seen.contains n then x.seen else n :: x.seen, lastIn := spSet 0#32 x.lastIn n e }

/-- The words of a preset from the output u and the input e_l, and the intermediate results (R258). -/
def State.presetWords (s : State) (n : Nat) (u el : Word) : List (Nat × Word) × List Word :=
  let p := fMul (s.cw n 1) el
  let i := fSub u p
  match s.cellForm n with
  | 0 => ([(11, i)], [p, i])
  | 1 => ([(12, 0#32), (13, el), (11, i)], [p, i])
  | 2 => ([(13, u), (11, el), (12, el)], [])
  | _ => ([(14, u), (15, u), (11, el), (12, el), (13, el)], [])

/-- What a step in AUTO yields: the words changed, the output, whether the clamp changed it, the intermediate results. -/
structure CellOut where
  ws : List (Nat × Word)
  u : Word
  lim : Bool
  mid : List Word

/-- The step procedure of R252 on the words `w`, with the input e and what is added to u before the clamp. -/
def cellAuto (cfg : Word) (w : Nat → Word) (e : Word) (inj : Option Word) : CellOut :=
  let lo := fCanon (w 8)
  let hi := fCanon (w 9)
  let lim := fLimits lo hi
  let fin (u : Word) : Word × Bool :=
    let v := fClamp u lo hi
    (v, decide (v ≠ u))
  let add (u : Word) : Word := match inj with | some d => fAdd u d | none => u
  let form := bitsOf cfg 1 0
  if form < 2 then
    let p := fMul (w 1) e
    let d1 := fMul (w 4) (w 12)
    let d2 := fSub fOne (w 4)
    let d3 := fMul d2 (w 3)
    let d4 := fSub e (w 13)
    let d5 := fMul d3 d4
    let d6 := fAdd d1 d5
    let d := if form = 1 then d6 else fZero
    let ki := fMul (w 2) e
    let i := fAdd (w 11) ki
    let pi := fAdd p i
    let u := fAdd pi d
    let cond := bitsOf cfg 19 18 = 1 && ((fGt u lim.2 && fGt e fZero) || (fLt u lim.1 && fLt e fZero))
    let i2 := if cond then w 11 else i
    let pi2 := fAdd p i2
    let u2 := if cond then fAdd pi2 d else u
    let i3 := if bitsOf cfg 19 18 = 0 then fClamp i2 lo hi else i2
    let u3 := add u2
    let r := fin u3
    { ws := (if form = 1 then [(12, d), (13, e)] else []) ++ [(11, i3), (10, r.1)], u := r.1, lim := r.2,
      mid := (if form = 1 then [d1, d2, d3, d4, d5, d6] else []) ++ [p, ki, i, pi, u, pi2, u2, i3, u3, r.1] }
  else if form = 2 then
    let t1 := fMul (w 1) e
    let t2 := fMul (w 2) (w 11)
    let t3 := fMul (w 3) (w 12)
    let t4 := fMul (w 4) (w 10)
    let t5 := fMul (w 5) (w 13)
    let a := fAdd t1 t2
    let b := fAdd a t3
    let c := fSub b t4
    let u := fSub c t5
    let u3 := add u
    let r := fin u3
    { ws := [(13, w 10), (12, w 11), (11, e), (10, r.1)], u := r.1, lim := r.2, mid := [t1, t2, t3, t4, t5, a, b, c, u, u3, r.1] }
  else
    let t1 := fMul (w 1) e
    let t2 := fMul (w 2) (w 11)
    let t3 := fMul (w 3) (w 12)
    let t4 := fMul (w 4) (w 13)
    let t5 := fMul (w 5) (w 10)
    let t6 := fMul (w 6) (w 14)
    let t7 := fMul (w 7) (w 15)
    let a := fAdd t1 t2
    let b := fAdd a t3
    let c := fAdd b t4
    let d := fSub c t5
    let f := fSub d t6
    let u := fSub f t7
    let u3 := add u
    let r := fin u3
    { ws := [(15, w 14), (14, w 10), (13, w 12), (12, w 11), (11, e), (10, r.1)], u := r.1, lim := r.2,
      mid := [t1, t2, t3, t4, t5, t6, t7, a, b, c, d, f, u, u3, r.1] }

/-- The outcome of a cell operation for its context: the state, vd, L where it is set, U, a source to raise. -/
structure CellRes where
  st : State
  vd : Word
  l : Option Bool := none
  u : Bool := false

/-- A step with a value that is not finite (R253). -/
def State.cellNan (s : State) (n : Nat) (l : Option Bool) : CellRes :=
  { st := s.raise DS.CELL_NAN 0, vd := s.cw n 10, l := l, u := true }

/-! ### Test injection (R261) -/

/-- The amplitude A. -/
def State.tinjAmp (s : State) : Word := let a := s.sig 0x200; if fFinite a then a else fZero

/-- One chip of the PRBS-9 x^9 + x^5 + 1: the bit put out and the register after it. -/
def prbs9 (r : Nat) : Bool × Nat :=
  let b := r.testBit 8 != r.testBit 4
  (r.testBit 8, r * 2 % 512 + b2n b)

/-- d(n) (R261). -/
def State.tinjD (s : State) : Word :=
  let a := s.tinjAmp
  match s.fld F.TINJ_CFG_WAVE with
  | 0 =>
    let ph := s.fld F.TINJ_CFG_FREQ * s.eng.tinjN % 65536
    let t : Int := if ph < 32768 then ph else (ph : Int) - 65536
    fMul a (fOfFix (sinFix (2 * pi100 * t / 65536)))
  | 1 => if (prbs9 s.eng.tinjReg).1 then a else fNeg a
  | _ => a

/-- The cell under test. -/
def State.tinjOn (s : State) (n : Nat) : Bool := s.flag F.TINJ_CFG_EN && decide (s.fld F.TINJ_CFG_CELL = n)

/-- A step of the cell under test is counted, and its record written (R261, R262). -/
def State.tinjCount (s : State) (ctx : Nat) (e u : Word) : State :=
  let s1 := s.trcRecord 1 ctx s.eng.tinjN e u
  s1.updEng fun x => { x with tinjN := x.tinjN + 1, tinjReg := (prbs9 x.tinjReg).2 }

/-! ### Cell operations (R252–R259) -/

/-- Mode STEP (R252, R253, R255, R257, R258), without the count of R261: the result, the input after injection and the output. -/
def State.cellStepCore (s : State) (n : Nat) (e0 : Word) : CellRes × Word :=
  if !s.cellClosed n || s.cellMan n then
    if fFinite e0 then ({ st := s.cellHist n e0, vd := s.cw n 10, l := some false }, e0) else (s.cellNan n none, e0)
  else
    let inj := s.tinjOn n
    let outp := s.flag F.TINJ_CFG_POINT
    let e := if inj && !outp then fAdd e0 s.tinjD else e0
    let od := if inj && outp then some s.tinjD else none
    let pre := if s.eng.preset.contains n then s.presetWords n (s.cw n 10) (s.cellLast n) else ([], [])
    let s1 := s.setCws n pre.1
    let r := cellAuto (s1.cw n 0) (s1.cw n) e od
    if fFinite e && pre.2.all fFinite && r.mid.all fFinite then
      let s2 := (s1.setCws n r.ws).updEng fun x =>
        { x with seen := if x.seen.contains n then x.seen else n :: x.seen, lastIn := spSet 0#32 x.lastIn n e,
                 preset := x.preset.filter (· != n) }
      ({ st := s2, vd := r.u, l := some r.lim }, e)
    else (s.cellNan n none, e)

/-- Mode STEP. -/
def State.cellStep (s : State) (ctx n : Nat) (e : Word) : CellRes :=
  let r := s.cellStepCore n e
  if s.tinjOn n then { r.1 with st := r.1.st.tinjCount ctx r.2 r.1.vd } else r.1

/-- Mode HOLD (R253, R259). -/
def State.cellHold (s : State) (ctx n : Nat) (e : Word) : CellRes :=
  let r : CellRes := if fFinite e then { st := s.cellHist n e, vd := s.cw n 10, l := some false } else s.cellNan n (some false)
  if s.tinjOn n then { r with st := r.st.tinjCount ctx e r.vd } else r

/-- Mode PRESET (R259): in every guard state, and whatever the value: R253 speaks of steps and of HOLD (DEDUCED, log entry 46). -/
def State.cellPreset (s : State) (n : Nat) (v : Word) : CellRes :=
  { st := (s.setCw n 10 v).setCws n (s.presetWords n v (s.cellLast n)).1, vd := v, l := some false }

/-- Mode SETMAN (R259): whatever the value (DEDUCED, log entry 46). -/
def State.cellSetman (s : State) (n : Nat) (v : Word) : CellRes :=
  { st := (s.setCw n 10 v).setCw n 0 (s.cw n 0 ||| 0x40000000#32), vd := v, l := some false }

/-- AUTO: MAN := 0, the preset at the next step (R258). -/
def State.cellAutoCmd (s : State) (n : Nat) : State :=
  (s.setCw n 0 (s.cw n 0 &&& 0xBFFFFFFF#32)).updEng fun x => { x with preset := if x.preset.contains n then x.preset else n :: x.preset }

/-- OPEN (R254). -/
def State.cellOpen (s : State) (n : Nat) : State := s.setCw n 0 (s.cw n 0 &&& 0x7FFFFFFF#32)

/-- A refused write or CLOSE of a cell (R254). -/
def State.cellRefuse (s : State) : State := (s.setFld F.ENG_STAT_CELL_REF 0 1).raise DS.CELL_GUARD 0

/-- The coefficients let the cell close (R256). -/
def State.cellCloses (s : State) (n : Nat) : Bool :=
  ([1, 2, 3, 4, 5, 6, 7, 8, 9].all fun k => fFinite (s.cw n k)) && fLe (s.cw n 8) (s.cw n 9) &&
    (s.cellForm n != 1 || (fLe fZero (s.cw n 4) && fLt (s.cw n 4) fOne))

/-- CLOSE: whether it is accepted (R256). -/
def State.cellClose (s : State) (n : Nat) : State × Bool :=
  if s.cellCloses n then
    ((s.setCw n 0 (s.cw n 0 ||| 0x80000000#32)).updEng fun x =>
      { x with preset := if x.preset.contains n then x.preset else n :: x.preset }, true)
  else (s.cellRefuse, false)

/-- MANUAL (R257). -/
def State.cellManual (s : State) (n : Nat) : State := s.setCw n 0 (s.cw n 0 ||| 0x40000000#32)

/-- CLEAR: only while OPEN (R250, CELL_CMD). -/
def State.cellClear (s : State) (n : Nat) : State :=
  if s.cellClosed n then s.cellRefuse
  else (s.setCws n ((List.range 6).map fun i => (10 + i, 0#32))).updEng fun x =>
    { x with seen := x.seen.filter (· != n), lastIn := spSet 0#32 x.lastIn n 0#32 }

/-- The guard lets a host write of word k of cell n through (R254). -/
def State.cellTakes (s : State) (n k : Nat) : Bool :=
  !s.cellClosed n || (decide (8 ≤ k ∧ k ≤ 10) && (decide (k ≠ 10) || s.cellMan n))

/-- A host write of word k of cell n, its role already checked (R251, R254). -/
def State.cellWrite (s : State) (n k : Nat) (w : Word) : State :=
  let old := s.cw n 0
  if !s.cellTakes n k then s.cellRefuse
  else if k = 0 then
      let role := if bitsOf w 29 28 = 3 then bitsOf old 29 28 else bitsOf w 29 28
      let aw := if 2 ≤ bitsOf w 19 18 then bitsOf old 19 18 else bitsOf w 19 18
      let s1 := s.when (bitsOf w 29 28 == 3 || decide (2 ≤ bitsOf w 19 18)) fun s => s.setFld F.ENG_STAT_CFG_ERR 0 1
      s1.setCw n 0 (setBitsOf (setBitsOf (setBitsOf old 29 28 role) 19 18 aw) 1 0 (bitsOf w 1 0))
  else s.setCw n k w

/-! ### Operations on one cell in one cycle (R260) -/

/-- A mode of CELL and CELLX (R309). -/
def State.cellDo (s : State) (ctx n mode : Nat) (e : Word) : CellRes :=
  let u1 := fun (t : State) (u : Bool) => ({ st := t, vd := s.cw n 10, l := some false, u := u } : CellRes)
  match mode with
  | 0 => s.cellStep ctx n e
  | 1 => s.cellHold ctx n e
  | 2 => s.cellPreset n e
  | 3 => s.cellSetman n e
  | 4 => u1 (s.cellAutoCmd n) false
  | 5 => u1 (s.cellOpen n) false
  | 6 => u1 (s.cellClose n).1 (!(s.cellClose n).2)
  | _ => u1 s false

/-- A CELL_CMD on cell n (R250, R254–R258). -/
def State.cellCmd (s : State) (n k : Nat) : State :=
  match k with
  | 1 => s.cellOpen n
  | 2 => (s.cellClose n).1
  | 3 => s.cellAutoCmd n
  | 4 => s.cellManual n
  | 5 => s.cellClear n
  | _ => s

/-- An operation on a cell by rank among others: behind those of its rank. -/
def insCell (r n : Nat) (o : CellOp) : List (Nat × Nat × CellOp) → List (Nat × Nat × CellOp)
  | [] => [(r, n, o)]
  | x :: l => if x.1 ≤ r then x :: insCell r n o l else (r, n, o) :: x :: l

/-- The operations of the present cycle on cell n note one more. -/
def State.cellNote (s : State) (r n : Nat) (o : CellOp) : State := { s with cyc.cells := insCell r n o s.cyc.cells }

/-- An operation of this rank on cell n comes after one it should precede (R260). -/
def State.cellLate (s : State) (r n : Nat) : Bool := s.cyc.cells.any fun e => decide (e.2.1 = n) && decide (r < e.1)

/-- Cell n as the present cycle found it. -/
def State.cellBack (s : State) (n : Nat) : State :=
  let was := s.was.eng
  let put := fun (l m : List Nat) => if m.contains n then (if l.contains n then l else n :: l) else l.filter (· != n)
  let s1 := s.setCws n ((List.range 16).map fun k => (k, spGet 0#32 was.cells (16 * n + k)))
  s1.updEng fun x =>
    { x with
      seen := put x.seen was.seen, preset := put x.preset was.preset, lastIn := spSet 0#32 x.lastIn n (spGet 0#32 was.lastIn n)
      tinjN := if s.tinjOn n then was.tinjN else x.tinjN, tinjReg := if s.tinjOn n then was.tinjReg else x.tinjReg }

end Sys2Proof.Machine
end

