-- ==== Sys2Proof/Machine/Engine.lean ====
section
/-! DEFINITION. Machine/Engine.lean: contexts, lanes, activations, dispatch, waiting, debug, and the issue of an instruction (R231–R249, R265–R277, R281–R289). -/

namespace Sys2Proof.Machine

/-! ### A context's settings -/

/-- A number as a context. -/
def asCtx (n : Nat) : Option (Fin 64) := if h : n < 64 then some ⟨n, h⟩ else none

/-- Priority class in force (R240, R243). -/
def State.ctxClass (s : State) (c : Fin 64) : Nat := if (s.ctx c).demoted then 3 else s.fld F.CTX_CFG_CLASS c

/-- Lane n is in service. -/
def State.inService (s : State) (n : Fin 4) : Bool := decide (n.val < s.variant.lanes) && (s.lane n).act

/-- A lane is out because of a fault (R266). -/
def State.someFault (s : State) : Bool := (allFin 4).any fun n => (s.lane n).flt

/-- Lanes context c may run on (CTX_CFG.LANES, R266); one that is leaving service runs only the context whose activation it waits for (R267). -/
def State.mayRun (s : State) (c : Fin 64) (n : Fin 4) : Bool :=
  let l := s.fld F.CTX_CFG_LANES c
  let l := if l = 0 then 15 else l
  s.inService n && (match (s.lane n).leaving with | some k => decide (k = c.val) | none => true) && (l.testBit n.val || (s.flag F.ENG_CTL_MIGR && s.someFault))

/-- The mast whose LCTX or BCTX is the context, lowest first, for the records of R364. -/
def State.ctxMast (s : State) (c : Nat) : Option Nat :=
  ((s.mastList.find? fun (m : Fin 16) =>
    (decide (s.efld F.LOOP_CFG_LEN m = 1) && decide (s.efld F.LOOP_CFG_LCTX m = c)) ||
    (decide (s.efld F.LOOP_CFG_BEN m = 1) && decide (s.efld F.LOOP_CFG_BCTX m = c)))).map (·.val)

/-- Context c is the loop context in force of a mast whose outputs are enabled (R75, R277). -/
def State.loopLive (s : State) (c : Nat) : Bool :=
  s.mastList.any fun m => decide (s.efld F.LOOP_CFG_LEN m = 1) && decide (s.efld F.LOOP_CFG_LCTX m = c) && s.outputsOn m

/-! ### Activations (R233–R237) -/

/-- The earliest pending kind in the order of R235. -/
def firstTrig : List Trig → Option Trig
  | [] => none
  | t :: r => match firstTrig r with
    | some u => if u.kind < t.kind then some u else some t
    | none => some t

/-- Context c leaves its lane. -/
def State.offLane (s : State) (c : Fin 64) : State :=
  match (s.ctx c).lane with
  | none => s
  | some n => (s.updL n fun l => { l with ctx := none }).updC c fun x => { x with lane := none }

/-- The activation of context c is over: a lane whose LANE_EN bit is 0 and which waited for it leaves service (R267). -/
def State.laneLeave (s : State) (c : Fin 64) : State :=
  (allFin 4).foldl (fun s n =>
    if (s.lane n).leaving = some c.val then s.updL n fun l => { l with act := false, leaving := none } else s) s

/-- The activation of context c is over: LAST_ISS and the ACTIVATION record (R262). -/
def State.closeAct (s : State) (c : Fin 64) : State :=
  let x := s.ctx c
  if !x.begun then s
  else
    let s1 := s.updC c fun x => { x with lastIss := satNat 32767 x.issues, begun := false }
    if s.flag F.TRC_CTL_CTX_ALL || decide (s.fld F.TRC_CTL_CTX = c.val) then
      let kind := match x.act with | some t => t.kind | none => 0
      s1.trcRecord 3 c (kind + 16 * x.ran.val) (nat32 x.issues) (nat32 (x.runWait * 1000000000 / tSec))
    else s1

/-- The next pending trigger starts an activation at once, or the context waits (R236, R237). -/
def State.nextAct (s : State) (c : Fin 64) : State :=
  let x := s.ctx c
  match firstTrig x.pend with
  | some t => s.updC c fun x =>
      { x with st := .runnable, act := some t, pend := x.pend.filter (fun u => u.kind != t.kind), begun := false, since := s.now,
               issues := 0, budgetHit := false, demoted := false, noted := false, runWait := 0, wait := none }
  | none => s.updC c fun x => { x with st := .waiting, act := none, wait := none, demoted := false }

/-- The activation ends (R237); one that ends under STEP halts before the first instruction of the next (R274, R275, log entry 43). -/
def State.endAct (s : State) (c : Fin 64) : State :=
  let s1 := (s.closeAct c).offLane c
  if (s.ctx c).disableReq then
    (s1.updC c fun x => { x with st := .disabled, act := none, pend := [], wait := none, disableReq := false }).laneLeave c
  else ((s1.nextAct c).updC c fun x => { x with haltReq := x.haltReq || x.stepping, stepping := false }).laneLeave c

/-- Context c enters DISABLED (R233, R234). -/
def State.ctxOff (s : State) (c : Fin 64) : State :=
  (((s.closeAct c).offLane c).updC c fun x =>
    { x with st := .disabled, act := none, pend := [], wait := none, disableReq := false, haltReq := false, stepping := false, bkSkip := [] }).laneLeave c

/-- ENG_FAULT takes a record where none is held (R269). -/
def State.engFault (s : State) (cause : Nat) (c : Fin 64) (lane pc : Nat) : State :=
  if s.flag F.ENG_FAULT_VALID then s
  else (s.wr R.ENG_FAULT (nat32 (cause * 2 ^ 27 + c.val * 2 ^ 21 + lane * 2 ^ 19 + pc % 2 ^ 18))).orFresh R.ENG_FAULT 0x80000000#32

/-- An exception of context c (R268, R269). -/
def State.exception (s : State) (c : Fin 64) (cause pc : Nat) : State :=
  let x := s.ctx c
  let s1 := (s.engFault cause c x.ran.val pc).raise DS.ENG_EXCEPTION 0 (s.ctxMast c)
  (((s1.closeAct c).offLane c).updC c fun x =>
    { x with st := .faulted, act := none, pend := [], wait := none, haltReq := false, stepping := false, disableReq := false }).laneLeave c

/-- Context c halts (R274–R276). -/
def State.ctxHalts (s : State) (c : Fin 64) : State :=
  (s.offLane c).updC c fun x => { x with st := .halted, haltReq := false, stepping := false, wait := none }

/-! ### Debug (R273–R277) -/

def State.dbgEn (s : State) : Bool := s.flag F.DBG_CTL_EN

/-- Context c may be halted (R277). -/
def State.mayHalt (s : State) (c : Fin 64) : Bool := s.flag F.DBG_CTL_LIVE || !s.loopLive c

/-- A command is ignored (R234). -/
def State.ctxIgnore (s : State) : State := s.setFld F.ENG_STAT_CFG_ERR 0 1

/-- A halt asked for earlier would take effect: it is ignored where the context has become one that cannot be halted (R277, log entry 97). -/
def State.haltNow (s : State) (c : Fin 64) (go : State → State) : State :=
  if s.mayHalt c then s.ctxHalts c else go ((s.updC c fun x => { x with haltReq := false }).ctxIgnore)

/-- A blocked context's wait is over (R233, R234, R274, R275). -/
def State.unblock (s : State) (c : Fin 64) : State :=
  let run := fun (s : State) => s.updC c fun x => { x with st := .runnable, wait := none, since := s.now }
  if (s.ctx c).disableReq then s.ctxOff c
  else if (s.ctx c).haltReq then s.haltNow c run
  else run s

/-- Context c blocks and leaves its lane (R246, R286). -/
def State.block (s : State) (c : Fin 64) (w : Wait) : State :=
  (s.offLane c).updC c fun x => { x with st := .blocked, wait := some w }

/-! ### Dispatch (R240–R242) -/

/-- What orders a runnable context in its class (R241): in CRITICAL and HIGH the ENGCLK cycle of its trigger, in the others the instant of its turn, and one whose
quantum has ended behind those of that instant. -/
def State.ctxTurn (s : State) (c : Fin 64) : Nat :=
  let x := s.ctx c
  if s.ctxClass c < 2 then (match x.act with | some t => t.at_ | none => x.since) / tEng else 2 * x.since + b2n x.spent

/-- Context a is served before context b. -/
def State.ctxBefore (s : State) (a b : Fin 64) : Bool :=
  let ka := s.ctxClass a
  let kb := s.ctxClass b
  if ka ≠ kb then decide (ka < kb)
  else
    let ta := s.ctxTurn a
    let tb := s.ctxTurn b
    if ta ≠ tb then decide (ta < tb) else decide (a.val < b.val)

/-- The class of what lane n runs; 4 where it is idle. -/
def State.laneClass (s : State) (n : Fin 4) : Nat :=
  match (s.lane n).ctx with
  | none => 4
  | some k => match asCtx k with | some c => s.ctxClass c | none => 4

/-- Among lanes, the one with the lowest class, the highest-numbered of equals (R240). -/
def State.worstLane (s : State) : List (Fin 4) → Option (Fin 4)
  | [] => none
  | n :: r => match s.worstLane r with
    | none => some n
    | some k => if s.laneClass k < s.laneClass n then some n else some k

/-- What lane n runs is at an instruction boundary. -/
def State.laneAtEdge (s : State) (n : Fin 4) : Bool :=
  match (s.lane n).ctx.bind asCtx with
  | some d => decide ((s.ctx d).nextAt ≤ s.now)
  | none => true

/-- The lane context c is dispatched to now: an idle one, else the one that runs the lowest class, once that is at an instruction boundary (R240). -/
def State.pickLane (s : State) (c : Fin 64) : Option (Fin 4) :=
  let ok := (allFin 4).filter fun n => s.mayRun c n
  match ok.find? fun n => (s.lane n).ctx.isNone with
  | some n => some n
  | none => (s.worstLane (ok.filter fun n => decide (s.ctxClass c < s.laneClass n))).filter fun n => s.laneAtEdge n

/-- No context served before c could take lane n. -/
def State.firstFor (s : State) (c : Fin 64) (n : Fin 4) : Bool :=
  s.ctxList.all fun d => !((s.ctx d).st == .runnable && s.ctxBefore d c && s.mayRun d n)

/-- The context on lane n returns to RUNNABLE (pre-emption, R240). -/
def State.preempt (s : State) (n : Fin 4) : State :=
  match (s.lane n).ctx with
  | none => s
  | some k => match asCtx k with
    | none => s
    | some d => (s.offLane d).updC d fun x => { x with st := .runnable, since := s.now }

/-- The activation begins: pc, bank (R232, R270). -/
def State.beginAct (s : State) (c : Fin 64) : State :=
  if (s.ctx c).begun then s
  else s.updC c fun x => { x with begun := true, pc := s.fld F.CTX_CFG_ENTRY c, bank := s.fld F.CTX_CFG_BANK c, issues := 0 }

/-- Context c is dispatched to lane n, or halts before its first instruction (R233, R240, R274). -/
def State.takeLane (s : State) (c : Fin 64) (n : Fin 4) : State :=
  let run := fun (s : State) =>
    ((s.preempt n).updL n fun l => { l with ctx := some c.val, lastIssue := s.now }).updC c fun x =>
      { x with st := .running, lane := some n, ran := n, qIss := 0, spent := false, runWait := x.runWait + (s.now - x.since), nextAt := s.now }
  let s1 := s.beginAct c
  if (s.ctx c).haltReq then s1.haltNow c run else run s1

/-- CONTEXT_DISPATCH of context c: as it stands where the context is not runnable or no lane is for it. -/
def State.dispatch (s : State) (c : Fin 64) : State :=
  if s.hasCtx c && (s.ctx c).st == .runnable then
    match s.pickLane c with
    | some n => if s.firstFor c n then s.takeLane c n else s
    | none => s
  else s

/-- The quantum of context c has passed and another of its class waits (R241). -/
def State.quantumDue (s : State) (c : Fin 64) : Bool :=
  let q := s.fld F.ENG_CTL_QNT
  let q := if q = 0 then 1 else q
  (s.ctx c).st == .running && decide (2 ≤ s.ctxClass c) && decide (q * 16 ≤ (s.ctx c).qIss) &&
    s.ctxList.any fun d => (s.ctx d).st == .runnable && decide (s.ctxClass d = s.ctxClass c)

/-- The budget of the activation is used up and not yet acted on (R243). -/
def State.budgetDue (s : State) (c : Fin 64) : Bool :=
  let n := s.fld F.CTX_BUDGET_ISSUES c
  (s.ctx c).st == .running && decide (n ≠ 0) && decide (n ≤ (s.ctx c).issues) && !(s.ctx c).budgetHit

/-- BUDGET_EXCEEDED (R243). -/
def State.budgetAct (s : State) (c : Fin 64) : State :=
  let s1 := ((s.setFld F.CTX_STAT_BOVR c 1).raise DS.ENG_BUDGET 0 (s.ctxMast c)).updC c fun x => { x with budgetHit := true }
  match s.fld F.CTX_BUDGET_POL c with
  | 0 => s1
  | 1 => s1.updC c fun x => { x with demoted := true }
  | _ => (s1.engFault 5 c (s.ctx c).ran.val (s.ctx c).pc).endAct c

/-! ### Halts and breakpoints (R274–R277) -/

/-- HALT of context c, allowed and applicable (R274). -/
def State.haltCtx (s : State) (c : Fin 64) : State :=
  match (s.ctx c).st with
  | .running => s.ctxHalts c
  | .blocked | .waiting | .runnable => s.updC c fun x => { x with haltReq := true }
  | _ => s

/-- The breakpoints that match context c at pc (R276). -/
def State.bkHits (s : State) (c : Fin 64) : List Nat :=
  let x := s.ctx c
  (List.range 8).filter fun b =>
    s.dbgEn && s.flag F.BKPT_EN b && decide (s.fld F.BKPT_ADDR b = x.pc) && decide (s.fld F.BKPT_BANK b = x.bank) &&
      (s.flag F.BKPT_ANYCTX b || decide (s.fld F.BKPT_CTX b = c.val))

/-- A breakpoint halts context c at pc: one it has not just halted on, and no STEP asks for this instruction (R275, R276). -/
def State.bkMatch (s : State) (c : Fin 64) : Bool :=
  !(s.ctx c).stepping && (s.bkHits c).any fun b => !(s.ctx c).bkSkip.contains b

/-- A breakpoint is taken (R264, R276); DEDUCED, log entry 97: a frozen crow's nest reads EN as 0. -/
def State.bkTake (s : State) (c : Fin 64) : State :=
  let s1 := ((s.setFld F.ENG_STAT_BKPT 0 1).ctxHalts c).updC c fun x => { x with bkSkip := s.bkHits c }
  let s2 := s1.when (s.flag F.DBG_CTL_HALT_ALL) fun s =>
    s.ctxList.foldl (fun s d => if d != c && decide (0 < s.ctxClass d) && s.mayHalt d then s.haltCtx d else s) s
  let s3 := s2.trcCond 3
  s3.when (s.flag F.DBG_CTL_FRZ_TRC) fun s => s.trcCtl (s.rd R.TRC_CTL &&& 0x7FFFFFFF#32)

/-! ### Commands (R234) -/

/-- A write of CTX_CMD for context c (R233, R234, R273–R277). -/
def State.ctxCmd (s : State) (c : Fin 64) (cmd : Nat) : State :=
  let x := s.ctx c
  match cmd with
  | 0 => s
  | 1 => if x.st = .disabled then s.updC c fun x => { x with st := .waiting, pend := [] } else s.ctxIgnore
  | 2 =>
    if x.st = .disabled then s.ctxIgnore
    else if x.st = .blocked then s.updC c fun x => { x with disableReq := true }
    else s.ctxOff c
  | 3 =>
    if !s.dbgEn || !s.mayHalt c then s.ctxIgnore
    else match x.st with
      | .running | .blocked | .waiting | .runnable => s.haltCtx c
      | _ => s.ctxIgnore
  | 4 => if x.st = .halted then s.updC c fun x => { x with st := .runnable, since := s.now } else s.ctxIgnore
  | 5 =>
    if s.dbgEn && x.st == .halted then s.updC c fun x => { x with st := .runnable, stepping := true, since := s.now } else s.ctxIgnore
  | 6 => if x.st = .faulted then s.updC c fun x => { x with st := .waiting, pend := [] } else s.ctxIgnore
  | _ => s.ctxIgnore

/-! ### Lane faults (R265, R266) -/

/-- Lane n is faulted: its activation ends with cause 6. -/
def State.laneFault (s : State) (n : Fin 4) : State :=
  let s1 := (s.updL n fun l => { l with flt := true, act := false, leaving := none }).raise DS.LANE_FAULT n.val
  match (s.lane n).ctx with
  | none => s1
  | some k => match asCtx k with
    | none => s1
    | some c => (s1.engFault 6 c n.val (s.ctx c).pc).endAct c

/-! ### Fetch (R284, R524, R527) -/

/-- What is at a word address of a bank. -/
inductive Fetched where
  | word (w : Word)
  | outside
  | miss (line : Nat)
  /-- The port or the window is off (R527). -/
  | off
  deriving DecidableEq, Repr

/-- The word at `pc` of a bank. -/
def State.fetch (s : State) (bank pc : Nat) : Fetched :=
  if bank < 2 then
    if 32767 < pc then .outside else .word (spGet 0#32 s.eng.prog (bank * 2 ^ 18 + pc))
  else if 262143 < pc then .outside
  else if !s.flag F.MEM_CFG_EN || !s.flag F.MEM_XIP_EN then .off
  else match s.mem.bufs.find? fun b => b.1 == pc / 16 with
    | some b => .word (b.2.getD (pc % 16) 0#32)
    | none => .miss (pc / 16)

/-- A fetch buffer that served becomes the most recently used (R524). -/
def State.touch (s : State) (bank pc : Nat) : State :=
  if bank < 2 then s
  else match s.mem.bufs.find? fun b => b.1 == pc / 16 with
    | some b => { s with mem.bufs := b :: s.mem.bufs.filter fun y => y.1 != b.1 }
    | none => s

/-- A port interrupt flag of MEM_STAT becomes 1 (R513). -/
def State.memFlag (s : State) (f : Fld) : State := if s.flag f then s else (s.setFld f 0 1).setFld F.HOST_IFLG_MEM 0 1

/-- A fetch fails (R527). -/
def State.fetchFail (s : State) (c : Fin 64) : State :=
  ((s.memFlag F.MEM_STAT_FETCH_ERR).raise DS.MEM_PORT 0).exception c 3 (s.ctx c).pc

/-- Context c waits for a line (R524). -/
def State.fetchWait (s : State) (c : Fin 64) (line : Nat) : State :=
  let s1 := s.block c (.fetch line)
  if s1.mem.fetches.contains line then s1 else { s1 with mem.fetches := s1.mem.fetches ++ [line] }

/-! ### Fields of an instruction word (R281) -/

def iOp (w : Word) : Nat := bitsOf w 31 24
/-- The three register fields; format S and I name their register in bits 23:20. -/
def iD (w : Word) : Nat := bitsOf w 23 20
def iA (w : Word) : Nat := bitsOf w 19 16
def iB (w : Word) : Nat := bitsOf w 15 12
def iMod (w : Word) : Nat := bitsOf w 11 0
/-- The modifier, sign-extended. -/
def iModS (w : Word) : Int := sextNat 12 (iMod w)
/-- The 20-bit field of formats S and I, and sign-extended. -/
def iImm (w : Word) : Nat := bitsOf w 19 0
def iImmS (w : Word) : Word := wordOfInt (sextNat 20 (iImm w))
/-- The offset of format J. -/
def iOfs (w : Word) : Int := sextNat 24 (bitsOf w 23 0)
/-- The four registers of a group. -/
def group (r n : Nat) : List Nat := (List.range n).map (r + ·)

/-- Groups an instruction uses: the first register and the length (R282, R298, R304, R311, R318–R320). -/
def groupsOf (w : Word) : List (Nat × Nat) :=
  match iOp w with
  | 0x2D | 0x2F => [(iD w, 2)]
  | 0x60 | 0x61 => [(iA w, 4)]
  | 0x70 => [(iA w, 4)]
  | 0x72 | 0x78 => [(iD w, 3)]
  | _ => []

/-- Major opcodes in use (R299). -/
def opUsed (o : Nat) : Bool :=
  decide (0x01 ≤ o ∧ o ≤ 0x14) || decide (0x20 ≤ o ∧ o ≤ 0x30) || decide (0x38 ≤ o ∧ o ≤ 0x4B) || decide (0x50 ≤ o ∧ o ≤ 0x54) ||
  decide (o = 0x58 ∨ o = 0x59) || decide (0x60 ≤ o ∧ o ≤ 0x65) || decide (0x70 ≤ o ∧ o ≤ 0x72) || decide (0x78 ≤ o ∧ o ≤ 0x7C)

/-- Reserved values of fields an instruction uses (R259, R283, R297, R317). -/
def fieldBad (w : Word) : Bool :=
  match iOp w with
  | 0x14 => decide (bitsOf w 19 0 ≠ 0)
  | 0x2A => decide (7 ≤ bitsOf w 3 0)
  | 0x58 => decide (8 ≤ bitsOf w 15 12)
  | 0x59 => decide (8 ≤ bitsOf w 3 0)
  | 0x65 => decide (4 ≤ bitsOf w 6 4)
  | _ => false

/-- An illegal encoding (R283). -/
def illegal (w : Word) : Bool := !opUsed (iOp w) || fieldBad w || (groupsOf w).any fun g => decide (16 < g.1 + g.2)

/-- A compare-writing instruction's selected registers (R311). -/
def outRegs (w : Word) : List Nat := (List.range 4).filterMap fun l => if bitOf w (4 + l) then some (iA w + l) else none

/-- Registers an instruction needs or writes, which it waits for (R286). -/
def regsOf (w : Word) : List Nat :=
  let o := iOp w
  if o = 0x07 ∨ o = 0x08 ∨ o = 0x09 then (if bitOf w 11 then [iD w, iA w] else [iD w, iA w, iB w])
  else if o = 0x0E ∨ o = 0x29 then [iA w, iB w]
  else if o = 0x0C ∨ o = 0x0D ∨ o = 0x0F ∨ o = 0x26 ∨ o = 0x27 ∨ o = 0x2A ∨ o = 0x2C ∨ o = 0x30 then [iD w, iA w]
  else if o = 0x10 ∨ o = 0x12 ∨ o = 0x11 ∨ o = 0x13 ∨ o = 0x14 then [iD w]
  else if o = 0x2D then [iD w, iD w + 1, iA w]
  else if o = 0x2F then [iD w, iD w + 1, iA w, iB w, bitsOf w 3 0]
  else if o < 0x30 then [iD w, iA w, iB w]
  else if o = 0x48 then [15]
  else if o = 0x49 then [iA w]
  else if o = 0x50 ∨ o = 0x51 then [iD w]
  else if o = 0x52 ∨ o = 0x54 then [iD w, iA w]
  else if o = 0x53 then [iA w, iB w]
  else if o = 0x58 then [iD w, iA w]
  else if o = 0x59 then [iD w, iA w, iB w]
  else if o = 0x60 ∨ o = 0x61 then outRegs w ++ (if bitOf w 9 then [iB w] else []) ++ (if bitOf w 11 then [iD w] else [])
  else if o = 0x62 ∨ o = 0x63 then [iA w, iB w] ++ (if bitOf w 11 then [iD w] else [])
  else if o = 0x64 then [iA w] ++ (if bitOf w 11 then [iD w] else [])
  else if o = 0x65 then (if bitOf w 11 then [iD w] else [])
  else if o = 0x70 then iD w :: group (iA w) 4
  else if o = 0x71 then [iD w, iA w]
  else if o = 0x72 ∨ o = 0x78 then group (iD w) 3
  else if o = 0x79 then (if bitOf w 11 then [iA w] else [])
  else if o = 0x7A then [iA w, iB w]
  else if o = 0x7B then [iD w]
  else if o = 0x7C then [iA w]
  else []

/-- Instructions that read flags (R287). -/
def readsFlags (w : Word) : Bool := decide (0x39 ≤ iOp w ∧ iOp w ≤ 0x47) || decide (iOp w = 0x7B ∨ iOp w = 0x7C)

/-- Register r of a context, its ready instant. -/
def Ctx.reg (x : Ctx) (r : Nat) : Word := x.v.toArray.getD r 0#32
def Ctx.rdyAt (x : Ctx) (r : Nat) : Nat := x.rdy.toArray.getD r 0

/-- The instant from which every operand of the instruction can be used (R286, R287). -/
def Ctx.readyAt (x : Ctx) (w : Word) : Nat :=
  let t := (regsOf w).foldl (fun t r => max t (x.rdyAt r)) 0
  if readsFlags w then max t x.flRdy else t

/-- The instant all outstanding work of the activation has completed (R288). -/
def Ctx.doneAt (x : Ctx) : Nat := max ((List.range 16).foldl (fun t r => max t (x.rdyAt r)) x.flRdy) x.workEnd

/-! ### Results -/

/-- Write register r of context c; the value can be used `lat` ENGCLK cycles after issue (R286). -/
def State.setReg (s : State) (c : Fin 64) (r : Nat) (w : Word) (lat : Nat) : State :=
  s.updC c fun x =>
    { x with v := x.v.setIfInBounds r w, rdy := x.rdy.setIfInBounds r (s.now + 64 * lat) }

/-- Change the flags of context c, used `lat` cycles after issue. -/
def State.setFl (s : State) (c : Fin 64) (lat : Nat) (f : Flags → Flags) : State :=
  s.updC c fun x => { x with fl := f x.fl, flRdy := max x.flRdy (s.now + 64 * lat) }

/-- U is set (R291). -/
def State.setU (s : State) (c : Fin 64) : State := s.updC c fun x => { x with fl := { x.fl with u := true } }

/-- Outstanding work until `t` (R288). -/
def State.work (s : State) (c : Fin 64) (t : Nat) : State := s.updC c fun x => { x with workEnd := max x.workEnd t }

/-! ### Issue (R231, R243, R268, R275, R276, R286, R289) -/

/-- The lane of context c is taken for `n` ENGCLK cycles, the present one among them (R231). -/
def State.occupy (s : State) (c : Fin 64) (n : Nat) : State :=
  let s1 := s.updC c fun x => { x with nextAt := s.now + 64 * n }
  match (s.ctx c).lane with
  | some l => s1.updL l fun y => { y with freeAt := (s.now / 64 + n) * 64 }
  | none => s1

/-- One issue by context c at pc is counted; pc advances by `n` words, and the lane is taken for `n` cycles. An issue under STEP asks for the halt that follows it (R275). -/
def State.countIssue (s : State) (c : Fin 64) (n : Nat) : State :=
  let s1 := (s.updC c fun x =>
    { x with pc := x.pc + n, issues := x.issues + 1, qIss := x.qIss + 1, bkSkip := []
             haltReq := x.haltReq || x.stepping, stepping := false }).occupy c n
  match (s.ctx c).lane with
  | some l => s1.updL l fun y => { y with lastIssue := s.now, issued := y.issued + 1 }
  | none => s1

/-- After a stepped instruction that did not block or end, the context halts again (R275). -/
def State.stepHalt (s : State) (c : Fin 64) : State :=
  if (s.ctx c).haltReq && (s.ctx c).st == .running then s.haltNow c id else s

/-- The lane context c runs on has issued nothing in the present ENGCLK cycle (R231). -/
def State.laneFree (s : State) (c : Fin 64) : Bool :=
  match (s.ctx c).lane with
  | some l => decide ((s.lane l).freeAt ≤ s.now)
  | none => true

/-- Context c is at an instruction boundary, on a lane that is free; its budget and quantum are not due. -/
def State.canIssue (s : State) (c : Fin 64) : Bool :=
  s.hasCtx c && (s.ctx c).st == .running && decide ((s.ctx c).nextAt ≤ s.now) && s.laneFree c && !s.budgetDue c && !s.quantumDue c

/-- Context c runs, at an instruction boundary, on a lane it may no longer run on (R266, R270). -/
def State.misplaced (s : State) (c : Fin 64) : Bool :=
  (s.ctx c).st == .running && decide ((s.ctx c).nextAt ≤ s.now) && (match (s.ctx c).lane with | some n => !s.mayRun c n | none => false)

/-- It leaves that lane (R270). -/
def State.relocate (s : State) (c : Fin 64) : State :=
  match (s.ctx c).lane with
  | some n => if s.misplaced c then s.preempt n else s
  | none => s

/-- Words of an instruction (R281). -/
def wordsOf (w : Word) : Nat := if iOp w = 0x14 then 2 else 1

/-- The second word of a format L instruction at `pc` (R284); 0 for the others. -/
def State.second (s : State) (w : Word) (bank pc : Nat) : Fetched := if iOp w = 0x14 then s.fetch bank (pc + 1) else .word 0#32

/-- Context c issues the instruction word w whose operands are ready; `body` is its effect on the state with the issue counted. -/
def State.perform (s : State) (c : Fin 64) (w : Word) (body : State → State) : State :=
  (body (s.countIssue c (wordsOf w))).stepHalt c

/-- Operands ready at `t`: the instruction issues, keeps its lane for 3 cycles at most, or blocks (R286). -/
def State.await (s : State) (c : Fin 64) (w : Word) (t : Nat) (body : State → State) : State :=
  if t ≤ s.now then s.perform c w body
  else if t ≤ s.now + 192 then s.updC c fun x => { x with nextAt := t }
  else s.block c (.result t)

/-- END has issued: the activation ends once its outstanding work has completed; until then the context is blocked (R288; log entry 75). -/
def State.endIssued (s : State) (c : Fin 64) : State :=
  let t := (s.ctx c).doneAt
  if t ≤ s.now then s.endAct c else s.block c (.ending t)

/-- The buffers an instruction came from become the most recently used, that of a second word last (R284, R524). -/
def State.touched (s : State) (w : Word) (bank pc : Nat) : State :=
  (s.touch bank pc).when (decide (iOp w = 0x14)) fun s => s.touch bank (pc + 1)

/-- The attempt of context c to issue an instruction that `row` accepts; `body` gets the state with the issue counted, the word and the word after it. Nothing where the context cannot issue or the word is another's; an exception, a fetch, a breakpoint or a wait where the rules ask for it. -/
def State.issue (s : State) (c : Fin 64) (row : Word → Bool) (body : State → Word → Word → State) : State :=
  let x := s.ctx c
  if !s.canIssue c then s
  else if s.misplaced c then s.relocate c
  else match s.fetch x.bank x.pc with
    | .outside => s.exception c 2 x.pc
    | .off => s.fetchFail c
    | .miss line => s.fetchWait c line
    | .word w =>
      if !row w || illegal w then s
      else if s.bkMatch c && s.mayHalt c then s.bkTake c
      else match s.second w x.bank x.pc with
        | .outside => s.exception c 2 (x.pc + 1)
        | .off => s.fetchFail c
        | .miss line => s.fetchWait c line
        | .word l =>
          ((s.touched w x.bank x.pc).when (s.bkMatch c) fun s => s.setFld F.ENG_STAT_BKPT_SKIP 0 1).await c w (x.readyAt w)
            fun s => body s w l

/-- ILLEGAL_INSTRUCTION: the word at pc is illegal (R283). -/
def State.issueIllegal (s : State) (c : Fin 64) : State :=
  let x := s.ctx c
  if !s.canIssue c then s
  else if s.misplaced c then s.relocate c
  else match s.fetch x.bank x.pc with
    | .outside => s.exception c 2 x.pc
    | .off => s.fetchFail c
    | .miss line => s.fetchWait c line
    | .word w =>
      if !illegal w then s
      else if s.bkMatch c && s.mayHalt c then s.bkTake c
      else (((s.touch x.bank x.pc).when (s.bkMatch c) fun s => s.setFld F.ENG_STAT_BKPT_SKIP 0 1)).exception c 1 x.pc

/-! ### Waiting accesses (R246–R249) -/

/-- A read's data reach context c, from the memory port or, with the number of the read they answer, from the ring: those of an abandoned read find
nobody (R247). -/
def State.deliver (s : State) (cn : Nat) (id no : Option Nat) (v : Word) : State :=
  let same := fun (n sg : Nat) => match no with | some k => k == n % 2 ^ 25 && decide (0x80000 ≤ sg) | none => true
  if cn = 64 then
    match s.host.late with
    | some l => if l.id.isSome && (id.isNone || l.id == id) && same l.no (l.id.getD 0) then { s with host.late := some { l with got := some v } } else s
    | none => s
  else match asCtx cn with
    | none => s
    | some c => match (s.ctx c).wait with
      | some (.access sg (some r) _ since false) =>
        if (match id with | some i => sg == i | none => true) && same (s.ctx c).reqNo sg then s.updC c fun x => { x with wait := some (.access sg (some r) v since true) } else s
      | _ => s

/-- The access context c waits for can complete: its data have come, or the write buffer has room (R246). -/
def State.accessReady (s : State) (c : Fin 64) : Bool :=
  match (s.ctx c).st, (s.ctx c).wait with
  | .blocked, some (.access _ (some _) _ _ d) => d
  | .blocked, some (.access _ none _ _ _) => decide (s.eng.wbuf.length < 16)
  | _, _ => false

/-- SIGNAL_ACCESS_COMPLETE; the value of a disabled context's read is discarded (R234). -/
def State.accessDone (s : State) (c : Fin 64) : State :=
  match (s.ctx c).wait with
  | some (.access _ (some r) v _ _) => (if (s.ctx c).disableReq then s else s.setReg c r v 0).unblock c
  | some (.access sg none v _ _) => (s.bufAdd (s.laneRank c) sg v).unblock c
  | _ => s

/-- SIG_TMO in taps; 0: no limit (R247). -/
def State.sigTmo (s : State) : Nat := s.fld F.ENG_CTL_SIG_TMO * 10 * tUs

/-- The access of context c has waited SIG_TMO (R247). -/
def State.accessLate (s : State) (c : Fin 64) : Bool :=
  match (s.ctx c).st, (s.ctx c).wait with
  | .blocked, some (.access _ _ _ since _) => decide (s.sigTmo ≠ 0) && decide (since + s.sigTmo ≤ s.now) && !s.accessReady c
  | _, _ => false

/-- The reads of the memory port without those a reader has abandoned; one in progress answers nobody (R247). -/
def MemPort.forget (p : MemPort) (who id : Nat) : MemPort :=
  { p with
    reads := p.reads.filter fun e => !(e.1 == who && e.2 == id)
    busy := match p.busy with
      | some (.sread w i, t) => if w = who ∧ i = id then some (.sread 65 i, t) else p.busy
      | b => b }

/-- SIGNAL_ACCESS_TIMEOUT (R247). -/
def State.accessDrop (s : State) (c : Fin 64) : State :=
  let s1 := s.raise DS.SIGNAL_TIMEOUT 0
  match (s.ctx c).wait with
  | some (.access sg (some r) _ _ _) =>
    let s2 : State := { s1 with mem := s1.mem.forget c.val sg }
    (if (s.ctx c).disableReq then s2 else (s2.setReg c r qNaN 0).setU c).unblock c
  | some (.access _ none _ _ _) => (s1.setU c).unblock c
  | _ => s1

/-- A peer read that waits is sent again (R248). -/
def State.resend (s : State) (no who id : Nat) : State :=
  match s.sigKind id with
  | .peer node t => s.queueBulk 0 node [peerTag no who, nat32 t]
  | _ => s

/-- Peer reads that wait, the host's among them, are sent again when the ring wraps (R248). -/
def State.resendReads (s : State) : State :=
  let s1 := s.ctxList.foldl (fun s c =>
    match (s.ctx c).st, (s.ctx c).wait with
    | .blocked, some (.access sg (some _) _ _ false) => s.resend (s.ctx c).reqNo c.val sg
    | _, _ => s) s
  match s1.host.late with
  | some { id := some sg, got := none, no := no, .. } => s1.resend no 64 sg
  | _ => s1

/-- An external or unmirrored peer signal, mapped or not (R36). -/
def State.slowSig (s : State) (id : Nat) : Bool :=
  decide (0x10000 ≤ id) && (match s.sigKind id with | .ext | .none_ | .peer _ _ => true | _ => false)

/-- A CRITICAL context reads a signal: an external or unmirrored peer one is reported once an activation (R249, R324). -/
def State.noteSlow (s : State) (c : Fin 64) (id : Nat) : State :=
  if s.ctxClass c = 0 && !(s.ctx c).noted && s.slowSig id then
    (s.raise DS.SIGNAL_ACCESS 0).updC c fun x => { x with noted := true }
  else s

/-- An instruction reads signal `id` into register r (R307). -/
def State.loadSig (s : State) (c : Fin 64) (id r : Nat) : State :=
  let q := (s.noteSlow c id).readSig c id
  if q.wait then q.st.block c (.access id (some r) 0#32 s.now false)
  else
    let s1 := if q.absent then q.st.raise DS.ABSENT_UNIT 0 else q.st
    s1.setReg c r q.val 2

/-- An instruction writes signal `id` (R307, R308). -/
def State.storeSig (s : State) (c : Fin 64) (id : Nat) (w : Word) : State :=
  let q := s.writeSig (s.laneRank c) id w
  if q.wait then q.st.block c (.access id none w s.now false)
  else if q.bad then q.st.setU c else q.st

end Sys2Proof.Machine
end

