-- ==== Sys2Proof/Machine/Flags.lean ====
section
/-! DEFINITION. Machine/Flags.lean: the flags each kind of instruction writes (R290, R291, R296, R300–R304, R309). -/

namespace Sys2Proof.Machine

/-- Z and N of an integer result (R290). -/
def Flags.zn (f : Flags) (r : Word) : Flags := { f with z := decide (r = 0#32), n := bitOf r 31 }

/-- Flags of a + b (R300). -/
def Flags.addOf (f : Flags) (a b : Word) : Flags :=
  let r := a + b
  { f.zn r with
    c := decide (2 ^ 32 ≤ a.toNat + b.toNat)
    v := decide (a.toInt + b.toInt ≠ r.toInt) }

/-- Flags of a − b: C is no borrow (R300). -/
def Flags.subOf (f : Flags) (a b : Word) : Flags :=
  let r := a - b
  { f.zn r with
    c := decide (b.toNat ≤ a.toNat)
    v := decide (a.toInt - b.toInt ≠ r.toInt) }

/-- Flags of a × b: C is kept (R300). -/
def Flags.mulOf (f : Flags) (a b : Word) : Flags :=
  let r := a * b
  { f.zn r with v := decide (a.toInt * b.toInt ≠ r.toInt) }

/-- Z, N and, where a bit was shifted out, C (R301). -/
def Flags.shiftOf (f : Flags) (r : Word) (out : Option Bool) : Flags :=
  { f.zn r with c := out.getD f.c }

/-- Z and N of a binary32 result; a NaN sets U (R290, R294). -/
def Flags.fzn (f : Flags) (r : Word) : Flags :=
  { f with
    z := !fIsNaN r && fIsZero r
    n := !fIsNaN r && bitOf r 31
    u := f.u || fIsNaN r }

/-- The same with V: an infinite result of finite operands (R295). -/
def Flags.fznv (f : Flags) (ops : List Word) (r : Word) : Flags :=
  { f.fzn r with v := fIsInf r && ops.all fFinite }

/-- Flags of FCMP (R296). -/
def Flags.fcmpOf (f : Flags) (a b : Word) : Flags :=
  match fCmp a b with
  | .lt => { f with z := false, n := true, c := false, v := false }
  | .eq => { f with z := true, n := false, c := true, v := false }
  | .gt => { f with z := false, n := false, c := true, v := false }
  | .un => { f with z := false, n := false, c := false, v := true, u := true }

/-- Flags of FCLAMP: L where the result differs from the old value; a NaN clears it (R304). -/
def Flags.clampOf (f : Flags) (old r : Word) : Flags :=
  { f.fzn r with l := !fIsNaN r && decide (r ≠ old) }

/-- Flags of a cell operation: Z and N from vd, L where it is written, U added (R253, R254, R309). -/
def Flags.cellOf (f : Flags) (vd : Word) (l : Option Bool) (u : Bool) : Flags :=
  { f with
    z := !fIsNaN vd && fIsZero vd
    n := !fIsNaN vd && bitOf vd 31
    l := l.getD f.l
    u := f.u || u }

/-- Z, N and V of a conversion; a NaN converted sets U (R291, R297). -/
def Flags.cvtOf (f : Flags) (z n sat nan : Bool) : Flags := { f with z := z, n := n, v := sat, u := f.u || nan }

/-- Z and N of a signed result code; a negative one sets U (R318). -/
def Flags.calOf (f : Flags) (r : Word) : Flags := { f.zn r with u := f.u || bitOf r 31 }

/-- The flags as a word (R290, R323). -/
def Flags.word (f : Flags) : Word :=
  nat32 (b2n f.z + 2 * b2n f.n + 4 * b2n f.c + 8 * b2n f.v + 16 * b2n f.u + 32 * b2n f.l)

/-- Flags whose bit is 1 in the mask take that bit of w (R323). -/
def Flags.setFrom (f : Flags) (mask : Nat) (w : Word) : Flags :=
  let g := fun (i : Nat) (old : Bool) => if mask.testBit i then bitOf w i else old
  { z := g 0 f.z, n := g 1 f.n, c := g 2 f.c, v := g 3 f.v, u := g 4 f.u, l := g 5 f.l }

/-- The condition of B.cond by its code (R306). -/
def Flags.holds (f : Flags) : Nat → Bool
  | 0 => true
  | 1 => f.z
  | 2 => !f.z
  | 3 => f.n != f.v
  | 4 => f.n == f.v
  | 5 => !f.z && f.n == f.v
  | 6 => f.z || f.n != f.v
  | 7 => f.c
  | 8 => !f.c
  | 9 => f.v
  | 10 => !f.v
  | 11 => f.u
  | 12 => !f.u
  | 13 => f.l
  | 14 => !f.l
  | _ => f.n

end Sys2Proof.Machine
end

