-- ==== Sys2Proof/Machine/Thermal.lean ====
section
/-! DEFINITION. Machine/Thermal.lean: the bosun round: sensors, checks, thresholds, reef factors, shut-down, supply monitors, delay-line calibration (R60–R64, R394–R420). -/

namespace Sys2Proof.Machine

def State.updHk (s : State) (f : Hk → Hk) : State := { s with hk := f s.hk }
def State.sns (s : State) (i : Fin 32) : Sns := s.hk.sns[i]
def State.updSns (s : State) (i : Fin 32) (f : Sns → Sns) : State :=
  s.updHk fun h => { h with sns := h.sns.set i (f h.sns[i]) }
def State.reef (s : State) (m : Fin 16) : Reef := s.hk.reefs[m]

/-! ### Delay lines (R60–R64) -/

/-- A trim code moved one step; none where the step would leave 0–255 (R61, R64). -/
def trimStep (c : Nat) (early : Bool) : Option Nat :=
  if early then (if 255 ≤ c then none else some (c + 1)) else (if c = 0 then none else some (c - 1))

/-- The phase detector's visit of leg l of mast m with its decisions for the high and the low line (R61, R63, R64). -/
def State.visitLeg (s : State) (m : Fin 16) (l : Fin 4) (early : BitVec 2) : State :=
  let x := s.mast m
  let eh := early.getLsbD 0
  let el := early.getLsbD 1
  let h := trimStep x.trimH[l] eh
  let lo := trimStep x.trimL[l] el
  let dec := early.toNat
  -- 4 marks a leg that has been visited
  let alt := decide (x.pdLast[l] = 4 + (3 - dec))
  let n := if alt then x.pdAlt[l] + 1 else 0
  let stuck := h.isNone || lo.isNone
  let s1 := s.updM m fun x =>
    { x with
      trimH := x.trimH.set l (h.getD x.trimH[l])
      trimL := x.trimL.set l (lo.getD x.trimL[l])
      pdLast := x.pdLast.set l (4 + dec)
      pdAlt := x.pdAlt.set l (if stuck then 0 else n)
      calValid := x.calValid.set l (if stuck then false else x.calValid[l] || decide (8 ≤ n)) }
  s1.when stuck fun s => s.raise DS.DELAY_CAL 0 (some m.val)

/-- The fast calibration has made every line of the masts present valid (R62). -/
def State.fastCal (s : State) : State :=
  s.mastList.foldl (fun s m => s.updM m fun x =>
    { x with
      trimH := Vector.ofFn fun l => (Config.fastTrim (4 * m.val + l.val) true).toNat
      trimL := Vector.ofFn fun l => (Config.fastTrim (4 * m.val + l.val) false).toNat
      calValid := Vector.replicate 4 true }) s

/-! ### Sensors (R397–R400) -/

/-- Sensor i is a remote channel, and whether the part has it (R3, R395). -/
def isTe (i : Nat) : Bool := decide (24 ≤ i)
def State.hasSns (s : State) (i : Nat) : Bool := decide (i < 24 + s.variant.te)
/-- MODE of a remote channel (R398). -/
def State.snsMode (s : State) (i : Nat) : Nat := s.fld F.SNS_CFG_MODE i
/-- The sensor is in use: enabled, and for a remote channel not OFF (SNS_CFG). -/
def State.snsOn (s : State) (i : Nat) : Bool :=
  s.hasSns i && s.flag F.SNS_CFG_EN i && (!isTe i || decide (s.snsMode i ≠ 0))
/-- A sensor shows as failed: a channel that is OFF takes no part (R398). -/
def State.snsFailed (s : State) (i : Fin 32) : Bool := (s.sns i).fail && (!isTe i || s.snsOn i)
/-- A sensor that counts: in use, not failed (R410). -/
def State.snsValid (s : State) (i : Fin 32) : Bool := s.snsOn i && !(s.sns i).fail
/-- OFS in 0.0625 °C. -/
def State.snsOfs (s : State) (i : Nat) : Int := sextNat 8 (s.fld F.SNS_CFG_OFS i) * 4

/-- Squarings of a number in [1, 2) × 2^64: the next n bits of its binary logarithm. -/
def log2Bits : Nat → Nat → Nat → Nat
  | 0, _, acc => acc
  | n + 1, y, acc =>
    let z := y * y / 2 ^ 64
    if 2 ^ 65 ≤ z then log2Bits n (z / 2) (2 * acc + 1) else log2Bits n z (2 * acc)
/-- log2 of a number, in 2^−40. -/
def log2Fix (v : Nat) : Int :=
  let k := v.log2
  (k : Int) * 2 ^ 40 + log2Bits 40 (v * 2 ^ 64 / 2 ^ k) 0

/-- Entry j of the NTC table of a channel: R_j and T_j (R399). -/
def State.ntcEntry (s : State) (i j : Nat) : Word × Word :=
  let w := 32 * s.fld F.SNS_CFG_TAB i + 2 * j
  (spGet 0#32 s.eng.tab (w % 4096), spGet 0#32 s.eng.tab ((w + 1) % 4096))
/-- R falls and T rises (R399). -/
def State.ntcOrdered (s : State) (i : Nat) : Bool :=
  (List.range 32).all (fun j => fFinite (s.ntcEntry i j).1 && fGt (s.ntcEntry i j).1 fZero && fFinite (s.ntcEntry i j).2) &&
  (List.range 31).all fun j => fGt (s.ntcEntry i j).1 (s.ntcEntry i (j + 1)).1 && fLt (s.ntcEntry i j).2 (s.ntcEntry i (j + 1)).2

/-- The temperature of an NTC, interpolated in ln R; none outside the table (R399, R408). -/
def State.ntcTemp (s : State) (i : Nat) (uv : Nat) : Option Int :=
  if uv = 0 ∨ s.ntcOrdered i = false then none
  else
    -- R in Ω is the voltage in µV over the current in µA
    let ua : Int := if s.flag F.SNS_CFG_ISEL i then 100 else 10
    let r : Int := uv * 2 ^ 149
    let at_ := fun j => fScaled (s.ntcEntry i j).1 * ua
    match (List.range 31).find? fun j => decide (r ≤ at_ j) && decide (at_ (j + 1) ≤ r) with
    | none => none
    | some j =>
      let t0 := fScaled (s.ntcEntry i j).2
      let t1 := fScaled (s.ntcEntry i (j + 1)).2
      let l0 := log2Fix (at_ j).toNat
      let l1 := log2Fix (at_ (j + 1)).toNat
      let t := if l0 = l1 then t0 else t0 + (t1 - t0) * (log2Fix r.toNat - l0) / (l1 - l0)
      some ((t * 16 + 2 ^ 148) / 2 ^ 149)

/-- T_TRIM + (count − C_TRIM) × K_TS of an on-die sensor, in 0.0625 °C, to the nearest (R397; DESIGN CHOICE, log entry 32: the rounding). -/
def tsTemp (i count : Nat) : Int := (Config.tsTrim i + ((count : Int) - Config.tsCount i) * Config.tsSlope i + 2 ^ 15) / 2 ^ 16

/-- The reading of a slot: the temperature, and the cause 1, 2 or 3 of R408. -/
def State.readSns (s : State) (i : Fin 32) (code : Nat) : Int × Nat :=
  let range := fun (t : Int) => if t < -55 * 16 ∨ 175 * 16 < t then 3 else 0
  if isTe i then
    let uv := Config.teMicroV i.val code
    let r := if s.snsMode i = 1 then some (Config.teDiode i.val code) else s.ntcTemp i uv
    let t := r.getD 0 + s.snsOfs i
    (t, if 2900000 ≤ uv then 1 else if uv ≤ 10000 then 2 else if r.isNone then 3 else range t)
  else
    let t := tsTemp i.val code + s.snsOfs i
    (t, range t)

/-- A sensor's slot (R394, R397, R398). -/
def State.snsSlot (s : State) (i : Fin 32) (code : Nat) : State :=
  if !s.hasSns i || (isTe i && !s.snsOn i) then s.updSns i fun x => { x with got := false }
  else
    let r := s.readSns i code
    s.updSns i fun x =>
      { x with code := code, got := true, read := r.1, pre := r.2 }

/-! ### Failure (R408–R410) -/

/-- The neighbours of a sensor (R409). -/
def State.neighbours (s : State) (i : Nat) : List Nat :=
  if i < 16 then
    (if i < 4 then [] else [i - 4]) ++ (if 12 ≤ i then [] else [i + 4]) ++
    (if i % 4 = 0 then [] else [i - 1]) ++ (if i % 4 = 3 then [] else [i + 1])
  else if i < 20 then [16, 17, 18, 19].filter fun j => decide (j ≠ i)
  else if i = 20 then [21, 22]
  else if i = 21 then [20, 23, 19]
  else if i = 22 then [20, 21]
  else if i = 23 then [19, 21]
  else (List.range 8).filterMap fun k => if (s.fld F.SNS_CFG_NBR i).testBit k ∧ 24 + k ≠ i then some (24 + k) else none

/-- The code of a round that is not discarded counts; a round without one breaks the run (R408, R418). -/
def Sns.keepCode (x : Sns) : Sns :=
  if x.got then { x with raw := x.code, same := (if x.raw = x.code ∧ x.same ≠ 0 then x.same + 1 else 1) } else { x with same := 0 }

/-- The cause of R408 a sensor has of itself: 1 to 4. -/
def Sns.cause (x : Sns) : Nat := if x.pre ≠ 0 then x.pre else if 16 ≤ x.same then 4 else 0

/-- Insertion into an ordered list of integers. -/
def insInt (x : Int) : List Int → List Int
  | [] => [x]
  | y :: l => if x ≤ y then x :: y :: l else y :: insInt x l
/-- Twice the median of some readings (R408). -/
def median2 (l : List Int) : Int :=
  let v := l.foldl (fun a x => insInt x a) []
  let n := v.length
  if n % 2 = 1 then 2 * v.getD (n / 2) 0 else v.getD (n / 2 - 1) 0 + v.getD (n / 2) 0

/-- The readings of the valid neighbours of a sensor (R408, R409). -/
def State.nbrReads (s : State) (i : Nat) : List Int :=
  (s.neighbours i).filterMap fun j =>
    let k : Fin 32 := Fin.ofNat 32 j
    let x := s.sns k
    if s.snsValid k && x.got && decide (x.cause = 0) then some x.read else none

/-- MED_LIM in 0.0625 °C (HK_CTL). -/
def State.medLim (s : State) : Int := let n := s.fld F.HK_CTL_MED_LIM; (if n = 0 then 25 else n) * 16

/-- The first cause of R408 that holds, 0 none. -/
def State.snsCause (s : State) (i : Fin 32) : Nat :=
  let x := s.sns i
  if x.cause ≠ 0 then x.cause
  else
    let l := s.nbrReads i
    if 2 ≤ l.length ∧ 2 * s.medLim < ((2 * x.read - median2 l).natAbs : Int) then 5 else 0

/-- An event for slot 47 (R394). -/
def State.evNote (s : State) (src detail : Nat) (mast : Option Nat) : State :=
  s.updHk fun h => { h with evq := h.evq ++ [(src, detail, mast)] }

/-- The check of one sensor by the causes found for all (R408, R410); a channel that is OFF is not failed (R398). -/
def State.snsCheck (s : State) (i : Fin 32) (c : Nat) : State :=
  let x := s.sns i
  if !s.snsOn i then s.updSns i fun x =>
    { x with hist := [], hot := 0, fail := x.fail && !isTe i, why := if isTe i then 0 else x.why, recov := if isTe i then 0 else x.recov }
  else if !x.got then s
  else if x.fail then
    (if c ≠ 0 then s.updSns i fun x => { x with recov := 0 }
     else if 64 ≤ x.recov + 1 then
       s.updSns i fun x => { x with fail := false, why := 0, recov := 0, hist := [x.read], t := x.read }
     else s.updSns i fun x => { x with recov := x.recov + 1 })
  else if c ≠ 0 then (s.updSns i fun x => { x with fail := true, why := c, recov := 0, hist := [], hot := 0 }).evNote DS.TEMP_SENSOR i.val none
  else s.updSns i fun x => { x with t := x.read, hist := (x.read :: x.hist).take 32 }

/-! ### Thresholds and rates (R401–R403, R413) -/

/-- HYST in 0.0625 °C; 0 is taken as 1 (TH_DIE). -/
def State.hyst (s : State) : Int := atLeast1 (s.fld F.TH_DIE_HYST) * 16
/-- WARN, REEF_ST and SPAN of a sensor in 0.0625 °C. -/
def State.thWarn (s : State) (i : Nat) : Int := (if isTe i then s.fld F.TH_EXT_WARN i else s.fld F.TH_DIE_WARN) * 16
def State.thReef (s : State) (i : Nat) : Int := (if isTe i then s.fld F.TH_EXT_REEF_ST i else s.fld F.TH_DIE_REEF_ST) * 16
def State.thSpan (s : State) (i : Nat) : Int := (if isTe i then s.fld F.TH_EXT_SPAN i else s.fld F.TH_DIE_SPAN) * 16

/-- The rate r of a sensor in °C/s (R403). -/
def Sns.rate (x : Sns) : Word :=
  if x.hist.length < 32 then fZero
  else
    let a := (x.hist.take 16).foldl (· + ·) 0
    let b := (x.hist.drop 16).foldl (· + ·) 0
    fOfRat ((a - b) * 1000) 4096

/-- WARN of one valid sensor (R402). -/
def State.warnStep (s : State) (i : Fin 32) : State :=
  let x := s.sns i
  if !s.snsValid i || !x.got then s
  else if s.thWarn i ≤ x.t then
    (if x.warn then s else (s.updSns i fun x => { x with warn := true }).evNote DS.TEMP_WARN i.val none)
  else if x.t < s.thWarn i - s.hyst then s.updSns i fun x => { x with warn := false }
  else s

/-- SHUT of one valid on-die sensor (R413). -/
def State.shutStep (s : State) (i : Fin 32) : State :=
  let x := s.sns i
  if isTe i || !s.snsValid i || !x.got then s
  else
    let n := if (s.fld F.TH_SHUT_SHUT : Int) * 16 ≤ x.t then x.hot + 1 else 0
    let s1 := s.updSns i fun x => { x with hot := n }
    if 2 ≤ n ∧ s.hk.shut = false then
      ((s1.updHk fun h => { h with shut := true }).furlEnter FC.THERMAL).raise DS.TEMP_SHUTDOWN i.val
    else if 2 ≤ n ∧ n = 2 then s1.raise DS.TEMP_SHUTDOWN i.val else s1

/-- The on-die sensors that are valid. -/
def State.dieSensors (s : State) : List (Fin 32) := (allFin 32).filter fun i => !isTe i && s.snsValid i

/-- RATE in °C/s times a fraction (TH_RATE; 0 is taken as 1). -/
def State.rateLim (s : State) (den : Nat) : Word := fOfRat (atLeast1 (s.fld F.TH_RATE_RATE) : Nat) (10 * den)

/-- TEMP_RATE (R403). -/
def State.rateStep (s : State) : State :=
  let rs := s.dieSensors.map fun i => (s.sns i).rate
  let hi := rs.any fun r => fGt r (s.rateLim 1)
  let low := rs.all fun r => fLt r (s.rateLim 2)
  let n := if low then s.hk.rateLow + 1 else 0
  let armed := !s.hk.rateOn || decide (16 ≤ n)
  let s1 := s.updHk fun h => { h with rateHi := hi, rateLow := n, rateOn := if hi then true else !armed }
  s1.when (hi && armed) fun s => s.evNote DS.TEMP_RATE 0 none

/-- DIE_MAX, its sensor, DIE_RATE and the peak (R419, R420). -/
def State.dieStep (s : State) : State :=
  match s.dieSensors with
  | [] => s
  | i :: l =>
    let b := l.foldl (fun b j => if (s.sns b).t < (s.sns j).t then j else b) i
    let r := (i :: l).foldl (fun a j => fMax a (s.sns j).rate) (s.sns i).rate
    let t := (s.sns b).t
    s.updHk fun h =>
      { h with dieMax := t, hottest := b.val, dieRate := r
               peak := if h.peakOn ∧ t ≤ h.peak then h.peak else t, peakSns := if h.peakOn ∧ t ≤ h.peak then h.peakSns else b.val
               peakOn := true }

/-! ### The reef factor (R404–R407, R411, R412) -/

/-- FLOOR (R404). -/
def State.reefFloor (s : State) : Word := fOfRat (s.fld F.TH_SHUT_REEF_FLOOR) 100

/-- g of a temperature in °C (R404). -/
def State.reefG (s : State) (i : Nat) (t : Word) : Word :=
  let st := fOfRat (s.thReef i) 16
  let sp := fOfRat (s.thSpan i) 16
  if fLe t st then fOne
  else if fGe t (fAdd st sp) then s.reefFloor
  else fSub fOne (fDiv (fMul (fSub fOne s.reefFloor) (fSub t st)) sp)

/-- The factor of a valid sensor (R404). -/
def State.snsFactor (s : State) (i : Fin 32) : Word :=
  let x := s.sns i
  let look := fOfRat (s.fld F.TH_RATE_LOOK) 10
  let tp := fAdd (fOfRat x.t 16) (fMul (fMax x.rate fZero) look)
  fMin (s.reefG i tp) (fMax x.f (s.reefG i (fAdd tp (fOfRat s.hyst 16))))

/-- Every valid sensor takes its factor (R404). -/
def State.factorStep (s : State) (i : Fin 32) : State :=
  if s.snsValid i && (s.sns i).got then
    let f := s.snsFactor i
    s.updSns i fun x => { x with f := f }
  else s

/-- The mapped sensors of mast m. -/
def State.mapped (s : State) (m : Fin 16) : List (Fin 32) := (allFin 32).filter fun i => (s.fld F.REEF_MAP_MAP m).testBit i.val

/-- The least factor of some sensors and who gives it, the lowest index among equals (R405). -/
def State.least (s : State) : List (Fin 32) → Option (Word × Nat)
  | [] => none
  | i :: l =>
    match s.least l with
    | none => some ((s.sns i).f, i.val)
    | some b => if fLe (s.sns i).f b.1 then some ((s.sns i).f, i.val) else some b

/-- F_m of mast m, its governor and flags (R405, R411, R412); `prev` says which sensors were failed before this round. -/
def State.reefStep (s : State) (prev : Nat → Bool) (m : Fin 16) : State :=
  let r := s.reef m
  let live := (s.mapped m).filter fun i => s.snsValid i
  let failed := fun (j : Nat) => s.snsFailed (Fin.ofNat 32 j)
  let new := failed r.gov && !prev r.gov && (s.fld F.REEF_MAP_MAP m).testBit r.gov && !(r.frozen.any fun e => decide (e.1 = r.gov))
  let frz := (if new then r.frozen ++ [(r.gov, r.fm)] else r.frozen).filter fun e => failed e.1
  let base := (s.least live).getD (fOne, r.gov)
  let f1 := frz.foldl (fun (b : Word × Nat) e => if fLe e.2 b.1 then (e.2, e.1) else b) base
  let crit := (s.mapped m).any fun i => (s.sns i).fail && (s.snsOn i || !isTe i) && s.flag F.SNS_CFG_CRIT i
  let fb := fOfRat (s.fld F.TH_RATE_FALLBACK) 100
  let f2 := if crit then fMin f1.1 fb else f1.1
  let f := if s.flag F.HK_CTL_REEF_EN then f2 else fOne
  let drop := fLt f fOne && !fLt r.fm fOne
  let s1 := s.updHk fun h => { h with reefs := h.reefs.set m { r with fm := f, gov := f1.2, frozen := frz, fallbk := crit } }
  s1.when drop fun s => s.evNote DS.TEMP_REEF m.val (some m.val)

/-- An installer wrote the mast's REEF_MAP: a freeze lifts (R411). -/
def State.reefMapped (s : State) (m : Fin 16) : State :=
  s.updHk fun h => { h with reefs := h.reefs.set m { h.reefs[m] with frozen := [] } }

/-- The temperature TS23 has for the store in 0.0625 °C, none read as above 155 °C (R414, R415); excluded by EN it counts as
failed (R420). -/
def State.storeTemp (s : State) : Option Int :=
  let x := s.sns 23
  if s.snsValid 23 then some x.t
  else
    let l := [19, 21].filterMap fun j => let k : Fin 32 := Fin.ofNat 32 j; if s.snsValid k then some (s.sns k).t else none
    match l with
    | [] => none
    | a :: r => some (r.foldl max a)

/-- TS23 above 155 °C, or monitor 5 out of range (R414, R415, R418). -/
def State.storeHot (s : State) : Bool :=
  s.hk.supOut.testBit 5 || (match s.storeTemp with | none => true | some t => decide (155 * 16 < t))

/-- DIE_MAX is below SHUT − HYST (R413, R414), by the thresholds of the latest slot 46 (R420). -/
def State.cooled (s : State) : Bool := decide (s.hk.dieMax < (s.hk.shutIn : Int) * 16 - s.hk.hystIn)

/-- Slot 46 (R394, R406, R418): the thresholds take effect, and those SHUT_CLR and the store go by until the next one are kept (R420). -/
def State.evaluate (s0 : State) : State :=
  let s := s0.updHk fun h => { h with shutIn := s0.fld F.TH_SHUT_SHUT, hystIn := s0.hyst }
  if s.hk.discard then s
  else
    let prev := fun (j : Nat) => s.snsFailed (Fin.ofNat 32 j)
    let kept := s.updHk fun h => { h with sns := h.sns.map Sns.keepCode }
    let causes := (allFin 32).map fun i => (i, kept.snsCause i)
    let s1 := causes.foldl (fun s e => s.snsCheck e.1 e.2) kept
    let s2 := ((allFin 32).foldl (fun s i => s.warnStep i) s1).dieStep
    let s3 := ((allFin 32).foldl (fun s i => s.shutStep i) s2).rateStep
    let s4 := (allFin 32).foldl (fun s i => s.factorStep i) s3
    s4.mastList.foldl (fun s m => s.reefStep prev m) s4

/-! ### Publication (R373, R396, R405, R419) -/

/-- A DERATE record of mast m is pending (R373). -/
def State.derated (s : State) (m : Fin 16) : Bool := s.fc.pend.any fun r => decide (r.react = 2) && decide (r.mast = some m.val)

/-- REEF of mast m (R405). -/
def State.pubReef (s : State) (m : Fin 16) : State :=
  let r := s.reef m
  let p := s.fld F.FC_CTL_DER_F
  let lim := fOfRat (if 100 < p then 100 else p) 100
  let der := s.derated m && fLt lim r.fm
  let v := if der then lim else r.fm
  (s.updHk fun h => { h with reefs := h.reefs.set m { h.reefs[m] with reef := v, der := der } }).putM m 0x0C1 v

/-- SNS_FAIL as a mask. -/
def State.failMask (s : State) : Nat := (allFin 32).foldl (fun a i => a + b2n (s.snsFailed i) * 2 ^ i.val) 0

/-- Slot 47 (R394, R419). -/
def State.publishRound (s : State) : State :=
  let s1 := s.mastList.foldl (fun s m => s.pubReef m) s
  let s2 := (allFin 32).foldl (fun s i =>
    s.putSig (0x100 + i.val) (if isTe i && !s.snsOn i then fZero else fOfRat (s.sns i).t 16)) s1
  let s3 := ((s2.putSig 0x120 (fOfRat s.hk.dieMax 16)).putSig 0x121 s.hk.dieRate).putSig 0x122 (nat32 (s.hk.round + 1))
  let s4 := (s3.putSig 0x123 (nat32 s.failMask)).putSig 0x124 (nat32 s.hk.supOut)
  let ev := s4.hk.evq
  ev.foldl (fun s e => s.raise e.1 e.2.1 e.2.2) (s4.updHk fun h => { h with evq := [], discard := false })

/-! ### The load of the lanes (R278) -/

/-- ENGCLK cycles of a round (R394). -/
abbrev roundCycles : Nat := 240000

/-- A round has ended: LANE_LOAD of each lane, the share of its cycles with an issue, and their mean over the lanes in service (R278). -/
def State.laneLoads (s : State) : State :=
  let on := (allFin 4).filter fun n => decide (n.val < s.variant.lanes) && (s.lane n).act
  let sum := on.foldl (fun a n => a + (s.lane n).issued) 0
  let s1 := (allFin 4).foldl (fun s n =>
    let v := fMin fOne (fOfRat ((s.lane n).issued : Nat) roundCycles)
    (s.updL n fun l => { l with load := v, issued := 0 }).putSig (0x204 + n.val) v) s
  s1.putSig 0x208 (if on.isEmpty then fZero else fMin fOne (fOfRat (sum : Nat) (roundCycles * on.length)))

/-! ### The slot (R61, R394, R395) -/

/-- A slot is due (R395). -/
def State.slotDue (s : State) : Bool := s.hk.running && decide (s.hk.slotAt ≤ s.now)

/-- The leg the phase detector visits, and the next one (R61). -/
def State.visit (s : State) (early : BitVec 2) : State :=
  let g := s.hk.visit
  let s1 := s.visitLeg (Fin.ofNat 16 (g / 4)) (Fin.ofNat 4 g) early
  s1.updHk fun h => { h with visit := (g + 1) % (4 * s.variant.masts) }

/-- The work of a slot (R394). -/
def State.slotWork (s : State) (code : Nat) (early : BitVec 2) : State :=
  let k := s.hk.slot
  let s0 := (s.visit early).updHk fun h => { h with discard := h.discard || h.supOut.testBit 3 || h.supOut.testBit 4 }
  let s1 :=
    if k = 0 then s0.laneLoads.snsSlot 0 code
    else if k < 32 then s0.snsSlot (Fin.ofNat 32 k) code
    else if k = 46 then s0.evaluate
    else if k = 47 then s0.publishRound else s0
  s1.updHk fun h =>
    { h with slot := (k + 1) % 48, round := if k = 47 then h.round + 1 else h.round, slotAt := h.slotAt + 625 * tHk }

/-! ### Supply monitors and commands (R413, R417, R420) -/

/-- Monitor n is out of range: its comparator asserts, and the millisecond it must then stay without begins anew (R417). -/
def State.supplyOut (s0 : State) (n : Nat) : State :=
  let s := s0.updHk fun h => { h with supAt := h.supAt.setIfInBounds n s0.now }
  if s.hk.supOut.testBit n then s
  else
    let s1 := (s.updHk fun h => { h with supOut := h.supOut ||| 2 ^ n, discard := h.discard || decide (n = 3 ∨ n = 4) }).setFld ⟨R.SUP_STAT, 8 + n, 8 + n⟩ 0 1
    s1.when ((s.fld F.SUP_CFG_EN).testBit n) fun s => s.raise DS.SUPPLY n

/-- Monitor n has been without assertion for 1 ms (R417). -/
def State.supplyBack (s : State) (n : Nat) : Bool := s.hk.supOut.testBit n && decide (s.hk.supAt.toArray.getD n 0 + tMs ≤ s.now)

/-- Monitor n is back in range (R417). -/
def State.supplyIn (s : State) (n : Nat) : State :=
  s.updHk fun h => { h with supOut := if h.supOut.testBit n then h.supOut - 2 ^ n else h.supOut }

/-- HK_CMD.SHUT_CLR (R413). -/
def State.shutClear (s : State) : State :=
  if s.cooled then s.updHk fun h => { h with shut := false } else s.setFld F.HK_STAT_CMD_REF 0 1

/-- HK_CMD.PEAK_CLR (R420). -/
def State.peakClear (s : State) : State := s.updHk fun h => { h with peak := h.dieMax, peakSns := h.hottest }

/-! ### Registers as read (R420) -/

/-- HK_STAT, but for STORE_SUSP. -/
def State.hkStat (s : State) (susp : Bool) : Word :=
  let warn := (allFin 32).any fun i => s.snsValid i && (s.sns i).warn
  let w := setBitsOf (setBitsOf (setBitsOf (s.rd R.HK_STAT) 31 31 (b2n s.hk.shut)) 30 30 (b2n warn)) 29 29 (b2n s.hk.rateHi)
  setBitsOf (setBitsOf (setBitsOf w 28 28 (b2n susp)) 20 16 s.hk.hottest) 15 0 (s.hk.dieMax % 65536).toNat
/-- SNS_STAT and REEF_STAT. -/
def State.snsStat (s : State) (i : Fin 32) : Word :=
  let x := s.sns i
  if s.hasSns i then nat32 (b2n (s.snsFailed i) * 2 ^ 31 + (if s.snsFailed i then x.why else 0) * 2 ^ 28 + x.recov * 2 ^ 21 + (x.t % 65536).toNat) else 0#32
def State.reefStat (s : State) (m : Fin 16) : Word :=
  let r := s.reef m
  let f := (fToInt .rz 0 32768 (fMul r.reef (fOfInt 32768))).1.toNat
  nat32 (b2n (!r.frozen.isEmpty) * 2 ^ 31 + b2n r.fallbk * 2 ^ 30 + b2n r.der * 2 ^ 29 + r.gov * 2 ^ 24 + f)
def State.tpeak (s : State) : Word := nat32 (s.hk.peakSns * 2 ^ 27 + (s.hk.peak % 65536).toNat)
def State.supStat (s : State) : Word := setBitsOf (s.rd R.SUP_STAT) 5 0 s.hk.supOut

end Sys2Proof.Machine
end

