-- ==== Sys2Proof/Machine/StoreArea.lean ====
section
/-! DEFINITION. Machine/StoreArea.lean: the words of the embedded store, its areas, and what a pulse, an erase or an abort leaves in them (R389, R414–R418, R546–R550). -/

namespace Sys2Proof.Machine

/-- What an erased word reads as. -/
abbrev stBlank : Word := 0xFFFFFFFF#32

/-- Replace the store's state by a function of it. -/
def State.updStore (s : State) (f : Store → Store) : State := { s with store := f s.store }

/-- Word i of the store (byte 4i). -/
def State.stWord (s : State) (i : Nat) : Word := spGet stBlank s.store.mem i
/-- `n` words from word i. -/
def State.stWords (s : State) (i n : Nat) : List Word := (List.range n).map fun j => s.stWord (i + j)

/-- Words from `lo` below `hi` are all erased. -/
def spBlank (lo hi : Nat) (m : Sparse) : Bool := m.all fun e => decide (e.1 < lo) || decide (hi ≤ e.1)
def State.stErased (s : State) (i n : Nat) : Bool := spBlank i (i + n) s.store.mem

/-- Write words from word i on. -/
def putWords (m : Sparse) (i : Nat) : List Word → Sparse
  | [] => m
  | w :: r => putWords (spSet stBlank m i w) (i + 1) r

/-- One program pulse writes a row (R549). -/
def State.stProgram (s : State) (i : Nat) (ws : List Word) : State := s.updStore fun t => { t with mem := putWords t.mem i ws }
/-- A sector of 512 words is erased (R549). -/
def State.stErase (s : State) (sector : Nat) : State :=
  s.updStore fun t => { t with mem := t.mem.filter fun e => decide (e.1 / 512 ≠ sector) }

/-- The words an aborted pulse or erase leaves (R416): free values. -/
def State.stAbort (s : State) (i n : Nat) : State :=
  s.stProgram i ((List.range n).map fun j => Config.stAborted s.now (i + j))

/-! ### Areas, in words (R549) -/

/-- First word of image bank b, of a journal half, of a fault slot, of an audit slot. -/
def bankWord (b : Nat) : Nat := 49152 * b
def jHalfWord (h : Nat) : Nat := 98304 + 8192 * h
def jSlotWord (h i : Nat) : Nat := jHalfWord h + 4 * i
def faultWord (i : Nat) : Nat := 114688 + 8 * i
def audWord (i : Nat) : Nat := 122880 + 4 * i
/-- Sector of a word. -/
def sectorOfWord (i : Nat) : Nat := i / 512

/-- First and number of ordinary fault slots; the reserve lies behind them (R389, log entry 38). -/
def faultOrd : Nat := 1016

/-- The reserved slots that are erased (FC_STORE.RSV). -/
def State.rsvFree (s : State) : Nat := ((List.range 8).filter fun i => s.stErased (faultWord (faultOrd + i)) 8).length
/-- The reserved slot written next. -/
def State.rsvSlot (s : State) : Option Nat :=
  ((List.range 8).find? fun i => s.stErased (faultWord (faultOrd + i)) 8).map fun i => faultOrd + i

/-- A stored record's CRC is intact (R389). -/
def State.faultValid (s : State) (i : Nat) : Bool :=
  let w := s.stWords (faultWord i) 8
  crc32 (bytesOf (w.take 7)) == w.getD 7 0#32
/-- FC_STORE.STORED. -/
def State.faultStored (s : State) : Nat := ((List.range 1024).filter s.faultValid).length

/-! ### When the store may work (R414–R418) -/

/-- Furl with cause THERMAL (R416). -/
def State.thermalFurl (s : State) : Bool := s.furl.causes.testBit FC.THERMAL
/-- The 1.8 V flash regulator is out of range (R418). -/
def State.flashLow (s : State) : Bool := s.hk.supOut.testBit 5
/-- A multi-step operation that has begun may go on (R414). -/
def State.stMayGoOn (s : State) : Bool := !s.flashLow && (!s.hk.shut || s.cooled)
/-- A store operation may start (R416, R418). -/
def State.stMayStart (s : State) : Bool := !s.flashLow && !s.thermalFurl && s.stMayGoOn
/-- The one pulse of a record with a reserved slot may start: in furl with cause THERMAL that of TEMP_SHUTDOWN alone, and then as after a shut-down
only while TS23 reads 155 °C or less (R389, R416). -/
def State.stMayReserve (s : State) (r : Rec) : Bool :=
  !s.flashLow && (!s.thermalFurl || decide (r.src = DS.TEMP_SHUTDOWN)) && (!(s.thermalFurl || s.hk.shut) || !s.storeHot)
/-- A command or a compaction that has begun is suspended (R414, ST_STAT.SUSP, HK_STAT.STORE_SUSP). -/
def State.stSusp (s : State) : Bool :=
  ((s.store.cmd.isSome && s.store.begun) || !s.store.jSteps.isEmpty) && s.store.pulse.isNone && !s.stMayGoOn
/-- A pulse under way is aborted (R414, R418). -/
def State.stMustAbort (s : State) : Bool := s.store.pulse.isSome && (s.flashLow || (s.hk.shut && s.storeHot))

end Sys2Proof.Machine
end

