-- ==== Sys2Proof/Machine/Faults.lean ====
section
/-! DEFINITION. Machine/Faults.lean: the fault collector (R362–R393): from the events of a cycle to records, reactions, wakes and acknowledgement. -/

namespace Sys2Proof.Machine

/-! ### A source and its settings -/

/-- A number as a mast. -/
def asMast (n : Nat) : Option (Fin 16) := if h : n < 16 then some ⟨n, h⟩ else none

/-- The mast and k of a mast source (R363). -/
def srcMast (src : Nat) : Option Nat := if src < 0x40 then none else some ((src - 0x40) / 12)
def srcK (src : Nat) : Nat := (src - 0x40) % 12

/-- The group of a device source (R364). -/
def srcGroup (src : Nat) : Nat :=
  if 0x03 ≤ src ∧ src ≤ 0x09 then 0
  else if 0x0C ≤ src ∧ src ≤ 0x11 then 1
  else if 0x12 ≤ src ∧ src ≤ 0x16 then 2
  else if 0x17 ≤ src ∧ src ≤ 0x1B then 3
  else if src = 0x1C ∨ src = 0x1D then 4
  else if src = 0x1E ∨ src = 0x1F then 5
  else if 0x20 ≤ src ∧ src ≤ 0x23 then 6
  else 7

/-- A field of FC_SRC_CFG of a source. -/
def State.src (s : State) (f : Fld) (src : Nat) : Nat := s.fld f src

/-- Code of a reaction of STOP-MAST (R371): STOP_COAST 3, STOP_ASC 4, STOP_RAMP 5, MAST_RESET 6. -/
def State.stopCode (s : State) (src : Nat) : Nat := 3 + s.src F.FC_SRC_CFG_STOP src

/-- The reaction of a record by its final severity (R371). -/
def State.reactionOf (s : State) (src sev : Nat) : Nat :=
  match sev with
  | 0 => 0
  | 1 => 1
  | 2 => 2
  | 3 => s.stopCode src
  | _ => if s.src F.FC_SRC_CFG_ALL src = 1 then 8 else 7

/-! ### Records -/

/-- SEQ_STAT as read (R230). -/
def State.seqStat (s : State) (m : Fin 16) : Word :=
  let x := s.mast m
  (s.rd (keyI R.SEQ_STAT m) &&& maskOf 27 23) |||
    nat32 (x.seq.refWhy % 8 * 2 ^ 20 + x.hal.jamCount % 16 * 2 ^ 16 + x.seq.outcome % 8 * 2 ^ 8 + x.seq.st.num)

/-- The four words of a record (R387). -/
def Rec.words (r : Rec) : List Word :=
  [nat32 r.seq, nat32 r.sec, nat32 (b2n r.acked * 2 ^ 31 + b2n r.conseq * 2 ^ 30 + r.ns),
   nat32 (r.detail % 256 * 2 ^ 24 + b2n r.esc * 2 ^ 23 + (match r.mast with | some m => m | none => 31) * 2 ^ 18 +
     r.react * 2 ^ 14 + r.bsev * 2 ^ 11 + r.sev * 2 ^ 8 + r.src)]

/-- A record is pending from its source (R375). -/
def State.srcPend (s : State) (src : Nat) : Bool := s.fc.pend.any fun r => r.src == src

/-- The highest pending severity among records a test accepts. -/
def maxSev (p : Rec → Bool) (l : List Rec) : Nat := l.foldl (fun a r => if p r then max a r.sev else a) 0

/-! ### Counting (R368) -/

/-- The boundary count of a source's mast; 0 for a device source. -/
def State.srcBound (s : State) (src : Nat) : Nat :=
  match srcMast src with
  | some m => (match asMast m with | some i => (s.mast i).bCount | none => 0)
  | none => 0

/-- A stamp lies in the window of its source now, by the settings of `b`. -/
def State.stampIn (s b : State) (e : Nat × Nat × Nat) : Bool :=
  let w := b.src F.FC_SRC_CFG_WIN e.1
  match b.src F.FC_SRC_CFG_WUNIT e.1, srcMast e.1 with
  | 0, some _ => decide (s.srcBound e.1 < e.2.2 + w)
  | 2, _ => decide (s.now < e.2.1 + w * tSec)
  | _, _ => decide (s.now < e.2.1 + w * tMs)

/-- Events of a source in its window, by the settings of `b`. -/
def State.srcCount (s b : State) (src : Nat) : Nat := (s.fc.stamps.filter fun e => e.1 == src && s.stampIn b e).length

/-- An event is counted: whether it promotes with those of its window, itself included, which clears the count (R368); by the settings at the start of the event's cycle (R367). -/
def State.count (s : State) (src : Nat) : Bool × State :=
  let n := s.before.src F.FC_SRC_CFG_CNT_N src
  if n = 0 then (false, s)
  else if n ≤ s.srcCount s.before src + 1 then (true, s.updFc fun f => { f with stamps := f.stamps.filter fun e => e.1 != src })
  else (false, s.updFc fun f => { f with stamps := (f.stamps.filter (s.stampIn s.before)) ++ [(src, s.now, s.srcBound src)] })

/-! ### Wakes (R379–R381) -/

/-- An open wake covers a source. -/
def State.inWake (s : State) (src : Nat) : Bool :=
  s.fc.wakes.any fun w => decide (s.now < w.until_) &&
    match srcMast src with
    | some m => w.kmask.testBit (srcK src) && (match w.mast with | some n => n == m | none => true)
    | none => w.gmask.testBit (srcGroup src)

/-- A reaction carried out opens or extends its wake; `mast` none: on every present mast. -/
def State.openWake (s : State) (code : Nat) (mast : Option Nat) (named : Bool) : State :=
  let n := s.fld F.FC_CONSEQ_WAKE code
  if n = 0 then s
  else
    let t := s.now + n * 50 * tUs
    let w : Wake := { react := code, mast := mast, until_ := t, kmask := if named then s.fld F.FC_CONSEQ_KMASK code else 0,
                      gmask := s.fld F.FC_CONSEQ_GMASK code }
    let same := fun (x : Wake) => x.react == code && decide (x.mast = mast) && decide (s.now < x.until_)
    let t2 := s.fc.wakes.foldl (fun a x => if same x then max a x.until_ else a) t
    s.updFc fun f => { f with wakes := (f.wakes.filter fun x => !same x) ++ [{ w with until_ := t2 }] }

/-- WAKE_END: a wake has ended. -/
def State.wakesEnd (s : State) : State := s.updFc fun f => { f with wakes := f.wakes.filter fun w => decide (s.now < w.until_) }

/-! ### Classification (R367) -/

/-- A classified event: what its record will hold. -/
structure Verdict where
  ev : Ev
  sev : Nat
  react : Nat
  esc : Bool := false
  conseq : Bool := false

/-- Classification of one event; the state carries its counting. Every other test is of the state at the start of the event's cycle,
so that a record acknowledged within the cycle still escalates (R367, R376). -/
def State.classify (s : State) (e : Ev) : Option Verdict × State :=
  let b := s.before
  let src := e.src
  let base := b.src F.FC_SRC_CFG_SEV src
  if b.src F.FC_SRC_CFG_EN src = 0 then (none, s)
  else if b.inWake src then (some { ev := e, sev := base, react := 0, conseq := true }, s)
  else if (match e.mast with | some m => decide (0x40 ≤ src) && b.unrigged m | none => false) ||
      (b.src F.FC_SRC_CFG_IDLE src == 1 && decide (0x40 ≤ src) && b.mastIdle e.mast) then (some { ev := e, sev := 0, react := 0 }, s)
  else
    let sev := min 4 (base + b2n e.marked)
    let (p, s1) := s.count src
    let sev := if p then max sev (b.src F.FC_SRC_CFG_PSEV src) else sev
    let esc := decide (2 ≤ sev) && b.srcPend src
    let sev := if esc then min 4 (max sev (maxSev (fun r => r.src == src) b.fc.pend) + 1) else sev
    let sev := if sev = 3 && e.mast.isNone then 4 else sev
    (some { ev := e, sev := sev, react := b.reactionOf src sev, esc := esc }, s1)

/-- Events of one source in one cycle are one event, with the higher detail. -/
def mergeEv (e : Ev) : List Ev → List Ev
  | [] => [e]
  | x :: r => if x.src = e.src then (if x.detail < e.detail then e else x) :: r else x :: mergeEv e r

/-- Order of the records of a cycle (R377). -/
def verdictIns (v : Verdict) : List Verdict → List Verdict
  | [] => [v]
  | x :: r => if x.sev < v.sev ∨ (x.sev = v.sev ∧ v.ev.src < x.ev.src) then v :: x :: r else x :: verdictIns v r

/-- Every event of the cycle is classified. -/
def State.classifyAll (s : State) : List Ev → List Verdict × State
  | [] => ([], s)
  | e :: r =>
    let (v, s1) := s.classify e
    let q := s1.classifyAll r
    match v with
    | some x => (verdictIns x q.1, q.2)
    | none => q

/-! ### Writing a record (R370, R377–R378, R382, R386–R390) -/

/-- A NOTE or WARN record is suppressed (R370). -/
def State.suppressed (s : State) (v : Verdict) : Bool :=
  s.flag F.FC_CTL_SUPP_EN && decide (v.sev < 2) && s.fc.lastRound.any fun e => e.1 == v.ev.src && e.2 == s.hk.round

/-- SUPP of a source increments. -/
def bumpSupp (src : Nat) : List (Nat × Nat) → List (Nat × Nat)
  | [] => [(src, 1)]
  | e :: r => if e.1 = src then (src, satNat 255 (e.2 + 1)) :: r else e :: bumpSupp src r

/-- What a record's mast shows in its stored form: SEQ_STAT and V_BUS (R389). -/
def State.recWords (s : State) (r : Rec) : Word × Word :=
  match r.mast.bind asMast with
  | some m => (s.seqStat m, s.msig m 0x023)
  | none => (0#32, 0#32)

/-- A record is to be stored: LOG, or another reaction but NONE at STORE_SEV or above (R373, R389; DEDUCED, log entry 87); one of WARN in 10 s for a
source. -/
def State.storable (s : State) (r : Rec) : Bool :=
  (r.react == 1 || (r.react != 0 && decide (s.fld F.FC_CTL_STORE_SEV ≤ r.sev))) &&
    !(decide (r.sev = 1) && s.fc.lastStored.any fun e => e.1 == r.src && decide (s.now < e.2 + 10 * tSec))

/-- The record goes to the store queue, or is lost (R389). -/
def State.storeRec (s : State) (r : Rec) : State :=
  if !s.storable r then s
  else
    let x := s.recWords r
    let e := (r, x.1, x.2)
    let warn := fun (f : Fc) => if r.sev = 1 then { f with lastStored := (r.src, s.now) :: f.lastStored.filter fun e => e.1 != r.src } else f
    if (r.react == 8 || r.src == DS.TEMP_SHUTDOWN) && decide (s.fc.rsvQueue.length < s.rsvFree) then
      s.updFc fun f => { warn f with rsvQueue := f.rsvQueue ++ [e] }
    else if s.fc.queue.length < 16 then s.updFc fun f => { warn f with queue := f.queue ++ [e] }
    else (s.bump F.FC_CNT_STORE_LOST 0).setFld F.FC_STAT_STORE_OVF 0 1

/-- The on-chip log takes a record; whether it overwrote one not yet read (R388). -/
def putLog (slot : Nat) (r : Rec) : List (Nat × Rec) → List (Nat × Rec) × Bool
  | [] => ([(slot, r)], false)
  | e :: l => if e.1 = slot then ((slot, r) :: l, !e.2.isRead) else let q := putLog slot r l; (e :: q.1, q.2)

/-- The next sequence number (R377). -/
def nextSeq (n : Nat) : Nat := if n = 2 ^ 32 - 1 then 1 else n + 1

/-- A record is written: the record, whether it is pending. -/
def State.writeRec (s : State) (v : Verdict) (logOnly : Bool := false) : Rec × Bool × State :=
  let n := nextSeq s.fc.seq
  let bypass := v.ev.src == DS.FC_PEND_FULL
  let pend := decide (2 ≤ v.sev) && !v.conseq && !bypass && decide (s.fc.pend.length < 64)
  let r : Rec := { seq := n, sec := s.before.tbSec % 2 ^ 32, ns := s.before.tbNs, detail := v.ev.detail, esc := v.esc, mast := v.ev.mast,
                   react := v.react, bsev := min 4 (s.before.src F.FC_SRC_CFG_SEV v.ev.src + b2n v.ev.marked), sev := v.sev, src := v.ev.src,
                   conseq := v.conseq, acked := decide (v.sev < 2) }
  let (log, lost) := putLog (n % 256) r s.fc.log
  let s1 := s.updFc fun f =>
    { f with seq := n, log := log, pend := if pend then f.pend ++ [r] else f.pend,
             fullDue := f.fullDue || (decide (2 ≤ v.sev) && !v.conseq && !bypass && !pend),
             lastRound := if v.sev < 2 then (v.ev.src, s.hk.round) :: f.lastRound.filter fun e => e.1 != v.ev.src else f.lastRound }
  let s2 := s1.when lost fun s => s.setFld F.FC_STAT_LOG_WRAP 0 1
  let s3 := s2.when (s.fc.first.isNone && decide (s.fld F.FC_CTL_FIRST_SEV ≤ v.sev)) fun s => s.updFc fun f => { f with first := some r }
  let s4 := (s3.bump F.FC_CNT_REC 0).when v.conseq fun s => s.bump F.FC_CNT_CONSEQ 0
  let s5 := s4.when (!v.conseq && decide (s.fld F.FC_CTL_IRQ_SEV ≤ v.sev)) fun s => s.setFld F.FC_STAT_NEWREC 0 1
  let s6 := s5.when (decide (s.fld F.TRC_TRIG_SEV ≤ v.sev)) fun s => s.trcCond 2
  let s7 := s6.trcRecord 4 0 v.ev.src (nat32 n) (nat32 v.sev)
  let s8 := s7.when (s.src F.FC_SRC_CFG_CTXEN v.ev.src == 1) fun s => s.trigger (s.src F.FC_SRC_CFG_CTX v.ev.src) TK.FAULT n 0
  (r, pend, if logOnly then s8.updFc fun f => { f with queue := if f.queue.length < 16 then f.queue ++ [(r, 0#32, 0#32)] else f.queue } else s8.storeRec r)

/-! ### Effects tied to a record (R384, R385) -/

/-- The effect of an event of mast source k begins, with a pending record (`held`) or without (R385). A chopper is failed by what declared it
failed (R339, R354), which an event of FC_TEST (detail 0xFF) does not. -/
def State.beginEffect (s : State) (m : Fin 16) (k detail : Nat) (held : Bool) : State :=
  match k with
  | 5 => s.updShr m fun h => { h with chopFailed := h.chopFailed || detail != 0xFF, chopFree := !held && (h.chopFree || detail != 0xFF) }
  | 6 => s.updSense m fun x => { x with shuntBad := true, shuntBadFree := !held }
  | 7 => s.updSense m fun x => { x with inlBarNext := true, inlBarFree := !held }
  | _ => s

/-- The effect of source k of mast m ends where nothing holds it any more: neither a pending record nor, unless `all`, an event without one
(R384, R385). -/
def State.endEffect (s : State) (m : Fin 16) (k : Nat) (all : Bool) : State :=
  let held := s.srcPend (0x40 + 12 * m.val + k)
  match k with
  | 5 => s.updShr m fun h =>
      { h with chopFailed := h.chopFailed && (held || (!all && h.chopFree)), chopFree := h.chopFree && !all }
  | 6 => s.updSense m fun x =>
      { x with shuntBad := x.shuntBad && (held || (!all && x.shuntBadFree)), shuntBadFree := x.shuntBadFree && !all }
  | 7 => s.updSense m fun x =>
      let on := held || (!all && x.inlBarFree)
      { x with inlBar := x.inlBar && on, inlBarNext := x.inlBarNext && on, inlBarFree := x.inlBarFree && !all }
  | _ => s

/-- The effect an event ties to its source begins with it. -/
def State.eventEffect (s : State) (e : Ev) (held : Bool) : State :=
  match (srcMast e.src).bind asMast with
  | some m => s.beginEffect m (srcK e.src) e.detail held
  | none => s

/-! ### Reactions (R373, R374) -/

/-- Rank of a reaction code, 0 the highest (R374). -/
def reactRank : Nat → Nat
  | 8 => 0
  | 7 => 1
  | 4 => 2
  | 6 => 3
  | 3 => 4
  | 5 => 5
  | _ => 6

/-- The masts whose named reaction is to be chosen: (mast, code, restart), the highest-ranked for each. -/
def chooseReact (m code : Nat) (restart : Bool) : List (Nat × Nat × Bool) → List (Nat × Nat × Bool)
  | [] => [(m, code, restart)]
  | e :: r =>
    if e.1 = m then (if reactRank code < reactRank e.2.1 then (m, code, restart) else e) :: r
    else e :: chooseReact m code restart r

/-- A mast block reset starts (R392, R575). -/
def State.mastReset (s : State) (m : Fin 16) (restart : Bool) : State :=
  if (s.mast m).resetAt.isSome then s.updM m fun x => { x with restart := x.restart || restart }
  else (s.gateMark m).updM m fun x => { x with resetAt := some s.now, restart := restart }

/-- A reaction on one mast is carried out. -/
def State.reactMast (s : State) (m : Fin 16) (code : Nat) (restart : Bool) : State :=
  let s1 := match code with
    | 3 => (s.gateMark m).seqFault m
    | 4 => (((s.gateMark m).seqFault m).updSeq m fun q => { q with ascHold := true }).refreshSafe m
    | 5 => s.seqRamp m
    | 6 => s.mastReset m restart
    | _ => s
  s1.openWake code (some m.val) true

/-- Reactions of a cycle's records: DEVICE_RESET before FURL before one for each mast. -/
def State.react (s : State) (vs : List Verdict) : State :=
  let vs := vs.filter fun v => !v.conseq
  -- NONE, LOG and DERATE stand beside any other
  let s0 := vs.foldl (fun s v => if v.react < 3 then s.openWake v.react v.ev.mast v.ev.mast.isSome else s) s
  if vs.any (fun v => v.react == 8) then
    ({ s0 with fc.resetDue := some (match s0.fc.resetDue with | some t => t | none => s0.now) }).openWake 8 none true
  else if vs.any (fun v => v.react == 7) then (s0.furlEnter FC.REACTION).openWake 7 none true
  else
    let l := vs.foldl (fun l v => match v.ev.mast with
      | some m => if 3 ≤ v.react ∧ v.react ≤ 6 then chooseReact m v.react (s.src F.FC_SRC_CFG_RESTART v.ev.src == 1) l else l
      | none => l) []
    l.foldl (fun s e => match asMast e.1 with | some m => s.reactMast m e.2.1 e.2.2 | none => s) s0

/-! ### One cycle, and settling -/

/-- Records of the classified events are written in order; those written come back. -/
def State.writeAll (s : State) : List Verdict → List Verdict × State
  | [] => ([], s)
  | v :: r =>
    if s.suppressed v then
      let s1 := (s.updFc fun f => { f with supp := bumpSupp v.ev.src f.supp }).eventEffect v.ev false
      s1.writeAll r
    else
      let (_, p, s1) := s.writeRec v
      let (l, s2) := (s1.eventEffect v.ev p).writeAll r
      (v :: l, s2)

/-- The events delivered so far are those of one cycle: classified, recorded, reacted to (R362, R377). -/
def State.collect (s : State) : State :=
  let evs := s.fc.events.foldl (fun l e => mergeEv e l) []
  let s0 := s.updFc fun f => { f with events := [] }
  let off := evs.filter fun e => s0.before.src F.FC_SRC_CFG_EN e.src == 0
  let s1 := off.foldl (fun s e => s.eventEffect e false) s0
  let (vs, s2) := s1.classifyAll evs
  let (ws, s3) := s2.writeAll vs
  s3.react ws

/-- The events of the cycle are collected; those its reactions raise, FURL_ENTERED among them, are the next cycle's (R362, R366). -/
def settle : Nat → State → State
  | 0, s => s
  | n + 1, s => if s.fc.events.isEmpty then s else settle n s.collect.turn

/-- The collector's work of the present cycle is done. -/
def State.settled (s : State) : State := settle 4 s

/-- A SPARCLK cycle begins with time at `t`: the collector has dealt with the cycle before. -/
def State.cycle (s : State) (t : Nat) : State := (s.settled.advance (t - s.now)).turn

/-- The path decisions of the coming periods that fall due up to the instant t (R123). -/
def State.look (s : State) (t : Nat) : State := s.mastList.foldl (fun s m => s.pathLook m t) s

/-- A calendar command of the cycle before is carried out; the host's answers in CAL_RES, a lane's in its context (R318, R488). -/
def State.calJob (s : State) (j : CalJob) : State :=
  let r := s.calRun j
  match j.dest with
  | none => State.calRes r
  | some (c, d) => r.1.updC c fun x => { x with v := x.v.set (Fin.ofNat 16 d) (wordOfInt r.2), fl := x.fl.calOf (wordOfInt r.2) }

/-- The calendar commands of the cycle before, in their order (R488). -/
def State.calCycle (s : State) : State := s.cal.jobs.foldl (fun s j => s.calJob j) { s with cal.jobs := [] }

/-- The writes made while their timebase did not run take effect as the next cycle begins (R75). -/
def State.letFree (s : State) : State :=
  if s.deferred.any (·.free) then
    { (s.deferred.filter (·.free)).foldl (fun s d => s.gateMark (Fin.ofNat 16 (d.key / 0x2000))) s with
      deferred := s.deferred.filter fun d => !d.free }
  else s

/-- The cycle that begins at `c1`: the ring has taken what the one before has for it, and the collector has dealt with that one; writes that waited for
it take effect, a SET_TIME loads, the calendar's commands are carried out, the requests the sequencers hold act (R75, R201, R362, R458, R488). -/
def State.nextCycle (s : State) (c1 : Nat) : State := ((((((s.look (c1 - 1)).sendPosts.cycle c1).letFree).tbLoad).calCycle).seqCycle).sigTick

/-- The latest of the cycles after it, which begins at `c`, its signals updated as in those it skips: a third update does what further ones do. -/
def State.laterCycle (s : State) (c : Nat) : State :=
  let s1 := ((s.look (c - 1)).cycle c).sigTick
  if s.now + tSpar < c then s1.sigTick else s1

/-- Time passes by `dt` taps, through the beginnings of the SPARCLK cycles in it. -/
def State.elapse (s : State) (dt : Nat) : State :=
  let t := s.now + dt
  let c1 := (s.now / tSpar + 1) * tSpar
  if t < c1 then (s.look t).advance dt
  else
    let c := t / tSpar * tSpar
    let s1 := s.nextCycle c1
    let s2 := if c1 < c then s1.laterCycle c else s1
    (s2.look t).advance (t - c)

/-- A transaction of the host port finds a cycle without an access (DESIGN CHOICE, log entry 86). -/
def State.hostTurn (s : State) : State :=
  if s.cyc.host then { s.elapse (tSpar - s.now % tSpar) with cyc.host := false } else s

/-- An access of the host port falls into a cycle of its own. -/
def State.hostCycle (s : State) : State := { s.hostTurn with cyc.host := true }

/-! ### The store's next pulse (R389, R414–R418, R547, R548, R550) -/

/-- The words of a stored record (R389). -/
def State.faultWords (s : State) (e : Rec × Word × Word) : List Word :=
  let w := e.1.words ++ [nat32 s.store.boots, e.2.1, e.2.2]
  w ++ [crc32 (bytesOf w)]

/-- A command's first or next pulse begins. -/
def State.stBegin (s : State) (p : Pulse) : State :=
  s.updStore fun t => { t with pulse := some p, begun := t.begun || p == .cmd }

/-- The sector of a running command's next step: erases and pulses, or a step without a pulse (R550). -/
def State.cmdMay (s : State) : Bool :=
  s.store.cmd.isSome && !s.store.compact && (if s.store.begun then s.stMayGoOn else s.stMayStart)

/-- The next pulse or erase of a compaction under way may begin (R414, R558). -/
def State.stepMay (s : State) : Bool := !s.store.jSteps.isEmpty && s.stMayGoOn

/-- The store takes up its next pulse or erase (R550). DESIGN CHOICE, log entry 108: a compaction comes where the running command does, and before it. -/
def State.stKick (s : State) : State :=
  if s.store.pulse.isSome || !s.clk.locked then s
  else
    match s.fc.rsvQueue.find? (fun e => s.stMayReserve e.1), s.rsvSlot with
    | some e, some i => (s.stBegin (.fault i (s.faultWords e))).updFc fun f => { f with rsvQueue := f.rsvQueue.erase e }
    | _, _ =>
      match s.store.audQ, s.stMayStart with
      | ws :: r, true =>
        let i := s.store.audPos
        if i % 128 = 0 ∧ s.stErased (audWord i) 512 = false then s.stBegin (.auditErase (sectorOfWord (audWord i)))
        else (s.stBegin (.audit i ws)).updStore fun t => { t with audQ := r, audPos := (i + 1) % 2048 }
      | _, _ =>
        match s.fc.queue, s.stMayStart with
        | e :: r, true =>
          let i := s.store.faultPos
          if i % 64 = 0 ∧ s.stErased (faultWord i) 512 = false then s.stBegin (.faultErase (sectorOfWord (faultWord i)))
          else ((s.stBegin (.fault i (s.faultWords e))).updFc fun f => { f with queue := r }).updStore fun t =>
            { t with faultPos := (i + 1) % faultOrd }
        | _, _ => if s.stepMay then s.stBegin .step else if s.cmdMay then s.stBegin .cmd else s

/-- The running command ends with a result (R561). -/
def State.stEnd (s : State) (result : Nat) : State :=
  let s1 := (s.setFld F.ST_STAT_DONE 0 1).when (decide (result ≠ 0)) fun s => s.setFld F.ST_STAT_ERR 0 1
  s1.updStore fun t => { t with cmd := none, begun := false, abort := false, result := result }

/-- The words the pulse or erase of a command touches. -/
def StCmd.span : StCmd → Nat × Nat × Nat → Nat × Nat
  | .erase bank left, _ => ((bankWord bank) + 512 * left.headD 0, 512)
  | .prog i ws, _ => (i, ws.length)
  | .commit bank ws, _ => (bankWord bank + 49144, ws.length)
  | .append _ _ _, j => (jSlotWord j.1 j.2.1, 4)
  | .load _, _ => (0, 0)

/-- The words a step of a compaction touches: `h` is the half in force. -/
def JStep.span (h : Nat) : JStep → Nat × Nat
  | .put i ws => (i, ws.length)
  | .head _ ws => (jSlotWord (1 - h) 0, ws.length)
  | .wipe n => (512 * n, 512)

/-- A step of a compaction is lost: its words are left open (R416); before the header the compaction begins anew, behind it the erase is repeated
(R558; DESIGN CHOICE, log entry 108). -/
def State.jStepLost (s : State) : State :=
  match s.store.jSteps with
  | [] => s
  | x :: r =>
    let w := x.span s.store.jHalf
    let again := (x :: r).any fun y => match y with | .head _ _ => true | _ => false
    (s.stAbort w.1 w.2).updStore fun t => { t with jSteps := if again then [] else t.jSteps }

/-- The pulse or erase under way is aborted; a command ends with RESULT 7 (R414, R561, R572). -/
def State.stAbortPulse (s : State) : State :=
  match s.store.pulse with
  | none => s
  | some p =>
    let s1 := s.updStore fun t => { t with pulse := none }
    match p with
    | .fault i ws => s1.stAbort (faultWord i) ws.length
    | .audit i ws => s1.stAbort (audWord i) ws.length
    | .faultErase n => s1.stAbort (512 * n) 512
    | .auditErase n => s1.stAbort (512 * n) 512
    | .cmd =>
      match s.store.cmd with
      | none => s1
      | some c =>
        let x := c.span (s.store.jHalf, s.store.jPos, 0)
        (s1.stAbort x.1 x.2).stEnd 7
    | .step => s1.jStepLost

/-- Every meaning ends here: the store takes up its next pulse. -/
def State.finish (s : State) : State := (if s.stMustAbort then s.stAbortPulse else s).stKick

/-- A command is carried out. -/
def done (s : State) : Host.Outcome State Fault Refusal := .next s.finish

/-! ### Acknowledgement (R382–R385) -/

/-- Mark a record acknowledged wherever it is held. -/
def Fc.ack (f : Fc) (n : Nat) : Fc :=
  { f with pend := f.pend.filter (fun r => r.seq != n),
           log := f.log.map (fun e => if e.2.seq = n then (e.1, { e.2 with acked := true }) else e),
           first := f.first.map (fun r => if r.seq = n then { r with acked := true } else r) }

/-- A pending record is acknowledged: the effects its source has no other pending record for end (R384). -/
def State.ackRec (s : State) (r : Rec) : State :=
  let s1 := s.updFc fun f => f.ack r.seq
  match (srcMast r.src).bind asMast with
  | some m => s1.endEffect m (srcK r.src) false
  | none => s1

/-- A write of FC_ACK under a role (R383). The record acknowledged, for the audit log. -/
def State.fcAck (s : State) (n : Nat) : Option Rec × State :=
  match s.fc.pend.find? fun r => r.seq == n with
  | some r =>
    if decide (n = 0) || (r.sev == 4 && s.role.role == 0) then (none, s.setFld F.FC_STAT_ACK_REF 0 1)
    else (some r, s.ackRec r)
  | none => (none, s.setFld F.FC_STAT_ACK_REF 0 1)

/-- FC_CMD.ACK_ALL (R383, R385). -/
def State.fcAckAll (s : State) : State :=
  let ok := s.fc.pend.filter fun r => !(r.sev == 4 && s.role.role == 0)
  let s1 := ok.foldl (fun s r => s.ackRec r) s
  s1.mastList.foldl (fun s m => [5, 6, 7].foldl (fun s k => s.endEffect m k true) s) s1

/-! ### Status registers as read -/

def State.fcStat (s : State) : Word :=
  (s.rd R.FC_STAT &&& maskOf 27 23) |||
    nat32 (maxSev (fun _ => true) s.fc.pend * 2 ^ 29 + b2n s.fc.first.isSome * 2 ^ 28 +
      b2n (s.fc.pend.any fun r => r.sev == 2 && r.mast.isNone) * 2 ^ 22 + s.fc.pend.length)

def State.fcSrcStat (s : State) : Word :=
  let src := s.fld F.FC_SEL_SRC
  if !srcPresent s.variant src then 0#32
  else
    nat32 (satNat 15 (s.srcCount s src) * 2 ^ 28 + (match s.fc.supp.find? fun e => e.1 == src with | some e => e.2 | none => 0) * 2 ^ 20 +
      b2n (s.srcPend src) * 2 ^ 19 + maxSev (fun r => r.src == src) s.fc.pend * 2 ^ 16)

def State.fcMastSev (s : State) : Word :=
  nat32 ((List.range 16).foldl (fun a m =>
    let v := maxSev (fun r => decide (r.mast = some m)) s.fc.pend
    a + (if v < 2 then 0 else v - 1) * 4 ^ m) 0)

def State.fcWake (s : State) : Word :=
  let ws := s.fc.wakes.filter fun w => decide (s.now < w.until_)
  let ms := s.mastList.foldl (fun a m =>
    if ws.any fun w => w.kmask != 0 && (match w.mast with | some n => n == m.val | none => true) then a + 2 ^ m.val else a) 0
  nat32 (ws.foldl (fun a w => a ||| w.gmask) 0 * 2 ^ 16 + ms)

/-- FLT_N is driven low (R390, R572, R582). -/
def State.fltLow (s : State) : Bool :=
  let f := s.fld F.FC_CTL_FLT_SEV
  let f := if f < 2 then 2 else f
  !s.clk.ready || s.furl.furled || decide (f ≤ maxSev (fun _ => true) s.fc.pend)

end Sys2Proof.Machine
end

