-- ==== Sys2Proof/Machine/Boundary.lean ====
section
/-! DEFINITION. Machine/Boundary.lean: what a boundary of a mast's timebase does, in its order, and what the release of a sample set leads to (R20–R27, R52, R53, R93, R102, R121–R133). -/

namespace Sys2Proof.Machine

/-! ### The compare pairs of the period that begins -/

/-- The staged pair of leg l in force: in step drive that of leg U, shaped during a transfer (R146, R152); b follows c unless ASYM
holds and the planner is off (R55, R56, R107). DESIGN CHOICE, log entry 105: in step drive the ASYM of leg U decides, with its compares. -/
def State.pairOf (s : State) (m : Fin 16) (l : Fin 4) (plan : Bool) : Nat × Nat :=
  let x := s.mast m
  let step := decide (x.com.drive = 2) && decide (l.val < 3)
  let src := if step then x.pwm.act.legs[0] else x.pwm.act.legs[l]
  let asym := s.elegFld F.LEG_CFG_ASYM m (if step then 0 else l) == 1 && !(plan && decide (l.val < 3))
  let own := fun (c : Nat) => (c, if s.centre m then c else 0)
  match (if decide (l.val < 3) then x.com.luff.bind fun f => s.luffCmp m f l src.a else none) with
  | some c => own c
  | none => if asym then (src.a, src.b) else own src.a

/-- A compare value is exact (R57). -/
def exactCmp (c : Nat) : Bool := decide (c = 0) || decide (c = 0x1FFFFF)

/-- A compare with an injection offset, kept clear of the exact values (R178, log entry 34). -/
def addDelta (c : Nat) (d : Int) : Nat := (clampInt 1 0x1FFFFE ((c : Int) + d)).toNat

/-- The pair of leg l with the chips of the period added (R178, R179). -/
def State.injPair (s : State) (m : Fin 16) (l : Fin 4) (ch : Option (Int × Int)) (th : Word) (x : Nat × Nat) : Nat × Nat :=
  match ch with
  | none => x
  | some c =>
    if l.val < 3 ∧ exactCmp x.1 = false then
      let per := (s.mast m).pwm.act.period
      (addDelta x.1 (s.injDelta m l per c.1 th), addDelta x.2 (s.injDelta m l per c.2 th))
    else x

/-- What leg l is resolved from (R67, R68). -/
def State.legIn (s : State) (m : Fin 16) (l : Fin 4) (tLen : Nat) (x : Nat × Nat) : LegIn :=
  let p := (s.mast m).pwm
  let a := p.act.legs[l]
  { centre := s.centre m, stretch := s.elegFld F.LEG_CFG_MINP_POL m l == 1, cal := (s.mast m).calValid[l], drive := s.legDrive m l
    tLen := tLen, per := p.act.period, p := s.presc m, c := x.1, b := x.2, dtr := a.dtr, dtf := a.dtf, minp := a.minp }

/-- The sheet state of leg l (R79). -/
def State.sheetOf (s : State) (m : Fin 16) (l : Nat) : Nat := ((s.mast m).pwm.sheet >>> (2 * l)) % 4

/-- A leg whose REF follows compares: PHASE or FREE (R68, R77). -/
def State.refLeg (s : State) (m : Fin 16) (l : Nat) : Bool := s.legFunc m l == 1 || s.legFunc m l == 2

/-- The outcome of leg l, and the flag of its row where the leg is in PASS (R68, R79). -/
def State.legPlan (s : State) (m : Fin 16) (l : Fin 4) (tLen : Nat) (x : Nat × Nat) : LegPlan × CaseFlag :=
  if s.refLeg m l then
    let r := resolveLeg (s.legIn m l tLen x)
    (r.1, if s.sheetOf m l = 0 then r.2 else .none)
  else (.off, .none)

/-- The outcome as the sheet leaves it, which the planner and the duties work with (R93, R103). -/
def sheeted (sheet : Nat) (p : LegPlan) : LegPlan :=
  match sheet with
  | 1 => .off
  | 2 => .low
  | 3 => .high
  | _ => p

/-- PWM_STAT after the rows of the case table (R68). -/
def State.caseFlags (s : State) (m : Fin 16) (l : List CaseFlag) : State :=
  let s1 := s.when (l.contains .cfgErr) fun s => s.setFld F.PWM_STAT_CFG_ERR m 1
  let s2 := s1.when (l.contains .cmpSat) fun s => s.setFld F.PWM_STAT_CMP_SAT m 1
  s2.when (l.contains .minpAct) fun s => s.setFld F.PWM_STAT_MINP_ACT m 1

/-- EFF_DUTY of leg l for a period of T taps (R93). -/
def State.effDuty (s : State) (m : Fin 16) (l : Fin 4) (tLen : Nat) : Word := if tLen = 0 then fZero else fOfRat (s.highTime m l tLen : Nat) tLen

/-- EFF_DUTY_X of a chopper: its share of the period that ends at b (R93). -/
def State.chopDuty (s : State) (m : Fin 16) (b : Nat) : Word :=
  let h := (s.mast m).shr
  let p := (s.mast m).pwm
  let on := h.chopAcc + (if h.chopOn then b - h.chopSince else 0)
  if p.tLen = 0 then fZero else fMin fOne (fOfRat on p.tLen)

/-- EFF_DUTY_U to EFF_DUTY_X and BOUNDARY_NO at the boundary k, with T of the period that begins (R93). -/
def State.dutySigs (s : State) (m : Fin 16) (tLen k : Nat) (chopX : Option Word) : List (Nat × Word) :=
  [(0x1F0, s.effDuty m 0 tLen), (0x1F1, s.effDuty m 1 tLen), (0x1F2, s.effDuty m 2 tLen), (0x1F3, chopX.getD (s.effDuty m 3 tLen)), (0x1F5, nat32 k)]

/-- EFF_DUTY_X where leg X is a chopper (R93). -/
def State.chopX (s : State) (m : Fin 16) (b : Nat) : Option Word := if s.legFunc m 3 = 3 then some (s.chopDuty m b) else none

/-! ### The plan of a period -/

/-- The step of a leg's REF edges in taps: a tick of the prescaler above 1, a PWMCLK cycle without a valid calibration, else a tap (R54, R63). -/
def State.edgeStep (s : State) (m : Fin 16) (l : Fin 4) : Nat :=
  if s.presc m ≠ 1 then 32 * s.presc m else if (s.mast m).calValid[l] then 1 else 32

/-- The period that begins: outcomes of the four legs, the planner's result, and the state with its flags (R68, R102). DESIGN CHOICE, log entry 104: the
planner excludes an UNUSED leg. -/
def State.planPeriod (s : State) (m : Fin 16) (b tLen : Nat) (inl : Bool) (ch : Option (Int × Int)) : State × PlanOut :=
  let on := s.plannerOn m
  let th := (s.mast m).com.thetaAt (b + tLen / 2)
  let r := Vector.ofFn fun (l : Fin 4) => s.legPlan m l tLen (s.injPair m l ch th (s.pairOf m l on))
  let s1 := s.caseFlags m (r.toList.map (·.2))
  let t0 := s.perTaps m (s.mast m).pwm.act.period
  let slew := if s.flag F.PWM_ANCH_EN m then 2 ^ s.fld F.PWM_ANCH_SLEW m else 0
  let out : PlanOut :=
    if on then
      runPlanner
        { centre := s.centre m, inl := inl, tLen := tLen, mid := ((t0 / 2 : Nat) : Int), lim := (t0 : Int) - (slew : Nat)
          times := s.planTimes m, pseq := s.eword m R.PSEQ
          fix := (s.fixedAt m 0 tLen, s.fixedAt m 1 tLen)
          legs := ((allFin 4).filter fun (l : Fin 4) => decide (l.val < 3) && s.refLeg m l).map fun (l : Fin 4) =>
            (l.val, sheeted (s.sheetOf m l) r[l].1, (s.legIn m l tLen (0, 0)).m, s.edgeStep m l) }
    else { plan := {}, evalOk := false, shifts := [] }
  (s1.updPwm m fun p => { p with plans := Vector.ofFn fun (l : Fin 4) => (r[l].1).shift (out.shifts.getD l.val 0) }, out)

/-! ### Releases -/

/-- The release of sample set `c`: its signals, then every unit that works on it, then the loop context (R20–R22). -/
def State.release (s : State) (m : Fin 16) (c : Cap) : State :=
  let r := s.writeSet m c
  let s1 := r.1.comRelease m c r.2.iOk
  let s2 := s1.seqRelease m c r.2.vOk
  let s3 := s2.cmdRelease m r.2.vOk
  let s4 := s3.regenRelease m
  let s5 := (s4.halRelease m c.tLen).rampRelease m
  let s6 := s5.busRelease m r.2.vOk
  if (s6.mast m).resetAt.isSome || s6.unrigged m then s6 else s6.loopTrigger m c.k

/-! ### A boundary -/

/-- A boundary of mast m has come and its earlier sets have been released (R48, log entry 15). -/
def State.boundaryDue (s : State) (m : Fin 16) : Bool :=
  let x := s.mast m
  s.hasMast m && x.pwm.counting && decide (x.pwm.bNext ≤ s.now) && x.sense.capOld.isNone

/-- The timebase stops at the boundary b (R53, R133). DESIGN CHOICE, log entry 95: no period begins, so PERIOD_S keeps its value, and the duties of the
gates as they are left are shares of the period that ends. -/
def State.stopAt (s : State) (m : Fin 16) (b : Nat) : State :=
  let p := (s.mast m).pwm
  let last := p.stepPend.getLast?
  let chop := s.chopX m b
  let s1 := s.updPwm m fun p =>
    { p with
      counting := false, bPrev := b, k := 0, tLen := 0, plans := Vector.replicate 4 .low, shadow := [], dueSets := [], stepPend := []
      fired := 31 }
  let s2 := (s1.updSense m fun x => { x with released := true, capOld := none, cap := {}, pathNext := none, chgNext := false }).dropValid m
  let s3 := { s2 with deferred := s2.deferred.filter fun d => decide (d.key / 0x2000 ≠ m.val) }
  let s4 := match last with | some e => s3.hardStep m e.1 b | none => s3
  let s5 := ((s4.luffEnd m b).propagate m b).seqBoundary m b
  let s6 := s5.updSeq m fun q => { q with enterK := 0 }
  let s7 := ((s6.cutEnd m).leaveSafe m).groupStopped m
  s7.putMs m (s7.dutySigs m p.tLen p.k chop)

/-- The polarity sequence gives the compares of U, V and W (R183). -/
def State.polarityCmp (s : State) (m : Fin 16) (b tLen : Nat) : State :=
  let x := s.mast m
  if x.com.est = .polarity ∧ x.seq.st = .polarity then
    let r := s.polCmp m (x.com.thetaAt (b + tLen / 2))
    let s1 := s.updPwm m fun p => { p with act := p.act.withPair r.1 }
    (s1.updCom m fun c => { c with vmSat := r.2, pol := { c.pol with n := c.pol.n + 1 } }).when r.2 fun s => s.comFlag m F.COM_STAT_VM_SAT
  else s

/-- The chips of the period that begins, while the generator runs (R176, R177). -/
def State.chipsFor (s : State) (m : Fin 16) : Option (Int × Int × Nat) :=
  if s.injRuns m && s.centre m then some (s.nextChips m) else none

/-- The period that begins at boundary b with number k (R23, R27, R93, R102–R123). -/
def State.beginPeriod (s : State) (m : Fin 16) (b tLen : Nat) (path : Bool × Nat) (chg : Bool) : State :=
  let k := (s.mast m).pwm.k
  let ch := s.chipsFor m
  let pl := s.planPeriod m b tLen path.1 (ch.map fun c => (c.1, c.2.1))
  let s1 := pl.1
  let chop := s1.chopX m b
  let s2 := s1.updPwm m fun p =>
    { p with bPrev := b, bNext := b + tLen, tLen := tLen, k := k + 1, fired := 0 }
  let s3 := s2.cutEnd m
  let s4 := s3.updShr m fun h => { h with chopSince := b }
  let d := fun (l : Fin 4) => s4.effDuty m l tLen
  let chips := ch.getD (0, 0, (s4.mast m).com.lfsr)
  let cap : Cap :=
    { k := k, b0 := b, tLen := tLen, inline := path.1, reason := path.2, plan := pl.2.plan, off := s4.uvwOff m, barred := (s4.mast m).sense.inlBar
      changed := chg, dU := d 0, dV := d 1, dW := d 2, vbus := s4.msig m 0x023, chipA := chips.1, chipB := chips.2.1, open_ := true }
  let s5 := s4.updSense m fun x =>
    { x with
      inline := path.1, reason := path.2, planOk := if pl.2.plan.active then pl.2.evalOk else x.planOk
      recEnd := decide (16 ≤ x.planOkRun)
      planOkRun := if (if pl.2.plan.active then pl.2.evalOk else x.planOk) then x.planOkRun + 1 else 0
      pathNext := none
      capOld := if x.released then none else some x.cap, cap := cap, released := false, chgNext := false }
  let s6 := s5.updCom m fun c => { c with lfsr := chips.2.2 }
  s6.putMs m ((0x1F4, fSeconds tLen) :: s6.dutySigs m tLen k chop)

/-- What the boundary at `b` closes, whether a period begins at it or not: the gates and REF as the period leaves them (R59), the waiting writes
(R75), the in-line bar (R135), and the level of an index that is not enabled (R161). -/
def State.closePeriod (s : State) (m : Fin 16) (b : Nat) : State :=
  let s0 := s.when (decide (s.efld F.QUAD_CFG_ZEN m = 0)) fun s => s.noteZ m
  let s1 := (s0.gateMark m).updM m fun x =>
    { x with bCount := x.bCount + 1, pwm := { x.pwm with refWas := Vector.ofFn fun l => x.pwm.plans[l].refEnd (s.cutOf m l) x.pwm.tLen } }
  ((s1.applyDeferred m b).ofsLook m).updSense m fun x => { x with inlBar := x.inlBarNext }

/-- A period begins at the boundary b: the reload, the sequencer, the anchor, the drive and the compares, then the plan (R23, R81, R87). -/
def State.nextPeriod (s : State) (m : Fin 16) (b : Nat) (path : Bool × Nat) : State :=
  let chg := (s.mast m).sense.chgNext
  let s2 := (((s.reload m b).leaveSafe m).propagate m b).seqBoundary m b
  let a := s2.anchorStep m b
  let tLen := ((s2.perTaps m (s2.mast m).pwm.act.period : Int) + a.2).toNat
  let s3 := ((a.1.polarityCmp m b tLen).forcedAngle m b tLen).refreshDrive m b
  let s4 := (s3.stepBoundary m b tLen).holdMask m b
  s4.beginPeriod m b tLen path chg

/-- The boundary of mast m at bNext (R23); one at which the counter stops triggers the boundary context too (R76). -/
def State.boundary (s : State) (m : Fin 16) : State :=
  let b := (s.mast m).pwm.bNext
  -- a set without conversions is released here (R132)
  let c := (s.mast m).sense.cap
  let s0 := if !(s.mast m).sense.released && c.empty then s.release m c else s
  let path := (s0.mast m).sense.pathNext.getD (s0.pathFor m)
  let s1 := s0.closePeriod m b
  let k := (s1.mast m).pwm.k
  let s6 := if !s1.running m then s1.stopAt m b else s1.nextPeriod m b path
  let quiet := (s6.mast m).resetAt.isSome || s6.unrigged m
  let s7 := s6.when (s1.efld F.LOOP_CFG_BEN m == 1 && !quiet) fun s => s.trigger (s1.efld F.LOOP_CFG_BCTX m) TK.BOUNDARY m.val k
  s7.shroudLook m

/-- Window recovery begins or ends at the boundary that has come, by the periods before it (R122). -/
def State.recStartDue (s : State) (m : Fin 16) : Bool :=
  s.hasMast m && (s.mast m).pwm.counting && decide (s.now = (s.mast m).pwm.bPrev) && !(s.mast m).sense.recovery && decide (4 ≤ (s.mast m).sense.recInv)
def State.recEndDue (s : State) (m : Fin 16) : Bool :=
  s.hasMast m && (s.mast m).pwm.counting && decide (s.now = (s.mast m).pwm.bPrev) && (s.mast m).sense.recovery && (s.mast m).sense.recEnd

end Sys2Proof.Machine
end

