-- ==== Sys2Proof/Machine/MemPort.lean ====
section
/-! DEFINITION. Machine/MemPort.lean: the memory port: grants, the end and the abandonment of a transaction, execute in place, the PSRAM mapping, software sequences (R517–R531). -/

namespace Sys2Proof.Machine

/-- Replace the memory port's state by a function of it. -/
def State.updMem (s : State) (f : MemPort → MemPort) : State := { s with mem := f s.mem }

/-- A setting or a push is refused. -/
def State.memCfgErr (s : State) : State := s.setFld F.MEM_STAT_CFG_ERR 0 1

/-! ### Grants (R519) -/

/-- The sequence that waits for its grant. -/
def MemPort.seqWaits (p : MemPort) : Bool :=
  p.seqOn.isSome && (match p.busy with | some (.seq, _) => false | _ => true)

/-- A sequence has waited 100 µs (R519). -/
def State.seqOld (s : State) : Bool :=
  s.mem.seqWaits && (match s.mem.seqOn with | some q => decide (q.2.2 + 100 * tUs ≤ s.now) | none => false)

/-- The request to be granted next (R519). -/
def State.memNext (s : State) : Option MemReq :=
  let p := s.mem
  match p.fetches with
  | l :: _ => some (.fetch l)
  | [] =>
    if s.seqOld then some .seq
    else match p.reads with
      | r :: _ => some (.sread r.1 r.2)
      | [] =>
        if !s.eng.wbuf.isEmpty then some .swrite
        else match p.traces with
          | t :: _ => some (.trace t.1 t.2)
          | [] => match p.pre with
            | l :: _ => some (.prefetch l)
            | [] => if p.seqWaits then some .seq else none

/-- The contexts that wait for a line. -/
def State.lineWaiters (s : State) (line : Nat) : List (Fin 64) := s.ctxList.filter fun c => (s.ctx c).wait == some (.fetch line)

/-- The fetch of a line fails for every context that waits for it (R527). -/
def State.lineFails (s : State) (line : Nat) : State :=
  (s.lineWaiters line).foldl (fun s c => (s.fetchFail c)) (s.updMem fun p => { p with fetches := p.fetches.filter fun l => l != line })

/-- CSH in taps: MSCK cycles of 120 MHz divided by 2^DIV, 0 taken as 1 (R517, R519). -/
def State.selHigh (s : State) : Nat := atLeast1 (s.fld F.MEM_CFG_CSH) * (tSpar * 2 ^ s.fld F.MEM_CFG_DIV)

/-- The selects have been high for CSH since the transaction before (R519). -/
def State.selRested (s : State) : Bool := match s.mem.endAt with | some t => decide (t + s.selHigh ≤ s.now) | none => true

/-- A transaction may be granted (R519). -/
def State.memReady (s : State) : Bool := s.mem.busy.isNone && s.memNext.isSome && s.selRested && (s.flag F.MEM_CFG_EN || !s.mem.fetches.isEmpty)

/-! ### What the port sends (R518, R520, R521, R525) -/

/-- Lanes of the command, the address and the data in a mode (R535, MODE). -/
def modeLanes (m : Nat) : Nat × Nat × Nat :=
  match m with
  | 1 => (1, 1, 2) | 2 => (1, 2, 2) | 3 => (2, 2, 2) | 4 => (1, 1, 4) | 5 => (1, 4, 4) | 6 => (4, 4, 4) | 7 => (4, 4, 4)
  | 8 => (1, 1, 8) | 9 => (1, 8, 8) | 10 => (8, 8, 8) | 11 => (8, 8, 8) | _ => (1, 1, 1)

/-- 8D-8D-8D (R535). -/
def mode8D (m : Nat) : Bool := m == 11
/-- The address and the data of a mode go at DDR: 4S-4D-4D and 8D-8D-8D (R535). -/
def modeDdr (m : Nat) : Bool := m == 7 || m == 11

/-- The command phase: one byte, or in 8D-8D-8D the command and its extension, inverted or repeated (R518). -/
def cmdPhase (m : Nat) (cmdx : Bool) (cmd : Byte) : BusPhase :=
  { lanes := (modeLanes m).1, ddr := mode8D m, data := .command (if mode8D m then [cmd, if cmdx then cmd else ~~~cmd] else [cmd]) }

/-- A byte address as the port sends it: three bytes or four, always four in 8D-8D-8D (R518); PRESUMED, log entry 100: the most significant byte
first. -/
def addrPhase (m : Nat) (addr4 : Bool) (a : Nat) : BusPhase :=
  let b := fun (k : Nat) => BitVec.ofNat 8 (a / 256 ^ k)
  { lanes := (modeLanes m).2.1, ddr := modeDdr m, data := .address (if addr4 || mode8D m then [b 3, b 2, b 1, b 0] else [b 2, b 1, b 0]) }

/-- The mode bits, sent as the address is (R525; log entry 100). -/
def mbitsPhase (m : Nat) (w : Byte) : BusPhase := { lanes := (modeLanes m).2.1, ddr := modeDdr m, data := .mode [w] }

/-- Dummy cycles, none where the count is 0 (R518). -/
def dummyPhases (m n : Nat) : List BusPhase := if n = 0 then [] else [{ lanes := (modeLanes m).2.2, ddr := modeDdr m, data := .dummy n }]

/-- The data read: MDQS is the strobe of 8D reads alone (R517, R518). -/
def readPhase (m n : Nat) : BusPhase := { lanes := (modeLanes m).2.2, ddr := modeDdr m, data := .read n (mode8D m) }
/-- The data written (R518). -/
def writePhase (m : Nat) (bytes : List Byte) : BusPhase := { lanes := (modeLanes m).2.2, ddr := modeDdr m, data := .write bytes }

/-- The bytes of a word, the least significant first (R520, R524). -/
def leBytes (w : Word) : List Byte := [w.extractLsb' 0 8, w.extractLsb' 8 8, w.extractLsb' 16 8, w.extractLsb' 24 8]

/-- A read of `n` bytes of the flash at a byte address: with the command, unless the flash is held in continuous mode (R518, R525). -/
def State.flashFrame (s : State) (held : Bool) (mbits : Byte) (a n : Nat) : MemFrame :=
  let m := s.fld F.MEM_XIP_MODE
  let cmd := cmdPhase m (s.flag F.MEM_XIP_CMDX) (BitVec.ofNat 8 (s.fld F.MEM_XIP_CMD))
  { sel := 1
    phases := (if held then [] else [cmd]) ++ [addrPhase m (s.flag F.MEM_XIP_ADDR4) a] ++
      (if held || s.flag F.MEM_XIP_CONT then [mbitsPhase m mbits] else []) ++ dummyPhases m (s.fld F.MEM_XIP_DUMMY) ++ [readPhase m n] }

/-- The read of a line (R524, R525). -/
def State.lineFrame (s : State) (l : Nat) : MemFrame :=
  s.flashFrame (s.mem.xipCont && s.flag F.MEM_XIP_CONT) (BitVec.ofNat 8 (s.fld F.MEM_XIP_MBITS)) (s.fld F.MEM_XBASE_BASE * 65536 + 64 * l) 64

/-- The read that ends continuous mode: one byte at address 0, MBITS inverted (R525). -/
def State.exitFrame (s : State) : MemFrame := s.flashFrame true (~~~BitVec.ofNat 8 (s.fld F.MEM_XIP_MBITS)) 0 1

/-- The command and the address of an access to the PSRAM at a byte address (R518, R520). -/
def State.psHead (s : State) (cmd : Nat) (a : Nat) : List BusPhase :=
  let m := s.fld F.MEM_PSRAM_MODE
  [cmdPhase m (s.flag F.MEM_PSRAM_CMDX) (BitVec.ofNat 8 cmd),
   addrPhase m (s.flag F.MEM_PSRAM_ADDR4) (if s.flag F.MEM_PSRAM_AWORD then a / 2 else a)]

/-- A burst read from the PSRAM (R518, R520). -/
def State.psRead (s : State) (a n : Nat) : MemFrame :=
  let m := s.fld F.MEM_PSRAM_MODE
  { sel := 2, phases := s.psHead (s.fld F.MEM_PSCMD_RD_CMD) a ++ dummyPhases m (s.fld F.MEM_PSRAM_DUMMY) ++ [readPhase m n] }

/-- A burst written to the PSRAM (R518, R520, R521). -/
def State.psWrite (s : State) (a : Nat) (ws : List Word) : MemFrame :=
  let m := s.fld F.MEM_PSRAM_MODE
  { sel := 2
    phases := s.psHead (s.fld F.MEM_PSCMD_WR_CMD) a ++ dummyPhases m (s.fld F.MEM_PSCMD_WR_DUMMY) ++ [writePhase m (ws.flatMap leBytes)] }

/-- The byte address of trace record r (R521). -/
def State.traceByte (s : State) (r : Nat) : Nat :=
  2 ^ s.fld F.MEM_PSRAM_SIZE * 1048576 - s.fld F.MEM_PSRAM_TRACE * 16384 + 16 * r

/-- What the port sends by itself for a request (R518–R525). -/
def State.framesOf (s : State) (r : MemReq) : List MemFrame :=
  match r with
  | .fetch l => [s.lineFrame l]
  | .prefetch l => [s.lineFrame l]
  | .sread _ id => [s.psRead (4 * (id - 0x10000)) 4]
  | .swrite => (match s.eng.wbuf with | (id, w) :: _ => [s.psWrite (4 * (id - 0x10000)) [w]] | [] => [])
  | .trace p ws => [s.psWrite (s.traceByte p) ws]
  | .seq => (match s.mem.seqOn with | some q => if q.2.1 = 1 ∧ s.mem.xipCont = true then [s.exitFrame] else [] | none => [])

/-- The next transaction begins (R519, R525); a fetch with the port or the window off fails (R527). -/
def State.memBegin (s : State) : State :=
  match s.memNext with
  | none => s
  | some r =>
    let go : State := s.updMem fun p => { p with busy := some (r, s.now), frames := s.framesOf r, sent := [], stale := false }
    match r with
    | .fetch l => if !s.flag F.MEM_CFG_EN || !s.flag F.MEM_XIP_EN then s.lineFails l else go.updMem fun p => { p with fetches := p.fetches.filter fun x => x != l }
    | .sread _ _ => go.updMem fun p => { p with reads := p.reads.drop 1 }
    | .trace _ _ => go.updMem fun p => { p with traces := p.traces.drop 1 }
    | .prefetch _ => go.updMem fun p => { p with pre := p.pre.drop 1 }
    | .seq => go.updMem fun p =>
        { p with xipCont := p.xipCont && (match p.seqOn with | some q => q.2.1 != 1 | none => true) }
    | .swrite => go

/-! ### The end of a transaction -/

/-- Clearing EN of MEM_PSRAM takes effect once the write buffer has drained (R522). -/
def State.psDrained (s : State) : State :=
  if s.mem.unmap && s.eng.wbuf.isEmpty then (s.setFld F.MEM_PSRAM_EN 0 0).updMem fun p => { p with unmap := false } else s

/-- A line goes into the least recently used of the four buffers (R524). -/
def State.putLine (s : State) (line : Nat) (ws : List Word) : State :=
  s.updMem fun p => { p with bufs := ((line, ws.take 16) :: p.bufs.filter fun b => b.1 != line).take 4, xipCont := s.flag F.MEM_XIP_CONT }

/-- The next sequential line is prefetched unless it is held (R524). -/
def State.wantNext (s : State) (line : Nat) : State :=
  if 16383 < line + 1 ∨ s.mem.bufs.any (fun b => b.1 == line + 1) = true ∨ s.mem.pre.contains (line + 1) = true then s
  else s.updMem fun p => { p with pre := p.pre ++ [line + 1] }

/-- The end of a software sequence, granted or not (R526, R528, R531). -/
def State.seqEnds (s : State) (sel : Nat) : State :=
  (s.updMem fun p => match p.busy with
    | some (.seq, _) => { p with busy := none, endAt := some s.now, frames := [], seqOn := none, bufs := if sel = 1 then [] else p.bufs }
    | _ => { p with seqOn := none }).gpioRelease

/-- The top `n` bits of a word, the others 0 (R528). -/
def topBits (n : Nat) (w : Word) : Word := if 32 ≤ n then w else w &&& ~~~(BitVec.ofNat 32 (2 ^ (32 - n) - 1))

/-- A sequence as it runs: the phases left, the queues, what has been sent (R528). -/
structure SeqRun where
  ph : List Phase
  tx : List Word
  rx : List Word
  sent : List (Nat × Word)
  deriving DecidableEq, Repr

/-- A running sequence moves on with its queues and the words received (R528, R530). Each step consumes one word or one phase. -/
def runPhases : Nat → SeqRun → List Word → SeqRun
  | 0, q, _ => q
  | n + 1, q, din =>
    match q.ph with
    | [] => q
    | p :: r =>
      let next : List Phase := { p with left := p.left - 32 } :: r
      if p.left = 0 ∨ 2 ≤ p.kind then runPhases n { q with ph := r } din
      else if p.kind = 0 then
        match q.tx with
        | [] => q
        | w :: t => runPhases n { q with ph := next, tx := t, sent := q.sent ++ [(if p.left < 32 then p.left else 32, topBits p.left w)] } din
      else
        match din with
        | [] => q
        | w :: d => if 16 ≤ q.rx.length then q else runPhases n { q with ph := next, rx := q.rx ++ [topBits p.left w] } d

/-- Words a list of phases can move, and its phases: the bound of `runPhases`. -/
def phaseFuel (l : List Phase) : Nat := l.foldl (fun n p => n + 2 + p.left / 32) 2

/-- A sequence runs as far as its queues allow (R528–R530). -/
def State.seqRun (s : State) (data : List Word) : State :=
  match s.mem.seqOn with
  | none => s
  | some (ph, sel, at_) =>
    let r := runPhases (phaseFuel ph) { ph := ph, tx := s.mem.tx, rx := s.mem.rx, sent := s.mem.sent } data
    let s1 := s.updMem fun p => { p with tx := r.tx, rx := r.rx, sent := r.sent, seqOn := some (r.ph, sel, at_) }
    if r.ph.isEmpty then (s1.seqEnds sel).memFlag F.MEM_STAT_SEQ_DONE else s1

/-- The transaction in progress ends; `data`: the words read (R519–R530). -/
def State.memEnd (s : State) (ok : Bool) (data : List Word) : State :=
  match s.mem.busy with
  | none => s
  | some (r, _) =>
    let s1 := s.updMem fun p => { p with busy := none, endAt := some s.now, frames := [] }
    match r with
    | .fetch l =>
      if ok then
        let s2 := s1.putLine l data
        ((s.lineWaiters l).foldl (fun s c => s.unblock c) s2).wantNext l
      else s1.lineFails l
    | .prefetch l => if ok && !s.mem.stale then s1.putLine l data else s1
    | .sread c id => s1.deliver c (some id) none (data.getD 0 0#32)
    | .swrite => (s1.updEng fun e => { e with wbuf := e.wbuf.drop 1 }).psDrained
    | .trace _ _ => s1
    | .seq => s.seqRun data

/-- The transaction in progress has lasted MEM_CFG.TMO µs (R523). -/
def State.memTmoDue (s : State) : Bool :=
  let n := s.fld F.MEM_CFG_TMO
  match s.mem.busy with
  | some (_, t) => decide (t + (if n = 0 then 1 else n) * tUs ≤ s.now)
  | none => false

/-- The transaction is abandoned (R523, R527). -/
def State.memTmo (s : State) : State :=
  match s.mem.busy with
  | none => s
  | some (r, _) =>
    let s0 := match r, s.mem.seqOn with | .seq, some q => s.seqEnds q.2.1 | _, _ => s.updMem fun p => { p with busy := none, endAt := some s.now, frames := [] }
    let s1 := (s0.memFlag F.MEM_STAT_TMO).raise DS.MEM_PORT 1
    match r with
    | .fetch l => s1.lineFails l
    | .sread c id =>
      -- the read completes with NaN, and U of the reader is set (R247)
      let s2 := s1.deliver c (some id) none qNaN
      (match asCtx c with | some x => s2.setU x | none => s2)
    | .swrite => (s1.updEng fun e => { e with wbuf := e.wbuf.drop 1 }).psDrained
    | .trace _ _ => s1.bump F.TRC_STAT_LOST 0
    | .prefetch _ => s1
    | .seq => s1

/-! ### Commands of the port (R528–R530) -/

/-- Bits of a phase per MSCK cycle (R529). -/
def phBits (w : Word) : Nat := 2 ^ bitsOf w 29 28 * (if bitOf w 27 then 2 else 1)
/-- LEN of a phase; 0 means 8,192. -/
def phLen (w : Word) : Nat := let n := bitsOf w 12 0; if n = 0 then 8192 else n

/-- A push to MEM_PH is refused (R529). -/
def State.phRefused (s : State) (w : Word) : Bool :=
  let k := bitsOf w 31 30
  decide (8 ≤ s.mem.phq.length) || decide (k = 3) || (decide (k < 2) && decide (phLen w % phBits w ≠ 0))

/-- A push to MEM_PH (R529). -/
def State.memPush (s : State) (w : Word) : State :=
  if s.phRefused w then s.memCfgErr
  else s.updMem fun p => { p with phq := p.phq ++ [w] }

/-- A write of MEM_DATA (R530). -/
def State.memTx (s : State) (w : Word) : State :=
  if 16 ≤ s.mem.tx.length then s.memCfgErr else s.updMem fun p => { p with tx := p.tx ++ [w] }

/-- A read of MEM_DATA; none: the queue is empty (R530). -/
def State.memRx (s : State) : Option Word × State :=
  match s.mem.rx with
  | [] => (none, s)
  | w :: r => (some w, s.updMem fun p => { p with rx := r })

/-- ABORT (R529). -/
def State.memAbort (s : State) : State :=
  let s1 := s.updMem fun p => { p with tx := [], rx := [], phq := [] }
  match s1.mem.seqOn with
  | some q => s1.seqEnds q.2.1
  | none => s1

/-- A phase word as a phase. -/
def phaseOf (w : Word) : Phase := { kind := bitsOf w 31 30, left := phLen w, lanes := 2 ^ bitsOf w 29 28, ddr := bitOf w 27 }

/-- GO (R528, R529). -/
def State.memGo (s : State) (w : Word) : State :=
  let n := bitsOf w 3 0
  if n = 0 ∨ s.mem.phq.length < n ∨ bitsOf w 29 28 = 3 ∨ s.mem.seqOn.isSome = true ∨ s.flag F.MEM_CFG_EN = false then s.setFld F.MEM_STAT_SEQ_REF 0 1
  else s.updMem fun p => { p with seqOn := some ((p.phq.take n).map phaseOf, bitsOf w 29 28, s.now), phq := p.phq.drop n }

/-- A write of MEM_CMD: ABORT prevails (R535). -/
def State.memCmd (s : State) (w : Word) : State := if bitOf w 30 then s.memAbort else if bitOf w 31 then s.memGo w else s

/-! ### Settings (R517, R520, R522, R526) -/

/-- A context that is not DISABLED runs from the external window (R526). -/
def State.xipUsed (s : State) : Bool := s.ctxList.any fun c => (s.ctx c).st != .disabled && s.fld F.CTX_CFG_BANK c == 2

/-- A write of MEM_XIP or MEM_XBASE (R517, R526, R535). -/
def State.memXip (s : State) (key : Nat) (w : Word) : State :=
  let mode := bitsOf w 30 27
  if s.xipUsed || (key == R.MEM_XIP && (decide (12 ≤ mode) || (decide (mode = 11) && !s.flag F.MEM_CFG_DQS))) then s.memCfgErr
  else (s.wr key w).updMem fun p => { p with bufs := [], pre := [], stale := true }

/-- A write of MEM_PSRAM (R517, R520, R522, R535). -/
def State.memPsram (s : State) (w : Word) : State :=
  let old := s.rd R.MEM_PSRAM
  let mode := bitsOf w 30 27
  if bitOf old 31 then
    if w = setBitsOf old 31 31 0 then (s.updMem fun p => { p with unmap := true }).psDrained
    else s.memCfgErr
  else if 12 ≤ mode ∨ 5 ≤ bitsOf w 19 17 ∨ (mode = 11 ∧ s.flag F.MEM_CFG_DQS = false) ∨
      2 ^ bitsOf w 19 17 * 1048576 ≤ bitsOf w 15 8 * 16384 then s.memCfgErr
  else s.wr R.MEM_PSRAM w

/-- A write of MEM_PSCMD (R522). -/
def State.memPscmd (s : State) (w : Word) : State :=
  if s.flag F.MEM_PSRAM_EN then s.memCfgErr else s.wr R.MEM_PSCMD w

/-- MEM_STAT and MEM_TRACE as read (R535). -/
def State.memStat (s : State) : Word :=
  let p := s.mem
  (s.rd R.MEM_STAT &&& maskOf 30 26) |||
    nat32 (b2n p.seqOn.isSome * 2 ^ 31 + b2n p.xipCont * 2 ^ 25 + satNat 16 s.eng.wbuf.length * 2 ^ 16 + p.phq.length * 2 ^ 10 +
      p.tx.length * 2 ^ 5 + p.rx.length)
def State.memTrace (s : State) : Word := nat32 (b2n s.mem.trWrapped * 2 ^ 31 + s.mem.trPos % 2 ^ 20)

end Sys2Proof.Machine
end

