-- ==== Sys2Proof/Machine/Crypto.lean ====
section
/-! DEFINITION. Machine/Crypto.lean: SHA-256 (FIPS 180-4), HMAC-SHA-256 (FIPS 198-1) and ECDSA P-256 verification (FIPS 186-5), the standards R539, R541, R551 and R579 name (log entry 39). -/

namespace Sys2Proof.Machine

/-! ### SHA-256 -/

/-- The 64 constants. -/
def shaK : List Nat :=
  [0x428A2F98, 0x71374491, 0xB5C0FBCF, 0xE9B5DBA5, 0x3956C25B, 0x59F111F1, 0x923F82A4, 0xAB1C5ED5, 0xD807AA98, 0x12835B01, 0x243185BE, 0x550C7DC3, 0x72BE5D74, 0x80DEB1FE, 0x9BDC06A7, 0xC19BF174] ++
  [0xE49B69C1, 0xEFBE4786, 0x0FC19DC6, 0x240CA1CC, 0x2DE92C6F, 0x4A7484AA, 0x5CB0A9DC, 0x76F988DA, 0x983E5152, 0xA831C66D, 0xB00327C8, 0xBF597FC7, 0xC6E00BF3, 0xD5A79147, 0x06CA6351, 0x14292967] ++
  [0x27B70A85, 0x2E1B2138, 0x4D2C6DFC, 0x53380D13, 0x650A7354, 0x766A0ABB, 0x81C2C92E, 0x92722C85, 0xA2BFE8A1, 0xA81A664B, 0xC24B8B70, 0xC76C51A3, 0xD192E819, 0xD6990624, 0xF40E3585, 0x106AA070] ++
  [0x19A4C116, 0x1E376C08, 0x2748774C, 0x34B0BCB5, 0x391C0CB3, 0x4ED8AA4A, 0x5B9CCA4F, 0x682E6FF3, 0x748F82EE, 0x78A5636F, 0x84C87814, 0x8CC70208, 0x90BEFFFA, 0xA4506CEB, 0xBEF9A3F7, 0xC67178F2]

/-- The initial hash value. -/
def shaH0 : List Nat := [0x6A09E667, 0xBB67AE85, 0x3C6EF372, 0xA54FF53A, 0x510E527F, 0x9B05688C, 0x1F83D9AB, 0x5BE0CD19]

/-- Addition modulo 2^32, rotation and shift of 32-bit numbers. -/
def sAdd (a b : Nat) : Nat := (a + b) % 2 ^ 32
def sRot (n x : Nat) : Nat := ((x >>> n) ||| (x <<< (32 - n))) % 2 ^ 32
def sNot (x : Nat) : Nat := 2 ^ 32 - 1 - x

/-- The message schedule, newest word first: `n` further words. -/
def shaExpand : Nat → List Nat → List Nat
  | 0, w => w
  | n + 1, w =>
    let a := w.getD 14 0
    let b := w.getD 1 0
    let s0 := sRot 7 a ^^^ sRot 18 a ^^^ (a >>> 3)
    let s1 := sRot 17 b ^^^ sRot 19 b ^^^ (b >>> 10)
    shaExpand n (sAdd (sAdd (w.getD 15 0) s0) (sAdd (w.getD 6 0) s1) :: w)

/-- One round on the eight working variables. -/
def shaRound (v : List Nat) (k w : Nat) : List Nat :=
  match v with
  | [a, b, c, d, e, f, g, h] =>
    let s1 := sRot 6 e ^^^ sRot 11 e ^^^ sRot 25 e
    let ch := (e &&& f) ^^^ (sNot e &&& g)
    let t1 := sAdd (sAdd h s1) (sAdd ch (sAdd k w))
    let s0 := sRot 2 a ^^^ sRot 13 a ^^^ sRot 22 a
    let mj := (a &&& b) ^^^ (a &&& c) ^^^ (b &&& c)
    [sAdd t1 (sAdd s0 mj), a, b, c, sAdd d t1, e, f, g]
  | v => v

/-- One block of 16 words. -/
def shaBlock (h blk : List Nat) : List Nat :=
  let w := (shaExpand 48 blk.reverse).reverse
  let v := (shaK.zip w).foldl (fun v e => shaRound v e.1 e.2) h
  (h.zip v).map fun e => sAdd e.1 e.2

/-- Big-endian words of a byte list whose length is a multiple of 4; the first argument bounds their number. -/
def wordsBE : Nat → List Nat → List Nat
  | 0, _ => []
  | _ + 1, [] => []
  | n + 1, l => natBE (l.take 4) :: wordsBE n (l.drop 4)

/-- The blocks of a word list. -/
def shaBlocks : Nat → List Nat → List Nat → List Nat
  | 0, _, h => h
  | _ + 1, [], h => h
  | n + 1, w, h => shaBlocks n (w.drop 16) (shaBlock h (w.take 16))

/-- A number as `n` bytes, big-endian. -/
def bytesBE : Nat → Nat → List Nat
  | 0, _ => []
  | n + 1, v => bytesBE n (v / 256) ++ [v % 256]

/-- The padded message. -/
def shaPad (l : List Nat) : List Nat :=
  let z := (119 - l.length % 64) % 64
  l ++ [0x80] ++ List.replicate z 0 ++ bytesBE 8 (8 * l.length)

/-- SHA-256 of bytes, as 32 bytes. -/
def sha256 (l : List Nat) : List Nat :=
  let p := shaPad l
  (shaBlocks (p.length / 64) (wordsBE (p.length / 4) p) shaH0).flatMap (bytesBE 4)

/-! ### HMAC -/

/-- HMAC-SHA-256 with a 32-byte key. -/
def hmacSha256 (key msg : List Nat) : List Nat :=
  let k := key ++ List.replicate (64 - key.length) 0
  sha256 (k.map (fun b => b ^^^ 0x5C) ++ sha256 (k.map (fun b => b ^^^ 0x36) ++ msg))

/-! ### ECDSA P-256 -/

/-- The field prime, the group order, the coefficient b and the base point. -/
def ecP : Nat := 0xFFFFFFFF00000001000000000000000000000000FFFFFFFFFFFFFFFFFFFFFFFF
def ecN : Nat := 0xFFFFFFFF00000000FFFFFFFFFFFFFFFFBCE6FAADA7179E84F3B9CAC2FC632551
def ecB : Nat := 0x5AC635D8AA3A93E7B3EBBD55769886BC651D06B0CC53B0F63BCE3C3E27D2604B
def ecG : Nat × Nat :=
  (0x6B17D1F2E12C4247F8BCE6E563A440F277037D812DEB33A0F4A13945D898C296,
   0x4FE342E2FE1A7F9B8EE7EB4A7C0F9E162BCE33576B315ECECBB6406837BF51F5)

/-- a − b modulo p. -/
def ecSub (a b : Nat) : Nat := (a + (ecP - b % ecP)) % ecP

/-- Power modulo m, over the low `n` bits of e. -/
def powMod (m : Nat) : Nat → Nat → Nat → Nat
  | 0, _, _ => 1
  | n + 1, b, e => let r := powMod m n (b * b % m) (e / 2); if e % 2 = 1 then b * r % m else r

/-- Inverse modulo a prime. -/
def invMod (m a : Nat) : Nat := powMod m 256 (a % m) (m - 2)

/-- Doubling of a point in Jacobian coordinates; z = 0 is the neutral element. -/
def ecDouble (p : Nat × Nat × Nat) : Nat × Nat × Nat :=
  let (x, y, z) := p
  if z = 0 ∨ y = 0 then (1, 1, 0)
  else
    let z2 := z * z % ecP
    let m := 3 * (ecSub x z2 * (x + z2) % ecP) % ecP
    let y2 := y * y % ecP
    let s := 4 * (x * y2 % ecP) % ecP
    let x3 := ecSub (m * m % ecP) (2 * s % ecP)
    (x3, ecSub (m * ecSub s x3 % ecP) (8 * (y2 * y2 % ecP) % ecP), 2 * (y * z % ecP) % ecP)

/-- Sum of two points in Jacobian coordinates. -/
def ecAdd (p q : Nat × Nat × Nat) : Nat × Nat × Nat :=
  let (x1, y1, z1) := p
  let (x2, y2, z2) := q
  if z1 = 0 then q
  else if z2 = 0 then p
  else
    let a := z1 * z1 % ecP
    let b := z2 * z2 % ecP
    let u1 := x1 * b % ecP
    let u2 := x2 * a % ecP
    let s1 := y1 * (z2 * b % ecP) % ecP
    let s2 := y2 * (z1 * a % ecP) % ecP
    if u1 = u2 then (if s1 = s2 then ecDouble p else (1, 1, 0))
    else
      let h := ecSub u2 u1
      let r := ecSub s2 s1
      let h2 := h * h % ecP
      let h3 := h * h2 % ecP
      let v := u1 * h2 % ecP
      let x3 := ecSub (ecSub (r * r % ecP) h3) (2 * v % ecP)
      (x3, ecSub (r * ecSub v x3 % ecP) (s1 * h3 % ecP), h * (z1 * z2 % ecP) % ecP)

/-- Multiple of a point, over the low `n` bits. -/
def ecMul : Nat → Nat → Nat × Nat × Nat → Nat × Nat × Nat
  | 0, _, _ => (1, 1, 0)
  | n + 1, k, p => let r := ecMul n (k / 2) (ecDouble p); if k % 2 = 1 then ecAdd p r else r

/-- A point of the curve. -/
def ecOn (x y : Nat) : Bool :=
  decide (x < ecP) && decide (y < ecP) && decide (y * y % ecP = (x * x % ecP * x + (ecP - 3) * x + ecB) % ecP)

/-- The signature (r, s) of the digest e verifies with the public key (x, y). -/
def ecdsaVerify (x y e r s : Nat) : Bool :=
  if ecOn x y && decide (0 < r) && decide (r < ecN) && decide (0 < s) && decide (s < ecN) then
    let w := invMod ecN s
    let (px, _, pz) := ecAdd (ecMul 256 (e * w % ecN) (ecG.1, ecG.2, 1)) (ecMul 256 (r * w % ecN) (x, y, 1))
    if pz = 0 then false
    else decide ((px * invMod ecP (pz * pz % ecP)) % ecP % ecN = r)
  else false

end Sys2Proof.Machine
end

