-- ==== Sys2Proof/Machine/Roles.lean ====
section
/-! DEFINITION. Machine/Roles.lean: the session, the keys, unlocking by challenge and response, the audit queue, unrigging (R536–R548, R559, R560). -/

namespace Sys2Proof.Machine

/-- Replace the session's state by a function of it. -/
def State.updRole (s : State) (f : RoleSt → RoleSt) : State := { s with role := f s.role }

/-! ### The audit queue (R545–R548) -/

/-- Kinds of audit records (R545). -/
abbrev AK.REG : Nat := 1
abbrev AK.UNLOCK : Nat := 2
abbrev AK.UNLOCK_FAIL : Nat := 3
abbrev AK.END : Nat := 4
abbrev AK.KEY : Nat := 5
abbrev AK.ACK : Nat := 6
abbrev AK.JCOMMIT : Nat := 7
abbrev AK.COMMIT : Nat := 8
abbrev AK.LOAD : Nat := 9
abbrev AK.ERASE : Nat := 10
abbrev AK.PORT : Nat := 11

/-- The four words of a record (R546); port 0 host, 1 JTAG, 2 device. DEDUCED, log entry 110: bytes 0–13 are the first of the record with each word's
bits 31:24 first, so that they end before the CRC. -/
def audWords (kind role port tgt sec seq : Nat) (val : Word) : List Word :=
  let w := [nat32 (kind * 2 ^ 24 + role * 2 ^ 22 + port * 2 ^ 20 + tgt % 2 ^ 20), nat32 sec, val]
  let c := crc16 (bytesHi w ++ [seq / 256 % 256, seq % 256])
  w ++ [nat32 (seq % 65536 * 65536 + c)]

/-- Records the queue still takes (R547). -/
def State.audRoom (s : State) : Nat := 32 - s.store.audQ.length

/-- A record joins the queue, with the port of the write that is being carried out, host or JTAG, or that of the device (R546, R547). -/
def State.audit (s : State) (kind tgt : Nat) (val : Word) (port : Nat := 0) : State :=
  let port := if port = 0 then b2n s.role.jtag else port
  s.updStore fun t =>
    { t with audQ := t.audQ ++ [audWords kind s.role.role port tgt s.tbSec t.audSeq val], audSeq := (t.audSeq + 1) % 65536 }

/-- A write or an action is discarded in full: DENIED and ROLE_DENIED (R537, R547). -/
def State.denied (s : State) (detail : Nat) : State := (s.setFld F.HOST_STAT_DENIED 0 1).raise DS.ROLE_DENIED detail
/-- An action that needs a record finds the queue full (R547). -/
def State.audFull (s : State) : State := (s.setFld F.AUD_STAT_QFULL 0 1).denied 0xFE

/-- Do an action that needs `n` records where the queue has room (R547). -/
def State.audited (s : State) (n : Nat) (f : State → State) : State := if n ≤ s.audRoom then f s else s.audFull

/-- AUD_STAT and AUD_DATA as read (R560). -/
def State.audStat (s : State) : Word :=
  (s.rd R.AUD_STAT &&& maskOf 31 31) |||
    nat32 (s.store.audQ.length * 2 ^ 24 + s.store.audCount * 2 ^ 12 + (s.store.audPos + 2047) % 2048)
def State.audData (s : State) : Word := s.stWord (audWord (s.fld F.AUD_SEL_SLOT) + s.fld F.AUD_SEL_WORD)

/-- A read of AUD_DATA advances WORD, and SLOT after word 3 (R560). -/
def State.audNext (s : State) : State :=
  if s.flag F.AUD_SEL_AINC then
    let w := s.fld F.AUD_SEL_WORD
    let s1 := s.setFld F.AUD_SEL_WORD 0 ((w + 1) % 4)
    s1.when (decide (w = 3)) fun s => s.setFld F.AUD_SEL_SLOT 0 ((s.fld F.AUD_SEL_SLOT + 1) % 2048)
  else s

/-! ### The session (R538, R541–R544) -/

/-- The session's role changes: bursts of data ports start again (R545). -/
def State.setRole (s : State) (role : Nat) : State := s.updRole fun r => { r with role := role, burst := [] }

/-- A raised session ends, with its record (R543, R544): 0 END, 1 idle, 2 failed RESP, 3 new unlock. -/
def State.roleEnd (s : State) (cause port : Nat) : State :=
  if s.role.role = 0 then s else (s.audit AK.END cause 0#32 port).setRole 0

/-- The key of a role: its bytes. -/
def State.roleKey (s : State) (role : Nat) : Option (List Nat) :=
  if role = 2 then s.role.kMak.map bytesOf else s.role.kIns.getLast?.map bytesOf

/-- ROLE_CMD CHAL (R541–R543). -/
def State.roleChal (s : State) (role : Nat) : State :=
  if role = 0 ∨ role = 3 then s.setFld F.ROLE_STAT_CFG_ERR 0 1
  else if s.role.lockUntil.isSome then s.setFld F.ROLE_STAT_CFG_ERR 0 1
  else if (s.roleKey role).isNone then (s.setFld F.ROLE_STAT_NOKEY 0 1).setFld F.ROLE_STAT_CFG_ERR 0 1
  else
    let n := (Config.nonce s.role.draws).toNat
    let gen := s.role.kIns.length - 1
    let ws := [nat32 n, nat32 (n / 2 ^ 32), nat32 (n / 2 ^ 64), nat32 (n / 2 ^ 96), nat32 Config.uid.toNat, nat32 (Config.uid.toNat / 2 ^ 32),
               nat32 (gen % 4 * 16 + role), nat32 s.role.unlocks]
    s.updRole fun r => { r with chal := some (ws, role, s.now), rbuf := ws, draws := r.draws + 1 }

/-- The challenge is spent (R542). -/
def State.chalSpent (s : State) : State := s.updRole fun r => { r with chal := none, rbuf := List.replicate 8 0#32 }

/-- ROLE_CMD RESP (R541–R543). -/
def State.roleResp (s : State) : State :=
  let good := match s.role.chal with
    | some (ws, role, _) => (match s.roleKey role with | some k => hmacSha256 k (bytesOf ws) == bytesOf s.role.wbuf | none => false)
    | none => false
  let want := match s.role.chal with | some c => c.2.1 | none => 0
  let n := 1 + b2n (s.role.role != 0)
  s.audited n fun s =>
    if good then
      let s1 := (s.roleEnd 3 0).chalSpent.setRole want
      let s2 := s1.updRole fun r => { r with unlocks := r.unlocks + 1, lastWrite := s.now }
      s2.audit AK.UNLOCK want (nat32 s2.role.unlocks)
    else
      let s1 := (s.roleEnd 2 0).chalSpent.audit AK.UNLOCK_FAIL want 0#32
      let s2 := (s1.setFld F.ROLE_STAT_FAIL 0 1).bump F.ROLE_FAILS_FAILS 0
      (s2.updRole fun r => { r with lockUntil := some (s.now + 2 * tSec) }).raise DS.AUTH_FAIL 0

/-- ROLE_CMD KEY (R540). -/
def State.roleKeyCmd (s : State) (slot : Nat) : State :=
  let r := s.role
  let mak := decide (r.role = 2)
  let ok := match slot with
    | 0 => r.kMak.isNone
    | 1 => mak && decide (r.kIns.length < 4)
    | 2 => mak && r.imgX.isNone
    | 3 => mak && r.imgY.isNone
    | _ => false
  let clear := fun (s : State) => s.updRole fun r => { r with rbuf := List.replicate 8 0#32 }
  if !ok then clear (s.setFld F.ROLE_STAT_CFG_ERR 0 1)
  else
    s.audited 1 fun s =>
      let s1 := s.updRole fun r => match slot with
        | 0 => { r with kMak := some r.wbuf, wbuf := List.replicate 8 0#32 }
        | 1 => { r with kIns := r.kIns ++ [r.wbuf], wbuf := List.replicate 8 0#32 }
        | 2 => { r with imgX := some r.wbuf, wbuf := List.replicate 8 0#32 }
        | _ => { r with imgY := some r.wbuf, wbuf := List.replicate 8 0#32 }
      clear (s1.audit AK.KEY slot (nat32 (if slot = 1 then s1.role.kIns.length - 1 else 0)))

/-- ROLE_CMD (R560). -/
def State.roleCmd (s : State) (w : Word) : State :=
  match bitsOf w 31 28 with
  | 0 => s
  | 1 => s.roleChal (bitsOf w 27 26)
  | 2 => s.roleResp
  | 3 => if s.role.role = 0 then s else s.audited 1 fun s => s.roleEnd 0 0
  | 4 => s.roleKeyCmd (bitsOf w 3 0)
  | _ => s.setFld F.ROLE_STAT_CFG_ERR 0 1

/-- A challenge has expired (R542); CHAL may be asked for again (R542). -/
def State.chalOld (s : State) : Bool := match s.role.chal with | some c => decide (c.2.2 + 30 * tSec ≤ s.now) | none => false
def State.lockOver (s : State) : Bool := match s.role.lockUntil with | some t => decide (t ≤ s.now) | none => false
/-- The session has been idle for IDLE × 10 s (R544). -/
def State.idleDue (s : State) : Bool :=
  let n := s.fld F.ROLE_CFG_IDLE
  decide (s.role.role ≠ 0) && decide (n ≠ 0) && decide (s.role.lastWrite + n * 10 * tSec ≤ s.now)

/-- ROLE_STAT as read (R560). -/
def State.roleStat (s : State) : Word :=
  let r := s.role
  (s.rd R.ROLE_STAT &&& maskOf 27 25) |||
    nat32 (r.role * 2 ^ 30 + b2n r.chal.isSome * 2 ^ 29 + b2n r.lockUntil.isSome * 2 ^ 28 + b2n r.kMak.isSome * 2 ^ 19 +
      b2n (r.imgX.isSome && r.imgY.isSome) * 2 ^ 18 + (r.kIns.length - 1) % 4 * 2 ^ 16 + b2n (!r.kIns.isEmpty) * 2 ^ 15)

/-! ### Unrigging (R559) -/

/-- A write of RIG_CTL (R559): refused in full where a mast to be unrigged is neither OFF nor in FAULT. -/
def State.rigWrite (s : State) (w : Word) : State :=
  let old := s.fld F.RIG_CTL_UNRIG
  let new := bitsOf w 15 0 % 2 ^ s.variant.masts
  let bad := s.mastList.any fun m => new.testBit m.val && !old.testBit m.val &&
    (s.mast m).seq.st != .off && (s.mast m).seq.st != .fault
  if bad then s.setFld F.ROLE_STAT_CFG_ERR 0 1 else s.wr R.RIG_CTL (nat32 new)

end Sys2Proof.Machine
end

