-- ==== Sys2Proof/Machine/Store.lean ====
section
/-! DEFINITION. Machine/Store.lean: image banks, the store commands, the configuration journal, the end of a pulse (R549–R558, R561). -/

namespace Sys2Proof.Machine

/-! ### Images (R551, R552) -/

/-- The words of image bank b in the store. -/
def State.bankAt (s : State) (b : Nat) : Nat → Word := fun i => s.stWord (bankWord b + i)

/-- Header fields of an image (R551). -/
def imgLen (g : Nat → Word) : Nat := (g 2).toNat
def imgVer (g : Nat → Word) : Word := g 3
def imgParts (g : Nat → Word) : Nat := (g 4).toNat
def imgNsec (g : Nat → Word) : Nat := (g 5).toNat

/-- Section i: TYPE, FLAGS, OFFSET, LENGTH; offsets count from the payload (log entry 40). -/
structure Section where
  typ : Nat
  flags : Nat
  off : Nat
  len : Nat
  deriving DecidableEq, Repr

/-- Section i of an image. -/
def imgSec (g : Nat → Word) (i : Nat) : Section :=
  { typ := (g (8 + 4 * i)).toNat, flags := (g (9 + 4 * i)).toNat, off := (g (10 + 4 * i)).toNat, len := (g (11 + 4 * i)).toNat }
/-- The sections in table order. -/
def imgSecs (g : Nat → Word) : List Section := (List.range (imgNsec g)).map (imgSec g)

/-- Words `n` of a section, from its word `i`. -/
def secWords (g : Nat → Word) (x : Section) : List Word := (List.range (x.len / 4)).map fun i => g (64 + x.off / 4 + i)

/-- A section is well formed (R551). -/
def Section.ok (x : Section) (len : Nat) : Bool :=
  decide (1 ≤ x.typ ∧ x.typ ≤ 5) && (decide (x.flags = 0) || (decide (x.flags = 1) && decide (x.typ = 2))) &&
    decide (x.off % 4 = 0) && decide (x.len % 4 = 0) && decide (x.off + x.len ≤ len) &&
    (decide (x.typ ≠ 1) || decide (x.len ≤ 131072)) && (decide (x.typ ≠ 2) || decide (x.len ≤ 16384)) &&
    (decide (x.typ ≠ 3) || decide (x.len % 68 = 0)) && (decide (x.typ < 4) || decide (x.len % 8 = 0))

/-- The header is well formed (R551, R552). -/
def imgFormat (g : Nat → Word) : Bool :=
  g 0 == 0x4D495653#32 && g 1 == 1#32 && decide (imgLen g ≤ 196288) && decide (1 ≤ imgNsec g ∧ imgNsec g ≤ 8) &&
    (imgSecs g).all (fun x => x.ok (imgLen g)) && decide (((imgSecs g).filter fun x => decide (x.typ = 1)).length ≤ 1) &&
    (List.range 8).all fun i => g (40 + i) == 0#32

/-- SHA-256 of bytes 0x00–0xBF and the payload (R551). -/
def imgDigest (g : Nat → Word) : List Nat :=
  let pay := (bytesOf ((List.range ((imgLen g + 3) / 4)).map fun i => g (64 + i))).take (imgLen g)
  sha256 (bytesOf ((List.range 48).map g) ++ pay)

/-- The image key is programmed; the signature verifies (R552). -/
def State.imgKey (s : State) : Option (Nat × Nat) :=
  match s.role.imgX, s.role.imgY with
  | some x, some y => some (natBE (bytesOf x), natBE (bytesOf y))
  | _, _ => none
def State.imgSigned (s : State) (g : Nat → Word) : Bool :=
  match s.imgKey with
  | none => false
  | some k =>
    let sig := bytesOf ((List.range 16).map fun i => g (48 + i))
    ecdsaVerify k.1 k.2 (natBE (imgDigest g)) (natBE (sig.take 32)) (natBE (sig.drop 32))

/-- PARTS includes the variant (R551, R552). -/
def State.imgForMe (s : State) (g : Nat → Word) : Bool :=
  (imgParts g).testBit (match s.variant with | .sv6480 => 0 | .sv6460 => 1 | .sv6440 => 2 | .sv6420 => 3)
/-- VERSION is at least ST_MINVER (R552). -/
def State.imgNew (s : State) (g : Nat → Word) : Bool := decide ((s.rd R.ST_MINVER).toNat ≤ (imgVer g).toNat)

/-- The commit record is intact (R551); its sequence number. -/
def imgCommitted (g : Nat → Word) : Bool :=
  g 49144 == 0x54494D43#32 && crc32 (bytesOf [g 49144, g 49145, g 49146]) == g 49147
def imgSeq (g : Nat → Word) : Nat := (g 49145).toNat

/-- A bank is valid (R552). -/
def State.imgValid (s : State) (g : Nat → Word) : Bool :=
  imgCommitted g && imgFormat g && s.imgForMe g && s.imgNew g && s.imgSigned g
def State.bankValid (s : State) (b : Nat) : Bool := s.imgValid (s.bankAt b)
/-- A bank shows as valid: the booted one by the ST_MINVER boot went by, until the next boot (R561). -/
def State.bankShown (s : State) (b : Nat) : Bool :=
  s.bankValid b || (decide (b = s.store.booted) && (s.wr R.ST_MINVER s.store.bootMin).bankValid b)

/-- The committed bank with the higher sequence number. -/
def State.newestBank (s : State) : Option Nat :=
  let a := imgCommitted (s.bankAt 0)
  let b := imgCommitted (s.bankAt 1)
  if a && b then (if imgSeq (s.bankAt 0) < imgSeq (s.bankAt 1) then some 1 else some 0)
  else if a then some 0 else if b then some 1 else none

/-- The bank the next boot selects (ST_BANK.NEXT). -/
def State.nextBank (s : State) : Nat :=
  let a := s.bankValid 0
  let b := s.bankValid 1
  if b && (!a || decide (imgSeq (s.bankAt 0) < imgSeq (s.bankAt 1))) then 1 else 0

/-- The bank commands act on: the one not booted (R553). -/
def State.idleBank (s : State) : Nat := 1 - s.store.booted
/-- The highest commit sequence number in the store, 0 for none. -/
def State.topSeq (s : State) : Nat := [0, 1].foldl (fun a b => if imgCommitted (s.bankAt b) then max a (imgSeq (s.bankAt b)) else a) 0

/-! ### Copying sections -/

/-- Instruction words into a program bank. -/
def State.putProg (s : State) (pb : Nat) (ws : List Word) : State :=
  s.updEng fun e => { e with prog := (ws.zipIdx).foldl (fun m x => spSet 0#32 m (pb * 2 ^ 18 + x.2) x.1) e.prog }
/-- Table words from word 0. -/
def State.putTab (s : State) (ws : List Word) : State :=
  s.updEng fun e => { e with tab := (ws.zipIdx).foldl (fun m x => spSet 0#32 m x.2 x.1) e.tab }

/-- LOAD copies the PROG section, and the TABLE section when flagged (R555). -/
def State.loadCopy (s : State) (g : Nat → Word) (pb : Nat) : State :=
  (imgSecs g).foldl (fun s x =>
    if x.typ = 1 then s.putProg pb (secWords g x) else if x.typ = 2 ∧ x.flags = 1 then s.putTab (secWords g x) else s) s

/-- The SHA-256 of what LOAD has copied is that of the image's sections (R555). -/
def State.loadOk (s : State) (g : Nat → Word) (pb : Nat) : Bool :=
  (imgSecs g).all fun x =>
    let n := x.len / 4
    let same := fun (m : Sparse) (k : Nat) =>
      sha256 (bytesOf ((List.range n).map fun i => spGet 0#32 m (k + i))) == sha256 (bytesOf (secWords g x))
    if x.typ = 1 then same s.eng.prog (pb * 2 ^ 18) else if x.typ = 2 ∧ x.flags = 1 then same s.eng.tab 0 else true

/-- LOAD copies and checks: RESULT 2 where the check fails (R555). -/
def State.loadImage (s : State) (pb : Nat) : State × Bool :=
  match s.newestBank with
  | some b => let s1 := s.loadCopy (s.bankAt b) pb; (s1, s1.loadOk (s.bankAt b) pb)
  | none => (s, false)

/-- A program bank is the BANK of a context that is not DISABLED (R271, R555). -/
def State.bankUsed (s : State) (pb : Nat) : Bool := s.ctxList.any fun c => (s.ctx c).st != .disabled && s.fld F.CTX_CFG_BANK c == pb
/-- A program bank is being loaded (R555). -/
def State.bankLoading (s : State) (pb : Nat) : Bool := match s.store.cmd with | some (.load x) => x == pb | _ => false

/-! ### The journal (R556–R558) -/

/-- The words of a journal entry (R556). -/
def jWords (kind tgt seq : Nat) (val : Word) : List Word :=
  let w := [nat32 (kind * 2 ^ 30 + tgt % 2 ^ 20), val, nat32 seq]
  w ++ [crc32 (bytesOf w)]

/-- The latest value of a target replaces the one before it. -/
def jPut (e : Nat × Nat × Word) : List (Nat × Nat × Word) → List (Nat × Nat × Word)
  | [] => [e]
  | x :: r => if x.1 = e.1 ∧ x.2.1 = e.2.1 then r ++ [e] else x :: jPut e r

/-- Entries take effect in order. -/
def jMerge (live pend : List (Nat × Nat × Word)) : List (Nat × Nat × Word) := pend.foldl (fun l e => jPut e l) live

/-- What a scan of a half yields: slots used, next sequence number, pending entries, committed values. -/
structure JScan where
  pos : Nat
  seq : Nat
  pend : List (Nat × Nat × Word)
  live : List (Nat × Nat × Word)
  /-- Every committed entry, in sequence order. -/
  all : List (Nat × Nat × Word) := []
  deriving DecidableEq, Repr

/-- Read the slots of a half from slot `i`, `n` of them at most, up to the first erased one (R556): entries no marker covers stay pending; a marker's target is the number of entries it covers (log entry 41). -/
def State.jScan (s : State) (h : Nat) : Nat → Nat → JScan → JScan
  | 0, _, x => x
  | n + 1, i, x =>
    let w := s.stWords (jSlotWord h i) 4
    if w.all (· == stBlank) then x
    else
      let x1 := { x with pos := i + 1 }
      if crc32 (bytesOf (w.take 3)) ≠ w.getD 3 0#32 then s.jScan h n (i + 1) x1
      else
        let kind := bitsOf (w.getD 0 0#32) 31 30
        let tgt := bitsOf (w.getD 0 0#32) 19 0
        let x2 := { x1 with seq := (w.getD 2 0#32).toNat + 1 }
        s.jScan h n (i + 1)
          (if kind = 2 then
            let l := x2.pend.drop (x2.pend.length - tgt)
            { x2 with live := jMerge x2.live l, all := x2.all ++ l, pend := [] }
           else if kind < 2 then { x2 with pend := x2.pend ++ [(kind, tgt, w.getD 1 0#32)] } else x2)

/-- A half's header, its base where intact: slot 0, kind 3 (log entry 41). -/
def State.jHeader (s : State) (h : Nat) : Option Nat :=
  let w := s.stWords (jSlotWord h 0) 4
  if bitsOf (w.getD 0 0#32) 31 30 = 3 ∧ crc32 (bytesOf (w.take 3)) = w.getD 3 0#32 then some (w.getD 1 0#32).toNat else none

/-- The half in force (R558). -/
def State.jInForce (s : State) : Nat :=
  match s.jHeader 0, s.jHeader 1 with
  | some a, some b => if a < b then 1 else 0
  | none, some _ => 1
  | _, _ => 0

/-- What the half in force holds (R556). -/
def State.jRead (s : State) : JScan :=
  let h := s.jInForce
  s.jScan h 2047 1 { pos := 1, seq := (s.jHeader h).getD 0, pend := [], live := [] }

/-- The journal as the store holds it is taken up at boot (R556, R557). -/
def State.jBoot (s : State) : State :=
  let x := s.jRead
  s.updStore fun t => { t with jHalf := s.jInForce, jPos := x.pos, jSeq := x.seq, jPend := [], jLive := x.live, compact := false, jSteps := [] }

/-- The entry pulses of half h from slot i with sequence numbers from q. -/
def jPuts (h : Nat) : Nat → Nat → List (Nat × Nat × Word) → List JStep
  | _, _, [] => []
  | i, q, e :: r => .put (jSlotWord h i) (jWords e.1 e.2.1 q e.2.2) :: jPuts h (i + 1) (q + 1) r

/-- The erases of a journal half. -/
def jWipes (h : Nat) : List JStep := (List.range 16).map fun i => .wipe (sectorOfWord (jHalfWord h) + i)

/-- What a compaction writes: live values and their marker, then pending entries. -/
def Store.jAll (t : Store) : List (Nat × Nat × Word) := t.jLive ++ [(2, t.jLive.length, 0#32)] ++ t.jPend

/-- The pulses and erases of a compaction (R558): what a compaction broken off has left in the other half is erased first, the header comes behind the
entries, the old half is erased last. -/
def State.jPlan (s : State) : List JStep :=
  let t := s.store
  let h := 1 - t.jHalf
  (if s.stErased (jHalfWord h) 8192 then [] else jWipes h) ++ jPuts h 1 t.jSeq t.jAll ++
    [.head t.jAll.length (jWords 3 0 0 (nat32 t.jSeq))] ++ jWipes t.jHalf

/-- A compaction begins (R558); the store takes up its pulses and erases in their turn (R414, R550). -/
def State.jCompact (s : State) : State := s.updStore fun t => { t with jSteps := s.jPlan }

/-- A pulse or an erase of the compaction has ended (R558). -/
def State.jStepDone (s : State) : State :=
  match s.store.jSteps with
  | [] => s
  | .put i ws :: r => (s.stProgram i ws).updStore fun t => { t with jSteps := r }
  | .head n ws :: r =>
    (s.stProgram (jSlotWord (1 - s.store.jHalf) 0) ws).updStore fun t =>
      { t with jHalf := 1 - t.jHalf, jPos := 1 + n, jSeq := t.jSeq + n, jSteps := r }
  | .wipe n :: r => (s.stErase n).updStore fun t => { t with jSteps := r, compact := t.compact && !r.isEmpty }

/-- A compaction is due and may begin (R414, R416, R558). -/
def State.jDue (s : State) : Bool := s.store.compact && s.store.jSteps.isEmpty && s.stMayStart

/-- The live targets a commit would leave (R557). -/
def State.jLiveAfter (s : State) : Nat := (jMerge s.store.jLive s.store.jPend).length

/-! ### Commands (R553–R557, R561) -/

/-- A command is accepted. -/
def State.stStart (s : State) (c : StCmd) : State :=
  s.updStore fun t => { t with cmd := some c, begun := false, abort := false }

/-- A command is refused with a result. -/
def State.stRefuse (s : State) (result : Nat) : State :=
  let s1 := (s.setFld F.ST_STAT_DONE 0 1).setFld F.ST_STAT_ERR 0 1
  s1.updStore fun t => { t with result := result }

/-- ERASE: the sector of the commit record goes first (R553). -/
def State.cmdErase (s : State) : State :=
  let b := s.idleBank
  s.audited 1 fun s => (s.audit AK.ERASE b 0#32).stStart (.erase b (95 :: List.range 95))

/-- PROG (R553). -/
def State.cmdProg (s : State) : State :=
  let i := s.store.rowAt / 32 * 8
  let b := s.idleBank
  let inside := decide (bankWord b ≤ i) && decide (i + 8 ≤ bankWord b + 49152)
  if inside && s.stErased i 8 then
    (s.stStart (.prog i s.store.row)).updStore fun t => { t with row := List.replicate 8 stBlank }
  else s.stRefuse 3

/-- COMMIT (R553). -/
def State.cmdCommit (s : State) : State :=
  let b := s.idleBank
  let g := s.bankAt b
  if s.imgKey.isNone then s.stRefuse 10
  else if !imgFormat g then s.stRefuse 3
  else if !s.imgSigned g then s.stRefuse 2
  else if !s.imgNew g then s.stRefuse 4
  else if !s.imgForMe g then s.stRefuse 5
  else
    let w := [0x54494D43#32, nat32 (s.topSeq + 1), imgVer g]
    s.audited 1 fun s => (s.audit AK.COMMIT b (imgVer g)).stStart (.commit b (w ++ [crc32 (bytesOf w)]))

/-- LOAD (R555). -/
def State.cmdLoad (s : State) (pb : Nat) : State :=
  if s.bankUsed pb then s.stRefuse 6
  else match s.newestBank with
    | none => s.stRefuse 3
    | some b => s.audited 1 fun s => (s.audit AK.LOAD pb (imgVer (s.bankAt b))).stStart (.load pb)

/-- No slot would be free even after a compaction (log entry 41). -/
def State.jFull (s : State) : Bool :=
  decide (2048 ≤ s.store.jPos) && decide (2046 ≤ s.store.jLive.length + s.store.jPend.length)

/-- An entry or a marker is appended; a half without room is compacted first (R557, R558). -/
def State.cmdAppend (s : State) (kind tgt : Nat) (val : Word) : State :=
  if s.jFull then s.stRefuse 9
  else (s.stStart (.append kind tgt val)).updStore fun t => { t with compact := t.compact || decide (2048 ≤ t.jPos) }

/-- JCOMMIT (R557), recorded with the sequence number the marker will have (R545). -/
def State.cmdJcommit (s : State) : State :=
  if 1984 < s.jLiveAfter ∨ s.jFull = true then s.stRefuse 9
  else
    let n := s.store.jPend.length
    -- a compaction that comes first moves the marker's number on
    let q := s.store.jSeq + (if s.store.compact ∨ 2048 ≤ s.store.jPos then s.store.jAll.length else 0)
    s.audited 1 fun s => (s.audit AK.JCOMMIT n (nat32 q)).cmdAppend 2 n 0#32

/-- JDROP (R557): at once, with RESULT 0. -/
def State.cmdJdrop (s : State) : State := (s.updStore fun t => { t with jPend := [] }).stEnd 0

/-- ABORT: after the pulse under way, else at once (R553, R561). -/
def State.cmdAbort (s : State) : State :=
  if s.store.cmd.isNone then s
  else if s.store.pulse == some .cmd then s.updStore fun t => { t with abort := true } else s.stEnd 7

/-- A written journal entry (R556, R557). -/
def State.jAppended (s : State) (kind tgt : Nat) (val : Word) : State :=
  s.updStore fun t =>
    { t with
      jPos := t.jPos + 1, jSeq := t.jSeq + 1
      jPend := if kind = 2 then [] else t.jPend ++ [(kind, tgt, val)]
      jLive := if kind = 2 then jMerge t.jLive t.jPend else t.jLive }

/-! ### The end of a pulse (R550, R553) -/

/-- The command's pulse, erase or step has ended. -/
def State.cmdStepDone (s : State) (c : StCmd) (ok : Bool) : State :=
  let t := s.store
  if !ok then
    let x := c.span (t.jHalf, t.jPos, 0)
    let s1 := (s.stAbort x.1 x.2).raise DS.STORE_ERR 0
    match c with
    | .load pb => let r := s.loadImage pb; r.1.stEnd (if r.2 then 0 else 2)
    | .append _ _ _ => (s1.updStore fun t => { t with jPos := t.jPos + 1 }).stEnd 8
    | _ => s1.stEnd 8
  else
    let fin := fun (s : State) => s.stEnd (if t.abort then 7 else 0)
    match c with
    | .erase b l =>
      let s1 := s.stErase (sectorOfWord (bankWord b) + l.headD 0)
      if t.abort then s1.stEnd 7
      else if l.length ≤ 1 then s1.stEnd 0
      else s1.updStore fun t => { t with cmd := some (.erase b (l.drop 1)) }
    | .prog i ws => fin (s.stProgram i ws)
    | .commit b ws => fin (s.stProgram (bankWord b + 49144) ws)
    | .load pb =>
      let r := s.loadImage pb
      if t.abort then r.1.stEnd 7 else r.1.stEnd (if r.2 then 0 else 2)
    | .append kind tgt val => fin ((s.stProgram (jSlotWord t.jHalf t.jPos) (jWords kind tgt t.jSeq val)).jAppended kind tgt val)

/-- STORE_PULSE_DONE: the pulse or erase under way has ended, or failed (R550, R561). -/
def State.pulseDone_ (s : State) (ok : Bool) : State :=
  match s.store.pulse with
  | none => s
  | some p =>
    let s1 := s.updStore fun t => { t with pulse := none }
    let bad := fun (i n : Nat) => (s1.stAbort i n).raise DS.STORE_ERR 0
    match p with
    | .fault i ws => if ok then s1.stProgram (faultWord i) ws else bad (faultWord i) ws.length
    | .audit i ws => if ok then (s1.stProgram (audWord i) ws).updStore fun t => { t with audCount := t.audCount + 1 } else bad (audWord i) ws.length
    | .faultErase n => if ok then s1.stErase n else bad (512 * n) 512
    | .auditErase n =>
      if ok then (s1.stErase n).updStore fun t => { t with audCount := if 1920 < t.audCount then t.audCount - 128 else t.audCount }
      else bad (512 * n) 512
    | .cmd => (match s.store.cmd with | some c => s1.cmdStepDone c ok | none => s1)
    | .step =>
      if ok then s1.jStepDone
      else
        let s2 := s1.jStepLost.raise DS.STORE_ERR 0
        s2.when s2.store.cmd.isSome fun s => s.stEnd 8

/-! ### Registers as read (R561) -/

/-- ST_STAT, ST_BANK, ST_JRNL as read. -/
def State.stStat (s : State) : Word :=
  (s.rd R.ST_STAT &&& (maskOf 29 28 ||| maskOf 23 23)) |||
    nat32 (b2n s.store.cmd.isSome * 2 ^ 31 + b2n s.stSusp * 2 ^ 30 + s.store.result * 2 ^ 24)
def State.stBank (s : State) : Word :=
  nat32 (b2n (s.bankShown 0) * 2 ^ 31 + b2n (s.bankShown 1) * 2 ^ 30 + s.store.booted * 2 ^ 29 + s.nextBank * 2 ^ 28)
def State.stJrnl (s : State) : Word :=
  nat32 (b2n s.store.compact * 2 ^ 31 + s.store.jPend.length % 2048 * 2 ^ 16 + s.store.jLive.length)

/-- ADDR of ST_ADDR advances by 4 after an ST_DATA access when AINC is 1 (R561). -/
def State.stNext (s : State) : State :=
  if s.flag F.ST_ADDR_AINC then s.setFld F.ST_ADDR_ADDR 0 (s.fld F.ST_ADDR_ADDR + 4) else s
/-- A write of ST_DATA (R553): the word's place in the row, and the row PROG will write. -/
def State.stDataWrite (s : State) (w : Word) : State :=
  let a := s.fld F.ST_ADDR_ADDR
  (s.updStore fun t => { t with row := t.row.set (a / 4 % 8) w, rowAt := a }).stNext
/-- A read of ST_DATA. -/
def State.stDataRead (s : State) : Word := s.stWord (s.fld F.ST_ADDR_ADDR / 4 % 131072)

end Sys2Proof.Machine
end

