-- ==== Sys2Proof/Machine/RegRead.lean ====
section
/-! DEFINITION. Machine/RegRead.lean: where an address leads (R3, R37–R41), the present value of every register, and what reading one does beside (R388, R457, R505). -/

namespace Sys2Proof.Machine

/-! ### Places -/

/-- Where an address leads. -/
inductive Place where
  /-- A register or window of an absent unit (R3, R4). -/
  | absent
  /-- An unimplemented offset (R39). -/
  | none_
  /-- A register: the address of its mast 0 copy, the number of its mast or of what a select register names, its row. -/
  | reg (a i : Nat) (row : RegRow)
  deriving DecidableEq, Repr

/-- The number a select register names for a register that acts on one of many (R279, R361, R393, R420, R453). -/
def State.regIdx (s : State) (a : Nat) : Nat :=
  if a = R.FC_SRC_CFG ∨ a = R.FC_SRC_STAT then s.fld F.FC_SEL_SRC
  else if a = R.FC_CONSEQ then s.fld F.FC_SEL_REACT
  else if a = R.TH_EXT ∨ a = R.SNS_CFG ∨ a = R.TSNS_STAT then s.fld F.SNS_SEL_SNS
  else if a = R.REEF_MAP ∨ a = R.REEF_STAT then s.fld F.SNS_SEL_MAST
  else if a = R.LK_PWIN then s.fld F.LK_PWSEL_WIN
  else if R.CTX_CFG ≤ a ∧ a ≤ R.CTX_CMD then s.fld F.ENG_SEL_CTX
  else if a = R.ETMR then s.fld F.ENG_SEL_TMR
  else if a = R.BKPT then s.fld F.ENG_SEL_BKPT
  else if R.BG_CFG ≤ a ∧ a ≤ R.BG_STAT then s.fld F.BG_SEL_BG
  else 0

/-- The register belongs to a unit the variant lacks (R3). -/
def State.regAbsent (s : State) (a i : Nat) : Bool :=
  if R.CTX_CFG ≤ a ∧ a ≤ R.CTX_CMD then !s.hasCtx i
  else if a = R.FC_SRC_CFG ∨ a = R.FC_SRC_STAT then !srcPresent s.variant i
  else if a = R.SNS_CFG ∨ a = R.TSNS_STAT ∨ a = R.TH_EXT then !s.hasSns i
  else if a = R.REEF_MAP ∨ a = R.REEF_STAT then !s.hasMast i
  else false

/-- The row of register `a` with index `i`: an on-die sensor has no MODE, ISEL, NBR and TAB to write (R420). -/
def rowAt (a i : Nat) (r : RegRow) : RegRow :=
  if a = R.SNS_CFG ∧ i < 24 then
    { r with fields := r.fields.map fun f => if f.hi = 29 ∨ f.hi = 27 ∨ f.hi = 15 ∨ f.hi = 6 then { f with acc := .ro } else f }
  else r

/-- Where an address leads now. -/
def State.place (s : State) (addr : Nat) : Place :=
  let win := addr / 256
  if 16 ≤ win then
    if !s.hasMast (win - 16) then .absent
    else match regRow (0x1000 + addr % 256) with
      | some r => .reg (0x1000 + addr % 256) (win - 16) r
      | none => .none_
  else if win = 5 ∧ s.variant.ring = false then .absent
  else match regRow addr with
    | some r => let i := s.regIdx addr; if s.regAbsent addr i then .absent else .reg addr i (rowAt addr i r)
    | none => .none_

/-! ### Values -/

/-- Identity and capabilities (R45–R47). DESIGN CHOICE, log entry 98: DEV_REV is that of the first production silicon. -/
def State.idVal (s : State) (a : Nat) : Word :=
  let v := s.variant
  if a = R.DEV_ID then nat32 (0x53560000 + (match v with | .sv6480 => 0x6480 | .sv6460 => 0x6460 | .sv6440 => 0x6440 | .sv6420 => 0x6420))
  else if a = R.DEV_REV then 0x00000100#32
  else if a = R.UID0 then nat32 Config.uid.toNat
  else if a = R.UID1 then nat32 (Config.uid.toNat / 2 ^ 32)
  else if a = R.CAP0 then nat32 (b2n v.ring * (2 ^ 25 + 2 ^ 24) + v.ctxs * 2 ^ 16 + v.lanes * 2 ^ 8 + v.masts)
  else if a = R.CAP1 then 0x10801000#32
  else if a = R.CAP2 then nat32 (8 * 2 ^ 16 + v.te * 2 ^ 8 + 24)
  else if a = R.CAP3 then nat32 (512 * 2 ^ 18 + b2n v.ring * (2 * 2 ^ 16 + 32 * 2 ^ 8) + 192)
  else if a = R.STRAP_STAT then nat32 s.clk.straps
  else s.rd a

/-- Clocks and reset (R586). -/
def State.clkVal (s : State) (a : Nat) : Word :=
  let c := s.clk
  let w := s.rd a
  if a = R.CLK_STAT then
    setBitsOf (setBitsOf (setBitsOf w 31 31 (b2n c.locked)) 30 30 (b2n (c.ref == some true))) 29 29
      (b2n (!c.inReset && !s.flag F.CLK_CFG_XTAL_OFF))
  else if a = R.MON_STAT then
    if c.locked then nat32 ((18000 + (Config.roscOver s.now).val) * 256 + (if c.lost then 0 else 0x7F)) else 0#32
  else if a = R.RST_STAT then
    let lt := (allFin 4).foldl (fun x n => x + b2n (s.lane n).testAt.isSome * 2 ^ n.val) 0
    let lf := (allFin 4).foldl (fun x n => x + b2n (s.lane n).failed * 2 ^ n.val) 0
    let mb := (allFin 16).foldl (fun x m => x + b2n (s.mast m).resetAt.isSome * 2 ^ m.val) 0
    setBitsOf (setBitsOf (setBitsOf w 27 24 lt) 23 20 lf) 15 0 mb
  else if a = R.BOOT_STAT then setBitsOf w 31 28 c.phase
  else w

/-- The record a word of FC_FIRST or FC_LOG is read from, as its word (R387). -/
def recWord (r : Option Rec) (i : Nat) : Word := match r with | some r => r.words.getD i 0#32 | none => 0#32

/-- The record in the selected log slot (R388). -/
def State.logRec (s : State) : Option Rec := (s.fc.log.find? fun e => e.1 == s.fld F.FC_LOG_SEL_SLOT).map (·.2)

/-- The fault collector's window (R393). -/
def State.fcVal (s : State) (a i : Nat) : Word :=
  if a = R.FC_STAT then s.fcStat
  else if a = R.FC_SRC_STAT then s.fcSrcStat
  else if a = R.FC_FIRST0 then recWord s.fc.first 0
  else if R.FC_FIRST1 ≤ a ∧ a ≤ R.FC_FIRST3 then recWord (s.fc.firstSnap.getD s.fc.first) (a - R.FC_FIRST0)
  else if a = R.FC_LOG0 then recWord s.logRec 0
  else if R.FC_LOG1 ≤ a ∧ a ≤ R.FC_LOG3 then recWord (s.fc.logSnap.getD s.logRec) (a - R.FC_LOG0)
  else if a = R.FC_SEQ then nat32 s.fc.seq
  else if a = R.FC_MAST_SEV then s.fcMastSev
  else if a = R.FC_STORE then nat32 (s.rsvFree * 2 ^ 24 + s.fc.queue.length * 2 ^ 16 + s.faultStored)
  else if a = R.FC_WAKE then s.fcWake
  else s.rd (keyI a i)

/-- Thermal and housekeeping (R420). -/
def State.hkVal (s : State) (a i : Nat) : Word :=
  if a = R.HK_STAT then s.hkStat s.stSusp
  else if a = R.TSNS_STAT then s.snsStat (Fin.ofNat 32 i)
  else if a = R.TH_EXT then (if isTe i then s.rd (keyI a i) else 0#32)
  else if a = R.SNS_FAIL then nat32 s.failMask
  else if a = R.REEF_STAT then s.reefStat (Fin.ofNat 16 i)
  else if a = R.SUP_STAT then s.supStat
  else if a = R.TPEAK then s.tpeak
  else s.rd (keyI a i)

/-- The ring (R453). -/
def State.lkVal (s : State) (a i : Nat) : Word :=
  if a = R.LK_STAT then s.lkStat
  else if a = R.LK_PORT0 then s.lkPort 0
  else if a = R.LK_PORT1 then s.lkPort 1
  else if a = R.LK_PWIN then s.lkPwin i
  else if a = R.LK_STOP then s.lkStop
  else if a = R.LK_TOPO then s.lkTopo
  else if a = R.LK_DIAG then s.lkDiag
  else s.rd (keyI a i)

/-- Time base and calendar (R491, R492). -/
def State.tbVal (s : State) (a : Nat) : Word :=
  let sec := s.tb.snapSec.getD s.tbSec
  if a = R.TB_STAT then s.tbStat
  else if a = R.TB_NS then nat32 s.tbNs
  else if a = R.TB_SEC_LO then nat32 sec
  else if a = R.TB_SEC_HI then nat32 (sec / 2 ^ 32 % 65536)
  else if a = R.TB_RATE then nat32 s.tb.rate
  else if a = R.CAL_STAT then s.calStat
  else if a = R.CAL_RES then setBitsOf (s.rd R.CAL_RES) 31 31 (b2n s.calBusy)
  else if a = R.CAL_NEXT then s.calNextReg
  else s.rd a

/-- Code of a context state (R233). -/
def CtxSt.num : CtxSt → Nat
  | .disabled => 0 | .waiting => 1 | .runnable => 2 | .running => 3 | .blocked => 4 | .halted => 5 | .faulted => 6

/-- CTX_STAT of context c (R279). -/
def State.ctxStat (s : State) (c : Fin 64) : Word :=
  let x := s.ctx c
  let w := s.rd (keyI R.CTX_STAT c)
  let pend := x.pend.foldl (fun a t => a ||| 2 ^ (t.kind % 8)) 0
  let lane := if x.st = .running then (match x.lane with | some n => n.val | none => 7) else 7
  setBitsOf (setBitsOf (setBitsOf (setBitsOf w 31 28 x.st.num) 27 25 lane) 23 16 pend) 14 0 (satNat 32767 x.lastIss)

/-- ENG_STAT (R279). -/
def State.engStat (s : State) : Word :=
  let flt := (allFin 4).foldl (fun x n => x + b2n (s.lane n).flt * 2 ^ n.val) 0
  let act := (allFin 4).foldl (fun x n => x + b2n (s.inService n) * 2 ^ n.val) 0
  let on := s.ctxList.filter fun c => (s.ctx c).st == .runnable || (s.ctx c).st == .running || (s.ctx c).st == .blocked
  let halted := s.ctxList.any fun c => (s.ctx c).st == .halted
  setBitsOf (setBitsOf (setBitsOf (setBitsOf (s.rd R.ENG_STAT) 31 28 flt) 27 24 act) 18 18 (b2n halted)) 6 0 on.length

/-- ENG_LOAD (R279): LANE_LOADn × 255, rounded down. -/
def State.engLoad (s : State) : Word :=
  nat32 ((allFin 4).foldl (fun x n => x + (fToInt .rz 0 255 (fMul (s.lane n).load (fOfInt 255))).1.toNat * 2 ^ (8 * n.val)) 0)

/-- The word a data port's address selects (R272, R553). -/
def State.prgWord (s : State) : Word := spGet 0#32 s.eng.prog (s.fld F.PRG_ADDR_BANK * 2 ^ 18 + s.fld F.PRG_ADDR_ADDR)
def State.tabWord (s : State) : Word := spGet 0#32 s.eng.tab (s.fld F.TAB_ADDR_ADDR)
def State.cellWord (s : State) : Word := s.cw (s.fld F.CELL_SEL_CELL) (s.fld F.CELL_SEL_WORD)

/-- The engine's windows (R279, R280). -/
def State.engVal (s : State) (a i : Nat) : Word :=
  let c := Fin.ofNat 64 i
  if a = R.ENG_STAT then s.engStat
  else if a = R.ENG_LOAD then s.engLoad
  else if a = R.CTX_STAT then s.ctxStat c
  else if a = R.CTX_PC then nat32 ((s.ctx c).pc % 2 ^ 18)
  else if a = R.CTX_VREG then (s.ctx c).reg (s.fld F.ENG_SEL_VREG)
  else if a = R.PRG_DATA then s.prgWord
  else if a = R.PRG_CTL then nat32 (b2n (s.bankUsed 1) * 2 + b2n (s.bankUsed 0))
  else if a = R.TAB_DATA then s.tabWord
  else if a = R.CELL_DATA then s.cellWord
  else if a = R.TRC_STAT then s.trcStat
  else s.rd (keyI a i)

/-- HOST_STAT (R534). -/
def State.hostStat (s : State) : Word :=
  let h := s.host
  setBitsOf (setBitsOf (setBitsOf (s.rd R.HOST_STAT) 30 30 (b2n h.hold.isSome)) 8 4 (16 - h.fifo.length)) 1 0 h.lanes

/-- HOST_IFLG (R513). -/
def State.hostIflg (s : State) : Word :=
  let temp := s.hk.shut || (allFin 32).any fun i => s.snsValid i && (s.sns i).warn
  setBitsOf (setBitsOf (setBitsOf (s.rd R.HOST_IFLG) 0 0 (s.fld F.FC_STAT_NEWREC)) 1 1 (b2n s.furl.furled)) 2 2 (b2n temp)

/-- Whether HIRQ0_N or HIRQ1_N is asserted: an enabled flag of its line is 1; NEWREC is always enabled; the lines are not driven low before the block runs (R390, R513, R584). -/
def State.hirqLow (s : State) (line : Fin 2) : Bool :=
  let f := s.hostIflg &&& (s.rd R.HOST_IEN ||| 1#32)
  s.clk.ready && decide (if line = 0 then bitsOf f 2 0 ≠ 0 else bitsOf f 7 3 ≠ 0)

/-- CMD_PIN: the levels of the command pins in DUTY or FREQ mode (R534). -/
def State.cmdPin (s : State) : Word :=
  let lvl := s.mastList.foldl (fun x m =>
    x + b2n (decide (2 ≤ s.pmode m) && (s.mast m).cmd.lvl) * 2 ^ m.val) 0
  setBitsOf (s.rd R.CMD_PIN) 15 0 lvl

/-- Ports and store (R534, R535, R560, R561, R361). -/
def State.portVal (s : State) (a i : Nat) : Word :=
  if a = R.ROLE_STAT then s.roleStat
  else if R.ROLE_BUF0 ≤ a ∧ a ≤ R.ROLE_BUF7 then s.role.rbuf.getD (a - R.ROLE_BUF0) 0#32
  else if a = R.AUD_STAT then s.audStat
  else if a = R.AUD_DATA then s.audData
  else if a = R.MEM_STAT then s.memStat
  else if a = R.MEM_TRACE then s.memTrace
  else if a = R.HOST_STAT then s.hostStat
  else if a = R.HOST_IFLG then s.hostIflg
  else if a = R.HOST_SNAP then (match s.host.held with | some g => nat32 (2 ^ 31 + g % 32) | none => 0#32)
  else if a = R.GPIO_IN then nat32 s.gpio.inp
  else if a = R.CMD_PIN then s.cmdPin
  else if a = R.FURL_STAT then s.furlStat
  else if a = R.BG_STAT then s.bgStat (Fin.ofNat 8 i)
  else if a = R.ST_STAT then s.stStat
  else if a = R.ST_BANK then s.stBank
  else if a = R.ST_JRNL then s.stJrnl
  else if a = R.ST_BOOT then nat32 s.store.boots
  else if a = R.ST_DATA then s.stDataRead
  else s.rd (keyI a i)

/-! #### Mast windows -/

/-- PWM_STAT (R91); a commit is in the shadow set once it is complete (R72, R170). -/
def State.pwmStat (s : State) (m : Fin 16) : Word :=
  let p := (s.mast m).pwm
  let (cnt, dir) := s.counter m
  let w := setBitsOf (setBitsOf (s.rd (keyI R.PWM_STAT m)) 31 24 p.sheet) 23 23 (b2n (s.anchErr m))
  let w1 := setBitsOf (setBitsOf w 22 22 (b2n p.anchLock)) 21 21 (b2n ((p.untag ++ p.shadow).any fun e => decide (e.doneAt ≤ s.now)))
  setBitsOf (setBitsOf w1 16 16 (b2n dir)) 15 0 cnt

/-- SNS_STAT (R137). -/
def State.snsReg (s : State) (m : Fin 16) : Word :=
  let x := (s.mast m).sense
  let w := setBitsOf (setBitsOf (setBitsOf (s.rd (keyI R.SNS_STAT m)) 26 26 (b2n x.planOk)) 25 24 x.xRes) 23 23 (b2n x.inlBar)
  setBitsOf (setBitsOf (setBitsOf w 15 8 (satNat 255 x.invRun)) 3 1 x.reason) 0 0 (b2n x.inline)

/-- RAW_S and RAW_P (R137). -/
def State.rawS (s : State) (m : Fin 16) : Word :=
  let x := (s.mast m).sense
  nat32 (x.rawS2 % 2 ^ 14 * 2 ^ 16 + x.rawS1 % 2 ^ 14)
/-- DESIGN CHOICE, log entry 104: a slot that was not converted reads CODE 0 and CH 0; a set without a sequence leaves the codes of the one before. -/
def State.rawP (s : State) (m : Fin 16) : Word :=
  let slot := s.fld F.RAW_P_SLOT m
  match (s.mast m).sense.rawP.find? fun e => e.1 == slot with
  | some (_, ch, code) => nat32 (code % 4096 * 2 ^ 16 + ch * 2 ^ 8 + slot)
  | none => nat32 slot

/-- COM_STAT (R199). -/
def State.comStat (s : State) (m : Fin 16) : Word :=
  let c := (s.mast m).com
  setBitsOf (setBitsOf (setBitsOf (setBitsOf (s.rd (keyI R.COM_STAT m)) 10 8 c.step) 7 5 (s.sectorNow m)) 4 3 c.drive) 2 0 c.est.num

/-- LEG.CFG of leg l (R92). -/
def State.legCfg (s : State) (m : Fin 16) (l : Fin 4) : Word :=
  let x := s.mast m
  setBitsOf (setBitsOf (s.rd (keyI R.LEG_CFG m + 8 * l.val)) 31 24 x.trimH[l]) 23 23 (b2n x.calValid[l])

/-- A mast's registers (R91, R92, R137, R199, R230, R359). -/
def State.mastVal (s : State) (a : Nat) (m : Fin 16) : Word :=
  if a = R.PWM_STAT then s.pwmStat m
  else if 0x1010 ≤ a ∧ a < 0x1030 ∧ a % 8 = 0 then s.legCfg m (Fin.ofNat 4 ((a - 0x1010) / 8))
  else if a = R.SNS_STAT then s.snsReg m
  else if a = R.SH_OFS then nat32 (s.shOfs4 m % 65536).toNat
  else if a = R.RAW_S then s.rawS m
  else if a = R.RAW_P then s.rawP m
  else if a = R.COM_STAT then s.comStat m
  else if a = R.SEQ_STAT then s.seqStat m
  else if a = R.SHR_STAT then s.shrStat m
  else if a = R.SHR_TIME then s.shrTime m
  else if a = R.BUS_CFG then s.busCfg m
  else if a = R.INJ_CFG ∧ s.hasCorr = false then setBitsOf (s.rd (keyI a m)) 27 24 0
  else s.rd (keyI a m)

/-- The present value of a register, its WO fields as 0 (R11). -/
def State.regVal (s : State) (a i : Nat) (row : RegRow) : Word :=
  let w :=
    if 0x1000 ≤ a then s.mastVal a (Fin.ofNat 16 i)
    else match a / 256 with
      | 0 => s.idVal a
      | 1 => s.clkVal a
      | 3 => s.fcVal a i
      | 4 => s.hkVal a i
      | 5 => s.lkVal a i
      | 6 => s.tbVal a
      | 7 => s.tbVal a
      | 8 => s.engVal a i
      | 9 => s.engVal a i
      | _ => s.portVal a i
  w &&& ~~~woMask row

/-- What an address reads as now (R3, R39). -/
def State.peek (s : State) (addr : Nat) : Word :=
  match s.place addr with
  | .reg a i row => s.regVal a i row
  | _ => 0#32

/-! ### What a host read does beside -/

/-- The record whose words a read of FC_LOG returns counts as read (R388). -/
def State.logRead (s : State) : State :=
  match s.fc.logSnap.getD s.before.logRec with
  | some r => s.updFc fun f => { f with log := f.log.map fun e => if e.2.seq = r.seq then (e.1, { e.2 with isRead := true }) else e }
  | none => s

/-- FC_LOG3 has been returned: AINC advances SLOT and ends the snapshot (R388). -/
def State.logNext (s : State) : State :=
  if s.flag F.FC_LOG_SEL_AINC then
    (s.setFld F.FC_LOG_SEL_SLOT 0 ((s.fld F.FC_LOG_SEL_SLOT + 1) % 256)).updFc fun f => { f with logSnap := none }
  else s

/-- The low word of a snapshotting register is read: its companions are held as they stand with it (R388, R457, R504, R505). -/
def State.lowRead (s : State) (a : Nat) : State :=
  if a = R.TB_NS then { s with tb.snapSec := some s.before.tbSec }
  else if a = R.FC_FIRST0 then s.updFc fun f => { f with firstSnap := some s.before.fc.first }
  else if a = R.FC_LOG0 then (s.updFc fun f => { f with logSnap := some s.before.logRec }).logRead
  else s

/-- A data port's address advances by one word (R272). -/
def State.prgNext (s : State) : State :=
  s.when (s.flag F.PRG_ADDR_AINC) fun s => s.setFld F.PRG_ADDR_ADDR 0 ((s.fld F.PRG_ADDR_ADDR + 1) % 32768)
def State.tabNext (s : State) : State :=
  s.when (s.flag F.TAB_ADDR_AINC) fun s => s.setFld F.TAB_ADDR_ADDR 0 ((s.fld F.TAB_ADDR_ADDR + 1) % 4096)
def State.sigNext (s : State) : State :=
  s.when (s.flag F.SIG_ADDR_AINC) fun s => s.setFld F.SIG_ADDR_ID 0 ((s.fld F.SIG_ADDR_ID + 1) % 2 ^ 20)
def State.cellNext (s : State) : State :=
  s.when (s.flag F.CELL_SEL_AINC) fun s =>
    let n := (16 * s.fld F.CELL_SEL_CELL + s.fld F.CELL_SEL_WORD + 1) % 65536
    (s.setFld F.CELL_SEL_WORD 0 (n % 16)).setFld F.CELL_SEL_CELL 0 (n / 16)

/-- Effects of a host read of a register, RC fields apart. -/
def State.readEffect (s : State) (a : Nat) : State :=
  if a = R.TB_NS ∨ a = R.FC_FIRST0 ∨ a = R.FC_LOG0 then s.lowRead a
  else if a = R.FC_LOG1 ∨ a = R.FC_LOG2 then s.logRead
  else if a = R.FC_LOG3 then s.logRead.logNext
  else if a = R.AUD_DATA then s.audNext
  else if a = R.PRG_DATA then s.prgNext
  else if a = R.TAB_DATA then s.tabNext
  else if a = R.CELL_DATA then s.cellNext
  else if a = R.ST_DATA then s.stNext
  else s

/-- The count of suppressed records of a source. -/
def Fc.suppOf (f : Fc) (src : Nat) : Nat := match f.supp.find? fun e => e.1 == src with | some e => e.2 | none => 0

/-- A host read takes the RC fields of a register as the present cycle began with them: the value taken, and the fields counting afresh from what the
cycle adds (R12, R502). -/
def State.rcTake (s : State) (a i : Nat) (row : RegRow) : Word × State :=
  let v := s.before.regVal a i row &&& rcMask row
  if a = R.FC_SRC_STAT then
    let n := s.fc.suppOf i - s.was.fc.suppOf i
    (v, s.updFc fun f => { f with supp := (if n = 0 then [] else [(i, n)]) ++ f.supp.filter fun e => e.1 != i })
  else (v, s.wr (keyI a i) ((s.rd (keyI a i) &&& ~~~rcMask row) ||| (s.freshOf (keyI a i) &&& rcMask row)))

end Sys2Proof.Machine
end

