-- ==== Sys2Proof/Machine/Reset.lean ====
section
/-! DEFINITION. Machine/Reset.lean: what a device reset, a mast block reset and a lane reset leave (R119, R392, R571–R577). -/

namespace Sys2Proof.Machine

/-! ### Device reset -/

/-- The pulse under way is a program pulse, not an erase (R550, R572). -/
def Store.programs (t : Store) : Bool :=
  match t.pulse with
  | some (.fault _ _) => true
  | some (.audit _ _) => true
  | some .cmd => (match t.cmd with | some (.erase _ _) => false | _ => true)
  | _ => false

/-- The store after a device reset of a cause: the operation under way finished or aborted (R572), waiting records and pending entries gone. -/
def State.resetStore (s : State) (cause : Nat) : Store :=
  let s1 :=
    if s.store.pulse.isNone then s
    else if s.store.programs && decide (3 ≤ cause) then s.pulseDone_ true else s.stAbortPulse
  let t := s1.store
  { mem := t.mem, audSeq := t.audSeq, audPos := t.audPos, audCount := t.audCount, faultPos := t.faultPos, boots := t.boots }

/-- What a device reset keeps of the roles: the OTP and the unlock count (R538–R542). -/
def RoleSt.kept (r : RoleSt) (now : Nat) : RoleSt :=
  { kMak := r.kMak, kIns := r.kIns, imgX := r.imgX, imgY := r.imgY, unlocks := r.unlocks, draws := r.draws, lastWrite := now }

/-- The levels at the balls of a mast outlast a reset; everything else of it goes to its reset value. -/
def Mast.pinsOnly (x : Mast) : Mast := { cmd := { lvl := x.cmd.lvl }, shr := { amp := x.shr.amp, tripLvl := x.shr.tripLvl } }

/-- RST_CNT and RST_CAUSE at a reset of a cause, `mon` the clock's code with cause CLOCK (R571, R586). -/
def State.noteCause (s old : State) (cause mon : Nat) : State :=
  if cause = 0 then s
  else
    let s1 := (s.wr R.RST_CAUSE (old.rd R.RST_CAUSE)).wr R.RST_CNT (old.rd R.RST_CNT)
    let s2 := (s1.setFld F.RST_CAUSE_CAUSE 0 cause).setFld F.RST_CAUSE_CLK 0 (if cause = 2 then mon else 0)
    let s3 := s2.setFld F.RST_CAUSE_SEEN 0 (s2.fld F.RST_CAUSE_SEEN ||| 2 ^ cause)
    s3.bump (match cause with | 1 => F.RST_CNT_PIN | 2 => F.RST_CNT_CLOCK | 3 => F.RST_CNT_SOFT | _ => F.RST_CNT_REACTION) 0

/-- A device reset of a cause is asserted (R571–R574). -/
def State.deviceReset (s : State) (cause mon : Nat) : State :=
  let c := s.clk
  let f : State :=
    { State.reset with
      pending := s.pending, now := s.now, variant := s.variant
      masts := s.masts.map Mast.pinsOnly
      gpio := { inp := s.gpio.inp, chg := s.gpio.chg }
      furl := { pinLow := s.furl.pinLow }
      store := s.resetStore cause
      role := s.role.kept s.now
      tap := s.tap
      clk := { rstAt := s.now, porLow := c.porLow, aboveAt := c.aboveAt, at_ := c.at_, pinLow := c.pinLow, pinAt := c.pinAt, straps := c.straps,
               vrefExt := c.vrefExt, relAt := c.relAt, lost := decide (cause = 2) || (c.lost && decide (cause ≠ 0))
               clockRec := if cause = 2 then some mon else if cause = 0 then none else c.clockRec } }
  (f.noteCause s cause mon).turn

/-! ### Mast block reset -/

/-- Status registers of a mast window that a mast block reset takes to their reset values (R574). -/
def mastStatusRegs : List Nat := [R.PWM_STAT, R.SNS_STAT, R.COM_STAT, R.SEQ_STAT, R.SHR_STAT]

/-- The units of a mast after its block reset (R392, R574): its chopper has not failed (R352), and the bar on the in-line path and row 5 of
R121 stay where a pending record of INLINE_SENSE or SHUNT_SENSE holds them (R385). -/
def Mast.blockReset (x : Mast) (now : Nat) (inlPend shPend : Bool) : Mast :=
  let e := x.sense
  { x with
    pwm := { x.pwm with act := x.pwm.act.zeroed, hist := [], shadow := [], untag := [], dueSets := [], sheet := 0x55,
                        stepPend := [], anchRun := 0, anchLock := false }
    sense := { hostKA := e.hostKA, hostKB := e.hostKB, hostXG := e.hostXG, inlA := e.inlA, inlB := e.inlB, lastStart := e.lastStart
               cap := { k := e.cap.k, b0 := e.cap.b0, tLen := e.cap.tLen, off := true }
               inlBar := e.inlBar && inlPend, inlBarNext := e.inlBarNext && inlPend, shuntBad := e.shuntBad && shPend }
    com := { kindVec := x.com.kindVec, advNo := x.com.advNo, quadAB := x.com.quadAB, quadZ := x.com.quadZ }
    seq := {}
    hal := {}
    cmd := { lvl := x.cmd.lvl, since := now }
    shr := { amp := x.shr.amp, ocOn := x.shr.ocOn, ocOlds := x.shr.ocOlds, tripLvl := x.shr.tripLvl
             chopOn := x.shr.chopOn, chopAcc := x.shr.chopAcc, chopSince := x.shr.chopSince }
    resetAt := none
    restart := false }

/-- Signals +0x000–+0x1FF of mast m go to their reset values (R574), but START_NO, which counts since device reset (R229). -/
def dropMastSigs (m : Nat) (l : Sparse) : Sparse :=
  l.filter fun e => decide (e.1 < sigM m 0) || decide (sigM m 0x200 ≤ e.1) || decide (e.1 = sigM m 0x106)

/-- The estimator after a mast block reset: IDLE, or TRACK with a sensor (R191, R392). -/
def State.trackAgain (s : State) (m : Fin 16) : State :=
  s.when (s.comMode m ≠ 0 && (decide (s.asrc m = 1) || decide (s.asrc m = 2))) fun s => s.setEst m .track

/-- The signals of mast m that programs may write are about to go to their reset values (R33). -/
def State.noteDrops (s : State) (m : Fin 16) : State :=
  (s.sigs.filter fun e => decide (sigM m 0 ≤ e.1) && decide (e.1 < sigM m 0x200) && s.sigKind e.1 == .op).foldl (fun s e => s.noteHw e.1) s

/-- A mast block reset completes (R392, R574, R575), with a START request where RESTART applies. -/
def State.mastResetDone (s : State) (m : Fin 16) : State :=
  let again := (s.mast m).restart
  let pend := fun (k : Nat) => s.srcPend (0x40 + 12 * m.val + k)
  let s1 := (s.gateMark m).updM m fun x => x.blockReset s.now (pend MS.INLINE_SENSE) (pend MS.SHUNT_SENSE)
  let s2 := mastStatusRegs.foldl (fun s a => s.wr (keyI a m) (resetWord s.variant (keyI a m))) s1
  let s3 := (s2.setFld F.LOOP_OVR_COUNT m 0).setFld F.SHR_CNT_CBC m 0
  let s4 := ({ s3.noteDrops m with sigs := dropMastSigs m s3.sigs }).updFc fun f =>
    { f with stamps := f.stamps.filter fun e => decide (srcMast e.1 ≠ some m.val) }
  let s4 := s4.putM m 0x0C2 (s4.iLimEff m)
  let s5 := (((s4.trackAgain m).refreshDrive m s4.now).refreshSafe m).shroudLook m
  s5.when again fun s => s.seqRequest m .start

/-- A mast block reset runs and its completion may come (R392: at most 350 µs from its start). -/
def State.mastResetDue (s : State) (m : Fin 16) : Bool := (s.mast m).resetAt.isSome

/-! ### Lane reset -/

/-- The self-test of lane n has lasted its 20 µs (R267, R576; log entry 106). -/
def State.laneTestDue (s : State) (n : Fin 4) : Bool :=
  match (s.lane n).testAt with
  | some t => decide (t + 20 * tUs ≤ s.now)
  | none => false

/-- The self-test of a lane ends (R576). -/
def State.laneTested (s : State) (n : Fin 4) (pass : Bool) : State :=
  if !s.laneTestDue n then s
  else if pass then
    let on := (s.fld F.ENG_CTL_LANE_EN).testBit n.val
    s.updL n fun l => { l with flt := false, failed := false, testAt := none, act := on, leaving := none, lastIssue := s.now }
  else (s.updL n fun l => { l with flt := true, failed := true, testAt := none, act := false }).raise DS.LANE_FAULT n.val

/-! ### RST_CMD -/

/-- The masts a mask names are present and stopped or unrigged (R577). -/
def State.mastsFree (s : State) (mask : Nat) : Bool :=
  (List.range 16).all fun m => !mask.testBit m ||
    (s.hasMast m && (s.unrigged m || (match asMast m with
      | some i => (s.mast i).seq.st == .off || (s.mast i).seq.st == .fault
      | none => false)))

/-- RST_CMD is carried out (R576, R577). -/
def State.rstOk (s : State) (w : Word) : Bool :=
  decide (bitsOf w 31 24 = 0x5A) &&
    (match bitsOf w 23 20 with
     | 0 => true
     | 1 => true
     | 2 => s.mastsFree (bitsOf w 15 0)
     | 3 => decide (bitsOf w 19 18 < s.variant.lanes) && !s.inService (Fin.ofNat 4 (bitsOf w 19 18))
     | _ => false)

/-- A write of RST_CMD (R575–R577). -/
def State.rstCmd (s : State) (w : Word) : State :=
  if !s.rstOk w then s.setFld F.RST_STAT_CFG_ERR 0 1
  else match bitsOf w 23 20 with
    | 1 => s.deviceReset 3 0
    | 2 => s.mastList.foldl (fun s m => if (bitsOf w 15 0).testBit m.val then s.mastReset m false else s) s
    | 3 => s.updL (Fin.ofNat 4 (bitsOf w 19 18)) fun l => { l with testAt := some s.now }
    | _ => s

end Sys2Proof.Machine
end

