-- ==== Sys2Proof/Machine/WriteMast.lean ====
section
/-! DEFINITION. Machine/WriteMast.lean: what a write of a mast register refuses, and what it does beside storing the word (chapters 2–5 and 8). -/

namespace Sys2Proof.Machine

/-! ### Refusals -/

/-- Where `c` holds, bits hi:lo keep their old value and a refusal is noted. -/
def keepBits (c : Bool) (old : Word) (hi lo : Nat) (x : Word × Bool) : Word × Bool :=
  if c then (setBitsOf x.1 hi lo (bitsOf old hi lo), true) else x

/-- Where `c` holds, the register keeps its old value and a refusal is noted. -/
def keepAll (c : Bool) (old : Word) (x : Word × Bool) : Word × Bool := if c then (old, true) else x

/-- Bits hi:lo differ. -/
def differ (a b : Word) (hi lo : Nat) : Bool := bitsOf a hi lo != bitsOf b hi lo

/-- PWM_CTL (R51, R53, R80): PERIOD is staged, and keeps its value during a mast block reset (R575). -/
def State.fixPwmCtl (s : State) (m : Fin 16) (old nw : Word) : Word × Bool :=
  let run := bitOf old 20
  let x1 := keepBits ((run && differ old nw 19 16) || decide (5 ≤ bitsOf nw 18 16)) old 19 16 (nw, false)
  let x2 := keepBits (decide (2 ≤ bitsOf nw 22 21)) old 22 21 x1
  let x3 := keepBits (run && !bitOf nw 20 && s.outputsOn m) old 20 20 x2
  if (s.mast m).resetAt.isSome then (setBitsOf x3.1 15 0 (bitsOf old 15 0), x3.2) else x3

/-- LOOP_CFG (R27, R76). -/
def State.fixLoopCfg (s : State) (old nw : Word) : Word × Bool :=
  let x1 := keepBits (decide (bitsOf nw 4 0 = 0) || decide (16 < bitsOf nw 4 0)) old 4 0 (nw, false)
  let x2 := keepBits (!s.hasCtx (bitsOf nw 13 8)) old 13 8 x1
  keepBits (!s.hasCtx (bitsOf nw 21 16)) old 21 16 x2

/-- AUXT_CFG (R82): reserved modes; PLAN is reserved on AUXT3. -/
def fixAuxtCfg (old nw : Word) : Word × Bool :=
  let bad := fun n => decide (5 ≤ bitsOf nw (8 * n + 3) (8 * n))
  let x1 := keepBits (bad 0) old 3 0 (nw, false)
  let x2 := keepBits (bad 1) old 11 8 x1
  let x3 := keepBits (bad 2) old 19 16 x2
  keepBits (bad 3 || decide (bitsOf nw 27 24 = 1)) old 27 24 x3

/-- LEG[l].CFG (R75, R92). -/
def State.fixLegCfg (s : State) (m : Fin 16) (l : Nat) (old nw : Word) : Word × Bool :=
  if s.running m && differ old nw 3 0 then keepBits true old 3 0 (nw, false)
  else
    let f := bitsOf nw 1 0
    let ok := decide (f = 0) || (if l = 3 then decide (2 ≤ f) else decide (f = 1))
    keepBits (decide (bitsOf nw 3 2 = 3)) old 3 2 (keepBits (!ok) old 1 0 (nw, false))

/-- The sequence names a channel, and how often (R97). -/
def seqCount (pseq : Word) (ch : Nat) : Nat := ((List.range (slotN pseq)).filter fun i => slotCh pseq i == ch).length

/-- SNS_CTL (R125, R137). -/
def State.fixSnsCtl (s : State) (m : Fin 16) (old nw : Word) : Word × Bool :=
  let lock := s.running m && (differ old nw 2 0 || differ old nw 6 6 || differ old nw 9 8)
  let x1 := keepBits (lock || decide (5 ≤ bitsOf nw 2 0)) old 2 0 (nw, false)
  let x2 := keepBits (lock || decide (bitsOf nw 9 8 = 3)) old 9 8 x1
  let x3 := keepBits (decide (bitsOf nw 5 4 = 3)) old 5 4 (keepBits lock old 6 6 x2)
  let seq := s.rd (keyI R.PSEQ m)
  let fit := bitOf x3.1 6
  keepAll ((decide (bitsOf x3.1 5 4 = 2) && !fit) || (fit && (seqCount seq 0 = 0 || seqCount seq 1 = 0))) old x3

/-- PSEQ (R98, R125, R223). -/
def State.fixPseq (s : State) (m : Fin 16) (old nw : Word) : Word × Bool :=
  keepAll (decide (2 ≤ seqCount nw 0) || decide (2 ≤ seqCount nw 1) ||
    (s.inlFit m && (seqCount nw 0 = 0 || seqCount nw 1 = 0)) || (decide (s.pmode m = 1) && seqCount nw 6 = 0)) old (nw, false)

/-- COM_CTL (R138, R139): outside rest MODE, ASRC and PP keep their values. -/
def State.fixComCtl (s : State) (m : Fin 16) (old nw : Word) : Word × Bool :=
  if s.outputsOn m && differ old nw 9 0 then keepBits true old 9 0 (nw, false)
  else keepBits (decide (4 ≤ bitsOf nw 4 2)) old 4 2 (keepBits (decide (bitsOf nw 1 0 = 3)) old 1 0 (nw, false))

/-- The sectors a Hall map gives codes 1–6 (R157). -/
def hallMap (w : Word) : List Nat := (List.range 6).map fun i => bitsOf w (3 * i + 2) (3 * i)

/-- No number occurs twice. -/
def noDup : List Nat → Bool
  | [] => true
  | x :: r => !r.contains x && noDup r

/-- HALL_CFG (R156, R157). -/
def fixHallCfg (old nw : Word) : Word × Bool :=
  let mp := hallMap nw
  keepBits (mp.any (fun e => decide (6 ≤ e)) || !noDup mp) old 17 0 (keepBits (decide (30 ≤ bitsOf nw 23 19)) old 23 19 (nw, false))

/-- INJ_CFG (R177, R199): WIN is a field of the correlator, which SV6420 lacks. -/
def State.fixInjCfg (s : State) (old nw : Word) : Word × Bool :=
  let x1 := keepBits (decide (bitsOf nw 30 29 = 3)) old 30 29 (nw, false)
  let win := bitsOf nw 27 24
  if s.hasCorr then keepBits (decide (win < 3) || decide (11 < win)) old 27 24 x1
  else (setBitsOf x1.1 27 24 (bitsOf old 27 24), x1.2)

/-- Refusals of the registers of the commutation and start units (R153, R160, R168, R171, R192, R194, R199, R206, R230). -/
def State.fixCom (s : State) (m : Fin 16) (a : Nat) (old nw : Word) : Word × Bool :=
  if a = R.COM_CTL then s.fixComCtl m old nw
  else if a = R.LUFF_CFG then keepBits (decide (bitsOf nw 17 16 = 3)) old 17 16 (nw, false)
  else if a = R.HALL_CFG then fixHallCfg old nw
  else if a = R.QUAD_CFG then keepBits (decide (30 ≤ bitsOf nw 20 16)) old 20 16 (nw, false)
  else if a = R.ZC_CFG then keepBits (decide (61 ≤ bitsOf nw 5 0)) old 5 0 (nw, false)
  else if a = R.VM_CTL then keepBits (decide (4 ≤ bitsOf nw 2 0)) old 2 0 (nw, false)
  else if a = R.VM_VA ∨ a = R.VM_VB then keepAll (!fFinite nw) old (nw, false)
  else if a = R.INJ_CFG then s.fixInjCfg old nw
  else if a = R.AT_CFG then
    keepBits (decide (bitsOf nw 27 24 = 0)) old 27 24 (keepBits (decide (bitsOf nw 31 28 = 0)) old 31 28 (nw, false))
  else if a = R.HND_CFG then keepAll (decide (bitsOf nw 31 16 < bitsOf nw 15 0)) old (nw, false)
  else (nw, false)

/-- Refusals of SEQ_CFG, CATCH_CFG, HAL_CFG and CMD_CFG (R219, R223, R225, R230). -/
def State.fixSeq (s : State) (m : Fin 16) (a : Nat) (old nw : Word) : Word × Bool :=
  if a = R.SEQ_CFG then keepBits (decide (bitsOf nw 31 24 = 0)) old 31 24 (nw, false)
  else if a = R.CATCH_CFG then keepAll (decide (bitsOf nw 31 16 < bitsOf nw 15 4)) old (nw, false)
  else if a = R.HAL_CFG then
    keepBits (decide (2 ≤ bitsOf nw 27 26)) old 27 26
      (keepBits (differ old nw 31 31 && (s.mast m).seq.st != .off) old 31 31 (nw, false))
  else if a = R.CMD_CFG then
    let x1 := keepBits (decide (bitsOf nw 31 30 = 1) && seqCount (s.rd (keyI R.PSEQ m)) 6 = 0) old 31 30 (nw, false)
    keepBits (decide (bitsOf nw 23 22 = 3)) old 23 22 (keepBits (decide (11 ≤ bitsOf nw 27 24)) old 27 24 x1)
  else (nw, false)

/-- The leg and the register (0 CFG, 1 CMP_A, 2 CMP_B, 3 DT_RISE, 4 DT_FALL) of a leg register's address (R92). -/
def legReg (a : Nat) : Option (Nat × Nat) := if 0x1010 ≤ a ∧ a < 0x1030 then some ((a - 0x1010) / 8, (a - 0x1010) % 8) else none

/-- A register of the staging set: nothing of it is stored during a mast block reset (R71, R169, R575). -/
def stagingReg (a : Nat) : Bool :=
  (match legReg a with | some (_, k) => decide (k ≠ 0) | none => false) || decide (a = R.VM_VA ∨ a = R.VM_VB)

/-- What a mast register takes of a write: the word stored, and whether a part was refused. -/
def State.fixMast (s : State) (m : Fin 16) (a : Nat) (old nw : Word) : Word × Bool :=
  if (s.mast m).resetAt.isSome && stagingReg a then (old, false)
  else match legReg a with
  | some (l, 0) => s.fixLegCfg m l old nw
  | some _ => (nw, false)
  | none =>
    if a = R.PWM_CTL then s.fixPwmCtl m old nw
    else if a = R.LOOP_CFG then s.fixLoopCfg old nw
    else if a = R.AUXT_CFG then fixAuxtCfg old nw
    else if a = R.SNS_CTL then s.fixSnsCtl m old nw
    else if a = R.PSEQ then s.fixPseq m old nw
    else if a = R.XCHK_CFG then keepBits (decide (9 ≤ bitsOf nw 7 4)) old 7 4 (nw, false)
    else if a = R.SHR_CTL then keepBits (decide (bitsOf nw 26 25 = 3)) old 26 25 (nw, false)
    else if 0x1070 ≤ a ∧ a < 0x1090 then s.fixCom m a old nw
    else if 0x1090 ≤ a ∧ a < 0x10B0 then s.fixSeq m a old nw
    else (nw, false)

/-- The flag a refusal in a mast window sets (R137, R199, R230, R359, R615). -/
def mastCfgErr (a : Nat) : Fld :=
  if a < 0x1040 then F.PWM_STAT_CFG_ERR
  else if a < 0x1070 then F.SNS_STAT_CFG_ERR
  else if a < 0x1090 then F.COM_STAT_CFG_ERR
  else if a < 0x10B0 then F.SEQ_STAT_CFG_ERR
  else F.SHR_STAT_CFG_ERR

/-- A register whose fields wait for a boundary at least 8 PWMCLK cycles on (R75, R137, R199). -/
def waitsBoundary (a : Nat) : Bool :=
  decide (a = R.PWM_CTL ∨ a = R.LOOP_CFG ∨ a = R.AUXT_CFG ∨ a = R.AUXT_TIME) ||
  (match legReg a with | some (_, k) => decide (k = 0) | none => false) ||
  decide (0x1040 ≤ a ∧ a ≤ 0x104D) || decide (0x1070 ≤ a ∧ a ≤ 0x107B)

/-! ### Effects -/

/-- COM_CTL is stored: the estimator and the drive follow MODE and ASRC, changed at rest only (R140, R191). -/
def State.comFollows (s : State) (m : Fin 16) (old nw : Word) : State :=
  if differ old nw 9 0 then
    let track := s.comMode m ≠ 0 && (decide (s.asrc m = 1) || decide (s.asrc m = 2))
    let s1 :=
      if track then (if (s.mast m).com.est = .track && !differ old nw 4 2 then s else s.setEst m .track)
      else if (s.mast m).com.est = .idle then s else s.setEst m .idle
    s1.refreshDrive m s.now
  else s

/-- COM_CTL.STEP_WR (R149). -/
def State.stepWrite (s : State) (m : Fin 16) (w : Word) : State :=
  if !bitOf w 19 then s
  else if s.comMode m = 1 ∧ s.asrc m = 0 ∧ (s.mast m).com.drive = 2 ∧ bitsOf w 18 16 < 6 then s.stepEvent m (bitsOf w 18 16) s.now
  else s.comCfgErr m

/-- What a mast register does beside being stored: `w` the word written, `old` and `nw` the stored words. -/
def State.afterMast (s : State) (m : Fin 16) (a : Nat) (w old nw : Word) : State :=
  match legReg a with
  | some (l, k) =>
    if k = 1 ∧ l < 3 ∧ (s.mast m).resetAt.isNone = true then s.stageKind m 0 false else s
  | none =>
    if a = R.PWM_CTL then s.when (!bitOf old 20 && bitOf nw 20) fun s => s.startRun m
    else if a = R.LOOP_CFG then
      -- LEN 0 ends the count of releases; while the timebase runs the next release finds it so (R76)
      s.when (!(s.mast m).pwm.counting && decide (bitsOf nw F.LOOP_CFG_LEN.hi F.LOOP_CFG_LEN.lo = 0)) fun s => s.updPwm m fun p => { p with relCount := 0 }
    else if a = R.SNS_CTL then s.when (differ old nw 2 0) fun s => s.updSense m fun x => { x with ofsDelta := 0 }
    else if a = R.SH_CAL then s.updSense m fun x => { x with hostXG := bitsOf nw 15 0 }
    else if a = R.INL_KA then s.updSense m fun x => { x with hostKA := nw }
    else if a = R.INL_KB then s.updSense m fun x => { x with hostKB := nw }
    else if a = R.INL_OFS then
      s.updSense m fun x => { x with inlA := (bitsOf nw 11 0 : Int) * 65536, inlB := (bitsOf nw 27 16 : Int) * 65536 }
    else if a = R.QUAD_CFG then
      -- a rise of Z on a pin newly named, or before ZEN, is none (R161)
      if differ old nw F.QUAD_CFG_PIN.hi F.QUAD_CFG_PIN.lo then s.updCom m fun c => { c with quadZ := true } else s.noteZ m
    else if a = R.COM_CTL then (s.comFollows m old nw).stepWrite m w
    else if a = R.VM_VA ∨ a = R.VM_VB then
      s.when (fFinite w && (s.mast m).resetAt.isNone) fun s => s.stageKind m 0 true
    else if a = R.CMD_CFG then s.when (differ old nw 31 30) fun s => s.updCmd m fun c => { lvl := c.lvl, since := s.now }
    else if a = R.SHR_OC then (s.when (differ old nw 31 0) fun s => s.ocWritten m old).shroudLook m
    else if a = R.SHR_CTL ∨ a = R.BUS_CFG then (s.refreshSafe m).shroudLook m
    else s

/-- PWM_COMMIT (R72, R575, R91). -/
def State.pwmCommitW (s : State) (m : Fin 16) (w : Word) : State :=
  if bitOf w 0 && (s.mast m).resetAt.isNone then s.commitAt m none (if bitOf w 16 then some (bitsOf w 15 8) else none) s.now 0 else s

/-- SEQ_CMD (R201, R230). -/
def State.seqCmdW (s : State) (m : Fin 16) (w : Word) : State :=
  match bitsOf w 2 0 with
  | 0 => s
  | 1 => s.seqRequest m .start
  | 2 => s.seqRequest m (.stop (bitsOf w 5 4))
  | 3 => s.seqRequest m .clear
  | _ => s.setFld F.SEQ_STAT_CFG_ERR m 1

/-- SHR_CMD (R343, R360). -/
def State.shrCmdW (s : State) (m : Fin 16) (w : Word) : State :=
  (s.when (bitOf w 0) fun s => s.shroudClear m).when (bitOf w 1) fun s => s.shroudTest m

end Sys2Proof.Machine
end

