-- ==== Sys2Proof/Machine/WriteDev.lean ====
section
/-! DEFINITION. Machine/WriteDev.lean: what a write of a device register refuses, and what it does beside storing the word (chapters 6 and 8–15). -/

namespace Sys2Proof.Machine

/-! ### Refusals: fault collector (R371, R380, R393) -/

/-- FC_SRC_CFG: maker rights are needed to lower a severity, clear EN, or change STOP or ALL of a source of STOP-MAST or higher. -/
def State.fixSrcCfg (s : State) (role i : Nat) (old nw : Word) : Word × Bool :=
  let r := srcCfgReset s.variant i
  let lower := fun hi lo => decide (bitsOf nw hi lo < bitsOf r hi lo) && decide (bitsOf nw hi lo < bitsOf old hi lo)
  let maker := lower 30 28 || lower 27 25 || (bitOf old 31 && !bitOf nw 31) ||
    (decide (3 ≤ bitsOf r 30 28) && differ old nw 11 9)
  keepAll ((maker && decide (role < 2)) || decide (5 ≤ bitsOf nw 30 28) || decide (5 ≤ bitsOf nw 27 25) || decide (bitsOf nw 13 12 = 3)) old (nw, false)

/-- Refusals of window 0x03. -/
def State.fixFc (s : State) (role a i : Nat) (old nw : Word) : Word × Bool :=
  if a = R.FC_CTL then
    keepAll ([(30, 28), (26, 24), (22, 20), (18, 16)].any fun b => decide (5 ≤ bitsOf nw b.1 b.2)) old (nw, false)
  else if a = R.FC_SEL then keepBits (decide (9 ≤ bitsOf nw 11 8)) old 11 8 (nw, false)
  else if a = R.FC_SRC_CFG then s.fixSrcCfg role i old nw
  else if a = R.FC_CONSEQ then keepAll (decide (200 < bitsOf nw 19 12)) old (nw, false)
  else (nw, false)

/-! ### Refusals: thermal (R398, R401, R405, R420) -/

/-- The die thresholds keep their order (R401). -/
def dieOrder (die shut : Word) : Bool :=
  decide (bitsOf die 31 24 ≤ bitsOf die 23 16) && decide (bitsOf die 23 16 + bitsOf die 15 8 ≤ bitsOf shut 15 8) &&
    decide (1 ≤ bitsOf die 15 8) && decide (120 ≤ bitsOf shut 15 8) && decide (bitsOf shut 15 8 ≤ 150)

/-- Refusals of window 0x04. -/
def State.fixHk (s : State) (a i : Nat) (old nw : Word) : Word × Bool :=
  if a = R.TH_DIE then keepAll (!dieOrder nw (s.rd R.TH_SHUT)) old (nw, false)
  else if a = R.TH_SHUT then keepAll (!dieOrder (s.rd R.TH_DIE) nw || decide (100 < bitsOf nw 7 0)) old (nw, false)
  else if a = R.TH_RATE then keepAll (decide (100 < bitsOf nw 31 24)) old (nw, false)
  else if a = R.TH_EXT then
    keepAll (!isTe i || decide (bitsOf nw 23 16 < bitsOf nw 31 24) || decide (bitsOf nw 15 8 = 0)) old (nw, false)
  else if a = R.SNS_CFG then keepBits (decide (bitsOf nw 29 28 = 3)) old 29 28 (nw, false)
  else if a = R.REEF_MAP then keepAll ((List.range 32).any fun k => nw.toNat.testBit k && !s.hasSns k) old (nw, false)
  else (nw, false)

/-! ### Refusals: ring (R430, R442, R450, R453) -/

/-- MLEN of the enabled windows other than p, together (R450). -/
def State.mlenOthers (s : State) (p : Nat) : Nat :=
  (List.range 16).foldl (fun n q => if q ≠ p ∧ s.pwinOn q = true then n + s.pwin F.LK_PWIN_MLEN q else n) 0

/-- Refusals of window 0x05. -/
def State.fixLk (s : State) (a i : Nat) (old nw : Word) : Word × Bool :=
  if a = R.LK_CFG then
    let cyc := bitsOf nw 9 0
    keepAll (decide (cyc < 25) || decide (1000 < cyc) || decide (1000000 % cyc ≠ 0) ||
      (s.flag F.LK_CTL_EN && (differ old nw 9 0 || differ old nw 28 24))) old (nw, false)
  else if a = R.LK_PUB0 ∨ a = R.LK_PUB1 then keepAll (decide (0x10000 < bitsOf nw 15 0 + bitsOf nw 25 16)) old (nw, false)
  else if a = R.LK_PWIN then
    keepAll (decide (2048 < bitsOf nw 20 10 + bitsOf nw 8 0) ||
      decide (512 < bitsOf nw 8 0 + s.mlenOthers i)) old (nw, false)
  else if a = R.LK_TRIG then keepAll (!s.hasCtx (bitsOf nw 29 24) || !s.hasCtx (bitsOf nw 13 8)) old (nw, false)
  else (nw, false)

/-! ### Refusals: time base (R461, R491) -/

/-- Refusals of window 0x06. On a variant without a ring MROLE and ZROLE read 0 (R491). -/
def State.fixTb (s : State) (a : Nat) (old nw : Word) : Word × Bool :=
  if a = R.TB_CTL then
    let nw := if s.variant.ring then nw else setBitsOf nw 30 27 0
    let mr := bitsOf nw 30 29
    let zr := bitsOf nw 28 27
    keepAll (decide (mr = 3) || decide (zr = 3) || (decide (mr = 2) && decide (zr = 2))) old (nw, false)
  else if a = R.PTP_CFG then keepAll (decide (bitsOf nw 31 24 = bitsOf nw 23 16)) old (nw, false)
  else if a = R.TSC_CFG then
    [0, 1, 2, 3].foldl (fun x n => keepBits (decide (bitsOf nw (8 * n + 6) (8 * n + 5) = 0)) old (8 * n + 6) (8 * n + 5) x) (nw, false)
  else (nw, false)

/-! ### Refusals: engine (R233, R238, R239, R243, R261, R264, R267, R279, R280) -/

/-- A LANE_EN word leaves a lane in service; one that waits to leave stays when its bit is set (R267). -/
def State.laneLeft (s : State) (nw : Word) : Bool :=
  (allFin 4).any fun n => s.inService n && bitOf nw n.val

/-- Refusals of windows 0x08 and 0x09. -/
def State.fixEng (s : State) (a : Nat) (old nw : Word) : Word × Bool :=
  if a = R.ENG_CTL then
    let nw := setBitsOf nw 3 0 (bitsOf nw 3 0 % 2 ^ s.variant.lanes)
    keepAll (differ old nw 3 0 && !s.laneLeft nw) old (nw, false)
  else if a = R.CTX_CFG then keepBits (decide (bitsOf nw 29 28 = 3) || s.bankLoading (bitsOf nw 29 28)) old 29 28 (nw, false)
  else if a = R.BKPT then keepBits (decide (bitsOf nw 29 28 = 3)) old 29 28 (nw, false)
  else if a = R.CTX_TRIG then keepAll (bitOf nw 31 && !s.watchable (bitsOf nw 19 0)) old (nw, false)
  else if a = R.CTX_BUDGET then keepBits (decide (bitsOf nw 31 30 = 3)) old 31 30 (nw, false)
  else if a = R.ETMR then keepAll ((bitOf nw 31 && decide (bitsOf nw 23 0 = 0)) || !s.hasCtx (bitsOf nw 29 24)) old (nw, false)
  else if a = R.PRG_ADDR then keepBits (decide (2 ≤ bitsOf nw 29 28)) old 29 28 (nw, false)
  else if a = R.TRC_TRIG then
    keepAll (decide (bitsOf nw 31 30 = 1) && !s.watchable (bitsOf nw 19 0)) old
      (keepBits (decide (5 ≤ bitsOf nw 29 27)) old 29 27 (nw, false))
  else if a = R.TINJ_CFG then
    let en := bitOf old 31
    keepBits ((en && differ old nw 29 28) || decide (bitsOf nw 29 28 = 3)) old 29 28
      (keepBits (en && differ old nw 27 16) old 27 16 (nw, false))
  else (nw, false)

/-! ### Refusals: ports, bus groups (R348, R350, R361, R494, R514) -/

/-- GPIO_FUNC codes: 3 is reserved for each pin. -/
def fixGpioFunc (old nw : Word) : Word × Bool :=
  (List.range 16).foldl (fun x p => keepBits (decide (bitsOf nw (2 * p + 1) (2 * p) = 3)) old (2 * p + 1) (2 * p) x) (nw, false)

/-- The thresholds of a group rise in their order (R350). -/
def busOrder (ov chop uv : Word) : Bool :=
  decide (bitsOf uv 15 0 < bitsOf chop 31 16) && decide (bitsOf chop 31 16 < bitsOf chop 15 0) &&
    decide (bitsOf chop 15 0 < bitsOf ov 15 0) && decide (bitsOf ov 15 0 < bitsOf ov 31 16)

/-- A MEMBERS word of group g is refused (R348). -/
def State.membersBad (s : State) (g : Nat) (old nw : Word) : Bool :=
  (allFin 16).any fun m =>
    let o := bitOf old m.val
    let n := bitOf nw m.val
    (n && !s.hasMast m.val) ||
      (n && !o && ((allFin 8).any fun h => decide (h.val ≠ g) && s.inGroup h m.val)) || (o != n && s.outputsOn m)

/-- Refusals of window 0x0C. -/
def State.fixBg (s : State) (a i : Nat) (old nw : Word) : Word × Bool :=
  let ov := if a = R.BG_OV then nw else s.rd (keyI R.BG_OV i)
  let ch := if a = R.BG_CHOP then nw else s.rd (keyI R.BG_CHOP i)
  let uv := if a = R.BG_UV then nw else s.rd (keyI R.BG_UV i)
  if a = R.BG_CFG then keepAll (s.membersBad i old nw) old (nw, false)
  else if a = R.BG_OV ∨ a = R.BG_CHOP ∨ a = R.BG_UV then keepAll (!busOrder ov ch uv) old (nw, false)
  else (nw, false)

/-- What a register takes of a write under a role: the word stored, and whether a part was refused. -/
def State.fixReg (s : State) (role a i : Nat) (old nw : Word) : Word × Bool :=
  if 0x1000 ≤ a then s.fixMast (Fin.ofNat 16 i) a old nw
  else match a / 256 with
    | 1 => if a = R.CLK_CFG then keepAll (bitOf nw 31 && s.clk.ref == some false) old (nw, false) else (nw, false)
    | 3 => s.fixFc role a i old nw
    | 4 => s.fixHk a i old nw
    | 5 => s.fixLk a i old nw
    | 6 => s.fixTb a old nw
    | 8 => s.fixEng a old nw
    | 9 => s.fixEng a old nw
    | 11 =>
      if a = R.HOST_CFG then keepBits (decide (bitsOf nw 1 0 = 3)) old 1 0 (nw, false)
      else if a = R.GPIO_FUNC0 ∨ a = R.GPIO_FUNC1 then fixGpioFunc old nw
      else (nw, false)
    | 12 => s.fixBg a i old nw
    | _ => (nw, false)

/-- The flag a refusal sets, and its index. -/
def cfgErrOf (a i : Nat) : Fld × Nat :=
  if 0x1000 ≤ a then (mastCfgErr a, i)
  else match a / 256 with
    | 1 => (F.CLK_STAT_CFG_ERR, 0)
    | 2 => (F.ROLE_STAT_CFG_ERR, 0)
    | 3 => (F.FC_STAT_CFG_ERR, 0)
    | 4 => (F.HK_STAT_CFG_ERR, 0)
    | 5 => (F.LK_STAT_CFG_ERR, 0)
    | 6 => (F.TB_STAT_CFG_ERR, 0)
    | 7 => (F.CAL_STAT_CFG_ERR, 0)
    | 8 => (F.ENG_STAT_CFG_ERR, 0)
    | 9 => (F.ENG_STAT_CFG_ERR, 0)
    | 10 => (F.MEM_STAT_CFG_ERR, 0)
    | 11 => (F.HOST_STAT_CFG_ERR, 0)
    | 12 => (F.BG_STAT_CFG_ERR, i)
    | _ => (F.ST_STAT_CFG_ERR, 0)

/-! ### Effects of stored registers -/

/-- BG_CFG of group g is stored: masts that left, then the group (R348, R355). -/
def State.bgFollows (s : State) (g : Fin 8) (old nw : Word) : State :=
  let gone := (allFin 16).filter fun m => bitOf old m.val && !bitOf nw m.val
  let s1 := gone.foldl (fun s m => ((s.gateMark m).setChop m false).refreshSafe m) s
  let s2 := s1.updG g fun b => match b.act with
    | some a => if gone.any fun m => m.val == a then { b with chopOn := false, act := none } else b
    | none => b
  (s2.refreshBgEn g).refreshGroup g

/-- ETMR n is stored (R239). -/
def State.etmrFollows (s : State) (n : Fin 8) (old nw : Word) : State :=
  let per := bitsOf nw 23 0 * tUs
  s.updEng fun e =>
    { e with tmr := e.tmr.set n (if !bitOf nw 31 then none
        else if !bitOf old 31 || differ old nw 23 0 then some (s.now + per) else e.tmr[n]) }

/-- ENG_CTL is stored: lanes whose bit was cleared leave at the end of their activation, and one whose bit is set again before that stays (R267). -/
def State.lanesFollow (s : State) (old nw : Word) : State :=
  (allFin 4).foldl (fun s n =>
    if bitOf nw n.val then s.updL n fun l => { l with leaving := none }
    else if bitOf old n.val && s.inService n then
      s.updL n fun l => match l.ctx with
        | some k => { l with leaving := some k }
        | none => { l with act := false }
    else s) s

/-- LK_PWIN p is stored: the mirror of another range holds nothing its node has published (R449). -/
def State.pwinFollows (s : State) (p : Nat) (old nw : Word) : State :=
  if differ old nw 29 0 then
    let b := 0x80000 + 0x8000 * p
    { s with sigs := s.sigs.filter fun e => decide (e.1 < b) || decide (b + 0x8000 ≤ e.1) }
  else s

/-- What a device register does beside being stored. -/
def State.afterDev (s : State) (a i : Nat) (old nw : Word) : State :=
  if a = R.FC_LOG_SEL then s.updFc fun f => { f with logSnap := none }
  else if a = R.LK_CTL then ((s.when (!bitOf nw 31) fun s => s.updRing fun r => { r with dup := false }).ringRefresh).delaysFollow
  else if a = R.LK_PWIN then s.pwinFollows i old nw
  else if a = R.LK_CFG then (((s.updRing fun r => { r with dup := false }).ringRefresh.delaysFollow).when (differ old nw 9 0) fun s => s.cycleSync).mzFollow
  else if a = R.TB_CTL then s.refreshRole (bitsOf old 28 27)
  else if a = R.PTP_CFG then s.mzFollow
  else if a = R.CAL_CTL then s.when (!bitOf old 31 && bitOf nw 31) fun s => s.calSweep false
  else if a = R.ENG_CTL then s.lanesFollow old nw
  else if a = R.CTX_CFG then s.relocate (Fin.ofNat 64 i)
  else if a = R.ETMR then s.etmrFollows (Fin.ofNat 8 i) old nw
  else if a = R.TINJ_CFG then s.when (!bitOf old 31 && bitOf nw 31) fun s => s.updEng fun e => { e with tinjN := 0, tinjReg := 0x1FF }
  else if a = R.BG_CFG then s.bgFollows (Fin.ofNat 8 i) old nw
  else if a = R.PRG_ADDR then s.updRole fun r => { r with burst := r.burst.filter (· != R.PRG_DATA) }
  else if a = R.TAB_ADDR then s.updRole fun r => { r with burst := r.burst.filter (· != R.TAB_DATA) }
  else if a = R.CELL_SEL then s.updRole fun r => { r with burst := r.burst.filter (· != R.CELL_DATA) }
  else if a = R.ST_ADDR then s.updRole fun r => { r with burst := r.burst.filter (· != R.ST_DATA) }
  else s

/-! ### Registers that are commands or ports -/

/-- PRG_DATA (R271, R272). -/
def State.prgWrite (s : State) (w : Word) : State :=
  let b := s.fld F.PRG_ADDR_BANK
  let s1 :=
    if s.bankUsed b then s.setFld F.ENG_STAT_PRG_REF 0 1
    else { s with eng.prog := spSet 0#32 s.eng.prog (b * 2 ^ 18 + s.fld F.PRG_ADDR_ADDR) w }
  s1.prgNext

/-- TAB_DATA (R272). -/
def State.tabWrite (s : State) (w : Word) : State := { s with eng.tab := spSet 0#32 s.eng.tab (s.fld F.TAB_ADDR_ADDR) w }.tabNext

/-- CELL_DATA (R254, R272). -/
def State.cellPort (s : State) (w : Word) : State :=
  let n := s.fld F.CELL_SEL_CELL
  let k := s.fld F.CELL_SEL_WORD
  ((s.cellNote 8 n (.data k w)).cellWrite n k w).cellNext

/-- CELL_CMD (R250, R254–R258). -/
def State.cellCmdW (s : State) (w : Word) : State :=
  let n := s.fld F.CELL_SEL_CELL
  let k := bitsOf w 2 0
  if 6 ≤ k then s.ctxIgnore else if k = 0 then s else (s.cellNote 8 n (.cmd k)).cellCmd n k

/-- CTX_PC and CTX_VREG: only in HALTED (R275). -/
def State.ctxRegWrite (s : State) (a : Nat) (c : Fin 64) (w : Word) : State :=
  if (s.ctx c).st ≠ .halted then s.ctxIgnore
  else if a = R.CTX_PC then s.updC c fun x => { x with pc := bitsOf w 17 0 }
  else s.updC c fun x => { x with v := x.v.set (Fin.ofNat 16 (s.fld F.ENG_SEL_VREG)) w }

/-- DOORBELL (R235). DESIGN CHOICE, log entry 99: one that names an absent context does nothing and sets HOST_STAT.ABSENT, as a write of a register
of that context does (R4). -/
def State.doorbellW (s : State) (w : Word) : State :=
  let c := bitsOf w 5 0
  if s.hasCtx c then s.trigger c TK.DOORBELL 0xFFFFFFFF 0 else s.setFld F.HOST_STAT_ABSENT 0 1

/-- FC_TEST (R393). -/
def State.fcTestW (s : State) (w : Word) : State :=
  let src := bitsOf w 7 0
  if srcPresent s.variant src then s.raise src 0xFF (srcMast src) else s.setFld F.FC_STAT_CFG_ERR 0 1

/-- FC_ACK (R383), with its record of R545. -/
def State.fcAckW (s : State) (w : Word) : State :=
  let r := s.fcAck w.toNat
  match r.1 with
  | some x => if x.sev = 4 then s.audited 1 fun _ => r.2.audit AK.ACK x.src (nat32 x.seq) else r.2
  | none => r.2

/-- FC_CMD (R378, R383, R393): ACK_ALL records each STOP-ALL record it acknowledges. -/
def State.fcCmdW (s : State) (w : Word) : State :=
  let big := if s.role.role = 0 then [] else s.fc.pend.filter fun r => r.sev == 4
  let s1 := s.when (bitOf w 2) fun s =>
    s.audited big.length fun s => big.foldl (fun s r => s.audit AK.ACK r.src (nat32 r.seq)) s.fcAckAll
  let s2 := s1.when (bitOf w 1) fun s => s.updFc fun f => { f with log := [] }
  s2.when (bitOf w 0) fun s => s.updFc fun f => { f with first := none }

/-- HK_CMD (R413, R420). -/
def State.hkCmdW (s : State) (w : Word) : State := (s.when (bitOf w 0) fun s => s.shutClear).when (bitOf w 1) fun s => s.peakClear

/-- The signal at ST_ADDR may be journaled: a device, mast or scratch signal that is not HW (R557). -/
def State.jsigOk (s : State) (id : Nat) : Bool :=
  decide (id < 0x10000) && s.sigKind id == .op

/-- The register at ST_ADDR may be journaled: it has a field that is written and kept (R557). -/
def State.jregOk (s : State) (addr : Nat) : Bool :=
  match s.place addr with
  | .reg _ _ row => row.fields.any fun f => f.acc == .rw
  | _ => false

/-- ST_CMD (R553–R557, R561); the roles are checked before. -/
def State.stCmdW (s : State) (w : Word) : State :=
  let cmd := bitsOf w 31 28
  let addr := s.fld F.ST_ADDR_ADDR
  if cmd = 0 then s
  else if 10 ≤ cmd then s.setFld F.ST_STAT_CFG_ERR 0 1
  else if cmd = 9 then s.cmdAbort
  else if s.store.cmd.isSome then s.stRefuse 1
  else match cmd with
    | 1 => s.cmdErase
    | 2 => s.cmdProg
    | 3 => s.cmdCommit
    | 4 => s.cmdLoad (bitsOf w 0 0)
    | 5 => if s.jregOk addr then s.cmdAppend 0 addr (s.peek addr) else s.stRefuse 3
    | 6 => if s.jsigOk addr then s.cmdAppend 1 addr (s.sigRead addr) else s.stRefuse 3
    | 7 => s.cmdJcommit
    | _ => s.cmdJdrop

/-- BG_SEL: the selection, and ACK of the group written (R357, R361). -/
def State.bgSelW (s : State) (w : Word) : State :=
  (s.setFld F.BG_SEL_BG 0 (bitsOf w 2 0)).when (bitOf w 31) fun s => s.ackGroup (Fin.ofNat 8 (bitsOf w 2 0))

/-- A write of a signal by the host, through SIG_DATA or a SIG_WRITE: one of an absent unit sets ABSENT as well (R4, R272, R495). -/
def State.hostSig (s : State) (id : Nat) (w : Word) : SigWr :=
  let r := s.writeSig 0 id w
  { r with st := r.st.when (s.sigKind id == .absent) fun s => s.setFld F.HOST_STAT_ABSENT 0 1 }

/-- SIG_DATA (R272): the write, then the address. -/
def State.sigPort (s : State) (w : Word) : SigWr :=
  let r := s.hostSig (s.fld F.SIG_ADDR_ID) w
  { r with st := r.st.sigNext }

/-- Registers that are commands, ports, or stored outside the register store: their effect, none for the others. -/
def State.special (s : State) (a i : Nat) (w : Word) : Option State :=
  let m := Fin.ofNat 16 i
  if a = R.PWM_COMMIT then some (s.pwmCommitW m w)
  else if a = R.SEQ_CMD then some (s.seqCmdW m w)
  else if a = R.SHR_CMD then some (s.shrCmdW m w)
  else if a = R.RST_CMD then some (s.rstCmd w)
  else if a = R.ROLE_CMD then some (s.roleCmd w)
  else if R.ROLE_BUF0 ≤ a ∧ a ≤ R.ROLE_BUF7 then some (s.updRole fun r => { r with wbuf := r.wbuf.set (a - R.ROLE_BUF0) w })
  else if a = R.RIG_CTL then some (s.rigWrite w)
  else if a = R.FC_ACK then some (s.fcAckW w)
  else if a = R.FC_CMD then some (s.fcCmdW w)
  else if a = R.FC_TEST then some (s.fcTestW w)
  else if a = R.HK_CMD then some (s.hkCmdW w)
  else if a = R.LK_STOP then some (s.stopSend w)
  else if a = R.LK_DIAG then some (s.loopback w)
  else if a = R.TB_CMD then some (s.tbCmd w)
  else if a = R.CAL_CMD then some (s.calCmd w)
  else if a = R.CTX_CMD then some (s.ctxCmd (Fin.ofNat 64 i) (bitsOf w 2 0))
  else if a = R.CTX_PC ∨ a = R.CTX_VREG then some (s.ctxRegWrite a (Fin.ofNat 64 i) w)
  else if a = R.DOORBELL then some (s.doorbellW w)
  else if a = R.PRG_DATA then some (s.prgWrite w)
  else if a = R.TAB_DATA then some (s.tabWrite w)
  else if a = R.CELL_DATA then some (s.cellPort w)
  else if a = R.CELL_CMD then some (s.cellCmdW w)
  else if a = R.SIG_DATA then some (s.sigPort w).st
  else if a = R.TRC_CTL then some (s.trcCtl (w &&& 0xEFFE0000#32))
  else if a = R.MEM_XIP ∨ a = R.MEM_XBASE then some (s.memXip a (w &&& (if a = R.MEM_XIP then 0xFFF8FFFF#32 else 0x0000FFFF#32)))
  else if a = R.MEM_PSRAM then some (s.memPsram (w &&& 0xFFFFFF00#32))
  else if a = R.MEM_PSCMD then some (s.memPscmd (w &&& 0xFFFFF800#32))
  else if a = R.MEM_PH then some (s.memPush w)
  else if a = R.MEM_DATA then some (s.memTx w)
  else if a = R.MEM_CMD then some (s.memCmd w)
  else if a = R.GPIO_OUT then some (s.gpioOut 0 0xFFFFFFFF w.toNat)
  else if a = R.GPIO_SET then some (s.gpioOut 0 w.toNat 0xFFFFFFFF)
  else if a = R.GPIO_CLR then some (s.gpioOut 0 w.toNat 0)
  else if a = R.FURL_CTL then some (s.furlCtl w)
  else if a = R.BG_SEL then some (s.bgSelW w)
  else if a = R.ST_CMD then some (s.stCmdW w)
  else if a = R.ST_DATA then some (s.stDataWrite w)
  else none

end Sys2Proof.Machine
end

