-- ==== Sys2Proof/Machine/RegWrite.lean ====
section
/-! DEFINITION. Machine/RegWrite.lean: a write of a register by the host (R4, R11, R39, R537, R545–R547) and by the device itself under given rights. -/

namespace Sys2Proof.Machine

/-! ### The stored word -/

/-- Mask of the fields of one access code with a role of at least `q`. -/
def accMask (r : RegRow) (acc : Acc) (q : Nat) : Word := fieldMask (fun a x => a == acc && decide (q ≤ x) && decide (x < 3)) r.fields

/-- The stored word after a write: RW fields take their bits, W1C flags written 1 clear unless hardware sets them in the present cycle (`keep`),
the rest stays (R11, R12). -/
def mergeW (row : RegRow) (old w keep : Word) : Word :=
  let rw := accMask row .rw 0
  ((old &&& ~~~rw) ||| (w &&& rw)) &&& ~~~(w &&& w1cMask row &&& ~~~keep)

/-- The word of a register of mast m is stored; what it holds of the staging set is written as the host's (R71, R72). -/
def State.storeReg (s : State) (a i : Nat) (w : Word) : State :=
  let key := keyI a i
  let m := Fin.ofNat 16 i
  if a = R.PWM_CTL then (s.wr key (setBitsOf w 15 0 (bitsOf (s.rd key) 15 0))).stageWr m 0 key (w &&& 0xFFFF#32)
  else if stagingReg a then s.stageWr m 0 key w
  else s.wr key w

/-- A write that waits for a boundary, or while the timebase does not run for the next SPARCLK cycle (R75): the word changes. -/
def State.defer (s : State) (a i : Nat) (old nw : Word) : State :=
  if waitsBoundary a && old != nw then
    { s with deferred := s.deferred ++ [{ key := keyI a i, old := old, at_ := s.now, free := !(s.mast (Fin.ofNat 16 i)).pwm.counting }] }
  else s

/-- A write reaches register `a` with index `i` under a role, the role already checked. -/
def State.applyReg (s : State) (role a i : Nat) (row : RegRow) (w : Word) : State :=
  match s.special a i w with
  | some t => t
  | none =>
    let old := s.rd (keyI a i)
    let x := s.fixReg role a i old (mergeW row old w (s.freshOf (keyI a i)))
    let e := cfgErrOf a i
    let m := Fin.ofNat 16 i
    let s1 := (s.when x.2 fun s => s.setFld e.1 e.2 1).when (decide (0x1000 ≤ a)) fun s => s.gateMark m
    let s2 := (s1.storeReg a i x.1).defer a i old x.1
    if 0x1000 ≤ a then s2.afterMast m a w old x.1
  -- an installer's write of REEF_MAP that is taken lifts the mast's freeze (R411)
  else (s2.afterDev a i old x.1).when (decide (a = R.REEF_MAP ∧ 1 ≤ role) && !x.2) fun s => s.reefMapped m

/-- The registers that actions of the calendar write (R90, R480). -/
def calWritten (a : Nat) : Bool := a == R.CTX_CFG || a == R.PWM_ANCH

/-- Calendar actions on a register act with the present word, behind the writes of the cycle (R480, R489). -/
def State.calAgain (s : State) (a i : Nat) (row : RegRow) : State :=
  if calWritten a then
    (s.cyc.regs.filter fun e => e.1 == a && e.2.1 == i).foldl
      (fun s e => s.applyReg 0 a i row ((s.rd (keyI a i) &&& ~~~e.2.2.1) ||| (e.2.2.2 &&& e.2.2.1))) s
  else s

/-- A calendar action writes bits of a register (R480). -/
def State.calReg (s : State) (a i : Nat) (mask w : Word) : State :=
  match regRow a with
  | some row =>
    ({ s with cyc.regs := s.cyc.regs ++ [(a, i, mask, w)] }).applyReg 0 a i row ((s.rd (keyI a i) &&& ~~~mask) ||| (w &&& mask))
  | none => s

/-! ### Roles (R537) -/

/-- The highest role among the fields of a mask pattern that satisfy `p` of their bits. -/
def topRole (p : FieldRow → Bool) : List FieldRow → Nat
  | [] => 0
  | f :: r => let n := topRole p r; if p f then max f.role n else n

/-- The role a write of a plain register needs: of the RW fields it would change, the flags it would clear and the WO fields it sets. -/
def plainRole (row : RegRow) (val w : Word) : Nat :=
  topRole (fun f =>
    let b := bitsOf w f.hi f.lo
    match f.acc with
    | .rw => differ val w f.hi f.lo
    | .wo => decide (b ≠ 0)
    | .w1c => decide (b ≠ 0)
    | _ => false) row.fields

/-- The role a write of a cell word needs (R251). -/
def State.cellNeed (s : State) (w : Word) : Nat :=
  let n := s.fld F.CELL_SEL_CELL
  let k := s.fld F.CELL_SEL_WORD
  let r := s.cellRole n
  if 10 ≤ k ∨ s.cw n k = w then 0
  else if k = 0 ∧ bitsOf w 29 28 < 3 then max r (bitsOf w 29 28) else r

/-- The role a store command needs (R553, R557). -/
def State.stNeed (s : State) (w : Word) : Nat :=
  match bitsOf w 31 28 with
  | 1 => 2
  | 2 => 2
  | 3 => 2
  | 4 => 2
  | 5 => (match s.place (s.fld F.ST_ADDR_ADDR) with | .reg _ _ row => topRole (fun f => f.acc != .ro && f.acc != .rc) row.fields | _ => 0)
  | 6 => 1
  | 7 => 1
  | 9 => (match s.store.cmd with
      | some (.append 2 _ _) => 1
      | some (.append 1 _ _) => 1
      | some (.append _ t _) => (match s.place t with | .reg _ _ row => topRole (fun f => f.acc != .ro && f.acc != .rc) row.fields | _ => 0)
      | some _ => 2
      | none => 0)
  | _ => 0

/-- The role a write needs. -/
def State.writeNeed (s : State) (a i : Nat) (row : RegRow) (w : Word) : Nat :=
  if a = R.ST_DATA then 2
  else if a = R.MEM_DATA ∨ a = R.MEM_PH then 1
  else if a = R.PRG_DATA then (if s.prgWord = w then 0 else 2)
  else if a = R.TAB_DATA then (if s.tabWord = w then 0 else 1)
  else if a = R.CELL_DATA then s.cellNeed w
  else if a = R.CELL_CMD then (if 1 ≤ bitsOf w 2 0 ∧ bitsOf w 2 0 ≤ 5 then s.cellRole (s.fld F.CELL_SEL_CELL) else 0)
  else if a = R.ST_CMD then s.stNeed w
  else plainRole row (s.regVal a i row) w

/-! ### Audit records (R545) -/

/-- The address register of a data port: its address; none for a register that is no data port (R545). -/
def portAddr (a : Nat) : Option Nat :=
  if a = R.PRG_DATA then some R.PRG_ADDR
  else if a = R.TAB_DATA then some R.TAB_ADDR
  else if a = R.CELL_DATA then some R.CELL_SEL
  else if a = R.ST_DATA then some R.ST_ADDR
  else if a = R.MEM_DATA ∨ a = R.MEM_PH then some 0
  else none

/-- Registers whose written fields are all WO and whose record is of kind REG (R545). -/
def woReg (a : Nat) : Bool :=
  decide (a = R.RST_CMD ∨ a = R.FC_TEST ∨ a = R.TB_CMD ∨ a = R.HK_CMD ∨ a = R.CELL_CMD ∨ a = R.BG_SEL)

/-- Such a write is carried out. A device reset writes no record (R545). -/
def State.woTaken (s : State) (a : Nat) (w : Word) : Bool :=
  if a = R.RST_CMD then s.rstOk w && decide (2 ≤ bitsOf w 23 20)
  else if a = R.FC_TEST then srcPresent s.variant (bitsOf w 7 0)
  else if a = R.TB_CMD then (bitOf w 1 && s.srv.st == .mizzen) || (bitOf w 0 && decide (s.fld F.SET_NS_NS < 1000000000))
  else if a = R.HK_CMD then bitOf w 0 && s.cooled
  else if a = R.BG_SEL then
    let b := s.bg (Fin.ofNat 8 (bitsOf w 2 0))
    bitOf w 31 && (b.st == .refuse || b.st == .safe) && (match b.vbg with | some v => fLt v (s.ov1 (Fin.ofNat 8 (bitsOf w 2 0))) | none => false)
  else
    let n := s.fld F.CELL_SEL_CELL
    match bitsOf w 2 0 with
    | 2 => s.cellCloses n
    | 5 => !s.cellClosed n
    | _ => true

/-- INS or MAK fields of a register differ between two states (R545). -/
def marksDiffer (s t : State) (a i : Nat) (row : RegRow) : Bool :=
  ((s.regVal a i row ^^^ t.regVal a i row) &&& accMask row .rw 1) != 0#32 || (decide (a = R.MEM_PSRAM) && s.mem.unmap != t.mem.unmap)

/-- A write of a data port is carried out, not refused by the port (R254, R271, R529, R530). -/
def State.portTakes (s : State) (a : Nat) (w : Word) : Bool :=
  if a = R.PRG_DATA then !s.bankUsed (s.fld F.PRG_ADDR_BANK)
  else if a = R.CELL_DATA then s.cellTakes (s.fld F.CELL_SEL_CELL) (s.fld F.CELL_SEL_WORD)
  else if a = R.MEM_PH then !s.phRefused w
  else if a = R.MEM_DATA then decide (s.mem.tx.length < 16)
  else true

/-- A write whose role is in force is carried out and recorded (R545–R547). -/
def State.recorded (s : State) (addr a i need : Nat) (row : RegRow) (w : Word) : State :=
  match portAddr a with
  | some pa =>
    if need = 0 ∨ s.role.burst.contains a = true ∨ s.portTakes a w = false then s.applyReg s.role.role a i row w
    else s.audited 1 fun s =>
      let s1 := s.audit AK.PORT a (if pa = 0 then 0#32 else s.rd pa)
      (s1.updRole fun r => { r with burst := a :: r.burst }).applyReg s.role.role a i row w
  | none =>
    if woReg a then
      if need = 0 ∨ s.woTaken a w = false then s.applyReg s.role.role a i row w
      else s.audited 1 fun s => (s.applyReg s.role.role a i row w).audit AK.REG addr w
    else
      let t := s.applyReg s.role.role a i row w
      if marksDiffer s t a i row then s.audited 1 fun _ => t.audit AK.REG addr (t.regVal a i row) else t

/-- A host write of a register: absence, role, refusals, record (R4, R39, R537, R544). -/
def State.regWrite (s : State) (addr : Nat) (w : Word) : State :=
  let s0 := s.updRole fun r => { r with lastWrite := s.now }
  match s0.place addr with
  | .absent => s0.setFld F.HOST_STAT_ABSENT 0 1
  | .none_ => s0
  | .reg a i row =>
    let need := s0.writeNeed a i row w
    if s0.role.role < need then s0.denied (addr / 256) else (s0.recorded addr a i need row w).calAgain a i row

/-- A write by the device itself under maker rights (R552, R556): no role check, no record. -/
def State.makerWrite (s : State) (addr : Nat) (w : Word) : State :=
  match s.place addr with
  | .reg a i row => s.applyReg 2 a i row w
  | _ => s

end Sys2Proof.Machine
end

