-- ==== Sys2Proof/Machine/HostPort.lean ====
section
/-! DEFINITION. Machine/HostPort.lean: the host port: transactions, the command FIFO, reads with underruns and the read hold, snapshots (R493–R511, R582). -/

namespace Sys2Proof.Machine

/-- Update the host port. -/
def State.updHost (s : State) (f : HostPort → HostPort) : State := { s with host := f s.host }

/-- HOST_PROTO with a detail, counted in HOST_CNT. -/
def State.hostProto (s : State) (d : Nat) : State := (s.raise DS.HOST_PROTO d).bump F.HOST_CNT_PROTO 0

/-- Past offset 0xFF of a window (R508). -/
def addrPast : Nat := 0x4000

/-- The address after one (R508). -/
def nextAddr (a : Nat) : Nat := if addrPast ≤ a then a else if a % 256 = 255 then addrPast else a + 1

/-! ### RC fields and the snapshot hold (R502, R506, R507) -/

/-- Counts of a word are added back to RC fields, each saturating; they are no events of the present cycle. -/
def State.addFields (s : State) (a i : Nat) (v : Word) : List FieldRow → State
  | [] => s
  | f :: r =>
    let key := keyI a i
    (if f.acc = .rc then s.wr key (bumpBits ⟨a, f.hi, f.lo⟩ (bitsOf v f.hi f.lo) (s.rd key)) else s).addFields a i v r

/-- SUPP of a source is added back (R370, R393). -/
def addSupp (src n : Nat) : List (Nat × Nat) → List (Nat × Nat)
  | [] => [(src, satNat 255 n)]
  | e :: r => if e.1 = src then (src, satNat 255 (e.2 + n)) :: r else e :: addSupp src n r

/-- The value taken of the RC fields of a register key is added back (R502). -/
def State.rcBack (s : State) (key : Nat) (v : Word) : State :=
  let a := key % 0x2000
  let i := key / 0x2000
  if v = 0#32 then s
  else if a = R.FC_SRC_STAT then s.updFc fun f => { f with supp := addSupp i (bitsOf v 27 20) f.supp }
  else match regRow a with
    | some row => s.addFields a i v row.fields
    | none => s

/-- Registers of a snapshot group (R506); none for a reserved or absent one. -/
def State.snapRegs (s : State) (g : Nat) : Option (List Nat) :=
  if g < 16 then
    if s.hasMast g then
      some ([R.PWM_STAT, R.LOOP_OVR, R.SNS_STAT, R.RAW_S, R.COM_STAT, R.SEQ_STAT, R.SHR_STAT, R.SHR_CNT].map (· + 256 * g))
    else none
  else match g with
    | 16 => some [R.TB_STAT, R.TB_NS, R.TB_SEC_LO, R.TB_SEC_HI, R.TB_RATE]
    | 17 => some [R.FC_STAT, R.FC_SEQ, R.FC_CNT, R.FC_MAST_SEV, R.FC_WAKE]
    | 18 => if s.variant.ring then some [R.LK_STAT, R.LK_PORT0, R.LK_PORT1, R.LK_TOPO, R.LK_ERR0, R.LK_ERR1] else none
    | 19 => some [R.ENG_STAT, R.ENG_LOAD]
    | 20 => some [R.HK_STAT, R.SNS_FAIL, R.SUP_STAT, R.TPEAK]
    | 21 => some [R.CAL_STAT, R.CAL_NEXT, R.CAL_CNT]
    | _ => none

/-- The hold ends: RC fields not read from it get their counts back (R507). -/
def State.holdEnd (s : State) : State :=
  let s1 := s.host.heldRegs.foldl (fun s e =>
    if e.2.2 then
      match s.place e.1 with
      | .reg a i row => s.rcBack (keyI a i) (e.2.1 &&& rcMask row)
      | _ => s
    else s) s
  s1.updHost fun h => { h with held := none, heldRegs := [] }

/-- Registers copied into the hold, their RC fields taken; `b`: the machine they are copied from. -/
def State.holdRegs (s b : State) : List Nat → State
  | [] => s
  | addr :: r =>
    (match s.place addr with
      | .reg a i row =>
        let v := b.regVal a i row
        let t := (s.rcTake a i row).2
        t.updHost fun h => { h with heldRegs := h.heldRegs ++ [(addr, v, rcMask row != 0#32)] }
      | _ => s).holdRegs b r

/-- SNAPSHOT: the registers as the present cycle began with them, an earlier hold ended first (R504, R506, R507). DEDUCED, log entry 49: the seconds of
the time base are copied as they stand, not as an earlier read of TB_NS holds them. -/
def State.snapTake (s : State) (g : Nat) : State :=
  let s := s.hostCycle
  match s.snapRegs g with
  | none => s.hostProto 0
  | some l => (s.holdEnd.updHost fun h => { h with held := some g }).holdRegs { s.before.holdEnd with tb.snapSec := none } l

/-- A word has been sent in full: its RC access is settled, and the access made ahead is that of the word now sent (R501, R502, R507). -/
def State.wordSent (s : State) : State :=
  let s1 := s.updHost fun h => { h with rc := h.ahead, ahead := none }
  match s.host.rc with
  | some (true, addr, _) => s1.updHost fun h => { h with heldRegs := h.heldRegs.map fun e => if e.1 = addr then (e.1, e.2.1, false) else e }
  | _ => s1

/-- The values an access has taken of RC fields are added back (R502). -/
def State.accessBack (s : State) : Option (Bool × Nat × Word) → State
  | some (false, key, v) => s.rcBack key v
  | _ => s

/-- A word is not sent in full, nor is the one accessed ahead of it: their RC fields get back what was taken (R502, R511). -/
def State.wordCut (s : State) : State :=
  ((s.updHost fun h => { h with rc := none, ahead := none }).accessBack s.host.rc).accessBack s.host.ahead

/-- The last word asked for has been sent in full; the one accessed ahead of it is never sent (R501, R502). -/
def State.lastSent (s : State) : State := s.wordSent.wordCut

/-! ### Reads (R501–R505, R508) -/

/-- One word of an on-chip register: its value as the present cycle began with it, its RC access, its side effects (R504). -/
def State.readReg (s : State) (a i : Nat) (row : RegRow) : Word × State :=
  let v := s.before.regVal a i row
  let t := s.rcTake a i row
  let s1 := if rcMask row = 0#32 then s else t.2.updHost fun h => { h with rc := some (false, keyI a i, t.1) }
  (v, s1.readEffect a)

/-- An access that is late waits (R503). -/
def State.waitFor (s : State) (sig : Bool) (addr : Nat) (id : Option Nat) : State :=
  s.updHost fun h => { h with late := some { sig := sig, addr := addr, id := id, since := s.now, no := h.reqNo }, hold := none }

/-- The access of one register word where no read hold answers; none where its data are not ready. -/
def State.readLive (s : State) (addr : Nat) : Option Word × State :=
  match s.host.heldRegs.find? fun e => e.1 == addr with
  | some e => (some e.2.1, s.updHost fun h => { h with rc := some (true, addr, 0#32) })
  | none =>
    match s.place addr with
    | .reg a i row =>
      if a = R.SIG_DATA then
        let id := s.fld F.SIG_ADDR_ID
        let q := s.readSig 64 id
        if q.wait then (none, q.st.waitFor false addr (some id)) else (some q.val, q.st.sigNext)
      else if a = R.MEM_DATA then
        match s.memRx with
        | (some v, t) => (some v, t)
        | (none, t) => (none, t.waitFor false addr none)
      else let r := s.readReg a i row; (some r.1, r.2)
    | _ => (some 0#32, s)

/-- The access of one register word; none where its data are not ready. -/
def State.readWord (s : State) (addr : Nat) (first : Bool) : Option Word × State :=
  let s := s.hostCycle
  if addrPast ≤ addr then (some 0#32, s.setFld F.HOST_STAT_ADDR_END 0 1)
  else match s.host.hold with
  | some (false, a, v) => if first && a == addr then (some v, s.updHost fun h => { h with hold := none }) else s.readLive addr
  | _ => s.readLive addr

/-- The access of one signal word where no read hold answers. -/
def State.sigLive (s : State) (id : Nat) : Option Word × State :=
  let q := s.readSig 64 id
  if q.wait then (none, q.st.waitFor true id (some id)) else (some q.val, q.st)

/-- The access of one signal word. -/
def State.readSigWord (s : State) (id : Nat) (first : Bool) : Option Word × State :=
  let s := s.hostCycle
  if 2 ^ 20 ≤ id then (some 0#32, s.setFld F.HOST_STAT_ADDR_END 0 1)
  else match s.host.hold with
  | some (true, a, v) => if first && a == id then (some v, s.updHost fun h => { h with hold := none }) else s.sigLive id
  | _ => s.sigLive id

/-- An underrun is noted (R503). -/
def State.underrun (s : State) : State := (s.setFld F.HOST_STAT_UNDERRUN 0 1).bump F.HOST_CNT_UNDERRUNS 0

/-- An access is made while the word before it is sent (R501): what it takes of RC fields stands beside what that word has taken. -/
def State.aside (s : State) (acc : State → Option Word × State) : Option Word × State :=
  let r := acc (s.updHost fun h => { h with rc := none })
  (r.1, r.2.updHost fun h => { h with rc := s.host.rc, ahead := h.rc })

/-- The access of the address after the last word (R501): it takes RC fields, for as long as that word is sent. DEDUCED, log entry 49: as no word of it
is sent it has no other effect: it advances no address register, takes no word of a queue, asks for nothing off the chip. -/
def State.accessPast (s : State) (addr : Nat) : State :=
  match s.place addr with
  | .reg a i row =>
    if addrPast ≤ addr ∨ rcMask row = 0#32 ∨ (s.host.heldRegs.any fun e => e.1 == addr) = true then s
    else
      let t := s.hostCycle.rcTake a i row
      t.2.updHost fun h => { h with ahead := some (false, keyI a i, t.1) }
  | _ => s

/-- The words of a read of registers, `n` of them: the access of each is made as the first bit of the one before it is sent; after an underrun the
previous word repeats (R501, R503). -/
def State.readWords (s : State) (addr : Nat) (fix first : Bool) (prev : Word) : Nat → List Word × State
  | 0 => ([], if first then s else s.accessPast addr)
  | n + 1 =>
    match s.aside (fun s => s.readWord addr first) with
    | (some v, t) =>
      let r := t.wordSent.readWords (if fix then addr else nextAddr addr) fix false v n
      (v :: r.1, r.2)
    | (none, t) => (List.replicate (n + 1) prev, t.wordSent.underrun)

/-- The words of a SIG_READ. -/
def State.readSigs (s : State) (id : Nat) (first : Bool) (prev : Word) : Nat → List Word × State
  | 0 => ([], s)
  | n + 1 =>
    match s.readSigWord id first with
    | (some v, t) =>
      let r := t.readSigs (id + 1) false v n
      (v :: r.1, r.2)
    | (none, t) => (List.replicate (n + 1) prev, t.underrun)

/-- The read hold is filled (R503, R513). -/
def State.fillHold (s : State) (sig : Bool) (addr : Nat) (v : Word) : State :=
  (s.setFld F.HOST_IFLG_DATA 0 1).updHost fun h => { h with hold := some (sig, addr, v), late := none }

/-! ### Writes -/

/-- A write word reaches register address `addr`; none: it waits for room in the write buffer (R35, R498). -/
def State.writeWord (s : State) (addr : Nat) (w : Word) (part : Bool) : Option State :=
  let s := s.hostCycle
  let past := fun (s : State) => s.setFld F.HOST_STAT_ADDR_END 0 1
  if !s.clk.ready then some ((s.when (decide (addrPast ≤ addr)) past).hostProto 4)
  else if addrPast ≤ addr then some (past s)
  else
    let s1 := if (match s.host.hold with | some (false, a, _) => a == addr | _ => false) then s.updHost fun h => { h with hold := none } else s
    match s1.place addr with
    | .reg a _ row =>
      if part && row.whole then some s1
      else if a = R.SIG_DATA ∧ (s1.writeSig 0 (s1.fld F.SIG_ADDR_ID) w).wait = true then none
      else some (s1.regWrite addr w).finish
    | _ => some (s1.regWrite addr w)

/-- A SIG_WRITE word reaches a signal; a cut one is discarded (R510). -/
def State.writeSigWord (s : State) (id : Nat) (w : Word) (part : Bool) : Option State :=
  let s := s.hostCycle
  let past := fun (s : State) => s.setFld F.HOST_STAT_ADDR_END 0 1
  if !s.clk.ready then some ((s.when (decide (2 ^ 20 ≤ id)) past).hostProto 4)
  else if 2 ^ 20 ≤ id then some (past s)
  else if part then some s
  else
    let s1 := if (match s.host.hold with | some (true, a, _) => a == id | _ => false) then s.updHost fun h => { h with hold := none } else s
    let q := (s1.updRole fun r => { r with lastWrite := s1.now }).hostSig id w
    if q.wait then none else some q.st.finish

/-! ### The command FIFO (R498, R499) -/

/-- The oldest entry is carried out; none where it waits. A read of no words is one whose words have been answered by an underrun. -/
def State.hostEntry (s : State) (e : HEntry) : Option State :=
  match e with
  | .read addr fix n =>
    if n = 0 then
      match s.readWord addr true with
      | (some v, t) => some ((t.updHost fun h => { h with rc := none }).fillHold false addr v)
      | (none, t) => some t
    else let r := s.readWords addr fix true 0#32 n; some (r.2.updHost fun h => { h with out := r.1 })
  | .sread id n =>
    if n = 0 then
      match s.readSigWord id true with
      | (some v, t) => some (t.fillHold true id v)
      | (none, t) => some t
    else let r := s.readSigs id true 0#32 n; some (r.2.updHost fun h => { h with out := r.1 })
  | .write addr fix => some (s.updHost fun h => { h with cur := some (.write addr fix) })
  | .swrite id => some (s.updHost fun h => { h with cur := some (.swrite id) })
  | .word w part =>
    match s.host.cur with
    | some (.write addr fix) =>
      (s.writeWord addr w part).map fun t =>
        t.updHost fun h => { h with cur := h.cur.map fun _ => .write (if fix then addr else nextAddr addr) fix }
    | some (.swrite id) => (s.writeSigWord id w part).map fun t => t.updHost fun h => { h with cur := h.cur.map fun _ => .swrite (id + 1) }
    | _ => some s
  | .nop => some s
  | .snap g => some (s.snapTake g)
  | .release => some s.holdEnd
  | .resv => some (s.hostProto 0)

/-- Entries are carried out in order until one waits; `n` of them at most. -/
def State.hostDrain : Nat → State → State
  | 0, s => s
  | n + 1, s =>
    match s.host.fifo with
    | [] => s
    | e :: r =>
      if s.host.late.isSome then s
      else match ({ s with host.fifo := r } : State).hostEntry e with
        | some t => t.hostDrain n
        | none => s

/-- The FIFO is served. -/
def State.hostServe (s : State) : State := State.hostDrain 16 s

/-- One entry enters the FIFO and is served at once where nothing waits; a full FIFO discards it and the rest of the transaction (R499). -/
def State.hostPush (s : State) (e : HEntry) : State :=
  if s.host.drop then s
  else if 16 ≤ s.host.fifo.length then
    ((s.setFld F.HOST_STAT_OVF 0 1).hostProto 2).updHost fun h => { h with drop := true }
  else (s.updHost fun h => { h with fifo := h.fifo ++ [e] }).hostServe

/-- A transaction begins: HSEL_N has been high before it (R494); its port answers once the clocks run (R582). -/
def State.hostBegin (s : State) (writing : Bool) : State :=
  s.lastSent.updHost fun h => { h with out := [], drop := false, writing := writing, status := false, lanes := s.fld F.HOST_CFG_LANES }

/-- A read whose header finds the FIFO waiting: its words are an underrun, and its access is made later (R498, R503). -/
def State.hostReadT (s : State) (n : Nat) (e : Nat → HEntry) : State :=
  let s := s.hostTurn
  if !s.clk.locked then s
  else
    let s1 := s.hostBegin false
    if n = 0 then s1
    else if s1.host.fifo.isEmpty && s1.host.late.isNone then s1.hostPush (e n)
    else ((s1.updHost fun h => { h with out := List.replicate n 0#32, hold := none }).underrun).hostPush (e 0)

/-- The entries of a write transaction. -/
def State.hostWords (s : State) : List Word → State
  | [] => s
  | w :: r => (s.hostPush (.word w false)).hostWords r

/-- A write transaction: its header and its words. -/
def State.hostWriteT (s : State) (hdr : HEntry) (ws : List Word) : State :=
  let s := s.hostTurn
  if !s.clk.locked then s else ((s.hostBegin true).hostPush hdr).hostWords ws

/-- A transaction without data. -/
def State.hostPlain (s : State) (hdr : HEntry) : State :=
  let s := s.hostTurn
  if !s.clk.locked then s else (s.hostBegin false).hostPush hdr

/-- A host write of one register: a WRITE transaction of one word. -/
def State.hostReg (s : State) (addr : Nat) (w : Word) : State := s.hostWriteT (.write addr false) [w]

/-- A host read of `n` register words. -/
def State.hostReads (s : State) (addr : Nat) (fix : Bool) (n : Nat) : State := s.hostReadT n fun k => .read addr fix k

/-- The address of a register of mast m. -/
def mastAddr (a : Nat) (m : Fin 16) : Nat := a + 256 * m.val

/-- A word of a STATUS: HOST_STAT as it stands when the word begins, one after the other while HSEL_N stays low (R495, R497). -/
def State.hostStatus (s : State) : State :=
  let t := s.hostCycle
  if !t.clk.locked then t
  else
    let t1 := if t.host.status then t else t.lastSent.updHost fun h => { h with out := [], writing := false, lanes := t.fld F.HOST_CFG_LANES, status := true }
    t1.updHost fun h => { h with out := h.out ++ [t.before.hostStat] }

/-- STOP (R496). -/
def State.hostStopT (s : State) (hdr : Nat) : State :=
  if !s.clk.locked || hdr / 8192 ≠ 6 then s
  else if hdr = 0xD555 then (s.furlEnter FC.HOST).bump F.HOST_CNT_STOPS 0
  else s.hostProto 3

/-- A reserved command or EXT operation (R495). -/
def reservedHdr (hdr : Nat) : Bool := decide (hdr / 8192 = 7) || (decide (hdr / 8192 = 0) && decide (5 ≤ hdr / 256 % 32))

/-- HSEL_N rises (R494, R502, R509–R511). -/
def State.hselRise (s : State) (cut : Cut) : State :=
  if !s.clk.locked then s
  else
    let s1 := match cut with
      | .clean => s.lastSent
      | .header => (s.lastSent.setFld F.HOST_STAT_HDR_ERR 0 1).hostProto 1
      | .word k w =>
        if k.val = 0 then s.lastSent
        else if s.host.writing then
          let t := ((s.setFld F.HOST_STAT_PART 0 1).setFld F.HOST_STAT_PBITS 0 k.val).bump F.HOST_CNT_PARTIAL 0
          t.hostPush (.word (nat32 (w.toNat % 2 ^ k.val)) true)
        else s.wordCut
    s1.updHost fun h => { h with drop := false, writing := false, status := false, lanes := s1.fld F.HOST_CFG_LANES }

/-! ### Writes through JTAG (R537, R538, R544, R546, R582) -/

/-- A write of a register through JTAG: while TRST_N does not hold the port reset, with the session's role and checks, and recorded with port 1.
DEDUCED, log entry 81: a write of SIG_DATA that finds the write buffer full is not taken. -/
def State.jtagReg (s : State) (addr : Nat) (w : Word) : State :=
  if s.tap.trstLow || !s.clk.locked then s
  else
    let t := s.hostTurn.updRole fun r => { r with jtag := true }
    ((t.writeWord addr w false).getD t).updRole fun r => { r with jtag := false }

/-! ### The wires (R493, R494) -/

/-- The lane count of a code of HOST_CFG.LANES. -/
def laneCount : Nat → Nat
  | 0 => 1
  | 1 => 2
  | _ => 4

/-- The ball that carries the most significant of the bits of an HSCK cycle from the device, the others below it in order: with one lane HD1, else
HD(n − 1) (R493). -/
def hdTop (code : Nat) : Nat := if laneCount code = 1 then 1 else laneCount code - 1

/-- The bits of a word in the order they are sent, the most significant first. -/
def wordBits (w : Word) : List Bool := (List.range 32).map fun i => bitOf w (31 - i)

/-- The bits of successive HSCK cycles, `n` each. -/
def hdGroups (n : Nat) : Nat → List Bool → List (List Bool)
  | 0, _ => []
  | k + 1, l => if l = [] then [] else l.take n :: hdGroups n k (l.drop n)

/-- What the device drives on HD0–HD3 in an HSCK cycle in which it sends these bits; a ball it does not use is not driven (R493, R494). -/
def hdDrive (code : Nat) (bits : List Bool) : List (Option Bool) :=
  (List.range 4).map fun d => if d ≤ hdTop code then bits[hdTop code - d]? else none

/-- What the device drives on HD0–HD3, HSCK cycle by HSCK cycle, for the words of the last transaction (R493). -/
def State.hdOut (s : State) : List (List (Option Bool)) :=
  (hdGroups (laneCount s.host.lanes) (32 * s.host.out.length) (s.host.out.flatMap wordBits)).map (hdDrive s.host.lanes)

/-- The bits the device samples from levels of HD0–HD3 in an HSCK cycle, the most significant first (R493). -/
def hdSample (code : Nat) (levels : List Bool) : List Bool := (levels.take (laneCount code)).reverse

/-- The late access has its data, has waited too long (R247), or finds the receive queue filled (R530). -/
def State.lateNow (s : State) : Option (Late × Word × State) :=
  match s.host.late with
  | none => none
  | some l =>
    match l.got with
    | some v => some (l, v, s)
    | none =>
      if l.id.isSome then
        if s.sigTmo ≠ 0 ∧ l.since + s.sigTmo ≤ s.now then
          let s1 : State := { s with mem := s.mem.forget 64 (l.id.getD 0) }
          some (l, qNaN, s1.raise DS.SIGNAL_TIMEOUT 0)
        else none
      else match s.memRx with
        | (some v, t) => some (l, v, t)
        | _ => none

/-- The late access completes: its value is kept, and the FIFO goes on (R503). -/
def State.holdFilled (s : State) : State :=
  match s.lateNow with
  | none => s
  | some (l, v, t) =>
    let s1 := t.fillHold l.sig l.addr v
    (if !l.sig && l.addr == R.SIG_DATA then s1.sigNext else s1).hostServe

end Sys2Proof.Machine
end

