-- ==== Sys2Proof/Machine/ExecMast.lean ====
section
/-! DEFINITION. Machine/ExecMast.lean: the commands of legs, PWM generation and sensing (R18–R137). -/

namespace Sys2Proof.Machine

/-- The meaning of an event row: time passes; the event takes place where its condition then holds, and nothing else happens (log entry 2). -/
def event (dt : Nat) (due : State → Bool) (act : State → State) (s : State) : Host.Outcome State Fault Refusal :=
  done ((s.elapse dt).when (due (s.elapse dt)) act)

/-- The meaning of a host write of one register: time passes, and a WRITE transaction of one word reaches the port (R498). -/
def hostWr (dt addr : Nat) (w : Word) (s : State) : Host.Outcome State Fault Refusal :=
  done ((s.elapse dt).hostReg addr w)

/-! ### Conditions and actions of the converters -/

/-- ADC-S has converted for 100 ns (R96). -/
def State.adcSDue (s : State) (m : Fin 16) : Bool :=
  match (s.mast m).sense.adcS with
  | some c => decide (c.startAt + 1536 ≤ s.now)
  | none => false

/-- The code of the conversion in progress arrives (R96). -/
def State.adcSDone (s : State) (m : Fin 16) (code : BitVec 14) : State :=
  match (s.mast m).sense.adcS with
  | some c => s.doneS m c code.toInt
  | none => s

/-- A start is held and ADC-S is free (R96). -/
def State.adcSHeld (s : State) (m : Fin 16) : Bool := (s.mast m).sense.adcS.isNone && (s.mast m).sense.sHeld.isSome

/-- The held start begins (R96). -/
def State.adcSBegin (s : State) (m : Fin 16) : State :=
  match (s.mast m).sense.sHeld with
  | some c => s.updSense m fun x => beginS { x with sHeld := none } { c with startAt := s.now }
  | none => s

/-- The slot of ADC-P has been converted: 200 ns for each (R97). -/
def State.adcPDue (s : State) (m : Fin 16) : Bool :=
  match (s.mast m).sense.adcP with
  | some c => decide (c.startAt + (c.slot + 1) * 3072 ≤ s.now)
  | none => false

/-- The code of the slot arrives (R97). -/
def State.adcPDone (s : State) (m : Fin 16) (code : BitVec 12) : State :=
  match (s.mast m).sense.adcP with
  | some c => s.doneP m c code.toNat
  | none => s

/-- A sequence is held and ADC-P is free (R99). -/
def State.adcPHeld (s : State) (m : Fin 16) : Bool := (s.mast m).sense.adcP.isNone && (s.mast m).sense.pHeld.isSome

/-- The held sequence begins (R99). -/
def State.adcPBegin (s : State) (m : Fin 16) : State :=
  match (s.mast m).sense.pHeld with
  | some c => s.updSense m fun x =>
      ({ x with pHeld := none, adcP := some { c with startAt := s.now } } : Sense).onCap c.setNo fun k => { k with pAt := s.now }
  | none => s

/-- The sample set that is complete is released (R20). -/
def State.releaseNext (s : State) (m : Fin 16) : State :=
  match (s.mast m).sense.nextSet with
  | some c => s.release m c
  | none => s

/-- Window recovery begins; the periods with PLAN_OK are counted from the one that begins here (R122, log entry 12). -/
def State.recoveryOn (s : State) (m : Fin 16) : State := s.updSense m fun x => { x with recovery := true, recInv := 0, planOkRun := b2n x.planOk }
/-- Window recovery ends (R122). -/
def State.recoveryOff (s : State) (m : Fin 16) : State := s.updSense m fun x => { x with recovery := false, recInv := 0 }

/-- The periods of a cross-check test are over (R127). -/
def State.xchkOver (s : State) (m : Fin 16) : Bool := (s.mast m).sense.xRun == some 0

/-! ### The commands -/

/-- PWM_BOUNDARY (R23). -/
def execPwmBoundary (dt : Nat) (m : Fin 16) (s : State) : Host.Outcome State Fault Refusal :=
  event dt (fun s => s.boundaryDue m) (fun s => s.boundary m) s

/-- AUXT_INSTANT (R82). -/
def execAuxtInstant (dt : Nat) (m : Fin 16) (ch : Fin 5) (s : State) : Host.Outcome State Fault Refusal :=
  event dt (fun s => s.auxtDue m ch.val) (fun s => s.auxtFire m ch.val) s

/-- ADC_S_CONVERSION_DONE (R96). -/
def execAdcSConversionDone (dt : Nat) (m : Fin 16) (code : BitVec 14) (s : State) : Host.Outcome State Fault Refusal :=
  event dt (fun s => s.adcSDue m) (fun s => s.adcSDone m code) s

/-- ADC_S_HELD_START (R96). -/
def execAdcSHeldStart (dt : Nat) (m : Fin 16) (s : State) : Host.Outcome State Fault Refusal :=
  event dt (fun s => s.adcSHeld m) (fun s => s.adcSBegin m) s

/-- ADC_P_SLOT_DONE (R97). -/
def execAdcPSlotDone (dt : Nat) (m : Fin 16) (code : BitVec 12) (s : State) : Host.Outcome State Fault Refusal :=
  event dt (fun s => s.adcPDue m) (fun s => s.adcPDone m code) s

/-- ADC_P_HELD_SEQUENCE (R99). -/
def execAdcPHeldSequence (dt : Nat) (m : Fin 16) (s : State) : Host.Outcome State Fault Refusal :=
  event dt (fun s => s.adcPHeld m) (fun s => s.adcPBegin m) s

/-- SAMPLE_SET_RELEASE (R20). -/
def execSampleSetRelease (dt : Nat) (m : Fin 16) (s : State) : Host.Outcome State Fault Refusal :=
  event dt (fun s => s.setDone m) (fun s => s.releaseNext m) s

/-- BLANKING_WINDOW_END (R331). -/
def execBlankingWindowEnd (dt : Nat) (m : Fin 16) (s : State) : Host.Outcome State Fault Refusal :=
  event dt (fun s => s.hasMast m && !s.ocBlank m) (fun s => s.shroudLook m) s

/-- PWM_RUN_SET (R52). -/
def execPwmRunSet (dt : Nat) (m : Fin 16) (w : Word) (s : State) : Host.Outcome State Fault Refusal :=
  hostWr dt (mastAddr R.PWM_CTL m) w s

/-- PWM_RUN_CLEAR (R53). -/
def execPwmRunClear (dt : Nat) (m : Fin 16) (w : Word) (s : State) : Host.Outcome State Fault Refusal :=
  hostWr dt (mastAddr R.PWM_CTL m) w s

/-- PWM_COMMIT (R72). -/
def execPwmCommit (dt : Nat) (m : Fin 16) (w : Word) (s : State) : Host.Outcome State Fault Refusal :=
  hostWr dt (mastAddr R.PWM_COMMIT m) w s

/-- WINDOW_RECOVERY_START (R122). -/
def execWindowRecoveryStart (dt : Nat) (m : Fin 16) (s : State) : Host.Outcome State Fault Refusal :=
  event dt (fun s => s.recStartDue m) (fun s => s.recoveryOn m) s

/-- WINDOW_RECOVERY_END (R122). -/
def execWindowRecoveryEnd (dt : Nat) (m : Fin 16) (s : State) : Host.Outcome State Fault Refusal :=
  event dt (fun s => s.recEndDue m) (fun s => s.recoveryOff m) s

/-- XCHK_TEST_START (R126). -/
def execXchkTestStart (dt : Nat) (m : Fin 16) (s : State) : Host.Outcome State Fault Refusal :=
  event dt (fun s => s.xchkDue m) (fun s => s.xchkStart m) s

/-- XCHK_TEST_END (R128). -/
def execXchkTestEnd (dt : Nat) (m : Fin 16) (s : State) : Host.Outcome State Fault Refusal :=
  event dt (fun s => s.xchkOver m) (fun s => s.xchkEnd m) s

end Sys2Proof.Machine
end

