-- ==== Sys2Proof/Machine/Operands.lean ====
section
/-! DEFINITION. Machine/Operands.lean: the operand forms of the Aupel instructions and what their results go through (R281, R282, R286, R310). -/

namespace Sys2Proof.Machine

/-- The meaning of an instruction row: time passes, and context c attempts to issue the instruction at its pc where its opcode is `op` (R231, R286). -/
def instr (dt : Nat) (c : Fin 64) (op : Nat) (body : State → Word → Word → State) (s : State) : Host.Outcome State Fault Refusal :=
  done ((s.elapse dt).issue c (fun w => decide (iOp w = op)) body)

/-- Registers vd, va and vb of an instruction word, and a register by number. -/
def State.vr (s : State) (c : Fin 64) (r : Nat) : Word := (s.ctx c).reg r
def State.vD (s : State) (c : Fin 64) (w : Word) : Word := s.vr c (iD w)
def State.vA (s : State) (c : Fin 64) (w : Word) : Word := s.vr c (iA w)
def State.vB (s : State) (c : Fin 64) (w : Word) : Word := s.vr c (iB w)

/-- vd takes a value and the flags change, both used `lat` cycles after issue (R286). -/
def State.result (s : State) (c : Fin 64) (w : Word) (lat : Nat) (r : Word) (f : Flags → Flags) : State :=
  (s.setReg c (iD w) r lat).setFl c lat f

/-- The shift amount: bits 4:0 of vb, or of the modifier with its bit 11 (R301). -/
def State.shAmt (s : State) (c : Fin 64) (w : Word) : Nat := if bitOf w 11 then bitsOf w 4 0 else bitsOf (s.vB c w) 4 0

/-- The bit field of BFX and BFI: its place and its mask before the shift (R301). -/
def bfPos (w : Word) : Nat := bitsOf w 4 0
def bfMask (w : Word) : Word := BitVec.ofNat 32 (2 ^ (bitsOf w 9 5 + 1) - 1)

/-- A signal ID formed from va and the modifier (R307). -/
def State.sigIdx (s : State) (c : Fin 64) (w : Word) : Nat := (s.vA c w + wordOfInt (iModS w)).toNat % 2 ^ 20

/-- The mast an output instruction names: modifier bits 3:0, or with bit 11 bits 3:0 of vd (R310). -/
def State.outMast (s : State) (c : Fin 64) (w : Word) : Fin 16 :=
  Fin.ofNat 16 (if bitOf w 11 then bitsOf (s.vD c w) 3 0 else bitsOf w 3 0)

/-- ABSENT_UNIT with no other effect (R6). -/
def State.absentUnit (s : State) : State := s.raise DS.ABSENT_UNIT 0

/-- Do `f` on the mast an output instruction names; an absent one raises ABSENT_UNIT (R6, R310). -/
def State.onMast (s : State) (c : Fin 64) (w : Word) (f : State → Fin 16 → State) : State :=
  if s.hasMast (s.outMast c w) then f s (s.outMast c w) else s.absentUnit

/-- The target of a format J instruction whose address is one less than pc (R285); one outside every bank stays outside. -/
def jumpTo (pc : Nat) (w : Word) : Nat := (((pc : Int) - 1 + iOfs w) % (2 ^ 24 : Nat)).toNat

/-- Context c goes on at an address, its lane taken for 2 cycles (R305). -/
def State.goTo (s : State) (c : Fin 64) (pc : Nat) : State := (s.updC c fun x => { x with pc := pc }).occupy c 2

end Sys2Proof.Machine
end

