-- ==== Sys2Proof/Machine/ExecCell.lean ====
section
/-! DEFINITION. Machine/ExecCell.lean: the cell instructions CELL and CELLX and the cell commands of the host (R250–R261, R309). -/

namespace Sys2Proof.Machine

/-- Mode and cell of CELL (format C) and CELLX (R309). -/
def cellMode (w : Word) : Nat := if iOp w = 0x58 then bitsOf w 15 12 else bitsOf w 3 0
def State.cellNo (s : State) (c : Fin 64) (w : Word) : Nat := if iOp w = 0x58 then bitsOf w 11 0 else bitsOf (s.vB c w) 11 0

/-- CELL or CELLX with a mode. -/
def isCell (mode : Nat) (w : Word) : Bool := decide (iOp w = 0x58 ∨ iOp w = 0x59) && decide (cellMode w = mode)

/-- The result of a cell operation reaches its context; a NaN is the quiet one and sets U (R260, R293, R294, R309). -/
def CellRes.land (r : CellRes) (c : Fin 64) (w : Word) : State :=
  let v := fCanon r.vd
  r.st.result c w 8 v fun f => f.cellOf v r.l (r.u || fIsNaN v)

/-- A parity error in a cell: the cell is OPEN, the output U1, and the context is faulted with cause 7 (R268). -/
def State.cellParity (s : State) (c : Fin 64) (w : Word) (n : Nat) : State :=
  ((s.cellOpen n).setReg c (iD w) (fCanon (s.cw n 10)) 8).exception c 7 ((s.ctx c).pc - 1)

/-- A test injection record of the present cycle by rank takes its words anew (R261, R262). -/
def State.tinjAgain (s : State) (rank ctx tag : Nat) (a b : Word) : State :=
  let l := s.cyc.trc.map fun e =>
    if e.typ = 1 ∧ e.rank = rank then { e with ws := trcWords 1 ctx tag (e.ws.getD 1 0#32).toNat a b } else e
  s.trcOrder l

/-- One operation on cell n once more, in its turn (R260). -/
def State.cellAgain (s : State) (n rank : Nat) : CellOp → State
  | .data k w => s.cellWrite n k w
  | .cmd k => s.cellCmd n k
  | .lane c w parity e fl =>
    let s0 := s.updC c fun x => { x with fl := fl }
    if parity then s0.cellOpen n
    else if s.tinjOn n && decide (cellMode w ≤ 1) then
      let r := if cellMode w = 0 then s0.cellStepCore n e
        else (if fFinite e then { st := s0.cellHist n e, vd := s0.cw n 10, l := some false } else s0.cellNan n (some false), e)
      let s1 := (r.1.st.tinjAgain rank c.val s.eng.tinjN r.2 r.1.vd).updEng fun x => { x with tinjN := x.tinjN + 1, tinjReg := (prbs9 x.tinjReg).2 }
      ({ r.1 with st := s1 } : CellRes).land c w
    else (s0.cellDo c.val n (cellMode w) e).land c w

/-- All operations of the present cycle on cell n once more, in the order of R260. -/
def State.cellRedo (s : State) (n : Nat) : State :=
  (s.cyc.cells.filter fun e => decide (e.2.1 = n)).foldl (fun s e => s.cellAgain n e.1 e.2.2) (s.cellBack n)

/-- A cell operation of context c: `f` gets the state, the cell and va as a binary32 operand is read (R293, R294). Where the cycle has already seen one
that comes after it, the cell's operations of the cycle are done again in order (R260). -/
def State.cellInstr (s : State) (c : Fin 64) (w : Word) (parity : Bool) (f : State → Nat → Word → CellRes) : State :=
  let n := s.cellNo c w
  let e := fCanon (s.vA c w)
  let late := s.cellLate (s.cellRank c) n
  let s0 := s.cellNote (s.cellRank c) n (.lane c w parity e (s.ctx c).fl)
  let s1 := if parity then s0.cellParity c w n else (f s0 n e).land c w
  s1.when late fun s => s.cellRedo n

/-- The meaning of a cell instruction row. -/
def cellRow (dt : Nat) (c : Fin 64) (mode : Nat) (parity : Bool) (f : State → Nat → Word → CellRes) (s : State) :
    Host.Outcome State Fault Refusal :=
  done ((s.elapse dt).issue c (isCell mode) fun s w _ => s.cellInstr c w parity f)

/-- A mode that returns U1: the cell as changed, L cleared, U for a refusal (R259, R309). -/
def u1Res (s : State) (n : Nat) (st : State) (u : Bool := false) : CellRes := { st := st, vd := s.cw n 10, l := some false, u := u }

/-- CELL_STEP (R252, R253, R255, R257, R258). -/
def execCellStep (dt : Nat) (c : Fin 64) (parity : Bool) (s : State) : Host.Outcome State Fault Refusal :=
  cellRow dt c 0 parity (fun s n e => s.cellStep c.val n e) s

/-- CELL_HOLD (R259). -/
def execCellHold (dt : Nat) (c : Fin 64) (parity : Bool) (s : State) : Host.Outcome State Fault Refusal :=
  cellRow dt c 1 parity (fun s n e => s.cellHold c.val n e) s

/-- CELL_PRESET (R258, R259). -/
def execCellPreset (dt : Nat) (c : Fin 64) (parity : Bool) (s : State) : Host.Outcome State Fault Refusal :=
  cellRow dt c 2 parity (fun s n e => s.cellPreset n e) s

/-- CELL_SETMAN (R259). -/
def execCellSetman (dt : Nat) (c : Fin 64) (parity : Bool) (s : State) : Host.Outcome State Fault Refusal :=
  cellRow dt c 3 parity (fun s n e => s.cellSetman n e) s

/-- CELL_READ (R259). -/
def execCellRead (dt : Nat) (c : Fin 64) (parity : Bool) (s : State) : Host.Outcome State Fault Refusal :=
  cellRow dt c 7 parity (fun s n _ => u1Res s n s) s

/-- CELL_OPEN (R254): CELL_CMD, or mode OPEN. -/
def execCellOpen (dt : Nat) (o : CmdOrigin) (parity : Bool) (s : State) : Host.Outcome State Fault Refusal :=
  match o with
  | .host w => hostWr dt R.CELL_CMD w s
  | .ctx c => cellRow dt c 5 parity (fun s n _ => u1Res s n (s.cellOpen n)) s

/-- CELL_CLOSE (R256): CELL_CMD, or mode CLOSE. -/
def execCellClose (dt : Nat) (o : CmdOrigin) (parity : Bool) (s : State) : Host.Outcome State Fault Refusal :=
  match o with
  | .host w => hostWr dt R.CELL_CMD w s
  | .ctx c => cellRow dt c 6 parity (fun s n _ => u1Res s n (s.cellClose n).1 (!(s.cellClose n).2)) s

/-- CELL_AUTO (R258): CELL_CMD, or mode AUTO. -/
def execCellAuto (dt : Nat) (o : CmdOrigin) (parity : Bool) (s : State) : Host.Outcome State Fault Refusal :=
  match o with
  | .host w => hostWr dt R.CELL_CMD w s
  | .ctx c => cellRow dt c 4 parity (fun s n _ => u1Res s n (s.cellAutoCmd n)) s

/-- CELL_MANUAL (R257). -/
def execCellManual (dt : Nat) (w : Word) (s : State) : Host.Outcome State Fault Refusal :=
  hostWr dt R.CELL_CMD w s

/-- CELL_CLEAR (R250). -/
def execCellClear (dt : Nat) (w : Word) (s : State) : Host.Outcome State Fault Refusal :=
  hostWr dt R.CELL_CMD w s

/-- CELL_DATA_WRITE (R254, R272). -/
def execCellDataWrite (dt : Nat) (w : Word) (s : State) : Host.Outcome State Fault Refusal :=
  hostWr dt R.CELL_DATA w s

end Sys2Proof.Machine
end

