-- ==== Sys2Proof/Machine/ExecCom.lean ====
section
/-! DEFINITION. Machine/ExecCom.lean: the commands of commutation, the angle sensors, the halyard and the command pin (R138–R230), but those of the start sequencer. -/

namespace Sys2Proof.Machine

/-- The boundary that ends the present period has come. -/
def State.periodOver (s : State) (m : Fin 16) : Bool :=
  (s.mast m).pwm.counting && decide ((s.mast m).pwm.bNext ≤ s.now)

/-- The last period of a transfer is over (R151). -/
def State.luffOver (s : State) (m : Fin 16) : Bool :=
  s.periodOver m && (match (s.mast m).com.luff with | some l => decide (l.n ≤ l.i) | none => false)

/-- A phase of the polarity pulses is over: its periods have passed, or the current has come (R183). -/
def State.polOver (s : State) (m : Fin 16) : Bool :=
  let p := (s.mast m).com.pol
  s.polDue m && (s.periodOver m || ((p.phase == .plus || p.phase == .minus) && decide (p.n < s.polN m)))

/-- ESTIMATOR for an illegal code that has stayed, once for each acceptance (R158). -/
def State.hallIllegalAct (s : State) (m : Fin 16) : State :=
  (s.sensorFault m).updCom m fun c => { c with hallIllegal := none }

/-- The command is lost: CMD_VALID, COMMAND_LOSS and the policy (R225). -/
def State.cmdLost (s : State) (m : Fin 16) : State :=
  let s1 := (s.updCmd m fun c => { c with valid := false, lost := true, goodRun := 0 }).raiseM m MS.COMMAND_LOSS 0
  let v := s1.lossVal m
  let s2 := s1.putMs m [(0x091, v), (0x092, 0#32)]
  let s3 := s2.when (s2.flag F.HAL_CFG_SRC m) fun s => s.putM m (if s.tmode m then 0x081 else 0x080) v
  s3.when (decide (s3.fld F.CMD_CFG_LPOL m = 2)) fun s => s.seqRequest m (.stop 1)

/-- JAM_COUNT returns to 0 (R227). -/
def State.jamCleared (s : State) (m : Fin 16) : State := s.updHal m fun h => { h with jamCount := 0 }

/-- The dwell at zero speed ends: the ramp goes on (R218). -/
def State.dwellEnd (s : State) (m : Fin 16) : State := s.updHal m fun h => { h with st := .ramping }

/-! ### The commands -/

/-- HALL_CODE_ACCEPTED (R156). -/
def execHallCodeAccepted (dt : Nat) (m : Fin 16) (s : State) : Host.Outcome State Fault Refusal :=
  event dt (fun s => s.hasMast m && s.hallDue m) (fun s => s.hallAccept m) s

/-- HALL_ILLEGAL_TIMEOUT (R158). -/
def execHallIllegalTimeout (dt : Nat) (m : Fin 16) (s : State) : Host.Outcome State Fault Refusal :=
  event dt (fun s => s.hasMast m && s.hallIllegalDue m) (fun s => s.hallIllegalAct m) s

/-- HALL_TIMEOUT (R159). -/
def execHallTimeout (dt : Nat) (m : Fin 16) (s : State) : Host.Outcome State Fault Refusal :=
  event dt (fun s => s.hasMast m && s.hallStillDue m) (fun s => s.hallStop m) s

/-- QUAD_EDGE (R160). -/
def execQuadEdge (dt : Nat) (m : Fin 16) (s : State) : Host.Outcome State Fault Refusal :=
  event dt (fun s => s.hasMast m && s.quadDue m) (fun s => s.quadAccept m) s

/-- QUAD_INDEX (R161). -/
def execQuadIndex (dt : Nat) (m : Fin 16) (s : State) : Host.Outcome State Fault Refusal :=
  event dt (fun s => s.hasMast m && s.quadZDue m) (fun s => s.quadIndexed m) s

/-- ADVANCED_ANGLE_CHECK (R148). -/
def execAdvancedAngleCheck (dt : Nat) (m : Fin 16) (s : State) : Host.Outcome State Fault Refusal :=
  event dt (fun s => s.advDue m) (fun s => s.advCheck m) s

/-- STEP_WR (R149). -/
def execStepWr (dt : Nat) (m : Fin 16) (w : Word) (s : State) : Host.Outcome State Fault Refusal :=
  hostWr dt (mastAddr R.COM_CTL m) w s

/-- ZERO_CROSSING_ACCEPTED (R164). -/
def execZeroCrossingAccepted (dt : Nat) (m : Fin 16) (seen : ZcSeen) (s : State) : Host.Outcome State Fault Refusal :=
  event dt (fun s => s.hasMast m && s.zcDue m seen.level seen.age) (fun s => s.zcAccept m seen.age) s

/-- ZC_STEP_TIMER (R166). -/
def execZcStepTimer (dt : Nat) (m : Fin 16) (s : State) : Host.Outcome State Fault Refusal :=
  event dt (fun s => s.hasMast m && s.zcStepDue m) (fun s => s.zcStep m) s

/-- ZC_MISS (R167). -/
def execZcMiss (dt : Nat) (m : Fin 16) (s : State) : Host.Outcome State Fault Refusal :=
  event dt (fun s => s.hasMast m && s.zcMissDue m) (fun s => s.zcForce m) s

/-- LUFF_TRANSFER_END (R151); PWM_BOUNDARY completes a transfer this row has not. -/
def execLuffTransferEnd (dt : Nat) (m : Fin 16) (s : State) : Host.Outcome State Fault Refusal :=
  event dt (fun s => s.luffOver m) (fun s => s.luffEnd m (s.mast m).pwm.bNext) s

/-- CORRELATOR_WINDOW_END (R182). -/
def execCorrelatorWindowEnd (dt : Nat) (m : Fin 16) (s : State) : Host.Outcome State Fault Refusal :=
  event dt (fun s => s.hasMast m && s.winDue m) (fun s => s.winEnd m) s

/-- POLARITY_PULSE_END (R183). -/
def execPolarityPulseEnd (dt : Nat) (m : Fin 16) (s : State) : Host.Outcome State Fault Refusal :=
  event dt (fun s => s.polOver m) (fun s => s.polNext m) s

/-- TACK_DWELL_END (R218). -/
def execTackDwellEnd (dt : Nat) (m : Fin 16) (s : State) : Host.Outcome State Fault Refusal :=
  event dt (fun s => s.dwellDue m) (fun s => s.dwellEnd m) s

/-- STALL_EVENT (R227). -/
def execStallEvent (dt : Nat) (m : Fin 16) (s : State) : Host.Outcome State Fault Refusal :=
  event dt (fun s => s.stallDue m) (fun s => s.stall m) s

/-- JAM_HOLD_END (R227). -/
def execJamHoldEnd (dt : Nat) (m : Fin 16) (s : State) : Host.Outcome State Fault Refusal :=
  event dt (fun s => s.jamHoldDue m) (fun s => s.jamHoldEnd m) s

/-- JAM_COUNT_CLEAR (R227). -/
def execJamCountClear (dt : Nat) (m : Fin 16) (s : State) : Host.Outcome State Fault Refusal :=
  event dt (fun s => s.jamClearDue m) (fun s => s.jamCleared m) s

/-- CMD_PIN_EDGE (R223). -/
def execCmdPinEdge (dt : Nat) (m : Fin 16) (rising : Bool) (s : State) : Host.Outcome State Fault Refusal :=
  event dt (fun s => s.hasMast m) (fun s => s.cmdEdge m rising) s

/-- COMMAND_LOSS (R225). -/
def execCommandLoss (dt : Nat) (m : Fin 16) (s : State) : Host.Outcome State Fault Refusal :=
  event dt (fun s => s.hasMast m && s.lossDue m) (fun s => s.cmdLost m) s

end Sys2Proof.Machine
end

