-- ==== Sys2Proof/Machine/ExecControl.lean ====
section
/-! DEFINITION. Machine/ExecControl.lean: control transfer, signals and table memory, context, trace and flag instructions (R305–R308, R319–R323). -/

namespace Sys2Proof.Machine

/-- B_COND (R305, R306). -/
def execBCond (dt : Nat) (c : Fin 64) (s : State) : Host.Outcome State Fault Refusal :=
  done ((s.elapse dt).issue c (fun w => decide (0x38 ≤ iOp w ∧ iOp w ≤ 0x47)) fun s w _ =>
    if (s.ctx c).fl.holds (iOp w - 0x38) then s.goTo c (jumpTo (s.ctx c).pc w) else s)

/-- CALL: v15 takes the address after it (R305). -/
def execCall (dt : Nat) (c : Fin 64) (s : State) : Host.Outcome State Fault Refusal :=
  instr dt c 0x48 (fun s w _ => (s.setReg c 15 (nat32 (s.ctx c).pc) 2).goTo c (jumpTo (s.ctx c).pc w)) s

/-- JR (R305). -/
def execJr (dt : Nat) (c : Fin 64) (s : State) : Host.Outcome State Fault Refusal :=
  instr dt c 0x49 (fun s w _ => s.goTo c (bitsOf (s.vA c w) 17 0)) s

/-- END (R288, R305). -/
def execEndAct (dt : Nat) (c : Fin 64) (s : State) : Host.Outcome State Fault Refusal :=
  instr dt c 0x4A (fun s _ _ => s.endIssued c) s

/-- NOP (R305). -/
def execNop (dt : Nat) (c : Fin 64) (s : State) : Host.Outcome State Fault Refusal :=
  instr dt c 0x4B (fun s _ _ => s) s

/-- LDS (R307). -/
def execLds (dt : Nat) (c : Fin 64) (s : State) : Host.Outcome State Fault Refusal :=
  instr dt c 0x50 (fun s w _ => s.loadSig c (iImm w) (iD w)) s

/-- STS (R307). -/
def execSts (dt : Nat) (c : Fin 64) (s : State) : Host.Outcome State Fault Refusal :=
  instr dt c 0x51 (fun s w _ => s.storeSig c (iImm w) (s.vD c w)) s

/-- LDSI (R307). -/
def execLdsi (dt : Nat) (c : Fin 64) (s : State) : Host.Outcome State Fault Refusal :=
  instr dt c 0x52 (fun s w _ => s.loadSig c (s.sigIdx c w) (iD w)) s

/-- STSI (R307). -/
def execStsi (dt : Nat) (c : Fin 64) (s : State) : Host.Outcome State Fault Refusal :=
  instr dt c 0x53 (fun s w _ => s.storeSig c (s.sigIdx c w) (s.vB c w)) s

/-- LDT (R307). -/
def execLdt (dt : Nat) (c : Fin 64) (s : State) : Host.Outcome State Fault Refusal :=
  instr dt c 0x54 (fun s w _ => s.setReg c (iD w) (spGet 0#32 s.eng.tab ((s.vA c w + wordOfInt (iModS w)).toNat % 4096)) 2) s

/-- TIME: the three words of one instant (R319). -/
def execTime (dt : Nat) (c : Fin 64) (s : State) : Host.Outcome State Fault Refusal :=
  instr dt c 0x72 (fun s w _ =>
    ((s.setReg c (iD w) (nat32 s.tbNs) 2).setReg c (iD w + 1) (nat32 (s.tbSec % 2 ^ 32)) 2).setReg c (iD w + 2) (nat32 (s.tbSec / 2 ^ 32)) 2) s

/-- The three words of ACTV (R320). -/
def Trig.words (t : Trig) : List Word := [nat32 t.kind, nat32 t.a, nat32 t.b]

/-- ACTV (R320). -/
def execActv (dt : Nat) (c : Fin 64) (s : State) : Host.Outcome State Fault Refusal :=
  instr dt c 0x78 (fun s w _ =>
    let t := ((s.ctx c).act.getD { kind := 0 }).words
    ((s.setReg c (iD w) (t.getD 0 0#32) 1).setReg c (iD w + 1) (t.getD 1 0#32) 1).setReg c (iD w + 2) (t.getD 2 0#32) 1) s

/-- DBELL: the context of modifier bits 5:0, or with bit 11 of va (R321). -/
def execDbell (dt : Nat) (c : Fin 64) (s : State) : Host.Outcome State Fault Refusal :=
  instr dt c 0x79 (fun s w _ =>
    let d := if bitOf w 11 then bitsOf (s.vA c w) 5 0 else bitsOf w 5 0
    if s.hasCtx d then s.trigger d TK.DOORBELL c.val 0 else s.absentUnit) s

/-- TRACE: a record of type 2 (R262, R322). -/
def execTrace (dt : Nat) (c : Fin 64) (s : State) : Host.Outcome State Fault Refusal :=
  instr dt c 0x7A (fun s w _ => s.trcRecord 2 c (iD w * 2 ^ 12 + iMod w) (s.vA c w) (s.vB c w)) s

/-- FLAGS (R323). -/
def execFlags (dt : Nat) (c : Fin 64) (s : State) : Host.Outcome State Fault Refusal :=
  instr dt c 0x7B (fun s w _ => s.setReg c (iD w) (s.ctx c).fl.word 1) s

/-- SETF (R323). -/
def execSetf (dt : Nat) (c : Fin 64) (s : State) : Host.Outcome State Fault Refusal :=
  instr dt c 0x7C (fun s w _ => s.setFl c 1 fun f => f.setFrom (bitsOf w 5 0) (s.vA c w)) s

end Sys2Proof.Machine
end

