-- ==== Sys2Proof/Machine/CalAct.lean ====
section
/-! DEFINITION. Machine/CalAct.lean: the actions of the calendar (R480) and the dispatch of an entry (R483–R485). -/

namespace Sys2Proof.Machine

/-- A sequencer request of a calendar action, by the codes of SEQ_CMD. -/
def State.calMast (s : State) (m : Fin 16) (cmd mode : Nat) : State :=
  match cmd with
  | 1 => s.seqRequest m .start
  | 2 => s.seqRequest m (.stop mode)
  | 3 => s.seqRequest m .clear
  | _ => s

/-- The level a GPIO action gives its pin: low, high, toggle; it acts after the host and the engine (R489, R515). -/
def State.calGpio (s : State) (p code : Nat) : State :=
  s.gpioOut 10 (2 ^ p) (if code = 1 then 2 ^ p else 0) (code == 2)

/-- BANK: writes BANK and ENTRY of a context's CTX_CFG (R270, R555). -/
def State.calBank (s : State) (c bank entry : Nat) : State := s.calReg R.CTX_CFG c 0x3003FFFF#32 (nat32 (bank * 2 ^ 28 + entry))

/-- ANCHOR: writes PWM_ANCH of a mast (R90). -/
def State.calAnchor (s : State) (m : Nat) (w : Word) : State := s.calReg R.PWM_ANCH m 0xFFFFFFFF#32 w

/-- The action of an entry takes effect (R480); none: a signal write that waits for room in the write buffer (R35). -/
def State.calAction (s : State) (e : CalEntry) : Option State :=
  let a := e.arg
  match e.action with
  | 0 => let r := s.writeSig 10 a e.w3; if r.wait then none else some r.st
  | 1 => some (s.calMast (Fin.ofNat 16 a) (a / 16 % 8) (a / 256 % 4))
  | 2 => some (s.calAnchor (a % 16) e.w3)
  | 3 => some (s.trigger (a % 64) TK.CALENDAR e.ix 0)
  | 4 => some (s.calGpio (a % 32) (a / 256 % 4))
  | 5 => some (s.capture (a % 4))
  | 6 => some (s.calBank (a % 64) (a / 256 % 4) (bitsOf e.w3 17 0))
  | _ => some s

/-- The earliest due entry is dispatched (R483–R485). -/
def State.calDispatch (s : State) : State :=
  match s.calDue with
  | none => s
  | some e =>
    match (s.calRan e).calAction e with
    | none => s
    | some s1 => s1.calNext e

end Sys2Proof.Machine
end

