-- ==== Sys2Proof/Machine/ExecEngine.lean ====
section
/-! DEFINITION. Machine/ExecEngine.lean: contexts, lanes, timers, the engine's ports and the calendar instructions (R231–R289, R318, R481, R487). -/

namespace Sys2Proof.Machine

/-! ### Conditions and actions -/

/-- The context has issued its quantum and leaves its lane (R241). -/
def State.quantumEnd (s : State) (c : Fin 64) : State :=
  match (s.ctx c).lane with
  | some n => (s.preempt n).updC c fun x => { x with spent := true }
  | none => s

/-- The result a blocked context waits for can be used, or all work of the activation it ends has completed (R286, R288). -/
def State.resultReady (s : State) (c : Fin 64) : Bool :=
  (s.ctx c).st == .blocked &&
    (match (s.ctx c).wait with | some (.result t) => decide (t ≤ s.now) | some (.ending t) => decide (t ≤ s.now) | _ => false)

/-- The context goes on, or its activation ends (R286, R288). -/
def State.resultTake (s : State) (c : Fin 64) : State :=
  match (s.ctx c).wait with
  | some (.ending _) => s.endAct c
  | _ => s.unblock c

/-- Engine timer n has run out (R239). -/
def State.tmrDue (s : State) (n : Fin 8) : Bool := match s.eng.tmr[n] with | some t => decide (t ≤ s.now) | none => false

/-- The timer triggers its context, and runs on (R239). -/
def State.tmrFire (s : State) (n : Fin 8) : State :=
  match s.eng.tmr[n] with
  | some t =>
    (s.updEng fun e => { e with tmr := e.tmr.set n (some (t + s.fld F.ETMR_PERIOD n * tUs)) }).trigger (s.fld F.ETMR_CTX n) TK.TIMER n.val 0
  | none => s

/-- Lane n has issued nothing for 4,096 ENGCLK cycles with a context on it (R265). -/
def State.laneStuck (s : State) (n : Fin 4) : Bool :=
  s.inService n && (s.lane n).ctx.isSome && decide ((s.lane n).lastIssue + 4096 * tEng ≤ s.now)

/-- The registers of a running context have a parity error (R268, R325). -/
def State.ctxParity (s : State) (c : Fin 64) : State := s.exception c 4 (s.ctx c).pc

/-! ### Contexts and lanes -/

/-- CONTEXT_DISPATCH (R240). -/
def execContextDispatch (dt : Nat) (c : Fin 64) (s : State) : Host.Outcome State Fault Refusal :=
  done ((s.elapse dt).dispatch c)

/-- QUANTUM_EXPIRY (R241). -/
def execQuantumExpiry (dt : Nat) (c : Fin 64) (s : State) : Host.Outcome State Fault Refusal :=
  event dt (fun s => s.quantumDue c) (fun s => s.quantumEnd c) s

/-- BUDGET_EXCEEDED (R243). -/
def execBudgetExceeded (dt : Nat) (c : Fin 64) (s : State) : Host.Outcome State Fault Refusal :=
  event dt (fun s => s.budgetDue c) (fun s => s.budgetAct c) s

/-- SIGNAL_ACCESS_COMPLETE (R246). -/
def execSignalAccessComplete (dt : Nat) (c : Fin 64) (s : State) : Host.Outcome State Fault Refusal :=
  event dt (fun s => s.accessReady c) (fun s => s.accessDone c) s

/-- SIGNAL_ACCESS_TIMEOUT (R247). -/
def execSignalAccessTimeout (dt : Nat) (c : Fin 64) (s : State) : Host.Outcome State Fault Refusal :=
  event dt (fun s => s.accessLate c) (fun s => s.accessDrop c) s

/-- INSTRUCTION_RESULT_READY (R286). -/
def execInstructionResultReady (dt : Nat) (c : Fin 64) (s : State) : Host.Outcome State Fault Refusal :=
  event dt (fun s => s.resultReady c) (fun s => s.resultTake c) s

/-- ETMR_EXPIRY (R239). -/
def execEtmrExpiry (dt : Nat) (n : Fin 8) (s : State) : Host.Outcome State Fault Refusal :=
  event dt (fun s => s.tmrDue n) (fun s => s.tmrFire n) s

/-- DOORBELL (R235). -/
def execDoorbell (dt : Nat) (w : Word) (s : State) : Host.Outcome State Fault Refusal :=
  hostWr dt R.DOORBELL w s

/-- CTX_ENABLE (R233). -/
def execCtxEnable (dt : Nat) (w : Word) (s : State) : Host.Outcome State Fault Refusal :=
  hostWr dt R.CTX_CMD w s

/-- CTX_DISABLE (R234). -/
def execCtxDisable (dt : Nat) (w : Word) (s : State) : Host.Outcome State Fault Refusal :=
  hostWr dt R.CTX_CMD w s

/-- CTX_HALT (R274). -/
def execCtxHalt (dt : Nat) (w : Word) (s : State) : Host.Outcome State Fault Refusal :=
  hostWr dt R.CTX_CMD w s

/-- CTX_RESUME (R275). -/
def execCtxResume (dt : Nat) (w : Word) (s : State) : Host.Outcome State Fault Refusal :=
  hostWr dt R.CTX_CMD w s

/-- CTX_STEP (R275). -/
def execCtxStep (dt : Nat) (w : Word) (s : State) : Host.Outcome State Fault Refusal :=
  hostWr dt R.CTX_CMD w s

/-- CTX_RESTART (R233). -/
def execCtxRestart (dt : Nat) (w : Word) (s : State) : Host.Outcome State Fault Refusal :=
  hostWr dt R.CTX_CMD w s

/-- LANE_PARITY_ERROR (R265). -/
def execLaneParityError (dt : Nat) (n : Fin 4) (s : State) : Host.Outcome State Fault Refusal :=
  event dt (fun s => s.inService n) (fun s => s.laneFault n) s

/-- LANE_ISSUE_TIMEOUT (R265). -/
def execLaneIssueTimeout (dt : Nat) (n : Fin 4) (s : State) : Host.Outcome State Fault Refusal :=
  event dt (fun s => s.laneStuck n) (fun s => s.laneFault n) s

/-- CONTEXT_PARITY_ERROR (R268). -/
def execContextParityError (dt : Nat) (c : Fin 64) (s : State) : Host.Outcome State Fault Refusal :=
  event dt (fun s => (s.ctx c).st == .running) (fun s => s.ctxParity c) s

/-- ILLEGAL_INSTRUCTION (R283). -/
def execIllegalInstruction (dt : Nat) (c : Fin 64) (s : State) : Host.Outcome State Fault Refusal :=
  done ((s.elapse dt).issueIllegal c)

/-- MEMORY_PARITY_ERROR (R364): `mem` is the detail, the memory; no detector delivers 0xFF (R362). -/
def execMemoryParityError (dt : Nat) (mem : BitVec 8) (s : State) : Host.Outcome State Fault Refusal :=
  done ((s.elapse dt).when (decide (mem.toNat ≠ 0xFF)) fun s => s.raise DS.PARITY mem.toNat)

/-! ### Ports of the engine -/

/-- PRG_DATA_WRITE (R271). -/
def execPrgDataWrite (dt : Nat) (w : Word) (s : State) : Host.Outcome State Fault Refusal :=
  hostWr dt R.PRG_DATA w s

/-- TAB_DATA_WRITE (R272). -/
def execTabDataWrite (dt : Nat) (w : Word) (s : State) : Host.Outcome State Fault Refusal :=
  hostWr dt R.TAB_DATA w s

/-- SIG_DATA_WRITE (R272). -/
def execSigDataWrite (dt : Nat) (w : Word) (s : State) : Host.Outcome State Fault Refusal :=
  hostWr dt R.SIG_DATA w s

/-- SIG_DATA_READ (R272). -/
def execSigDataRead (dt : Nat) (s : State) : Host.Outcome State Fault Refusal :=
  done ((s.elapse dt).hostReads R.SIG_DATA false 1)

/-- TRACE_ENABLE (R264). -/
def execTraceEnable (dt : Nat) (w : Word) (s : State) : Host.Outcome State Fault Refusal :=
  hostWr dt R.TRC_CTL w s

/-! ### The action calendar -/

/-- CALI and CALD give the calendar a command of their lane; the context is blocked until its result is there: 64 ENGCLK cycles (R318, R488, log
entry 45). -/
def State.calGive (s : State) (c : Fin 64) (w : Word) (cmd : Nat) (w0 w1 w2 w3 : Word) : State :=
  let j : CalJob := { rank := ((s.ctx c).lane.map (·.val)).getD 0, dest := some (c, iD w), cmd := cmd, w0 := w0, w1 := w1, w2 := w2, w3 := w3 }
  (s.calAsk j).block c (.result (s.now + 64 * tEng))

/-- CAL_INSERT (R481): CAL_CMD, or CALI with the entry in va to va + 3 (R318). -/
def execCalInsert (dt : Nat) (o : CmdOrigin) (s : State) : Host.Outcome State Fault Refusal :=
  match o with
  | .host w => hostWr dt R.CAL_CMD w s
  | .ctx c => instr dt c 0x70 (fun s w _ =>
      s.calGive c w 1 (s.vA c w) (s.vr c (iA w + 1)) (s.vr c (iA w + 2)) (s.vr c (iA w + 3))) s

/-- CAL_REMOVE (R487): CAL_CMD, or CALD with the index in va (R318). -/
def execCalRemove (dt : Nat) (o : CmdOrigin) (s : State) : Host.Outcome State Fault Refusal :=
  match o with
  | .host w => hostWr dt R.CAL_CMD w s
  | .ctx c => instr dt c 0x71 (fun s w _ =>
      s.calGive c w 2 (s.vA c w) 0#32 0#32 0#32) s

/-- CAL_READ (R487). -/
def execCalRead (dt : Nat) (w : Word) (s : State) : Host.Outcome State Fault Refusal :=
  hostWr dt R.CAL_CMD w s

/-- CAL_ENABLE (R486). -/
def execCalEnable (dt : Nat) (w : Word) (s : State) : Host.Outcome State Fault Refusal :=
  hostWr dt R.CAL_CTL w s

/-- CALENDAR_DISPATCH: one entry per SPARCLK cycle (R483). -/
def execCalendarDispatch (dt : Nat) (s : State) : Host.Outcome State Fault Refusal :=
  event dt (fun s => s.calDue.isSome && !s.cyc.cal) (fun s => { s.calDispatch with cyc.cal := true }) s

end Sys2Proof.Machine
end

