-- ==== Sys2Proof/Machine/ExecFloat.lean ====
section
/-! DEFINITION. Machine/ExecFloat.lean: the binary32 instructions (R292–R298, R303, R304). -/

namespace Sys2Proof.Machine

/-- FADD (R303). -/
def execFadd (dt : Nat) (c : Fin 64) (s : State) : Host.Outcome State Fault Refusal :=
  instr dt c 0x20 (fun s w _ =>
    let r := fAdd (s.vA c w) (s.vB c w)
    s.result c w 4 r fun f => f.fznv [s.vA c w, s.vB c w] r) s

/-- FSUB (R303). -/
def execFsub (dt : Nat) (c : Fin 64) (s : State) : Host.Outcome State Fault Refusal :=
  instr dt c 0x21 (fun s w _ =>
    let r := fSub (s.vA c w) (s.vB c w)
    s.result c w 4 r fun f => f.fznv [s.vA c w, s.vB c w] r) s

/-- FMUL (R303). -/
def execFmul (dt : Nat) (c : Fin 64) (s : State) : Host.Outcome State Fault Refusal :=
  instr dt c 0x22 (fun s w _ =>
    let r := fMul (s.vA c w) (s.vB c w)
    s.result c w 4 r fun f => f.fznv [s.vA c w, s.vB c w] r) s

/-- FMA: va × vb + vd rounded once (R303). -/
def execFma (dt : Nat) (c : Fin 64) (s : State) : Host.Outcome State Fault Refusal :=
  instr dt c 0x23 (fun s w _ =>
    let r := fFma (s.vA c w) (s.vB c w) (s.vD c w)
    s.result c w 4 r fun f => f.fznv [s.vA c w, s.vB c w, s.vD c w] r) s

/-- FMIN (R296, R303). -/
def execFmin (dt : Nat) (c : Fin 64) (s : State) : Host.Outcome State Fault Refusal :=
  instr dt c 0x24 (fun s w _ =>
    let r := fMin (s.vA c w) (s.vB c w)
    s.result c w 2 r fun f => f.fzn r) s

/-- FMAX (R296, R303). -/
def execFmax (dt : Nat) (c : Fin 64) (s : State) : Host.Outcome State Fault Refusal :=
  instr dt c 0x25 (fun s w _ =>
    let r := fMax (s.vA c w) (s.vB c w)
    s.result c w 2 r fun f => f.fzn r) s

/-- FABS (R293, R303). -/
def execFabs (dt : Nat) (c : Fin 64) (s : State) : Host.Outcome State Fault Refusal :=
  instr dt c 0x26 (fun s w _ =>
    let r := fAbs (fCanon (s.vA c w))
    s.result c w 2 r fun f => f.fzn r) s

/-- FNEG (R293, R303). -/
def execFneg (dt : Nat) (c : Fin 64) (s : State) : Host.Outcome State Fault Refusal :=
  instr dt c 0x27 (fun s w _ =>
    let r := fNeg (fCanon (s.vA c w))
    s.result c w 2 r fun f => f.fzn r) s

/-- FCLAMP: vd limited to [va, vb] (R304). -/
def execFclamp (dt : Nat) (c : Fin 64) (s : State) : Host.Outcome State Fault Refusal :=
  instr dt c 0x28 (fun s w _ =>
    let old := fCanon (s.vD c w)
    let r := if fIsNaN old then qNaN else fClamp old (fCanon (s.vA c w)) (fCanon (s.vB c w))
    s.result c w 2 r fun f => f.clampOf old r) s

/-- FCMP: no register is written (R296). -/
def execFcmp (dt : Nat) (c : Fin 64) (s : State) : Host.Outcome State Fault Refusal :=
  instr dt c 0x29 (fun s w _ => s.setFl c 2 fun f => f.fcmpOf (s.vA c w) (s.vB c w)) s

/-- A conversion by the mode of FCVT: the result, Z, N, saturation, a NaN converted (R297). -/
structure Cvt where
  r : Word
  z : Bool
  n : Bool
  sat : Bool := false
  nan : Bool := false
  deriving DecidableEq, Repr

/-- A conversion to an integer (R297). -/
def cvtInt (rnd : IRound) (lo hi : Int) (a : Word) : Cvt :=
  let i := fToInt rnd lo hi a
  let r := wordOfInt i.1
  { r := r, z := decide (r = 0#32), n := bitOf r 31, sat := i.2, nan := fIsNaN a }

/-- A conversion of an integer to binary32 (R297). -/
def cvtFloat (i : Int) : Cvt :=
  let r := fOfInt i
  { r := r, z := fIsZero r, n := bitOf r 31 }

/-- FCVT by mode (R297); the modes from 7 on are illegal encodings. -/
def cvtOf (mode : Nat) (a : Word) : Cvt :=
  match mode with
  | 0 => cvtInt .rne (-(2 ^ 31)) (2 ^ 31 - 1) a
  | 1 => cvtInt .rz (-(2 ^ 31)) (2 ^ 31 - 1) a
  | 2 => cvtInt .floor (-(2 ^ 31)) (2 ^ 31 - 1) a
  | 3 => cvtInt .ceil (-(2 ^ 31)) (2 ^ 31 - 1) a
  | 4 => cvtFloat a.toInt
  | 5 => cvtFloat a.toNat
  | _ => cvtInt .rz 0 (2 ^ 32 - 1) a

/-- FCVT (R297, R303). -/
def execFcvt (dt : Nat) (c : Fin 64) (s : State) : Host.Outcome State Fault Refusal :=
  instr dt c 0x2A (fun s w _ =>
    let r := cvtOf (bitsOf w 3 0) (s.vA c w)
    s.result c w 3 r.r fun f => f.cvtOf r.z r.n r.sat r.nan) s

/-- FDIV (R303). -/
def execFdiv (dt : Nat) (c : Fin 64) (s : State) : Host.Outcome State Fault Refusal :=
  instr dt c 0x2B (fun s w _ =>
    let r := fDiv (s.vA c w) (s.vB c w)
    s.result c w 14 r fun f => f.fznv [s.vA c w, s.vB c w] r) s

/-- FSQRT (R303). -/
def execFsqrt (dt : Nat) (c : Fin 64) (s : State) : Host.Outcome State Fault Refusal :=
  instr dt c 0x2C (fun s w _ =>
    let r := fSqrt (s.vA c w)
    s.result c w 14 r fun f => f.fzn r) s

/-- A pair of results into vd and vd + 1, Z and N from vd (R303). -/
def State.resultPair (s : State) (c : Fin 64) (w : Word) (lat : Nat) (r : Word × Word) : State :=
  (((s.setReg c (iD w) r.1 lat).setReg c (iD w + 1) r.2 lat).setFl c lat fun f => f.fzn r.1).when (fIsNaN r.2) fun s => s.setU c

/-- FSINCOS (R298, R303). -/
def execFsincos (dt : Nat) (c : Fin 64) (s : State) : Host.Outcome State Fault Refusal :=
  instr dt c 0x2D (fun s w _ => s.resultPair c w 18 (fSin (s.vA c w), fCos (s.vA c w))) s

/-- FATAN2: va is y (R298, R303). -/
def execFatan2 (dt : Nat) (c : Fin 64) (s : State) : Host.Outcome State Fault Refusal :=
  instr dt c 0x2E (fun s w _ =>
    let r := fAtan2 (s.vA c w) (s.vB c w)
    s.result c w 18 r fun f => f.fzn r) s

/-- FROT: the angle in the register of modifier bits 3:0, INV in bit 4 (R304). -/
def execFrot (dt : Nat) (c : Fin 64) (s : State) : Host.Outcome State Fault Refusal :=
  instr dt c 0x2F (fun s w _ => s.resultPair c w 18 (fRot (bitOf w 4) (s.vA c w) (s.vB c w) (s.vr c (bitsOf w 3 0)))) s

/-- FWRAP (R298, R303). -/
def execFwrap (dt : Nat) (c : Fin 64) (s : State) : Host.Outcome State Fault Refusal :=
  instr dt c 0x30 (fun s w _ =>
    let r := fWrap (s.vA c w)
    s.result c w 4 r fun f => f.fzn r) s

end Sys2Proof.Machine
end

