-- ==== Sys2Proof/Machine/ExecHost.lean ====
section
/-! DEFINITION. Machine/ExecHost.lean: the transactions of the host port (R493–R511, R537). -/

namespace Sys2Proof.Machine

/-- A READ of one word of a register that satisfies a condition: these rows name the registers with a rule of their own. -/
def readWhere (dt : Nat) (ok : State → Bool) (addr : Nat) (s : State) : Host.Outcome State Fault Refusal :=
  event dt ok (fun s => s.hostReads addr false 1) s

/-- The register at an address has RC fields (R502). -/
def State.hasRc (s : State) (addr : Nat) : Bool :=
  match s.place addr with
  | .reg _ _ row => rcMask row != 0#32
  | _ => false

/-- The registers whose low word snapshots others (R505). -/
def lowWords : List Nat := [R.UID0, R.TB_NS, R.FC_FIRST0, R.FC_LOG0]

/-- HOST_READ (R501). -/
def execHostRead (dt : Nat) (addr : BitVec 13) (n : Nat) (s : State) : Host.Outcome State Fault Refusal :=
  done ((s.elapse dt).hostReads addr.toNat false n)

/-- READ_FIX (R501). -/
def execReadFix (dt : Nat) (addr : BitVec 13) (n : Nat) (s : State) : Host.Outcome State Fault Refusal :=
  done ((s.elapse dt).hostReads addr.toNat true n)

/-- HOST_WRITE (R499). -/
def execHostWrite (dt : Nat) (addr : BitVec 13) (ws : List Word) (s : State) : Host.Outcome State Fault Refusal :=
  done ((s.elapse dt).hostWriteT (.write addr.toNat false) ws)

/-- WRITE_FIX (R499). -/
def execWriteFix (dt : Nat) (addr : BitVec 13) (ws : List Word) (s : State) : Host.Outcome State Fault Refusal :=
  done ((s.elapse dt).hostWriteT (.write addr.toNat true) ws)

/-- STATUS (R497): one word; further ones of the same transaction are the row again. -/
def execStatus (dt : Nat) (s : State) : Host.Outcome State Fault Refusal :=
  done (s.elapse dt).hostStatus

/-- HOST_STOP (R496). -/
def execHostStop (dt : Nat) (hdr : BitVec 16) (s : State) : Host.Outcome State Fault Refusal :=
  done ((s.elapse dt).hostStopT hdr.toNat)

/-- NOP of EXT (R495). -/
def execExtNop (dt : Nat) (s : State) : Host.Outcome State Fault Refusal :=
  done ((s.elapse dt).hostPlain .nop)

/-- SIG_READ (R508). -/
def execSigRead (dt : Nat) (id : BitVec 20) (n : Nat) (s : State) : Host.Outcome State Fault Refusal :=
  done ((s.elapse dt).hostReadT n fun k => .sread id.toNat k)

/-- SIG_WRITE (R508). -/
def execSigWrite (dt : Nat) (id : BitVec 20) (ws : List Word) (s : State) : Host.Outcome State Fault Refusal :=
  done ((s.elapse dt).hostWriteT (.swrite id.toNat) ws)

/-- SNAPSHOT (R506). -/
def execSnapshot (dt : Nat) (group : BitVec 8) (s : State) : Host.Outcome State Fault Refusal :=
  done ((s.elapse dt).hostPlain (.snap group.toNat))

/-- RELEASE (R506). -/
def execRelease (dt : Nat) (s : State) : Host.Outcome State Fault Refusal :=
  done ((s.elapse dt).hostPlain .release)

/-- RESERVED_HEADER (R495). -/
def execReservedHeader (dt : Nat) (hdr : BitVec 16) (s : State) : Host.Outcome State Fault Refusal :=
  event dt (fun _ => reservedHdr hdr.toNat) (fun s => s.hostPlain .resv) s

/-- HSEL_N_RISE (R509). -/
def execHselNRise (dt : Nat) (cut : Cut) (s : State) : Host.Outcome State Fault Refusal :=
  done ((s.elapse dt).hselRise cut)

/-- READ_HOLD_FILLED (R503). -/
def execReadHoldFilled (dt : Nat) (s : State) : Host.Outcome State Fault Refusal :=
  done (s.elapse dt).holdFilled

/-- RC_FIELD_READ (R502). -/
def execRcFieldRead (dt : Nat) (addr : BitVec 13) (s : State) : Host.Outcome State Fault Refusal :=
  readWhere dt (fun s => s.hasRc addr.toNat) addr.toNat s

/-- SNAPSHOT_LOW_WORD_READ (R505). -/
def execSnapshotLowWordRead (dt : Nat) (addr : BitVec 13) (s : State) : Host.Outcome State Fault Refusal :=
  readWhere dt (fun _ => lowWords.contains addr.toNat) addr.toNat s

/-- FC_LOG3_READ (R388). -/
def execFcLog3Read (dt : Nat) (s : State) : Host.Outcome State Fault Refusal :=
  readWhere dt (fun _ => true) R.FC_LOG3 s

/-- AUD_DATA_READ (R560). -/
def execAudDataRead (dt : Nat) (s : State) : Host.Outcome State Fault Refusal :=
  readWhere dt (fun _ => true) R.AUD_DATA s

/-- REGISTER_WRITE (R537), through the host port or JTAG. -/
def execRegisterWrite (dt : Nat) (addr : PortAddr) (w : Word) (s : State) : Host.Outcome State Fault Refusal :=
  match addr.port with
  | .host => hostWr dt addr.addr.toNat w s
  | .jtag => done ((s.elapse dt).jtagReg addr.addr.toNat w)

end Sys2Proof.Machine
end

