-- ==== Sys2Proof/Machine/ExecInt.lean ====
section
/-! DEFINITION. Machine/ExecInt.lean: the integer, immediate and literal instructions (R300–R302). -/

namespace Sys2Proof.Machine

/-- ADD (R300). -/
def execAdd (dt : Nat) (c : Fin 64) (s : State) : Host.Outcome State Fault Refusal :=
  instr dt c 0x01 (fun s w _ => s.result c w 1 (s.vA c w + s.vB c w) fun f => f.addOf (s.vA c w) (s.vB c w)) s

/-- SUB (R300). -/
def execSub (dt : Nat) (c : Fin 64) (s : State) : Host.Outcome State Fault Refusal :=
  instr dt c 0x02 (fun s w _ => s.result c w 1 (s.vA c w - s.vB c w) fun f => f.subOf (s.vA c w) (s.vB c w)) s

/-- MUL (R300). -/
def execMul (dt : Nat) (c : Fin 64) (s : State) : Host.Outcome State Fault Refusal :=
  instr dt c 0x03 (fun s w _ => s.result c w 2 (s.vA c w * s.vB c w) fun f => f.mulOf (s.vA c w) (s.vB c w)) s

/-- AND (R300). -/
def execAnd (dt : Nat) (c : Fin 64) (s : State) : Host.Outcome State Fault Refusal :=
  instr dt c 0x04 (fun s w _ => s.result c w 1 (s.vA c w &&& s.vB c w) fun f => f.zn (s.vA c w &&& s.vB c w)) s

/-- OR (R300). -/
def execOr (dt : Nat) (c : Fin 64) (s : State) : Host.Outcome State Fault Refusal :=
  instr dt c 0x05 (fun s w _ => s.result c w 1 (s.vA c w ||| s.vB c w) fun f => f.zn (s.vA c w ||| s.vB c w)) s

/-- XOR (R300). -/
def execXor (dt : Nat) (c : Fin 64) (s : State) : Host.Outcome State Fault Refusal :=
  instr dt c 0x06 (fun s w _ => s.result c w 1 (s.vA c w ^^^ s.vB c w) fun f => f.zn (s.vA c w ^^^ s.vB c w)) s

/-- SHL: the last bit out is bit 32 − n of va (R301). -/
def shlOf (a : Word) (n : Nat) : Word × Option Bool := (a <<< n, if n = 0 then none else some (bitOf a (32 - n)))
/-- SHR: the last bit out is bit n − 1 (R301). -/
def shrOf (a : Word) (n : Nat) : Word × Option Bool := (a >>> n, if n = 0 then none else some (bitOf a (n - 1)))
/-- SAR (R301). -/
def sarOf (a : Word) (n : Nat) : Word × Option Bool := (a.sshiftRight n, if n = 0 then none else some (bitOf a (n - 1)))

/-- SHL (R301). -/
def execShl (dt : Nat) (c : Fin 64) (s : State) : Host.Outcome State Fault Refusal :=
  instr dt c 0x07 (fun s w _ =>
    let r := shlOf (s.vA c w) (s.shAmt c w)
    s.result c w 1 r.1 fun f => f.shiftOf r.1 r.2) s

/-- SHR (R301). -/
def execShr (dt : Nat) (c : Fin 64) (s : State) : Host.Outcome State Fault Refusal :=
  instr dt c 0x08 (fun s w _ =>
    let r := shrOf (s.vA c w) (s.shAmt c w)
    s.result c w 1 r.1 fun f => f.shiftOf r.1 r.2) s

/-- SAR (R301). -/
def execSar (dt : Nat) (c : Fin 64) (s : State) : Host.Outcome State Fault Refusal :=
  instr dt c 0x09 (fun s w _ =>
    let r := sarOf (s.vA c w) (s.shAmt c w)
    s.result c w 1 r.1 fun f => f.shiftOf r.1 r.2) s

/-- The signed minimum and maximum (R300). -/
def minOf (a b : Word) : Word := if a.slt b then a else b
def maxOf (a b : Word) : Word := if a.slt b then b else a

/-- MIN (R300). -/
def execMin (dt : Nat) (c : Fin 64) (s : State) : Host.Outcome State Fault Refusal :=
  instr dt c 0x0A (fun s w _ => s.result c w 1 (minOf (s.vA c w) (s.vB c w)) fun f => f.zn (minOf (s.vA c w) (s.vB c w))) s

/-- MAX (R300). -/
def execMax (dt : Nat) (c : Fin 64) (s : State) : Host.Outcome State Fault Refusal :=
  instr dt c 0x0B (fun s w _ => s.result c w 1 (maxOf (s.vA c w) (s.vB c w)) fun f => f.zn (maxOf (s.vA c w) (s.vB c w))) s

/-- The bit field of a, zero-extended; bits above 31 read as 0 (R301). -/
def bfxOf (a w : Word) : Word := (a >>> bfPos w) &&& bfMask w
/-- The low bits of a put into the field of d; bits above 31 are discarded (R301). -/
def bfiOf (a d w : Word) : Word := (d &&& ~~~ (bfMask w <<< bfPos w)) ||| ((a &&& bfMask w) <<< bfPos w)

/-- BFX (R301). -/
def execBfx (dt : Nat) (c : Fin 64) (s : State) : Host.Outcome State Fault Refusal :=
  instr dt c 0x0C (fun s w _ => s.result c w 1 (bfxOf (s.vA c w) w) fun f => f.zn (bfxOf (s.vA c w) w)) s

/-- BFI (R301). -/
def execBfi (dt : Nat) (c : Fin 64) (s : State) : Host.Outcome State Fault Refusal :=
  instr dt c 0x0D (fun s w _ => s.result c w 1 (bfiOf (s.vA c w) (s.vD c w) w) fun f => f.zn (bfiOf (s.vA c w) (s.vD c w) w)) s

/-- CMP: no register is written (R300). -/
def execCmp (dt : Nat) (c : Fin 64) (s : State) : Host.Outcome State Fault Refusal :=
  instr dt c 0x0E (fun s w _ => s.setFl c 1 fun f => f.subOf (s.vA c w) (s.vB c w)) s

/-- MOV: no flag changes (R300). -/
def execMov (dt : Nat) (c : Fin 64) (s : State) : Host.Outcome State Fault Refusal :=
  instr dt c 0x0F (fun s w _ => s.setReg c (iD w) (s.vA c w) 1) s

/-- MOVI (R302). -/
def execMovi (dt : Nat) (c : Fin 64) (s : State) : Host.Outcome State Fault Refusal :=
  instr dt c 0x10 (fun s w _ => s.setReg c (iD w) (iImmS w) 1) s

/-- ADDI (R302). -/
def execAddi (dt : Nat) (c : Fin 64) (s : State) : Host.Outcome State Fault Refusal :=
  instr dt c 0x11 (fun s w _ => s.result c w 1 (s.vD c w + iImmS w) fun f => f.addOf (s.vD c w) (iImmS w)) s

/-- MOVHI (R302). -/
def execMovhi (dt : Nat) (c : Fin 64) (s : State) : Host.Outcome State Fault Refusal :=
  instr dt c 0x12 (fun s w _ => s.setReg c (iD w) (nat32 (iImm w * 2 ^ 12)) 1) s

/-- CMPI (R302). -/
def execCmpi (dt : Nat) (c : Fin 64) (s : State) : Host.Outcome State Fault Refusal :=
  instr dt c 0x13 (fun s w _ => s.setFl c 1 fun f => f.subOf (s.vD c w) (iImmS w)) s

/-- LIT: vd takes the second word (R302). -/
def execLit (dt : Nat) (c : Fin 64) (s : State) : Host.Outcome State Fault Refusal :=
  instr dt c 0x14 (fun s w l => s.setReg c (iD w) l 2) s

end Sys2Proof.Machine
end

