-- ==== Sys2Proof/Machine/ExecMem.lean ====
section
/-! DEFINITION. Machine/ExecMem.lean: the commands of the memory port (R517–R530). -/

namespace Sys2Proof.Machine

/-- An event of the memory port; what waited on the port goes on after it (R498, R503). -/
def memEvent (dt : Nat) (due : State → Bool) (act : State → State) (s : State) : Host.Outcome State Fault Refusal :=
  event dt due (fun s => (act s).hostServe) s

/-- MEM_GRANT (R519). -/
def execMemGrant (dt : Nat) (s : State) : Host.Outcome State Fault Refusal :=
  memEvent dt (fun s => s.memReady) (fun s => s.memBegin) s

/-- MEM_TRANSACTION_DONE (R524). -/
def execMemTransactionDone (dt : Nat) (ok : Bool) (data : List Word) (s : State) : Host.Outcome State Fault Refusal :=
  memEvent dt (fun s => s.mem.busy.isSome) (fun s => s.memEnd ok data) s

/-- MEM_TIMEOUT (R523). -/
def execMemTimeout (dt : Nat) (s : State) : Host.Outcome State Fault Refusal :=
  memEvent dt (fun s => s.memTmoDue) (fun s => s.memTmo) s

/-- MEM_PH_PUSH (R528). -/
def execMemPhPush (dt : Nat) (w : Word) (s : State) : Host.Outcome State Fault Refusal :=
  hostWr dt R.MEM_PH w s

/-- MEM_DATA_WRITE (R530). -/
def execMemDataWrite (dt : Nat) (w : Word) (s : State) : Host.Outcome State Fault Refusal :=
  hostWr dt R.MEM_DATA w s

/-- MEM_DATA_READ (R530). -/
def execMemDataRead (dt : Nat) (s : State) : Host.Outcome State Fault Refusal :=
  done ((s.elapse dt).hostReads R.MEM_DATA false 1)

/-- MEM_GO (R528). -/
def execMemGo (dt : Nat) (w : Word) (s : State) : Host.Outcome State Fault Refusal :=
  hostWr dt R.MEM_CMD w s

/-- MEM_ABORT (R529). -/
def execMemAbort (dt : Nat) (w : Word) (s : State) : Host.Outcome State Fault Refusal :=
  hostWr dt R.MEM_CMD w s

/-- PSRAM_UNMAP (R522). -/
def execPsramUnmap (dt : Nat) (w : Word) (s : State) : Host.Outcome State Fault Refusal :=
  hostWr dt R.MEM_PSRAM w s

end Sys2Proof.Machine
end

