-- ==== Sys2Proof/Machine/ExecOut.lean ====
section
/-! DEFINITION. Machine/ExecOut.lean: the output instructions and the requests to the start sequencer (R201–R215, R310–R317). -/

namespace Sys2Proof.Machine

/-- An integer compare value, limited to the field (R312). -/
def cmpInt (v : Word) : Nat := (clampInt 0 0x1FFFFF v.toInt).toNat

/-- One leg of OUTD or STGD (R311, R312); nothing is staged during a mast block reset (R575). -/
def State.outLeg (s : State) (c : Fin 64) (w : Word) (m : Fin 16) (l : Nat) : State :=
  let v := s.vr c (iA w + l)
  if !bitOf w (4 + l) then s
  else if bitOf w 8 && fIsNaN v then s.setU c
  else if (s.mast m).resetAt.isSome then s
  else
    let x := if bitOf w 8 then cmpDuty (s.stagePer m (s.laneRank c)) v else cmpInt v
    let s1 := s.stageWr m (s.laneRank c) (keyI (if bitOf w 10 then R.LEG_CMP_B else R.LEG_CMP_A) m + 8 * l) (nat32 x) (if bitOf w 8 then some v else none)
    if !bitOf w 10 && decide (l < 3) then s1.stageKind m (s.laneRank c) false else s1

/-- The staging writes of OUTD and STGD (R311). -/
def State.outLegs (s : State) (c : Fin 64) (w : Word) (m : Fin 16) : State :=
  (((s.outLeg c w m 0).outLeg c w m 1).outLeg c w m 2).outLeg c w m 3

/-- The tag of a commit: the set number of an activation by a SAMPLE trigger of this mast (R315). -/
def State.outTag (s : State) (c : Fin 64) (m : Fin 16) : Option Nat :=
  match (s.ctx c).act with
  | some t => if t.kind = TK.SAMPLE ∧ t.a = m.val then some t.b else none
  | none => none

/-- The commit of an output instruction: complete 3 SPARCLK cycles after issue, 4 more for a vector (R311, R313, log entry 44); discarded during a mast block reset (R575). -/
def State.outCommit (s : State) (c : Fin 64) (m : Fin 16) (sheet : Option Nat) : State :=
  if (s.mast m).resetAt.isSome then s
  else
    let t := s.now + 3 * tSpar
    ((s.commitAt m (s.outTag c m) sheet t (s.laneRank c)).work c (if (s.mast m).com.kindVec then t + 4 * tSpar else t))

/-- The sheet OUTD carries: bits 7:0 of vb with SH (R80, R311). -/
def State.outSheet (s : State) (c : Fin 64) (w : Word) : Option Nat := if bitOf w 9 then some (bitsOf (s.vB c w) 7 0) else none

/-- The vector of OUTV and STGV (R313, R575). -/
def State.outVec (s : State) (c : Fin 64) (w : Word) (m : Fin 16) : State :=
  if !(fFinite (s.vA c w) && fFinite (s.vB c w)) then s.setU c
  else if (s.mast m).resetAt.isSome then s
  else
    let r := s.laneRank c
    ((s.stageWr m r (keyI R.VM_VA m) (s.vA c w)).stageWr m r (keyI R.VM_VB m) (s.vB c w)).stageKind m r true

/-- The PERIOD of STGP (R314, R575). -/
def State.outPeriod (s : State) (c : Fin 64) (w : Word) (m : Fin 16) : State :=
  if (s.mast m).resetAt.isSome then s else s.stageWr m (s.laneRank c) (keyI R.PWM_CTL m) (nat32 (satNat 65535 (s.vA c w).toNat))

/-- OUTD (R311, R312, R315). -/
def execOutd (dt : Nat) (c : Fin 64) (s : State) : Host.Outcome State Fault Refusal :=
  instr dt c 0x60 (fun s w _ => s.onMast c w fun s m => (s.outLegs c w m).outCommit c m (s.outSheet c w)) s

/-- STGD: the staging set only; it commits nothing, so a sheet it carries has no effect (R311, log entry 44). -/
def execStgd (dt : Nat) (c : Fin 64) (s : State) : Host.Outcome State Fault Refusal :=
  instr dt c 0x61 (fun s w _ => s.onMast c w fun s m => s.outLegs c w m) s

/-- OUTV (R313, R315). -/
def execOutv (dt : Nat) (c : Fin 64) (s : State) : Host.Outcome State Fault Refusal :=
  instr dt c 0x62 (fun s w _ => s.onMast c w fun s m => (s.outVec c w m).outCommit c m none) s

/-- STGV (R313). -/
def execStgv (dt : Nat) (c : Fin 64) (s : State) : Host.Outcome State Fault Refusal :=
  instr dt c 0x63 (fun s w _ => s.onMast c w fun s m => s.outVec c w m) s

/-- STGP (R314). -/
def execStgp (dt : Nat) (c : Fin 64) (s : State) : Host.Outcome State Fault Refusal :=
  instr dt c 0x64 (fun s w _ => s.onMast c w fun s m => s.outPeriod c w m) s

/-! ### Requests to the start sequencer (R201, R317) -/

/-- A SEQ instruction with a command; the command 0b000, which has no effect, is issued by each of the three rows (R317). -/
def isSeq (cmd : Nat) (w : Word) : Bool := decide (iOp w = 0x65) && (decide (bitsOf w 6 4 = cmd) || decide (bitsOf w 6 4 = 0))

/-- The request a SEQ instruction makes (R317). -/
def State.seqInstr (s : State) (m : Fin 16) (w : Word) : State :=
  match bitsOf w 6 4 with
  | 1 => s.seqRequest m .start
  | 2 => s.seqRequest m (.stop (bitsOf w 9 8))
  | 3 => s.seqRequest m .clear
  | _ => s

/-- A request by a SEQ instruction of context c. -/
def seqRow (dt : Nat) (c : Fin 64) (cmd : Nat) (s : State) : Host.Outcome State Fault Refusal :=
  done ((s.elapse dt).issue c (isSeq cmd) fun s w _ => s.onMast c w fun s m => s.seqInstr m w)

/-- SEQ_START (R202): SEQ_CMD, or SEQ. -/
def execSeqStart (dt : Nat) (o : SeqOrigin) (s : State) : Host.Outcome State Fault Refusal :=
  match o with
  | .host m w => hostWr dt (mastAddr R.SEQ_CMD m) w s
  | .ctx c => seqRow dt c 1 s

/-- SEQ_STOP (R202, R214): SEQ_CMD, or SEQ. -/
def execSeqStop (dt : Nat) (o : SeqOrigin) (s : State) : Host.Outcome State Fault Refusal :=
  match o with
  | .host m w => hostWr dt (mastAddr R.SEQ_CMD m) w s
  | .ctx c => seqRow dt c 2 s

/-- SEQ_CLEAR (R202): SEQ_CMD, or SEQ. -/
def execSeqClear (dt : Nat) (o : SeqOrigin) (s : State) : Host.Outcome State Fault Refusal :=
  match o with
  | .host m w => hostWr dt (mastAddr R.SEQ_CMD m) w s
  | .ctx c => seqRow dt c 3 s

end Sys2Proof.Machine
end

