-- ==== Sys2Proof/Machine/Boot.lean ====
section
/-! DEFINITION. Machine/Boot.lean: the supplies, pins and clocks that hold the device in reset, and boot step by step (R562–R583). -/

namespace Sys2Proof.Machine

/-- Update the clocks, reset and boot. -/
def State.updClk (s : State) (f : Clk → Clk) : State := { s with clk := f s.clk }

/-! ### Supplies, RESET_N, clock monitor (R567–R573, R578) -/

/-- Both RESET_N and the supplies let go: the straps are sampled (R578), and times count from here. -/
def State.released (s : State) (straps : Nat) : State :=
  if s.clk.porLow || s.clk.pinLow then s else s.updClk fun c => { c with straps := straps, relAt := s.now }

/-- A supply is below its assert level; every supply is above its release level (R569). -/
def Clk.supplyLow (c : Clk) : Bool := decide (c.at_.vdd < 780) || decide (c.at_.vddio < 2700) || decide (c.at_.vdda < 2700)
def Clk.supplyUp (c : Clk) : Bool := decide (820 < c.at_.vdd) && decide (2850 < c.at_.vddio) && decide (2850 < c.at_.vdda)

/-- The supplies are at these levels: the test access port loses its state where VDD or VDDIO is gone, and the hold of the power-on reset counts from the
instant every supply is above its release level (R569, R585). -/
def State.supplies (s : State) (v : Supplies) : State :=
  let s1 := s.updClk fun c => { c with at_ := v }
  let s2 := s1.updClk fun c => { c with aboveAt := if c.supplyUp then some (c.aboveAt.getD s.now) else none }
  if v.vdd < 780 ∨ v.vddio < 2700 then { s2 with tap := { trstLow := s2.tap.trstLow } } else s2

/-- Every supply has stayed above its release level for 1 ms (R569). -/
def State.porOver (s : State) : Bool := match s.clk.aboveAt with | some t => decide (t + tMs ≤ s.now) | none => false

/-- The supplies change, or hold: one below its assert level resets the device, and once all have stayed above their release levels for 1 ms the
power-on reset releases it, the reference and the straps as they then stand (R569, R578, R605). -/
def State.power (s : State) (v : Supplies) (vrefp : Bool) (straps : Nat) : State :=
  let s1 := s.supplies v
  if s1.clk.supplyLow then
    if s1.clk.porLow then s1 else (s1.deviceReset 0 0).updClk fun c => { c with porLow := true }
  else if s1.clk.porLow && s1.porOver then (s1.updClk fun c => { c with porLow := false, vrefExt := vrefp }).released straps
  else s1

/-- RESET_N has been low for 1 µs, or rises again (R571, R573). -/
def State.resetPinW (s : State) (low : Bool) (straps : Nat) : State :=
  if low then
    if s.clk.pinLow then s else (s.deviceReset 1 0).updClk fun c => { c with pinLow := true, pinAt := s.now }
  else if !s.clk.pinLow then s
  else (s.updClk fun c => { c with pinLow := false, pinAt := s.now }).released straps

/-- The count over 64 cycles of the nominal 20 MHz ROSC that a monitored clock has at its nominal frequency, times 20: reference, PWMCLK, ENGCLK, SPARCLK,
ADCCLK, HKCLK by their codes (R42, R563, R566). -/
def monNominal : Nat → Nat
  | 0 => 64 * 24
  | 2 => 64 * 480
  | 3 => 64 * 240
  | 4 => 64 * 120
  | 5 => 64 * 60
  | _ => 64 * 30

/-- A condition of the clock monitor holds (R566). DEDUCED, log entry 112: the count is compared with that of the nominal ROSC. -/
def clockLoss (o : ClockSeen) : Bool :=
  let n := monNominal o.clock.val
  if o.clock.val = 1 then decide (8 * tUs ≤ o.apart) else decide (16 ≤ o.still) || decide (n < 4 * ((20 * o.count : Int) - n).natAbs)

/-- The clock monitor declares a loss: before lock it watches the reference only (R566, R567). -/
def State.clockLost (s : State) (mon : Nat) : State :=
  if s.clk.inReset then s
  else if s.clk.locked || (decide (mon = 0) && s.clk.ref.isSome) then s.deviceReset 2 mon
  else s

/-! ### Boot (R562, R564, R573, R578–R583) -/

/-- Boot source of the straps: 0 STORE, 1 FLASH, 2 HOST (R578). -/
def bootSrc (straps : Nat) : Nat := if straps < 3 then 0 else if straps < 5 then 1 else 2

/-- Host lanes of the straps, coded as HOST_CFG.LANES (R578). -/
def bootLanes : Nat → Nat
  | 0 => 0
  | 1 => 1
  | 2 => 2
  | 3 => 2
  | 4 => 0
  | 5 => 0
  | 6 => 2
  | _ => 1

/-- The internal reset may end: at least 10 µs, and 10 µs after RESET_N rises (R573). -/
def State.resetEndDue (s : State) : Bool :=
  let c := s.clk
  c.inReset && !c.porLow && !c.pinLow && decide (c.rstAt + 10 * tUs ≤ s.now) && decide (c.pinAt + 10 * tUs ≤ s.now)

/-- A journaled register at its committed value (ST_MINVER, BOOT_CFG: reset value per journal). -/
def State.fromJournal (s : State) (a : Nat) : State :=
  match s.store.jLive.find? fun e => e.1 == 0 && e.2.1 == a with
  | some e => s.wr a e.2.2
  | none => s

/-- Boot begins: trims, straps, the boot count, the journal's place in the store, the first count of the references; the shrouds look at their
inputs again (R333, R573, R578, R579). -/
def State.bootStart (s : State) : State :=
  let st := s.clk.straps
  let s1 := s.updClk fun c => { c with inReset := false, phase := 0, countAt := s.now + 20 * tUs, relAt := if c.relAt < c.rstAt then s.now else c.relAt }
  let s2 := (s1.updStore fun t => { t with boots := t.boots + 1 }).jBoot
  let s3 := ((s2.fromJournal R.ST_MINVER).fromJournal R.BOOT_CFG).setFld F.BOOT_STAT_SRC 0 (bootSrc st)
  let s3 := s3.updStore fun t => { t with bootMin := s3.rd R.ST_MINVER }
  let s4 : State := { s3.setFld F.HOST_CFG_LANES 0 (bootLanes st) with host.lanes := bootLanes st }
  s4.mastList.foldl (fun s m => s.shroudLook m) s4

/-- The 50 µs count may end (R562). -/
def State.countDue (s : State) : Bool :=
  let c := s.clk
  !c.inReset && c.ref.isNone && decide (c.countAt + 50 * tUs ≤ s.now)

/-- The count shows these frequencies, in kHz (R562). -/
def State.refCount (s : State) (clkref xtal : Nat) : State :=
  let ok := fun (f : Nat) => decide (20000 ≤ f ∧ f ≤ 28000)
  if ok clkref then s.updClk fun c => { c with ref := some true, phase := 2 }
  else if ok xtal then s.updClk fun c => { c with ref := some false, phase := 2 }
  else s.updClk fun c => { c with phase := 1, countAt := s.now + tMs - 50 * tUs }

/-- Microseconds since the release of RESET_N, in a unit and saturated to 16 bits (BOOT_TIME). -/
def State.sinceRelease (s : State) (unit : Nat) : Nat := satNat 65535 ((s.now - s.clk.relAt) / (unit * tUs))

/-- The CLOCK_FAULT record of a reset of cause CLOCK: STOP-ALL, reaction LOG, not carried out again (R568). -/
def State.clockRecord (s : State) : State :=
  match s.clk.clockRec with
  | none => s
  | some mon =>
    let v : Verdict := { ev := { src := DS.CLOCK_FAULT, detail := mon }, sev := 4, react := 1 }
    ((s.writeRec v true).2.2).updClk fun c => { c with clockRec := none }

/-- The first root edge after lock (16 taps apart), where all derived clocks start together (R43, R564): instants are counted anew so that this edge is
one of every derived clock's, and what counts from before moves with them. -/
def State.gridStart (s : State) : State :=
  let e := (s.now + 15) / 16 * 16
  let g := (e + 511) / 512 * 512
  ({ s with now := g, clk.relAt := s.clk.relAt + (g - e), gpio.chg := s.gpio.chg.map (· + (g - e)) } : State).turn

/-- The read of a FLASH boot: one bank from byte 0 by 1S-1S-1S, command 0x0B, a three-byte address and 8 dummy cycles (R580). -/
def bootFrame : MemFrame :=
  { sel := 1
    phases := [⟨1, false, .command [0x0B#8]⟩, ⟨1, false, .address [0#8, 0#8, 0#8]⟩, ⟨1, false, .dummy 8⟩, ⟨1, false, .read 0x30000 false⟩] }

/-- The PLL has locked: the derived clocks, the time base, the bosun round and the calibrations start (R395, R456, R564, R579). -/
def State.pllLocked (s : State) : State :=
  if s.clk.inReset || s.clk.locked || s.clk.ref.isNone then s
  else
    let host := decide (bootSrc s.clk.straps = 2)
    let s0 := s.gridStart
    let s1 := s0.updClk fun c => { c with locked := true, lost := false, phase := if host then 7 else 3 }
    let s2 : State :=
      { s1 with
        tb.total := 0, eng.roundAt := s0.now, hk.running := true, hk.slotAt := s0.now
        mem.frames := if bootSrc s.clk.straps = 1 then [bootFrame] else [] }
    let s3 := s2.setFld F.BOOT_TIME_LOCK_US 0 (s2.sinceRelease 1)
    (s3.when host fun s => s.setFld F.BOOT_STAT_NOIMG 0 1).clockRecord

/-- The words of the bank being tried: in the store, or read from the flash (R580). -/
def State.bootImg (s : State) : Nat → Word :=
  if bootSrc s.clk.straps = 1 then fun i => s.clk.flash.getD i 0xFFFFFFFF#32 else s.bankAt s.clk.bank

/-- No bank passes: no image is applied (R581). -/
def State.bootNone (s : State) : State := (s.setFld F.BOOT_STAT_NOIMG 0 1).updClk fun c => { c with phase := 7 }

/-- The bank being tried fails: IMAGE_INVALID, its flag, and the other bank (R552, R579, R581). -/
def State.bootFail (s : State) : State :=
  let b := s.clk.bank
  let s1 := s.raise DS.IMAGE_INVALID 0
  if bootSrc s.clk.straps = 1 then s1.bootNone
  else
    let s2 := s1.setFld (if b = 0 then F.BOOT_STAT_A_FAIL else F.BOOT_STAT_B_FAIL) 0 1
    if s.clk.second then s2.bootNone
    else s2.updClk fun c => { c with bank := 1 - b, second := true, phase := 3 }

/-- A cell of a CELLS section: its number and 16 words (R551). -/
def State.applyCell (s : State) (n : Nat) (ws : List Word) : State :=
  let w0 := ws.getD 0 0#32
  let s1 := s.setCw n 0 (s.cw n 0 &&& 0x3FFFFFFF#32)
  let s2 := s1.setCws n ((List.range 15).map fun k => (k + 1, ws.getD (k + 1) 0#32))
  let s3 := s2.cellWrite n 0 w0
  let s4 := if bitOf w0 30 then s3.cellManual n else s3
  if bitOf w0 31 then (s4.cellClose n).1 else s4

/-- The cells of a CELLS section: 17 words each. -/
def State.applyCells (s : State) : Nat → List Word → State
  | 0, _ => s
  | _ + 1, [] => s
  | k + 1, n :: r => (if n.toNat < 4096 then s.applyCell n.toNat (r.take 16) else s).applyCells k (r.drop 16)

/-- A signal that boot writes: where the write buffer has no room, the write waits for it, and boot with it (R35, R552; DESIGN CHOICE, log entry 109:
the wait takes no time of its own, so the buffer holds more for as long). -/
def State.bootSig (s : State) (id : Nat) (w : Word) : State :=
  let r := s.writeSig 0 id w
  if r.wait then s.bufAdd 0 id w else r.st

/-- Pairs of register address and value, of signal and value. -/
def State.applyPairs (s : State) (sig : Bool) : List Word → State
  | a :: w :: r => (if sig then s.bootSig a.toNat w else s.makerWrite a.toNat w).applyPairs sig r
  | _ => s

/-- A section is applied under maker rights (R552). -/
def State.applySection (s : State) (g : Nat → Word) (x : Section) : State :=
  let ws := secWords g x
  match x.typ with
  | 1 => s.putProg 0 ws
  | 2 => s.putTab ws
  | 3 => s.applyCells ws.length ws
  | 4 => s.applyPairs false ws
  | 5 => s.applyPairs true ws
  | _ => s

/-- Step 7: the sections in table order; the version and digest of the applied image (R552, R586). -/
def State.bootApply (s : State) : State :=
  let g := s.bootImg
  let s1 := (imgSecs g).foldl (fun s x => s.applySection g x) s
  let s2 := (s1.wr R.BOOT_VER (imgVer g)).wr R.BOOT_HASH (nat32 ((imgDigest g).headD 0 * 2 ^ 24 + (imgDigest g).getD 1 0 * 2 ^ 16 +
    (imgDigest g).getD 2 0 * 2 ^ 8 + (imgDigest g).getD 3 0))
  let b := if bootSrc s.clk.straps = 1 then 0 else s.clk.bank
  ((s2.setFld F.BOOT_STAT_BANK 0 b).updStore fun t => { t with booted := b }).updClk fun c => { c with phase := 7, flash := [] }

/-- A step of boot completes (R579–R581): 3 reads the commit records and the header (`flash`: what a FLASH boot reads), 4 the digest, 5 the checks, 6 the sections. -/
def State.bootStep (s : State) (flash : List Word) : State :=
  let c := s.clk
  if !c.locked || c.ready then s
  else match c.phase with
    | 3 =>
      if bootSrc c.straps = 1 then
        ({ s.setFld F.MEM_CFG_EN 0 1 with mem.frames := [] }).updClk fun c => { c with flash := flash, phase := 4 }
      else if c.second then s.updClk fun c => { c with phase := 4 }
      else match s.newestBank with
        | some b => s.updClk fun c => { c with bank := b, phase := 4 }
        | none => s.bootNone
    | 4 => s.updClk fun c => { c with phase := 5 }
    | 5 => if s.imgValid s.bootImg then s.updClk fun c => { c with phase := 6 } else s.bootFail
    | 6 => s.bootApply
    | _ => s

/-- The committed entries of the journal are replayed in sequence order (R556). -/
def State.jReplay (s : State) : State :=
  s.jRead.all.foldl (fun s e => if e.1 = 0 then s.makerWrite e.2.1 e.2.2 else s.bootSig e.2.1 e.2.2) s

/-- Boot may reach READY: the image is dealt with, the calibrations and the first bosun round have ended (R395, R579). -/
def State.readyDue (s : State) : Bool := s.clk.locked && !s.clk.ready && s.clk.fastDone && decide (1 ≤ s.hk.round) && decide (s.clk.phase = 7)

/-- READY (R579, R581–R583): the journal, except with a HOST boot; the session is OP; HALT; the timebases whose RUN the image has set; furl where FURL_N is low. -/
def State.bootReadyW (s : State) : State :=
  let s1 := if bootSrc s.clk.straps = 2 then s else s.jReplay
  let s2 := (s1.updClk fun c => { c with ready := true, phase := 8 }).setFld F.BOOT_TIME_READY 0 (s1.sinceRelease 10)
  let s3 := s2.updRole fun r => { r with role := 0, lastWrite := s.now }
  let s4 := if s3.flag F.BOOT_CFG_HALT then
      (s3.ctxList.foldl (fun s c => s.ctxOff c) s3).setFld F.BOOT_STAT_HALTED 0 1
    else s3
  let s5 := s4.mastList.foldl (fun s m => s.when (s.running m) fun s => s.startRun m) s4
  s5.when s5.furl.pinLow fun s => s.furlEnter FC.PIN

end Sys2Proof.Machine
end

