-- ==== Sys2Proof/Machine/ExecProt.lean ====
section
/-! DEFINITION. Machine/ExecProt.lean: the commands of the shroud, furl, bus groups, the fault collector, and temperature and housekeeping (R326–R420). -/

namespace Sys2Proof.Machine

/-! ### Conditions and actions -/

/-- The trip pin changes level (R333). -/
def State.tripPin (s : State) (m : Fin 16) (low : Bool) : State := (s.updShr m fun h => { h with tripLvl := low }).shroudLook m

/-- The shunt amplifier's output, in µV, moves: the comparators see it (R326, R333, R335). -/
def State.ampMoves (s : State) (m : Fin 16) (amp : Int) : State :=
  (s.updShr m fun h => { h with amp := amp, ocOn := Shroud.ocNow { h with amp := amp } (s.rd (keyI R.SHR_OC m)) }).shroudLook m

/-- The gate-off self-test has run its three parts of 1 µs (R360). -/
def State.testOver (s : State) (m : Fin 16) : Bool :=
  match (s.mast m).shr.testAt with
  | some t => decide (t + 3 * tUs ≤ s.now)
  | none => false

/-- The result of the self-test (R360). -/
def State.testDone (s : State) (m : Fin 16) (pass : Bool) : State :=
  (s.updShr m fun h => { h with testAt := none, testOk := pass }).when (!pass) fun s => s.setFld F.SHR_STAT_TEST_FAIL m 1

/-- FURL_N has changed level and passed its filter (R345). -/
def State.furlPin (s : State) (low : Bool) : State :=
  let s1 : State := { s with furl.pinLow := low }
  s1.when low fun s => s.furlEnter FC.PIN

/-- FC_PEND_FULL for a record that found the pending table full (R386). -/
def State.pendFull (s : State) : State := (s.updFc fun f => { f with fullDue := false }).raise DS.FC_PEND_FULL 0

/-- A DEVICE_RESET reaction may reset the device: its record is stored, or 50 µs have passed (R373). -/
def State.reactDue (s : State) : Bool :=
  match s.fc.resetDue with
  | some t =>
    (s.fc.rsvQueue.isEmpty && (match s.store.pulse with | some (.fault _ _) => false | _ => true)) || decide (t + 50 * tUs ≤ s.now)
  | none => false

/-! ### The shroud, furl, bus groups -/

/-- TRIP_PIN_ASSERT (R333). -/
def execTripPinAssert (dt : Nat) (m : Fin 16) (low : Bool) (s : State) : Host.Outcome State Fault Refusal :=
  event dt (fun s => s.hasMast m) (fun s => s.tripPin m low) s

/-- OVERCURRENT_ASSERT (R333, R335). -/
def execOvercurrentAssert (dt : Nat) (m : Fin 16) (below : Bool) (uv : Nat) (s : State) : Host.Outcome State Fault Refusal :=
  event dt (fun s => s.hasMast m) (fun s => s.ampMoves m (if below then -(uv : Int) else uv)) s

/-- CBC_LIMIT_LATCH (R336). -/
def execCbcLimitLatch (dt : Nat) (m : Fin 16) (s : State) : Host.Outcome State Fault Refusal :=
  event dt (fun s => s.cbcDue m) (fun s => s.cbcLatch m) s

/-- SHROUD_CLR (R338). -/
def execShroudClr (dt : Nat) (m : Fin 16) (w : Word) (s : State) : Host.Outcome State Fault Refusal :=
  hostWr dt (mastAddr R.SHR_CMD m) w s

/-- SHROUD_TEST (R360). -/
def execShroudTest (dt : Nat) (m : Fin 16) (w : Word) (s : State) : Host.Outcome State Fault Refusal :=
  hostWr dt (mastAddr R.SHR_CMD m) w s

/-- SHROUD_TEST_DONE (R360). -/
def execShroudTestDone (dt : Nat) (m : Fin 16) (pass : Bool) (s : State) : Host.Outcome State Fault Refusal :=
  event dt (fun s => s.testOver m) (fun s => s.testDone m pass) s

/-- FURL_PIN (R345). -/
def execFurlPin (dt : Nat) (low : Bool) (s : State) : Host.Outcome State Fault Refusal :=
  done ((s.elapse dt).furlPin low)

/-- FURL_SET (R361). -/
def execFurlSet (dt : Nat) (w : Word) (s : State) : Host.Outcome State Fault Refusal :=
  hostWr dt R.FURL_CTL w s

/-- FURL_CLEAR (R347). -/
def execFurlClear (dt : Nat) (w : Word) (s : State) : Host.Outcome State Fault Refusal :=
  hostWr dt R.FURL_CTL w s

/-- BUS_GROUP_ACK (R357). -/
def execBusGroupAck (dt : Nat) (w : Word) (s : State) : Host.Outcome State Fault Refusal :=
  hostWr dt R.BG_SEL w s

/-- BUS_GROUP_RECOVERY (R357). -/
def execBusGroupRecovery (dt : Nat) (g : Fin 8) (s : State) : Host.Outcome State Fault Refusal :=
  event dt (fun s => s.recoveryDue g) (fun s => s.recover g) s

/-! ### The fault collector -/

/-- PENDING_TABLE_FULL (R386). -/
def execPendingTableFull (dt : Nat) (s : State) : Host.Outcome State Fault Refusal :=
  event dt (fun s => s.fc.fullDue) (fun s => s.pendFull) s

/-- WAKE_END (R379). -/
def execWakeEnd (dt : Nat) (s : State) : Host.Outcome State Fault Refusal :=
  done (s.elapse dt).wakesEnd

/-- REACTION_DEVICE_RESET (R373). -/
def execReactionDeviceReset (dt : Nat) (s : State) : Host.Outcome State Fault Refusal :=
  event dt (fun s => s.reactDue) (fun s => s.deviceReset 4 0) s

/-- FC_ACK (R383). -/
def execFcAck (dt : Nat) (w : Word) (s : State) : Host.Outcome State Fault Refusal :=
  hostWr dt R.FC_ACK w s

/-- ACK_ALL (R383). -/
def execAckAll (dt : Nat) (w : Word) (s : State) : Host.Outcome State Fault Refusal :=
  hostWr dt R.FC_CMD w s

/-- LOG_CLR (R393). -/
def execLogClr (dt : Nat) (w : Word) (s : State) : Host.Outcome State Fault Refusal :=
  hostWr dt R.FC_CMD w s

/-- FIRST_CLR (R378). -/
def execFirstClr (dt : Nat) (w : Word) (s : State) : Host.Outcome State Fault Refusal :=
  hostWr dt R.FC_CMD w s

/-- FC_TEST (R393). -/
def execFcTest (dt : Nat) (w : Word) (s : State) : Host.Outcome State Fault Refusal :=
  hostWr dt R.FC_TEST w s

/-! ### The bosun, supplies, temperature -/

/-- BOSUN_SLOT (R394). -/
def execBosunSlot (dt : Nat) (code : Word) (early : BitVec 2) (s : State) : Host.Outcome State Fault Refusal :=
  event dt (fun s => s.slotDue) (fun s => s.slotWork code.toNat early) s

/-- The fast calibration ends, once (R62). -/
def State.fastCalDone (s : State) : State := s.fastCal.updClk fun c => { c with fastDone := true }

/-- FAST_CALIBRATION_DONE (R62). -/
def execFastCalibrationDone (dt : Nat) (s : State) : Host.Outcome State Fault Refusal :=
  event dt (fun s => s.clk.locked && !s.clk.fastDone) (fun s => s.fastCalDone) s

/-- SUPPLY_OUT_OF_RANGE (R417). -/
def execSupplyOutOfRange (dt : Nat) (n : Fin 6) (s : State) : Host.Outcome State Fault Refusal :=
  done ((s.elapse dt).supplyOut n.val)

/-- SUPPLY_IN_RANGE (R417). -/
def execSupplyInRange (dt : Nat) (n : Fin 6) (s : State) : Host.Outcome State Fault Refusal :=
  event dt (fun s => s.supplyBack n.val) (fun s => s.supplyIn n.val) s

/-- PEAK_CLR (R420). -/
def execPeakClr (dt : Nat) (w : Word) (s : State) : Host.Outcome State Fault Refusal :=
  hostWr dt R.HK_CMD w s

/-- SHUT_CLR (R413). -/
def execShutClr (dt : Nat) (w : Word) (s : State) : Host.Outcome State Fault Refusal :=
  hostWr dt R.HK_CMD w s

end Sys2Proof.Machine
end

