-- ==== Sys2Proof/Machine/ExecReset.lean ====
section
/-! DEFINITION. Machine/ExecReset.lean: the commands of clocks, resets and boot (R562–R583). -/

namespace Sys2Proof.Machine

/-- POWER_ON_RESET (R569): the supplies are at these levels, in mV. -/
def execPowerOnReset (dt : Nat) (at_ : Supplies) (vrefp : Bool) (straps : BitVec 3) (s : State) : Host.Outcome State Fault Refusal :=
  done ((s.elapse dt).power at_ vrefp straps.toNat)

/-- RESET_PIN (R571). -/
def execResetPin (dt : Nat) (low : Bool) (straps : BitVec 3) (s : State) : Host.Outcome State Fault Refusal :=
  done ((s.elapse dt).resetPinW low straps.toNat)

/-- CLOCK_LOSS (R567). -/
def execClockLoss (dt : Nat) (mon : ClockSeen) (s : State) : Host.Outcome State Fault Refusal :=
  event dt (fun _ => clockLoss mon) (fun s => s.clockLost mon.clock.val) s

/-- SOFT_RESET (R577). -/
def execSoftReset (dt : Nat) (w : Word) (s : State) : Host.Outcome State Fault Refusal :=
  hostWr dt R.RST_CMD w s

/-- MAST_RESET_CMD (R575). -/
def execMastResetCmd (dt : Nat) (w : Word) (s : State) : Host.Outcome State Fault Refusal :=
  hostWr dt R.RST_CMD w s

/-- MAST_RESET_COMPLETE (R392). -/
def execMastResetComplete (dt : Nat) (m : Fin 16) (s : State) : Host.Outcome State Fault Refusal :=
  event dt (fun s => s.mastResetDue m) (fun s => s.mastResetDone m) s

/-- LANE_RESET (R576). -/
def execLaneReset (dt : Nat) (w : Word) (s : State) : Host.Outcome State Fault Refusal :=
  hostWr dt R.RST_CMD w s

/-- LANE_SELF_TEST_DONE (R576). -/
def execLaneSelfTestDone (dt : Nat) (n : Fin 4) (pass : Bool) (s : State) : Host.Outcome State Fault Refusal :=
  done ((s.elapse dt).laneTested n pass)

/-- INTERNAL_RESET_END (R573). -/
def execInternalResetEnd (dt : Nat) (s : State) : Host.Outcome State Fault Refusal :=
  event dt (fun s => s.resetEndDue) (fun s => s.bootStart) s

/-- REFERENCE_COUNT (R562). -/
def execReferenceCount (dt : Nat) (clkref xtal : Nat) (s : State) : Host.Outcome State Fault Refusal :=
  event dt (fun s => s.countDue) (fun s => s.refCount clkref xtal) s

/-- PLL_LOCK (R564). -/
def execPllLock (dt : Nat) (s : State) : Host.Outcome State Fault Refusal :=
  done (s.elapse dt).pllLocked

/-- BOOT_STEP_DONE (R579). -/
def execBootStepDone (dt : Nat) (flash : List Word) (s : State) : Host.Outcome State Fault Refusal :=
  done ((s.elapse dt).bootStep flash)

/-- BOOT_READY (R583). -/
def execBootReady (dt : Nat) (s : State) : Host.Outcome State Fault Refusal :=
  event dt (fun s => s.readyDue) (fun s => s.bootReadyW) s

end Sys2Proof.Machine
end

