-- ==== Sys2Proof/Machine/ExecRing.lean ====
section
/-! DEFINITION. Machine/ExecRing.lean: the commands of the Izengan ring (R421–R454). -/

namespace Sys2Proof.Machine

/-! ### Conditions and actions -/

/-- What follows a change of the ports: delays of ports that are not UP end, and peer reads that wait are sent again when the ring has wrapped (R248, R466). -/
def State.ringFollows (s : State) (was : Bool) : State := (s.delaysFollow).when (!was && s.ring.wrapped) fun s => s.resendReads

/-- A frame that no node may send: a reserved destination (R434, R435). -/
def frameBad (f : Frame) : Bool := (decide (32 ≤ f.dst.toNat) && decide (f.dst.toNat ≠ 63)) || decide (64 < f.words.length)

/-- A frame arrives at port q of an inserted node; a reserved one is dropped (R435). -/
def State.ringRx (s : State) (q : Fin 2) (f : Frame) (act : State → State) : State :=
  if (s.port q).st ≠ .up ∨ s.ring.inserted = false then s
  else if frameBad f then s.frameDrop q .reserved else act s

/-- The values a READ_RSP carries for the IDs of a READ_REQ; none where one of them is not an on-chip signal (R450, log entry 27). -/
def State.readVals (s : State) : List Word → Option (List Word)
  | [] => some []
  | i :: l =>
    if bitsOf i 19 0 < 0x10000 then (s.readVals l).map fun v => s.sigRead (bitsOf i 19 0) :: v else none

/-- A READ_REQ is answered (R435, R450). -/
def State.readReq (s : State) (f : Frame) : State :=
  match f.words with
  | [] => s
  | tag :: ids => match s.readVals ids with
    | some v => s.queueBulk 1 f.src.toNat (tag :: v)
    | none => s

/-- A READ_RSP brings the value its tag asks for (R35, R246). -/
def State.readRsp (s : State) (f : Frame) : State :=
  match f.words with
  | tag :: v :: _ => (s.deliver (bitsOf tag 6 0) none (some (bitsOf tag 31 7)) v).hostServe
  | _ => s

/-- The loopback test has run for 100 µs (R454). -/
def State.loopOver (s : State) : Bool := match s.ring.loopAt with | some t => decide (t + 100 * tUs ≤ s.now) | none => false

/-- Its result (R454). -/
def State.loopDone (s : State) (pass : Bool) : State := s.updRing fun r => { r with loopAt := none, lbDone := true, lbOk := pass }

/-! ### Ports and insertion -/

/-- SIGNAL_DETECTED (R426). -/
def execSignalDetected (dt : Nat) (q : SignalSeen) (s : State) : Host.Outcome State Fault Refusal :=
  event dt (fun s => !((s.port q.port).st == .disabled)) (fun s => s.signal q.port q.present) s

/-- LINK_LOCKED (R426). -/
def execLinkLocked (dt : Nat) (q : Fin 2) (s : State) : Host.Outcome State Fault Refusal :=
  event dt (fun s => (s.port q).st == .acquire) (fun s => s.setPort q .locked) s

/-- SYMBOL_LOCK_LOST (R426). -/
def execSymbolLockLost (dt : Nat) (q : Fin 2) (s : State) : Host.Outcome State Fault Refusal :=
  event dt (fun s => (s.port q).st == .locked) (fun s => s.setPort q .acquire) s

/-- LINK_QUIET_TIMEOUT (R426). -/
def execLinkQuietTimeout (dt : Nat) (q : Fin 2) (s : State) : Host.Outcome State Fault Refusal :=
  event dt (fun s => s.quietDue q) (fun s => s.setPort q .quiet) s

/-- RING_INSERT (R427). -/
def execRingInsert (dt : Nat) (s : State) : Host.Outcome State Fault Refusal :=
  event dt (fun s => s.insertDue) (fun s => s.ringInsert) s

/-- INSERTION_TIMEOUT (R428). -/
def execInsertionTimeout (dt : Nat) (s : State) : Host.Outcome State Fault Refusal :=
  event dt (fun s => s.ring.inserted && decide (s.ring.insAt + 100 * tUs ≤ s.now)) (fun s => s.insertTmo.ringFollows s.ring.wrapped) s

/-- RETRAIN_TIMER (R428). -/
def execRetrainTimer (dt : Nat) (s : State) : Host.Outcome State Fault Refusal :=
  event dt (fun s => match s.ring.retryAt with | some t => decide (t ≤ s.now) | none => false)
    (fun s => s.updRing fun r => { r with retryAt := none }) s

/-- LINK_SET_RECEIVED (R422, R426). -/
def execLinkSetReceived (dt : Nat) (q : Fin 2) (peerLock _insert : Bool) (node : BitVec 5) (s : State) : Host.Outcome State Fault Refusal :=
  event dt (fun s => (s.port q).st == .locked || (s.port q).st == .up) (fun s => s.linkSet q peerLock node.toNat) s

/-- LINK_DOWN (R429). -/
def execLinkDown (dt : Nat) (q : Fin 2) (s : State) : Host.Outcome State Fault Refusal :=
  event dt (fun s => (s.port q).st == .up) (fun s => (s.linkDrop q).ringFollows s.ring.wrapped) s

/-- UNWRAP_TIMER (R433). -/
def execUnwrapTimer (dt : Nat) (q : Fin 2) (s : State) : Host.Outcome State Fault Refusal :=
  event dt (fun s => (s.port q).st == .up && (s.port q).wrap && decide ((s.port q).since + 10 * tMs ≤ s.now)) (fun s => s.setWrapAt q false) s

/-! ### STOP -/

/-- RING_STOP_RECEIVED (R439, R440). -/
def execRingStopReceived (dt : Nat) (q : Fin 2) (src : BitVec 5) (no : BitVec 3) (cut : Bool) (s : State) : Host.Outcome State Fault Refusal :=
  event dt (fun s => (s.port q).st == .locked || (s.port q).st == .up) (fun s => s.stopRx q src.toNat no.toNat cut) s

/-- STOP_SEND (R438). -/
def execStopSend (dt : Nat) (w : Word) (s : State) : Host.Outcome State Fault Refusal :=
  hostWr dt R.LK_STOP w s

/-- STOP_REPEAT (R438). -/
def execStopRepeat (dt : Nat) (s : State) : Host.Outcome State Fault Refusal :=
  event dt (fun s => s.stopRepDue) (fun s => s.stopRepeat) s

/-! ### Cycles and frames -/

/-- RING_CYCLE_START (R442). -/
def execRingCycleStart (dt : Nat) (s : State) : Host.Outcome State Fault Refusal :=
  event dt (fun s => s.cycleDue) (fun s => s.cycleStart.timeCycle) s

/-- BEACON_RECEIVED (R430). -/
def execBeaconReceived (dt : Nat) (q : Fin 2) (f : Frame) (s : State) : Host.Outcome State Fault Refusal :=
  done ((s.elapse dt).ringRx q f fun s => (s.beacon q f).ringFollows s.ring.wrapped)

/-- MESSAGE_RECEIVED (R444, R451). -/
def execMessageReceived (dt : Nat) (q : Fin 2) (f : Frame) (s : State) : Host.Outcome State Fault Refusal :=
  done ((s.elapse dt).ringRx q f fun s => s.rxFrame q 0 1 f fun s => (s.applyMsg f.words).msgTrig f.src.toNat)

/-- TOPO_RECEIVED (R432). -/
def execTopoReceived (dt : Nat) (q : Fin 2) (f : Frame) (s : State) : Host.Outcome State Fault Refusal :=
  done ((s.elapse dt).ringRx q f fun s => (s.rxFrame q 0 2 f fun s => s.setWrapped true).ringFollows s.ring.wrapped)

/-- PUBLISH_RECEIVED (R447, R449). -/
def execPublishReceived (dt : Nat) (q : Fin 2) (f : Frame) (last : Bool) (s : State) : Host.Outcome State Fault Refusal :=
  done ((s.elapse dt).ringRx q f fun s => s.rxFrame q 2 0 f fun s => s.published f last)

/-- READ_REQ_RECEIVED (R450). -/
def execReadReqReceived (dt : Nat) (q : Fin 2) (f : Frame) (s : State) : Host.Outcome State Fault Refusal :=
  done ((s.elapse dt).ringRx q f fun s => s.rxFrame q 3 0 f fun s => s.readReq f)

/-- READ_RSP_RECEIVED (R35). -/
def execReadRspReceived (dt : Nat) (q : Fin 2) (f : Frame) (s : State) : Host.Outcome State Fault Refusal :=
  done ((s.elapse dt).ringRx q f fun s => s.rxFrame q 3 1 f fun s => s.readRsp f)

/-- WRITE_RECEIVED (R450). -/
def execWriteReceived (dt : Nat) (q : Fin 2) (f : Frame) (s : State) : Host.Outcome State Fault Refusal :=
  done ((s.elapse dt).ringRx q f fun s => s.rxFrame q 3 2 f fun s => s.applyWrites f.words)

/-- FRAME_ERROR (R435, R437). -/
def execFrameError (dt : Nat) (q : Fin 2) (kind : FrameErr) (s : State) : Host.Outcome State Fault Refusal :=
  event dt (fun s => s.errSeen q kind) (fun s => s.frameDrop q kind) s

/-- MESSAGE_SEND (R444): a host write of the signal MSG_DST. -/
def execMessageSend (dt : Nat) (w : Word) (s : State) : Host.Outcome State Fault Refusal :=
  done ((s.elapse dt).hostWriteT (.swrite 0x308) [w])

/-- LOOPBACK_TEST (R454). -/
def execLoopbackTest (dt : Nat) (w : Word) (s : State) : Host.Outcome State Fault Refusal :=
  hostWr dt R.LK_DIAG w s

/-- LOOPBACK_DONE (R454). -/
def execLoopbackDone (dt : Nat) (pass : Bool) (s : State) : Host.Outcome State Fault Refusal :=
  event dt (fun s => s.loopOver) (fun s => s.loopDone pass) s

end Sys2Proof.Machine
end

