-- ==== Sys2Proof/Machine/ExecRole.lean ====
section
/-! DEFINITION. Machine/ExecRole.lean: the commands of the roles and of rigging (R538–R545, R559). -/

namespace Sys2Proof.Machine

/-- CHAL (R541). -/
def execChal (dt : Nat) (w : Word) (s : State) : Host.Outcome State Fault Refusal :=
  hostWr dt R.ROLE_CMD w s

/-- RESP (R542). -/
def execResp (dt : Nat) (w : Word) (s : State) : Host.Outcome State Fault Refusal :=
  hostWr dt R.ROLE_CMD w s

/-- ROLE_END (R544). -/
def execRoleEnd (dt : Nat) (w : Word) (s : State) : Host.Outcome State Fault Refusal :=
  hostWr dt R.ROLE_CMD w s

/-- KEY (R540). -/
def execKey (dt : Nat) (w : Word) (s : State) : Host.Outcome State Fault Refusal :=
  hostWr dt R.ROLE_CMD w s

/-- CHALLENGE_EXPIRY (R542). -/
def execChallengeExpiry (dt : Nat) (s : State) : Host.Outcome State Fault Refusal :=
  event dt (fun s => s.chalOld) (fun s => s.chalSpent) s

/-- The lockout ends (R542). -/
def State.lockoutEnd (s : State) : State := s.updRole fun r => { r with lockUntil := none }

/-- LOCKOUT_END (R542). -/
def execLockoutEnd (dt : Nat) (s : State) : Host.Outcome State Fault Refusal :=
  event dt (fun s => s.lockOver) (fun s => s.lockoutEnd) s

/-- The idle session ends by the device itself, with its record (R544–R547). -/
def State.idleEnd (s : State) : State := s.audited 1 fun s => s.roleEnd 1 2

/-- SESSION_IDLE_TIMEOUT (R544). -/
def execSessionIdleTimeout (dt : Nat) (s : State) : Host.Outcome State Fault Refusal :=
  event dt (fun s => s.idleDue) (fun s => s.idleEnd) s

/-- MAST_UNRIG (R559). -/
def execMastUnrig (dt : Nat) (w : Word) (s : State) : Host.Outcome State Fault Refusal :=
  hostWr dt R.RIG_CTL w s

/-- MAST_RIG (R559). -/
def execMastRig (dt : Nat) (w : Word) (s : State) : Host.Outcome State Fault Refusal :=
  hostWr dt R.RIG_CTL w s

end Sys2Proof.Machine
end

