-- ==== Sys2Proof/Machine/ExecSeq.lean ====
section
/-! DEFINITION. Machine/ExecSeq.lean: the timed events of the start sequencer (R208, R209, R213, R215). -/

namespace Sys2Proof.Machine

/-- The periods of the pulse, or of the pause, are over (R208); PWM_BOUNDARY ends one this row has not. -/
def State.pulseOver (s : State) (m : Fin 16) : Bool := s.pulseDone m && s.periodOver m
def State.pauseOver (s : State) (m : Fin 16) : Bool := s.pauseDone m && s.periodOver m

/-- ALIGN leads to RUN at the next boundary (R213). -/
def State.alignEnd (s : State) (m : Fin 16) : State := s.updSeq m fun q => { q with goto := some .run }

/-- BRAKE_PULSE_END (R208). -/
def execBrakePulseEnd (dt : Nat) (m : Fin 16) (s : State) : Host.Outcome State Fault Refusal :=
  event dt (fun s => s.pulseOver m) (fun s => s.pulseEnd m (s.mast m).pwm.bNext) s

/-- BRAKE_PAUSE_END (R209). -/
def execBrakePauseEnd (dt : Nat) (m : Fin 16) (s : State) : Host.Outcome State Fault Refusal :=
  event dt (fun s => s.pauseOver m) (fun s => s.pauseEnd m (s.mast m).pwm.bNext) s

/-- ALIGN_TIMEOUT (R213). -/
def execAlignTimeout (dt : Nat) (m : Fin 16) (s : State) : Host.Outcome State Fault Refusal :=
  event dt (fun s => s.alignDue m) (fun s => s.alignEnd m) s

/-- STOP_TIMEOUT (R215). -/
def execStopTimeout (dt : Nat) (m : Fin 16) (s : State) : Host.Outcome State Fault Refusal :=
  event dt (fun s => s.stopTmoDue m) (fun s => s.stopTmo m) s

end Sys2Proof.Machine
end

