-- ==== Sys2Proof/Machine/ExecStore.lean ====
section
/-! DEFINITION. Machine/ExecStore.lean: the commands of the store (R549–R558, R561). -/

namespace Sys2Proof.Machine

/-- ST_DATA_WRITE (R553). -/
def execStDataWrite (dt : Nat) (w : Word) (s : State) : Host.Outcome State Fault Refusal :=
  hostWr dt R.ST_DATA w s

/-- ERASE (R553). -/
def execErase (dt : Nat) (w : Word) (s : State) : Host.Outcome State Fault Refusal :=
  hostWr dt R.ST_CMD w s

/-- PROG (R553). -/
def execProg (dt : Nat) (w : Word) (s : State) : Host.Outcome State Fault Refusal :=
  hostWr dt R.ST_CMD w s

/-- COMMIT (R553). -/
def execCommit (dt : Nat) (w : Word) (s : State) : Host.Outcome State Fault Refusal :=
  hostWr dt R.ST_CMD w s

/-- LOAD (R555). -/
def execLoad (dt : Nat) (w : Word) (s : State) : Host.Outcome State Fault Refusal :=
  hostWr dt R.ST_CMD w s

/-- JREG (R557). -/
def execJreg (dt : Nat) (w : Word) (s : State) : Host.Outcome State Fault Refusal :=
  hostWr dt R.ST_CMD w s

/-- JSIG (R557). -/
def execJsig (dt : Nat) (w : Word) (s : State) : Host.Outcome State Fault Refusal :=
  hostWr dt R.ST_CMD w s

/-- JCOMMIT (R557). -/
def execJcommit (dt : Nat) (w : Word) (s : State) : Host.Outcome State Fault Refusal :=
  hostWr dt R.ST_CMD w s

/-- JDROP (R557). -/
def execJdrop (dt : Nat) (w : Word) (s : State) : Host.Outcome State Fault Refusal :=
  hostWr dt R.ST_CMD w s

/-- ABORT (R561). -/
def execStAbort (dt : Nat) (w : Word) (s : State) : Host.Outcome State Fault Refusal :=
  hostWr dt R.ST_CMD w s

/-- STORE_PULSE_DONE (R550). -/
def execStorePulseDone (dt : Nat) (ok : Bool) (s : State) : Host.Outcome State Fault Refusal :=
  event dt (fun s => s.store.pulse.isSome) (fun s => s.pulseDone_ ok) s

/-- JOURNAL_COMPACTION (R558). -/
def execJournalCompaction (dt : Nat) (s : State) : Host.Outcome State Fault Refusal :=
  event dt (fun s => s.jDue) (fun s => s.jCompact) s

end Sys2Proof.Machine
end

