-- ==== Sys2Proof/Machine/ExecTime.lean ====
section
/-! DEFINITION. Machine/ExecTime.lean: the commands of network time and of the GPIO pins (R455–R478, R514). -/

namespace Sys2Proof.Machine

/-- A TIME frame arrives at port q; a reserved destination drops it (R435). -/
def State.timeRx (s : State) (q : Fin 2) (f : TimeFrame) (act : State → State) : State := s.ringRx q f.hdr act

/-- Eight sync intervals in HOLD have brought no accepted sample (R469). -/
def State.holdOver (s : State) : Bool := decide (s.srv.st = .hold) && decide (s.srv.since + 8 * s.tsTaps ≤ s.now)

/-- REVALIDATE begins (R469, R471). -/
def State.holdEndSrv (s : State) : State := (s.enterSrv .revalidate).updSrv fun v => { v with reval := [] }

/-- SYNC_RECEIVED (R463–R468). -/
def execSyncReceived (dt : Nat) (q : Fin 2) (f : TimeFrame) (s : State) : Host.Outcome State Fault Refusal :=
  done ((s.elapse dt).timeRx q f fun s => s.sync q f)

/-- PDELAY_REQ_RECEIVED (R466). -/
def execPdelayReqReceived (dt : Nat) (q : Fin 2) (f : TimeFrame) (s : State) : Host.Outcome State Fault Refusal :=
  done ((s.elapse dt).timeRx q f fun s => s.pdReq q f)

/-- PDELAY_RESP_RECEIVED (R466). -/
def execPdelayRespReceived (dt : Nat) (q : Fin 2) (f : TimeFrame) (ago : Nat) (s : State) : Host.Outcome State Fault Refusal :=
  done ((s.elapse dt).timeRx q f fun s => s.pdResp q f ago)

/-- MASTER_LOST (R469, R473). -/
def execMasterLost (dt : Nat) (s : State) : Host.Outcome State Fault Refusal :=
  event dt (fun s => s.lostDue) (fun s => s.lostNow) s

/-- HOLD_TIMEOUT (R469). -/
def execHoldTimeout (dt : Nat) (s : State) : Host.Outcome State Fault Refusal :=
  event dt (fun s => s.holdOver) (fun s => s.holdEndSrv) s

/-- TB_REVERT (R477). -/
def execTbRevert (dt : Nat) (w : Word) (s : State) : Host.Outcome State Fault Refusal :=
  hostWr dt R.TB_CMD w s

/-- SET_TIME (R458). -/
def execSetTime (dt : Nat) (w : Word) (s : State) : Host.Outcome State Fault Refusal :=
  hostWr dt R.TB_CMD w s

/-- A synchronised edge of pin p: the units that read the pin see it, and the capture units it is the edge of record the time base (R460, R514). -/
def State.pinEdge (s : State) (p : Fin 32) (level : Bool) : State :=
  if s.gpio.inp.testBit p.val = level then s
  else [0, 1, 2, 3].foldl (fun s n => s.when (s.capAt p.val level n) fun s => s.capture n) ((s.noteZs p).gpioEdge p level)

/-- CAPTURE_EDGE (R460): an edge of the pin that unit n watches. -/
def execCaptureEdge (dt : Nat) (n : Fin 4) (rising : Bool) (s : State) : Host.Outcome State Fault Refusal :=
  event dt (fun s => s.capOn n.val rising) (fun s => s.pinEdge (Fin.ofNat 32 (bitsOf (s.rd R.TSC_CFG) (8 * n.val + 4) (8 * n.val))) rising) s

/-- GPIO_INPUT_EDGE (R460, R514). -/
def execGpioInputEdge (dt : Nat) (pin : Fin 32) (level : Bool) (s : State) : Host.Outcome State Fault Refusal :=
  done ((s.elapse dt).pinEdge pin level)

end Sys2Proof.Machine
end

