-- ==== Sys2Proof/Machine/Dispatch.lean ====
section
/-! DEFINITION. Machine/Dispatch.lean: one arm per command, each a direct call of its meaning. -/

namespace Sys2Proof.Machine

/-- The effect of a command on everything but the queue. -/
def exec (i : Instr) (s : State) : Host.Outcome State Fault Refusal :=
  match i with
  | .pwmBoundary dt m => Sys2Proof.Machine.execPwmBoundary dt m s
  | .auxtInstant dt m ch => Sys2Proof.Machine.execAuxtInstant dt m ch s
  | .adcSConversionDone dt m code => Sys2Proof.Machine.execAdcSConversionDone dt m code s
  | .adcSHeldStart dt m => Sys2Proof.Machine.execAdcSHeldStart dt m s
  | .adcPSlotDone dt m code => Sys2Proof.Machine.execAdcPSlotDone dt m code s
  | .adcPHeldSequence dt m => Sys2Proof.Machine.execAdcPHeldSequence dt m s
  | .sampleSetRelease dt m => Sys2Proof.Machine.execSampleSetRelease dt m s
  | .blankingWindowEnd dt m => Sys2Proof.Machine.execBlankingWindowEnd dt m s
  | .pwmRunSet dt m w => Sys2Proof.Machine.execPwmRunSet dt m w s
  | .pwmRunClear dt m w => Sys2Proof.Machine.execPwmRunClear dt m w s
  | .pwmCommit dt m w => Sys2Proof.Machine.execPwmCommit dt m w s
  | .bosunSlot dt code early => Sys2Proof.Machine.execBosunSlot dt code early s
  | .fastCalibrationDone dt => Sys2Proof.Machine.execFastCalibrationDone dt s
  | .windowRecoveryStart dt m => Sys2Proof.Machine.execWindowRecoveryStart dt m s
  | .windowRecoveryEnd dt m => Sys2Proof.Machine.execWindowRecoveryEnd dt m s
  | .xchkTestStart dt m => Sys2Proof.Machine.execXchkTestStart dt m s
  | .xchkTestEnd dt m => Sys2Proof.Machine.execXchkTestEnd dt m s
  | .hallCodeAccepted dt m => Sys2Proof.Machine.execHallCodeAccepted dt m s
  | .hallIllegalTimeout dt m => Sys2Proof.Machine.execHallIllegalTimeout dt m s
  | .hallTimeout dt m => Sys2Proof.Machine.execHallTimeout dt m s
  | .quadEdge dt m => Sys2Proof.Machine.execQuadEdge dt m s
  | .quadIndex dt m => Sys2Proof.Machine.execQuadIndex dt m s
  | .advancedAngleCheck dt m => Sys2Proof.Machine.execAdvancedAngleCheck dt m s
  | .stepWr dt m w => Sys2Proof.Machine.execStepWr dt m w s
  | .zeroCrossingAccepted dt m seen => Sys2Proof.Machine.execZeroCrossingAccepted dt m seen s
  | .zcStepTimer dt m => Sys2Proof.Machine.execZcStepTimer dt m s
  | .zcMiss dt m => Sys2Proof.Machine.execZcMiss dt m s
  | .luffTransferEnd dt m => Sys2Proof.Machine.execLuffTransferEnd dt m s
  | .correlatorWindowEnd dt m => Sys2Proof.Machine.execCorrelatorWindowEnd dt m s
  | .polarityPulseEnd dt m => Sys2Proof.Machine.execPolarityPulseEnd dt m s
  | .seqStart dt o => Sys2Proof.Machine.execSeqStart dt o s
  | .seqStop dt o => Sys2Proof.Machine.execSeqStop dt o s
  | .seqClear dt o => Sys2Proof.Machine.execSeqClear dt o s
  | .brakePulseEnd dt m => Sys2Proof.Machine.execBrakePulseEnd dt m s
  | .brakePauseEnd dt m => Sys2Proof.Machine.execBrakePauseEnd dt m s
  | .alignTimeout dt m => Sys2Proof.Machine.execAlignTimeout dt m s
  | .stopTimeout dt m => Sys2Proof.Machine.execStopTimeout dt m s
  | .tackDwellEnd dt m => Sys2Proof.Machine.execTackDwellEnd dt m s
  | .stallEvent dt m => Sys2Proof.Machine.execStallEvent dt m s
  | .jamHoldEnd dt m => Sys2Proof.Machine.execJamHoldEnd dt m s
  | .jamCountClear dt m => Sys2Proof.Machine.execJamCountClear dt m s
  | .cmdPinEdge dt m rising => Sys2Proof.Machine.execCmdPinEdge dt m rising s
  | .commandLoss dt m => Sys2Proof.Machine.execCommandLoss dt m s
  | .contextDispatch dt c => Sys2Proof.Machine.execContextDispatch dt c s
  | .quantumExpiry dt c => Sys2Proof.Machine.execQuantumExpiry dt c s
  | .budgetExceeded dt c => Sys2Proof.Machine.execBudgetExceeded dt c s
  | .signalAccessComplete dt c => Sys2Proof.Machine.execSignalAccessComplete dt c s
  | .signalAccessTimeout dt c => Sys2Proof.Machine.execSignalAccessTimeout dt c s
  | .instructionResultReady dt c => Sys2Proof.Machine.execInstructionResultReady dt c s
  | .etmrExpiry dt n => Sys2Proof.Machine.execEtmrExpiry dt n s
  | .doorbell dt w => Sys2Proof.Machine.execDoorbell dt w s
  | .ctxEnable dt w => Sys2Proof.Machine.execCtxEnable dt w s
  | .ctxDisable dt w => Sys2Proof.Machine.execCtxDisable dt w s
  | .ctxHalt dt w => Sys2Proof.Machine.execCtxHalt dt w s
  | .ctxResume dt w => Sys2Proof.Machine.execCtxResume dt w s
  | .ctxStep dt w => Sys2Proof.Machine.execCtxStep dt w s
  | .ctxRestart dt w => Sys2Proof.Machine.execCtxRestart dt w s
  | .laneParityError dt n => Sys2Proof.Machine.execLaneParityError dt n s
  | .laneIssueTimeout dt n => Sys2Proof.Machine.execLaneIssueTimeout dt n s
  | .contextParityError dt c => Sys2Proof.Machine.execContextParityError dt c s
  | .illegalInstruction dt c => Sys2Proof.Machine.execIllegalInstruction dt c s
  | .cellStep dt c parity => Sys2Proof.Machine.execCellStep dt c parity s
  | .cellHold dt c parity => Sys2Proof.Machine.execCellHold dt c parity s
  | .cellPreset dt c parity => Sys2Proof.Machine.execCellPreset dt c parity s
  | .cellSetman dt c parity => Sys2Proof.Machine.execCellSetman dt c parity s
  | .cellRead dt c parity => Sys2Proof.Machine.execCellRead dt c parity s
  | .cellOpen dt o parity => Sys2Proof.Machine.execCellOpen dt o parity s
  | .cellClose dt o parity => Sys2Proof.Machine.execCellClose dt o parity s
  | .cellAuto dt o parity => Sys2Proof.Machine.execCellAuto dt o parity s
  | .cellManual dt w => Sys2Proof.Machine.execCellManual dt w s
  | .cellClear dt w => Sys2Proof.Machine.execCellClear dt w s
  | .cellDataWrite dt w => Sys2Proof.Machine.execCellDataWrite dt w s
  | .prgDataWrite dt w => Sys2Proof.Machine.execPrgDataWrite dt w s
  | .tabDataWrite dt w => Sys2Proof.Machine.execTabDataWrite dt w s
  | .sigDataWrite dt w => Sys2Proof.Machine.execSigDataWrite dt w s
  | .sigDataRead dt => Sys2Proof.Machine.execSigDataRead dt s
  | .traceEnable dt w => Sys2Proof.Machine.execTraceEnable dt w s
  | .add dt c => Sys2Proof.Machine.execAdd dt c s
  | .sub dt c => Sys2Proof.Machine.execSub dt c s
  | .mul dt c => Sys2Proof.Machine.execMul dt c s
  | .and dt c => Sys2Proof.Machine.execAnd dt c s
  | .or dt c => Sys2Proof.Machine.execOr dt c s
  | .xor dt c => Sys2Proof.Machine.execXor dt c s
  | .shl dt c => Sys2Proof.Machine.execShl dt c s
  | .shr dt c => Sys2Proof.Machine.execShr dt c s
  | .sar dt c => Sys2Proof.Machine.execSar dt c s
  | .min dt c => Sys2Proof.Machine.execMin dt c s
  | .max dt c => Sys2Proof.Machine.execMax dt c s
  | .bfx dt c => Sys2Proof.Machine.execBfx dt c s
  | .bfi dt c => Sys2Proof.Machine.execBfi dt c s
  | .cmp dt c => Sys2Proof.Machine.execCmp dt c s
  | .mov dt c => Sys2Proof.Machine.execMov dt c s
  | .movi dt c => Sys2Proof.Machine.execMovi dt c s
  | .addi dt c => Sys2Proof.Machine.execAddi dt c s
  | .movhi dt c => Sys2Proof.Machine.execMovhi dt c s
  | .cmpi dt c => Sys2Proof.Machine.execCmpi dt c s
  | .lit dt c => Sys2Proof.Machine.execLit dt c s
  | .fadd dt c => Sys2Proof.Machine.execFadd dt c s
  | .fsub dt c => Sys2Proof.Machine.execFsub dt c s
  | .fmul dt c => Sys2Proof.Machine.execFmul dt c s
  | .fma dt c => Sys2Proof.Machine.execFma dt c s
  | .fmin dt c => Sys2Proof.Machine.execFmin dt c s
  | .fmax dt c => Sys2Proof.Machine.execFmax dt c s
  | .fabs dt c => Sys2Proof.Machine.execFabs dt c s
  | .fneg dt c => Sys2Proof.Machine.execFneg dt c s
  | .fclamp dt c => Sys2Proof.Machine.execFclamp dt c s
  | .fcmp dt c => Sys2Proof.Machine.execFcmp dt c s
  | .fcvt dt c => Sys2Proof.Machine.execFcvt dt c s
  | .fdiv dt c => Sys2Proof.Machine.execFdiv dt c s
  | .fsqrt dt c => Sys2Proof.Machine.execFsqrt dt c s
  | .fsincos dt c => Sys2Proof.Machine.execFsincos dt c s
  | .fatan2 dt c => Sys2Proof.Machine.execFatan2 dt c s
  | .frot dt c => Sys2Proof.Machine.execFrot dt c s
  | .fwrap dt c => Sys2Proof.Machine.execFwrap dt c s
  | .bCond dt c => Sys2Proof.Machine.execBCond dt c s
  | .call dt c => Sys2Proof.Machine.execCall dt c s
  | .jr dt c => Sys2Proof.Machine.execJr dt c s
  | .endAct dt c => Sys2Proof.Machine.execEndAct dt c s
  | .nop dt c => Sys2Proof.Machine.execNop dt c s
  | .lds dt c => Sys2Proof.Machine.execLds dt c s
  | .sts dt c => Sys2Proof.Machine.execSts dt c s
  | .ldsi dt c => Sys2Proof.Machine.execLdsi dt c s
  | .stsi dt c => Sys2Proof.Machine.execStsi dt c s
  | .ldt dt c => Sys2Proof.Machine.execLdt dt c s
  | .outd dt c => Sys2Proof.Machine.execOutd dt c s
  | .stgd dt c => Sys2Proof.Machine.execStgd dt c s
  | .outv dt c => Sys2Proof.Machine.execOutv dt c s
  | .stgv dt c => Sys2Proof.Machine.execStgv dt c s
  | .stgp dt c => Sys2Proof.Machine.execStgp dt c s
  | .time dt c => Sys2Proof.Machine.execTime dt c s
  | .actv dt c => Sys2Proof.Machine.execActv dt c s
  | .dbell dt c => Sys2Proof.Machine.execDbell dt c s
  | .trace dt c => Sys2Proof.Machine.execTrace dt c s
  | .flags dt c => Sys2Proof.Machine.execFlags dt c s
  | .setf dt c => Sys2Proof.Machine.execSetf dt c s
  | .tripPinAssert dt m low => Sys2Proof.Machine.execTripPinAssert dt m low s
  | .overcurrentAssert dt m below uv => Sys2Proof.Machine.execOvercurrentAssert dt m below uv s
  | .cbcLimitLatch dt m => Sys2Proof.Machine.execCbcLimitLatch dt m s
  | .shroudClr dt m w => Sys2Proof.Machine.execShroudClr dt m w s
  | .shroudTest dt m w => Sys2Proof.Machine.execShroudTest dt m w s
  | .shroudTestDone dt m pass => Sys2Proof.Machine.execShroudTestDone dt m pass s
  | .furlPin dt low => Sys2Proof.Machine.execFurlPin dt low s
  | .furlSet dt w => Sys2Proof.Machine.execFurlSet dt w s
  | .furlClear dt w => Sys2Proof.Machine.execFurlClear dt w s
  | .busGroupAck dt w => Sys2Proof.Machine.execBusGroupAck dt w s
  | .busGroupRecovery dt g => Sys2Proof.Machine.execBusGroupRecovery dt g s
  | .pendingTableFull dt => Sys2Proof.Machine.execPendingTableFull dt s
  | .wakeEnd dt => Sys2Proof.Machine.execWakeEnd dt s
  | .reactionDeviceReset dt => Sys2Proof.Machine.execReactionDeviceReset dt s
  | .fcAck dt w => Sys2Proof.Machine.execFcAck dt w s
  | .ackAll dt w => Sys2Proof.Machine.execAckAll dt w s
  | .logClr dt w => Sys2Proof.Machine.execLogClr dt w s
  | .firstClr dt w => Sys2Proof.Machine.execFirstClr dt w s
  | .fcTest dt w => Sys2Proof.Machine.execFcTest dt w s
  | .supplyOutOfRange dt n => Sys2Proof.Machine.execSupplyOutOfRange dt n s
  | .supplyInRange dt n => Sys2Proof.Machine.execSupplyInRange dt n s
  | .peakClr dt w => Sys2Proof.Machine.execPeakClr dt w s
  | .shutClr dt w => Sys2Proof.Machine.execShutClr dt w s
  | .signalDetected dt q => Sys2Proof.Machine.execSignalDetected dt q s
  | .linkLocked dt q => Sys2Proof.Machine.execLinkLocked dt q s
  | .linkQuietTimeout dt q => Sys2Proof.Machine.execLinkQuietTimeout dt q s
  | .ringInsert dt => Sys2Proof.Machine.execRingInsert dt s
  | .insertionTimeout dt => Sys2Proof.Machine.execInsertionTimeout dt s
  | .retrainTimer dt => Sys2Proof.Machine.execRetrainTimer dt s
  | .linkSetReceived dt q peerLock insert node => Sys2Proof.Machine.execLinkSetReceived dt q peerLock insert node s
  | .linkDown dt q => Sys2Proof.Machine.execLinkDown dt q s
  | .unwrapTimer dt q => Sys2Proof.Machine.execUnwrapTimer dt q s
  | .ringStopReceived dt q src no cut => Sys2Proof.Machine.execRingStopReceived dt q src no cut s
  | .stopSend dt w => Sys2Proof.Machine.execStopSend dt w s
  | .stopRepeat dt => Sys2Proof.Machine.execStopRepeat dt s
  | .ringCycleStart dt => Sys2Proof.Machine.execRingCycleStart dt s
  | .beaconReceived dt q f => Sys2Proof.Machine.execBeaconReceived dt q f s
  | .messageReceived dt q f => Sys2Proof.Machine.execMessageReceived dt q f s
  | .topoReceived dt q f => Sys2Proof.Machine.execTopoReceived dt q f s
  | .publishReceived dt q f last => Sys2Proof.Machine.execPublishReceived dt q f last s
  | .readReqReceived dt q f => Sys2Proof.Machine.execReadReqReceived dt q f s
  | .readRspReceived dt q f => Sys2Proof.Machine.execReadRspReceived dt q f s
  | .writeReceived dt q f => Sys2Proof.Machine.execWriteReceived dt q f s
  | .frameError dt q kind => Sys2Proof.Machine.execFrameError dt q kind s
  | .messageSend dt w => Sys2Proof.Machine.execMessageSend dt w s
  | .loopbackTest dt w => Sys2Proof.Machine.execLoopbackTest dt w s
  | .loopbackDone dt pass => Sys2Proof.Machine.execLoopbackDone dt pass s
  | .syncReceived dt q f => Sys2Proof.Machine.execSyncReceived dt q f s
  | .pdelayReqReceived dt q f => Sys2Proof.Machine.execPdelayReqReceived dt q f s
  | .pdelayRespReceived dt q f ago => Sys2Proof.Machine.execPdelayRespReceived dt q f ago s
  | .masterLost dt => Sys2Proof.Machine.execMasterLost dt s
  | .holdTimeout dt => Sys2Proof.Machine.execHoldTimeout dt s
  | .tbRevert dt w => Sys2Proof.Machine.execTbRevert dt w s
  | .setTime dt w => Sys2Proof.Machine.execSetTime dt w s
  | .captureEdge dt n rising => Sys2Proof.Machine.execCaptureEdge dt n rising s
  | .calendarDispatch dt => Sys2Proof.Machine.execCalendarDispatch dt s
  | .calInsert dt o => Sys2Proof.Machine.execCalInsert dt o s
  | .calRemove dt o => Sys2Proof.Machine.execCalRemove dt o s
  | .calRead dt w => Sys2Proof.Machine.execCalRead dt w s
  | .calEnable dt w => Sys2Proof.Machine.execCalEnable dt w s
  | .hostRead dt addr n => Sys2Proof.Machine.execHostRead dt addr n s
  | .hostWrite dt addr ws => Sys2Proof.Machine.execHostWrite dt addr ws s
  | .readFix dt addr n => Sys2Proof.Machine.execReadFix dt addr n s
  | .writeFix dt addr ws => Sys2Proof.Machine.execWriteFix dt addr ws s
  | .status dt => Sys2Proof.Machine.execStatus dt s
  | .hostStop dt hdr => Sys2Proof.Machine.execHostStop dt hdr s
  | .extNop dt => Sys2Proof.Machine.execExtNop dt s
  | .sigRead dt id n => Sys2Proof.Machine.execSigRead dt id n s
  | .sigWrite dt id ws => Sys2Proof.Machine.execSigWrite dt id ws s
  | .snapshot dt group => Sys2Proof.Machine.execSnapshot dt group s
  | .release dt => Sys2Proof.Machine.execRelease dt s
  | .reservedHeader dt hdr => Sys2Proof.Machine.execReservedHeader dt hdr s
  | .hselNRise dt cut => Sys2Proof.Machine.execHselNRise dt cut s
  | .readHoldFilled dt => Sys2Proof.Machine.execReadHoldFilled dt s
  | .rcFieldRead dt addr => Sys2Proof.Machine.execRcFieldRead dt addr s
  | .snapshotLowWordRead dt addr => Sys2Proof.Machine.execSnapshotLowWordRead dt addr s
  | .fcLog3Read dt => Sys2Proof.Machine.execFcLog3Read dt s
  | .audDataRead dt => Sys2Proof.Machine.execAudDataRead dt s
  | .registerWrite dt addr w => Sys2Proof.Machine.execRegisterWrite dt addr w s
  | .gpioInputEdge dt pin level => Sys2Proof.Machine.execGpioInputEdge dt pin level s
  | .memGrant dt => Sys2Proof.Machine.execMemGrant dt s
  | .memTransactionDone dt ok data => Sys2Proof.Machine.execMemTransactionDone dt ok data s
  | .memTimeout dt => Sys2Proof.Machine.execMemTimeout dt s
  | .memPhPush dt w => Sys2Proof.Machine.execMemPhPush dt w s
  | .memDataWrite dt w => Sys2Proof.Machine.execMemDataWrite dt w s
  | .memDataRead dt => Sys2Proof.Machine.execMemDataRead dt s
  | .memGo dt w => Sys2Proof.Machine.execMemGo dt w s
  | .memAbort dt w => Sys2Proof.Machine.execMemAbort dt w s
  | .psramUnmap dt w => Sys2Proof.Machine.execPsramUnmap dt w s
  | .chal dt w => Sys2Proof.Machine.execChal dt w s
  | .resp dt w => Sys2Proof.Machine.execResp dt w s
  | .roleEnd dt w => Sys2Proof.Machine.execRoleEnd dt w s
  | .key dt w => Sys2Proof.Machine.execKey dt w s
  | .challengeExpiry dt => Sys2Proof.Machine.execChallengeExpiry dt s
  | .lockoutEnd dt => Sys2Proof.Machine.execLockoutEnd dt s
  | .sessionIdleTimeout dt => Sys2Proof.Machine.execSessionIdleTimeout dt s
  | .mastUnrig dt w => Sys2Proof.Machine.execMastUnrig dt w s
  | .mastRig dt w => Sys2Proof.Machine.execMastRig dt w s
  | .stDataWrite dt w => Sys2Proof.Machine.execStDataWrite dt w s
  | .erase dt w => Sys2Proof.Machine.execErase dt w s
  | .prog dt w => Sys2Proof.Machine.execProg dt w s
  | .commit dt w => Sys2Proof.Machine.execCommit dt w s
  | .load dt w => Sys2Proof.Machine.execLoad dt w s
  | .jreg dt w => Sys2Proof.Machine.execJreg dt w s
  | .jsig dt w => Sys2Proof.Machine.execJsig dt w s
  | .jcommit dt w => Sys2Proof.Machine.execJcommit dt w s
  | .jdrop dt w => Sys2Proof.Machine.execJdrop dt w s
  | .stAbort dt w => Sys2Proof.Machine.execStAbort dt w s
  | .storePulseDone dt ok => Sys2Proof.Machine.execStorePulseDone dt ok s
  | .journalCompaction dt => Sys2Proof.Machine.execJournalCompaction dt s
  | .powerOnReset dt at_ vrefp straps => Sys2Proof.Machine.execPowerOnReset dt at_ vrefp straps s
  | .resetPin dt low straps => Sys2Proof.Machine.execResetPin dt low straps s
  | .clockLoss dt mon => Sys2Proof.Machine.execClockLoss dt mon s
  | .softReset dt w => Sys2Proof.Machine.execSoftReset dt w s
  | .mastResetCmd dt w => Sys2Proof.Machine.execMastResetCmd dt w s
  | .mastResetComplete dt m => Sys2Proof.Machine.execMastResetComplete dt m s
  | .laneReset dt w => Sys2Proof.Machine.execLaneReset dt w s
  | .laneSelfTestDone dt n pass => Sys2Proof.Machine.execLaneSelfTestDone dt n pass s
  | .internalResetEnd dt => Sys2Proof.Machine.execInternalResetEnd dt s
  | .referenceCount dt clkref xtal => Sys2Proof.Machine.execReferenceCount dt clkref xtal s
  | .pllLock dt => Sys2Proof.Machine.execPllLock dt s
  | .bootStepDone dt flash => Sys2Proof.Machine.execBootStepDone dt flash s
  | .bootReady dt => Sys2Proof.Machine.execBootReady dt s
  | .symbolLockLost dt q => Sys2Proof.Machine.execSymbolLockLost dt q s
  | .memoryParityError dt mem => Sys2Proof.Machine.execMemoryParityError dt mem s

end Sys2Proof.Machine
end

