-- ==== Sys2Proof/Safety.lean ====
section
/-! DEFINITION. Safety.lean: the properties of states in which statements about the machine are put. -/

namespace Sys2Proof.Machine

/-- The stored memories are in their canonical form: keys strictly rising, no entry equal to what an unlisted key reads as. -/
abbrev State.canonical (s : State) : Prop :=
  spWf (resetWord s.variant) s.regs = true ∧ spWf sigReset s.sigs = true ∧
  spWf (fun _ => 0#32) s.eng.prog = true ∧ spWf (fun _ => 0#32) s.eng.tab = true ∧
  spWf (fun _ => 0#32) s.eng.cells = true ∧ spWf (fun _ => 0#32) s.eng.lastIn = true ∧
  spWf (fun _ => stBlank) s.store.mem = true

/-- The store has nothing to take up: what a command does is then all that happens. -/
abbrev State.calm (s : State) : Prop :=
  s.store.pulse = none ∧ s.store.cmd = none ∧ s.store.audQ = [] ∧ s.fc.queue = [] ∧ s.fc.rsvQueue = [] ∧ s.store.jSteps = []

/-! ### The end of a command

Time passes to a command by `State.elapse`: the SPARCLK cycles that begin on the way do their work (the collector's among it, R362–R381).
Then the command has its effect, and `State.finish` ends it: the store takes up its next pulse (R550). -/

/-- The machine without its store, its registers, the records that wait to be stored, and what the present cycle has seen. -/
def State.unstored (s : State) : State := { s with regs := [], store := {}, fc := { s.fc with queue := [], rsvQueue := [] }, cyc := {} }

/-- From `s` to `t` at most the store has worked. -/
structure State.Stores (s t : State) : Prop where
  rest : t.unstored = s.unstored
  regs : ∀ key, key % 0x2000 ≠ R.ST_STAT → t.rd key = s.rd key

/-! ### A mast at work -/

/-- A register of mast m. -/
def ofMast (m : Fin 16) (key : Nat) : Bool := decide (key / 0x2000 = m.val) && decide (key % 0x2000 / 256 = 16)

/-- A signal of mast m's block (R28). -/
def sigOfMast (m : Fin 16) (id : Nat) : Bool := decide (0x1000 + 0x800 * m.val ≤ id) && decide (id < 0x1800 + 0x800 * m.val)

/-- A generator without its notes of the gates. -/
def Pwm.unmarked (p : Pwm) : Pwm :=
  { p with gateWas := 0, gateChg := 0, offAt := Vector.replicate 8 0, lastEdge := Vector.replicate 4 0, stepEdges := [] }

/-- A shroud without its safe state and its chopper, which the bus group of the members switches (R341, R353, R354). -/
def Shroud.unbused (h : Shroud) : Shroud :=
  { h with safe := 0, safeX := false, chopFailed := false, chopOn := false, chopAcc := 0, chopSince := 0 }

/-- A mast without what the bus group of its members does to it. -/
def Mast.apart (x : Mast) : Mast := { x with pwm := x.pwm.unmarked, shr := x.shr.unbused }

/-- A context without what a trigger changes. -/
def Ctx.core (x : Ctx) : Ctx :=
  { x with st := .disabled, pend := [], act := none, begun := false, since := 0, issues := 0, budgetHit := false, demoted := false, noted := false,
           spent := false, runWait := 0 }

/-- The engine without the crow's nest and what triggers change. -/
def Eng.core (e : Eng) : Eng :=
  { e with ctxs := e.ctxs.map Ctx.core, trcRun := false, trcFull := false, trcTrig := false, trcCount := 0 }

/-- The machine without mast m, the writes that wait for its boundaries, the bus groups, the store and the collector's queues, what triggers
change in the contexts, and the crow's nest. Registers and signals have their own clauses in `OnlyMast`. -/
def State.outside (s : State) (m : Fin 16) : State :=
  { s.unstored with
    sigs := [], fc := {}
    masts := (s.masts.map Mast.apart).set m {}
    deferred := s.deferred.filter fun d => decide (d.key / 0x2000 ≠ m.val)
    bgs := Vector.replicate 8 {}
    eng := s.eng.core
    mem := { s.mem with traces := [], trWrapped := false, trPos := 0 } }

/-- The registers of the whole device that triggers, the crow's nest, the store and the edges of command pins write. -/
def statusRegs : List Nat := [R.TRC_STAT, R.CTX_STAT, R.ST_STAT, R.CMD_PIN]

/-- A signal of the trace buffer (R262). -/
def traceSig (id : Nat) : Bool := decide (0xC00 ≤ id ∧ id < 0x1000)

/-- From `s` to `t` mast m has worked, with the bus groups and their choppers, and the store: every other mast and unit, every register and every
signal that is not mast m's is as it was. -/
structure OnlyMast (m : Fin 16) (s t : State) : Prop where
  outside : t.outside m = s.outside m
  regs : ∀ key, ofMast m key = false → key % 0x2000 ∉ statusRegs → t.rd key = s.rd key
  sigs : ∀ id, sigOfMast m id = false → traceSig id = false → t.sig id = s.sig id

/-- The command `i`, given in `z` and reaching `s` as the time `dt` passes, answers a next state, and that is as `p` says. -/
def EventRow (dt : Nat) (z s : State) (i : Instr) (p : State → Prop) : Prop :=
  s = z.elapse dt → ∃ t, exec i z = .next t ∧ p t

/-- The command `i`, given in `z` and reaching `s` as the time `dt` passes, answers a next state: from `s` mast m alone has worked, and mast m is then
as `p` says. -/
def MastRow (dt : Nat) (m : Fin 16) (z s : State) (i : Instr) (p : Mast → Prop) : Prop :=
  s = z.elapse dt → ∃ t, exec i z = .next t ∧ OnlyMast m s t ∧ p (t.mast m)

/-! ### A write by the host -/

/-- The clocks run, the block takes writes, and nothing waits on the host port (R498, R503, R582). -/
structure State.HostIdle (s : State) : Prop where
  locked : s.clk.locked = true
  ready : s.clk.ready = true
  fifo : s.host.fifo = []
  late : s.host.late = none
  hold : s.host.hold = none

/-- A write that needs role `n` at most is taken: the port is idle, the role is in force (R537), and the audit queue has room (R547). -/
structure State.TakesWrites (s : State) (n : Nat) : Prop where
  idle : s.HostIdle
  role : n ≤ s.role.role
  room : s.store.audQ.length < 32

/-- The machine as the header of a transaction finds it: in a cycle without an access of the host port (log entry 86), and with what an earlier read had
taken for words that were not sent put back (R501, R502). -/
def State.asked (s : State) : State := s.hostTurn.lastSent

/-- The command `i`, given in `z`, is a write by the host that needs role `n` at most. It reaches `s` as the time `dt` passes and, where the host port has
had an access in this SPARCLK cycle, the rest of the cycle (log entry 86). It is carried out there, and the next state is as `p` says. -/
def HostRow (dt n : Nat) (z s : State) (i : Instr) (p : State → Prop) : Prop :=
  s = (z.elapse dt).asked → s.TakesWrites n → ∃ t, exec i z = .next t ∧ p t

/-! ### Context c issues an instruction -/

/-- At this instant context c issues the instruction word `w`, followed by `l` where it has two words: it runs on a free lane with
its budget and quantum not due, and may stay on it (R231, R241, R243, R270), the word is fetched (R284) and legal (R283), no breakpoint matches (R276), and
every operand is ready (R286). -/
structure State.Issues (s : State) (c : Fin 64) (w l : Word) : Prop where
  can : s.canIssue c = true
  stays : s.misplaced c = false
  word : s.fetch (s.ctx c).bank (s.ctx c).pc = .word w
  legal : illegal w = false
  open_ : s.bkMatch c = false
  second : s.second w (s.ctx c).bank (s.ctx c).pc = .word l
  ready : (s.ctx c).readyAt w ≤ s.now

/-- What a context's program sees of it: registers, flags, pc, and when the registers' latest results can be used. -/
def Ctx.view (x : Ctx) : Vector Word 16 × Flags × Nat × Vector Nat 16 := (x.v, x.fl, x.pc, x.rdy)

/-- From `x` to `y`: register `d` is `r`, used from the instant `u` on, and no other register changes; the flags are `f`; pc has
advanced by `n` words. -/
def Ctx.wrote (x y : Ctx) (d : Nat) (r : Word) (u : Nat) (f : Flags) (n : Nat) : Prop :=
  y.reg d = r ∧ y.rdyAt d = u ∧ (∀ k, k < 16 → k ≠ d → y.reg k = x.reg k) ∧ y.fl = f ∧ y.pc = x.pc + n

/-- From `x` to `y`: no register changes, the flags are `f`, pc is `p`. -/
def Ctx.went (x y : Ctx) (f : Flags) (p : Nat) : Prop :=
  y.v = x.v ∧ y.fl = f ∧ y.pc = p

/-- The machine without context c, the lanes, the order of the fetch buffers, and the store (`State.unstored`). -/
def State.besides (s : State) (c : Fin 64) : State :=
  { s.unstored with eng.ctxs := s.unstored.eng.ctxs.set c {}, eng.lanes := Vector.replicate 4 {}, mem.bufs := [] }

/-- Only the program of context c has moved, and the store (R550): every other context, every register but ST_STAT (and ENG_STAT, where c asks for a
halt it may not have, R277), every signal, every mast and unit is as it was. -/
def State.onlyCtx (s t : State) (c : Fin 64) : Prop :=
  t.besides c = s.besides c ∧ ∀ key, key % 0x2000 ≠ R.ST_STAT → (key = R.ENG_STAT → s.mayHalt c = true) → t.rd key = s.rd key

/-- The row `i`, of opcode `o`, whatever the state and the operands: where context c issues it, vd takes `r` of the context and the
instruction's words, usable `lat` ENGCLK cycles later, the flags change by `f`, and nothing but the context has moved. -/
def RowGives (i : Nat → Fin 64 → Instr) (o lat : Nat) (r : Ctx → Word → Word → Word) (f : Ctx → Word → Flags → Flags) : Prop :=
  ∀ (dt : Nat) (c : Fin 64) (z s : State) (w l : Word), s = z.elapse dt → s.Issues c w l → iOp w = o →
    ∃ t, exec (i dt c) z = .next t ∧
      Ctx.wrote (s.ctx c) (t.ctx c) (iD w) (r (s.ctx c) w l) (s.now + 64 * lat) (f (s.ctx c) w (s.ctx c).fl) (wordsOf w) ∧
      State.onlyCtx s t c

/-- The same of a row that writes no register: the flags change by `f`, and pc by `p`. -/
def RowGoes (i : Nat → Fin 64 → Instr) (ok : Word → Prop) (f : Ctx → Word → Flags → Flags) (p : Ctx → Word → Nat) : Prop :=
  ∀ (dt : Nat) (c : Fin 64) (z s : State) (w l : Word), s = z.elapse dt → s.Issues c w l → ok w →
    ∃ t, exec (i dt c) z = .next t ∧
      Ctx.went (s.ctx c) (t.ctx c) (f (s.ctx c) w (s.ctx c).fl) (p (s.ctx c) w) ∧
      State.onlyCtx s t c

end Sys2Proof.Machine
end

