-- ==== Sys2Proof/WellFormed.lean ====
section
/-! DEFINITION. WellFormed.lean: whether the operands of a command spell the row they stand in. -/

namespace Sys2Proof
open Machine

/-- A field of a written word. -/
def wordHas (w : Word) (f : Fld) (v : Nat) : Bool := decide (bitsOf w f.hi f.lo = v)

/-- A request of a sequencer: the host's word carries the row's code (R202). -/
def SeqOrigin.wf (o : SeqOrigin) (code : Nat) : Bool :=
  match o with
  | .host _ w => wordHas w F.SEQ_CMD_CMD code
  | .ctx _ => true

/-- A command of a cell or of the calendar: the host's word carries the row's code. -/
def CmdOrigin.wf (o : CmdOrigin) (f : Fld) (code : Nat) : Bool :=
  match o with
  | .host w => wordHas w f code
  | .ctx _ => true

/-- A frame that a node may send: a destination that is a node or all of them, at most 64 words (R434, R435). -/
def Frame.wf (f : Frame) : Bool := (decide (f.dst.toNat < 32) || decide (f.dst.toNat = 63)) && decide (f.words.length ≤ 64)

/-- The operands of a command spell its row: the code or the bit that a register word must carry, a frame that may be sent, a header of the row's command, a register of the row's kind. -/
def Instr.wf : Instr → Bool
  | .pwmRunSet _ _ w => wordHas w F.PWM_CTL_RUN 1
  | .pwmRunClear _ _ w => wordHas w F.PWM_CTL_RUN 0
  | .stepWr _ _ w => !wordHas w F.COM_CTL_STEP_WR 0
  | .seqStart _ o => o.wf 1
  | .seqStop _ o => o.wf 2
  | .seqClear _ o => o.wf 3
  | .ctxEnable _ w => wordHas w F.CTX_CMD_CMD 1
  | .ctxDisable _ w => wordHas w F.CTX_CMD_CMD 2
  | .ctxHalt _ w => wordHas w F.CTX_CMD_CMD 3
  | .ctxResume _ w => wordHas w F.CTX_CMD_CMD 4
  | .ctxStep _ w => wordHas w F.CTX_CMD_CMD 5
  | .ctxRestart _ w => wordHas w F.CTX_CMD_CMD 6
  | .cellOpen _ o _ => o.wf F.CELL_CMD_CMD 1
  | .cellClose _ o _ => o.wf F.CELL_CMD_CMD 2
  | .cellAuto _ o _ => o.wf F.CELL_CMD_CMD 3
  | .cellManual _ w => wordHas w F.CELL_CMD_CMD 4
  | .cellClear _ w => wordHas w F.CELL_CMD_CMD 5
  | .traceEnable _ w => wordHas w F.TRC_CTL_EN 1
  | .calInsert _ o => o.wf F.CAL_CMD_CMD 1
  | .calRemove _ o => o.wf F.CAL_CMD_CMD 2
  | .calRead _ w => wordHas w F.CAL_CMD_CMD 3
  | .calEnable _ w => wordHas w F.CAL_CTL_EN 1
  | .shroudClr _ _ w => wordHas w F.SHR_CMD_CLR 1
  | .shroudTest _ _ w => wordHas w F.SHR_CMD_TEST 1
  | .furlSet _ w => wordHas w F.FURL_CTL_SET 1
  | .furlClear _ w => wordHas w F.FURL_CTL_CLR 1
  | .busGroupAck _ w => wordHas w F.BG_SEL_ACK 1
  | .ackAll _ w => wordHas w F.FC_CMD_ACK_ALL 1
  | .logClr _ w => wordHas w F.FC_CMD_LOG_CLR 1
  | .firstClr _ w => wordHas w F.FC_CMD_FIRST_CLR 1
  | .peakClr _ w => wordHas w F.HK_CMD_PEAK_CLR 1
  | .shutClr _ w => wordHas w F.HK_CMD_SHUT_CLR 1
  | .stopSend _ w => wordHas w F.LK_STOP_SEND 1
  | .loopbackTest _ w => wordHas w F.LK_DIAG_LOOP 1
  | .tbRevert _ w => wordHas w F.TB_CMD_REVERT 1
  | .setTime _ w => wordHas w F.TB_CMD_SET 1
  | .beaconReceived _ _ f => f.wf
  | .messageReceived _ _ f => f.wf
  | .topoReceived _ _ f => f.wf
  | .publishReceived _ _ f _ => f.wf
  | .readReqReceived _ _ f => f.wf
  | .readRspReceived _ _ f => f.wf
  | .writeReceived _ _ f => f.wf
  | .syncReceived _ _ f => f.hdr.wf
  | .pdelayReqReceived _ _ f => f.hdr.wf
  | .pdelayRespReceived _ _ f _ => f.hdr.wf
  | .hostStop _ hdr => decide (hdr.toNat / 8192 = 6)
  | .reservedHeader _ hdr => decide (hdr.toNat / 8192 = 7) || (decide (hdr.toNat / 8192 = 0) && decide (5 ≤ hdr.toNat / 256 % 32))
  | .snapshotLowWordRead _ addr => decide (addr.toNat ∈ [R.UID0, R.TB_NS, R.FC_FIRST0, R.FC_LOG0])
  | .memGo _ w => wordHas w F.MEM_CMD_GO 1
  | .memAbort _ w => wordHas w F.MEM_CMD_ABORT 1
  | .psramUnmap _ w => wordHas w F.MEM_PSRAM_EN 0
  | .chal _ w => wordHas w F.ROLE_CMD_CMD 1
  | .resp _ w => wordHas w F.ROLE_CMD_CMD 2
  | .roleEnd _ w => wordHas w F.ROLE_CMD_CMD 3
  | .key _ w => wordHas w F.ROLE_CMD_CMD 4
  | .erase _ w => wordHas w F.ST_CMD_CMD 1
  | .prog _ w => wordHas w F.ST_CMD_CMD 2
  | .commit _ w => wordHas w F.ST_CMD_CMD 3
  | .load _ w => wordHas w F.ST_CMD_CMD 4
  | .jreg _ w => wordHas w F.ST_CMD_CMD 5
  | .jsig _ w => wordHas w F.ST_CMD_CMD 6
  | .jcommit _ w => wordHas w F.ST_CMD_CMD 7
  | .jdrop _ w => wordHas w F.ST_CMD_CMD 8
  | .stAbort _ w => wordHas w F.ST_CMD_CMD 9
  | .softReset _ w => wordHas w F.RST_CMD_CMD 1
  | .mastResetCmd _ w => wordHas w F.RST_CMD_CMD 2
  | .laneReset _ w => wordHas w F.RST_CMD_CMD 3
  | _ => true

end Sys2Proof
end

