-- ==== Sys2Proof/Certificates/Slice0/Obligations.lean ====
section
/-! DEFINITION. Certificates/Slice0/Obligations.lean: what is stated of the model for the provers. Each statement's docstring names the rules it is about. -/

open Sys2Proof Sys2Proof.Machine



/-! ### Commands, time, memories (ch. 1, 18) -/

/-- The block takes its commands first in, first out: a step is the effect of the oldest waiting command with the rest of the queue (the model's own; log
entry 3: with none waiting a step changes nothing). R6, R18, R75, R201, R362, R458, R488: where the time that passes to a command ends in the SPARCLK cycle
it began in, no more happens than that it passes and that path decisions fall due; where it ends in the next one, the cycle between does its work, in this
order: the ring has what it was given, the collector deals with the events, writes that waited for the cycle take effect, a SET_TIME loads, the calendar's
commands are carried out, and the requests of the sequencers act. -/
def Obligations.StepRunsFront : Prop :=
  ∀ s : State, (∀ (c : Instr) (r : List Instr), s.pending = c :: r → step s = exec c { s with pending := r }) ∧ (s.pending = [] → step s = .next s) ∧
    ∀ dt : Nat,
      let t := s.now + dt
      let c1 := (s.now / tSpar + 1) * tSpar
      (t < c1 → s.elapse dt = (s.look t).advance dt) ∧
      (c1 ≤ t → t < c1 + tSpar →
        let a := (s.look (c1 - 1)).sendPosts
        let b := if a.fc.events = [] then a else settle 3 a.collect.turn
        let d := (b.advance (c1 - a.now)).turn.letFree.tbLoad
        let e := d.cal.jobs.foldl (fun s j => s.calJob j) { d with cal.jobs := [] }
        let f := (e.mastList.foldl (fun s m => s.seqTurn m) e).sigTick
        s.elapse dt = (f.look t).advance (t - c1))

/-- Reset leaves the memories canonical, no command waiting, every register at its reset word, no signal written, and the block held
in internal reset (R560–R582); the reset words without a rule are the model's (log entries 1, 5). -/
def Obligations.ResetState : Prop :=
  State.reset.canonical ∧ State.reset.pending = [] ∧ State.reset.now = 0 ∧ (∀ key, State.reset.rd key = resetWord State.reset.variant key) ∧
    (∀ id, State.reset.sig id = sigReset id) ∧ State.reset.role.role = 0 ∧ State.reset.clk.locked = false ∧ State.reset.clk.ready = false ∧
    (∀ m : Fin 16, (State.reset.mast m).seq.st = .off ∧ (State.reset.mast m).seq.outEn = false ∧ (State.reset.mast m).pwm.counting = false ∧
      (State.reset.mast m).shr.latch = false ∧ State.reset.running m = false) ∧
    (∀ c : Fin 64, (State.reset.ctx c).st = .disabled ∧ (State.reset.ctx c).pend = [])

/-- Every step keeps the memories (registers, signals, program, table, cells, the store) in their canonical form. -/
def Obligations.CanonicalKept : Prop :=
  ∀ s t : State, step s = .next t → s.canonical → t.canonical

/-- Every command completes; it leaves the commands behind it and the variant as they are, and time never runs back.
The readings the rules leave open are the model's: log entry 2. -/
def Obligations.EveryCommandCompletes : Prop :=
  ∀ (i : Instr) (s : State), ∃ t, exec i s = .next t ∧ t.pending = s.pending ∧ t.variant = s.variant ∧ s.now ≤ t.now ∧ (s.canonical → t.canonical)

/-- R57, R59, R66, R78: whatever the mask, the sequencer, the safe states and furl ask for, the two gates of a leg are never on together, and with the
block not ready both are off. While the composition of a leg stays, the dead time of its plan parts the gates of a period: one that turns on does so more
than that time after the last instant the other was on. Where the composition changes, the last instant at which each gate was on is recorded, once an
instant, as are the gates then on, as furl does by SET; and a gate that was not on then comes on only its dead time after the other's recorded instant.
-/
def Obligations.GatesNeverTogether : Prop :=
  ∀ (s : State) (m : Fin 16) (l : Fin 4),
    let p := (s.mast m).pwm
    let off := p.offAt.toArray
    let lo : Fin 8 := Fin.ofNat 8 (2 * l.val)
    let hi : Fin 8 := Fin.ofNat 8 (2 * l.val + 1)
    let d := p.plans[l].dead (s.deadInt m l)
    ¬((s.gates m l).1 = true ∧ (s.gates m l).2 = true) ∧
    (s.clk.ready = false → s.gates m l = (false, false)) ∧
    (∀ t1 t2 : Nat, p.bPrev ≤ t1 → t1 < t2 →
      ((s.gatesAt m l t1).1 = true → (s.gatesAt m l t2).2 = true → (t1 : Int) + d.1 < t2) ∧
      ((s.gatesAt m l t1).2 = true → (s.gatesAt m l t2).1 = true → (t1 : Int) + d.2 < t2)) ∧
    (off.getD (2 * l.val) 0 ≠ 0 → (s.gates m l).2 = true →
      p.gateWas.testBit (2 * l.val + 1) = true ∨ off.getD (2 * l.val) 0 + (s.deadTimes m l).1 ≤ s.now) ∧
    (off.getD (2 * l.val + 1) 0 ≠ 0 → (s.gates m l).1 = true →
      p.gateWas.testBit (2 * l.val) = true ∨ off.getD (2 * l.val + 1) 0 + (s.deadTimes m l).2 ≤ s.now) ∧
    (s.legDrive m l = 0 → p.act.legs[l].dtr ≤ (s.deadTimes m l).1 ∧ p.act.legs[l].dtf ≤ (s.deadTimes m l).2) ∧
    ((s.gates m l).1 = true → s.lastOn m lo = s.now) ∧ ((s.gates m l).2 = true → s.lastOn m hi = s.now) ∧
    (∀ i : Fin 8, p.offAt[i] ≤ s.now → p.offAt[i] ≤ s.lastOn m i ∧ s.lastOn m i ≤ s.now) ∧
    (p.gateChg = s.now → s.gateMark m = s) ∧
    (p.gateChg ≠ s.now →
      let q := ((s.gateMark m).mast m).pwm
      q.gateChg = s.now ∧ (∀ i : Fin 8, q.offAt[i] = s.lastOn m i) ∧
      q.gateWas.testBit (2 * l.val) = (s.gates m l).1 ∧ q.gateWas.testBit (2 * l.val + 1) = (s.gates m l).2 ∧ q.unmarked = p.unmarked) ∧
    (∀ (dt : Nat) (w : Word) (z : State), (Instr.furlSet dt w).wf = true → s.furl.furled = false → s.hasMast m = true →
      HostRow dt 0 z s (.furlSet dt w) fun t => t.furl.furled = true ∧
        ∀ i : Fin 8, (t.mast m).pwm.offAt[i] = if p.gateChg = s.now then p.offAt[i] else s.lastOn m i)

/-- R24–R26, R50, R52: a reload leaves a period of at least 1,200; the set due at the boundary, or at B(0) the most recent commit that came early enough, else
zero compares, is loaded; with a period below 1,200 it is loaded with 1,200 and sets CFG_ERR. Of two entries complete at the same instant the untagged one is
the model's choice (log entry 78). -/
def Obligations.PeriodFloor : Prop :=
  ∀ (s : State) (m : Fin 16) (b : Nat), s.canonical →
    1200 ≤ ((s.reload m b).mast m).pwm.act.period ∧
    (∀ e, (s.mast m).pwm.k ≠ 0 → (s.mast m).resetAt = none → chooseEntry (s.mast m).pwm b = some e →
      ((s.reload m b).mast m).pwm.act = { e.set with period := max 1200 e.set.period } ∧
      (e.set.period < 1200 → (s.reload m b).flag F.PWM_STAT_CFG_ERR m = true)) ∧
    ((s.mast m).pwm.k = 0 → (s.mast m).resetAt = none →
      ((s.reload m b).mast m).pwm.act = { s.firstSet m b with period := max 1200 (s.firstSet m b).period } ∧
      ((s.firstSet m b).period < 1200 → (s.reload m b).flag F.PWM_STAT_CFG_ERR m = true)) ∧
    (∀ e, ((s.mast m).pwm.hist.filter fun e => decide (e.doneAt + 256 ≤ b)).getLast? = some e → s.firstSet m b = e.set) ∧
    ((∀ e ∈ (s.mast m).pwm.hist, b < e.doneAt + 256) → (s.firstSet m b).period = (s.staged m).period ∧
      ∀ l : Fin 4, (s.firstSet m b).legs[l] = { s.stagedLeg m l with a := 0, b := 0 })

/-- R3, R4, R39, R537: a register of an absent unit, an unimplemented offset and every offset of windows 0x0E and 0x0F read 0, and the read does not set
ABSENT; a write of the first is discarded and sets ABSENT, a write of the others does nothing; a write that would change a field above the
session's role is discarded in full and sets DENIED, through the host port or through JTAG. No other register takes anything, and no mast. -/
def Obligations.DiscardedWrites : Prop :=
  ∀ (dt : Nat) (port : WritePort) (addr : BitVec 13) (z s : State),
    s = (match port with | .host => (z.elapse dt).asked | .jtag => (z.elapse dt).hostTurn) → s.HostIdle → s.canonical →
    (addr.toNat / 256 = 14 ∨ addr.toNat / 256 = 15 → s.place addr.toNat = .none_) ∧
    (port = .host → s.place addr.toNat = .absent ∨ s.place addr.toNat = .none_ → (∀ e ∈ s.host.heldRegs, e.1 ≠ addr.toNat) →
      ∃ t, exec (.hostRead dt addr 1) z = .next t ∧ t.host.out = [0#32] ∧ t.rd R.HOST_STAT = s.rd R.HOST_STAT) ∧
    (∀ w : Word, (port = .jtag → s.tap.trstLow = false) → (s.place addr.toNat = .absent ∨ s.place addr.toNat = .none_ ∨
        ∃ a i row, s.place addr.toNat = .reg a i row ∧ a ≠ R.SIG_DATA ∧
          ∀ (h : HostPort) (j : Bool), s.role.role <
            ({ s with host := h, role := { s.role with lastWrite := s.now, jtag := j }, cyc.host := true } : State).writeNeed a i row w) →
      ∃ t, exec (.registerWrite dt ⟨port, addr⟩ w) z = .next t ∧ t.masts = s.masts ∧ t.role.role = s.role.role ∧
        (∀ key, key ≠ R.HOST_STAT → key % 0x2000 ∉ statusRegs → t.rd key = s.rd key) ∧
        (s.place addr.toNat = .absent → t.flag F.HOST_STAT_ABSENT 0 = true) ∧
        (s.place addr.toNat = .none_ → t.rd R.HOST_STAT = s.rd R.HOST_STAT) ∧
        ((∃ a i row, s.place addr.toNat = .reg a i row) → t.flag F.HOST_STAT_DENIED 0 = true))

/-! ### The Aupel instructions (ch. 6, 7) -/

/-- R300, R302: ADD, SUB, MUL, CMP, ADDI and CMPI give vd and all their flags, whatever the operands; CMP and CMPI write no register. -/
def Obligations.IntegerArithmetic : Prop :=
  RowGives .add 0x01 1 (fun x w _ => x.reg (iA w) + x.reg (iB w))
    (fun x w f =>
      let a := x.reg (iA w); let b := x.reg (iB w)
      { f with z := decide (a + b = 0#32), n := (a + b).msb, c := decide (2 ^ 32 ≤ a.toNat + b.toNat), v := decide (a.toInt + b.toInt ≠ (a + b).toInt) }) ∧
  RowGives .sub 0x02 1 (fun x w _ => x.reg (iA w) - x.reg (iB w))
    (fun x w f =>
      let a := x.reg (iA w); let b := x.reg (iB w)
      { f with z := decide (a = b), n := (a - b).msb, c := decide (b.toNat ≤ a.toNat), v := decide (a.toInt - b.toInt ≠ (a - b).toInt) }) ∧
  RowGives .mul 0x03 2 (fun x w _ => x.reg (iA w) * x.reg (iB w))
    (fun x w f =>
      let a := x.reg (iA w); let b := x.reg (iB w)
      { f with z := decide (a * b = 0#32), n := (a * b).msb,
               v := decide (a.toInt * b.toInt < -(2 ^ 31) ∨ 2 ^ 31 ≤ a.toInt * b.toInt) }) ∧
  RowGives .addi 0x11 1 (fun x w _ => x.reg (iD w) + (w.extractLsb' 0 20).signExtend 32)
    (fun x w f =>
      let a := x.reg (iD w); let b := (w.extractLsb' 0 20).signExtend 32
      { f with z := decide (a + b = 0#32), n := (a + b).msb, c := decide (2 ^ 32 ≤ a.toNat + b.toNat), v := decide (a.toInt + b.toInt ≠ (a + b).toInt) }) ∧
  RowGoes .cmp (fun w => iOp w = 0x0E)
    (fun x w f =>
      let a := x.reg (iA w); let b := x.reg (iB w)
      { f with z := decide (a = b), n := (a - b).msb, c := decide (b.toNat ≤ a.toNat), v := decide (a.toInt - b.toInt ≠ (a - b).toInt) })
    (fun x _ => x.pc + 1) ∧
  RowGoes .cmpi (fun w => iOp w = 0x13)
    (fun x w f =>
      let a := x.reg (iD w); let b := (w.extractLsb' 0 20).signExtend 32
      { f with z := decide (a = b), n := (a - b).msb, c := decide (b.toNat ≤ a.toNat), v := decide (a.toInt - b.toInt ≠ (a - b).toInt) })
    (fun x _ => x.pc + 1)

/-- R300–R302: the bitwise, shift, minimum and bit-field rows; the shift amount is bits 4:0 of vb or, with modifier bit 11, of the
modifier, C the last bit shifted out, and BFX and BFI work on the field of width bits 9:5 + 1 from bit bits 4:0.
MOV, MOVI, MOVHI and LIT write vd alone; LIT takes two words and two issue cycles. -/
def Obligations.LogicAndMoves : Prop :=
  let zn (f : Flags) (r : Word) : Flags := { f with z := decide (r = 0#32), n := r.msb }
  let amt (x : Ctx) (w : Word) : Nat := if w.getLsbD 11 then w.toNat % 32 else (x.reg (iB w)).toNat % 32
  let pos (w : Word) : Nat := w.toNat % 32
  let wide (w : Word) : Nat := w.toNat / 32 % 32 + 1
  let bfx (a w : Word) : Word := BitVec.ofNat 32 (a.toNat / 2 ^ pos w % 2 ^ wide w)
  let bfi (a d w : Word) : Word := BitVec.ofFnLE fun i : Fin 32 =>
    if pos w ≤ i.val ∧ i.val < pos w + wide w then a.getLsbD (i.val - pos w) else d.getLsbD i.val
  RowGives .and 0x04 1 (fun x w _ => x.reg (iA w) &&& x.reg (iB w)) (fun x w f => zn f (x.reg (iA w) &&& x.reg (iB w))) ∧
  RowGives .or 0x05 1 (fun x w _ => x.reg (iA w) ||| x.reg (iB w)) (fun x w f => zn f (x.reg (iA w) ||| x.reg (iB w))) ∧
  RowGives .xor 0x06 1 (fun x w _ => x.reg (iA w) ^^^ x.reg (iB w)) (fun x w f => zn f (x.reg (iA w) ^^^ x.reg (iB w))) ∧
  RowGives .shl 0x07 1 (fun x w _ => x.reg (iA w) <<< amt x w)
    (fun x w f => { zn f (x.reg (iA w) <<< amt x w) with c := if amt x w = 0 then f.c else (x.reg (iA w)).getLsbD (32 - amt x w) }) ∧
  RowGives .shr 0x08 1 (fun x w _ => x.reg (iA w) >>> amt x w)
    (fun x w f => { zn f (x.reg (iA w) >>> amt x w) with c := if amt x w = 0 then f.c else (x.reg (iA w)).getLsbD (amt x w - 1) }) ∧
  RowGives .sar 0x09 1 (fun x w _ => (x.reg (iA w)).sshiftRight (amt x w))
    (fun x w f => { zn f ((x.reg (iA w)).sshiftRight (amt x w)) with c := if amt x w = 0 then f.c else (x.reg (iA w)).getLsbD (amt x w - 1) }) ∧
  RowGives .min 0x0A 1 (fun x w _ => BitVec.ofInt 32 (min (x.reg (iA w)).toInt (x.reg (iB w)).toInt))
    (fun x w f => zn f (BitVec.ofInt 32 (min (x.reg (iA w)).toInt (x.reg (iB w)).toInt))) ∧
  RowGives .max 0x0B 1 (fun x w _ => BitVec.ofInt 32 (max (x.reg (iA w)).toInt (x.reg (iB w)).toInt))
    (fun x w f => zn f (BitVec.ofInt 32 (max (x.reg (iA w)).toInt (x.reg (iB w)).toInt))) ∧
  RowGives .bfx 0x0C 1 (fun x w _ => bfx (x.reg (iA w)) w) (fun x w f => zn f (bfx (x.reg (iA w)) w)) ∧
  RowGives .bfi 0x0D 1 (fun x w _ => bfi (x.reg (iA w)) (x.reg (iD w)) w) (fun x w f => zn f (bfi (x.reg (iA w)) (x.reg (iD w)) w)) ∧
  RowGives .mov 0x0F 1 (fun x w _ => x.reg (iA w)) (fun _ _ f => f) ∧
  RowGives .movi 0x10 1 (fun _ w _ => (w.extractLsb' 0 20).signExtend 32) (fun _ _ f => f) ∧
  RowGives .movhi 0x12 1 (fun _ w _ => w.extractLsb' 0 20 ++ 0#12) (fun _ _ f => f) ∧
  RowGives .lit 0x14 2 (fun _ _ l => l) (fun _ _ f => f) ∧
  (∀ w : Word, wordsOf w = if iOp w = 0x14 then 2 else 1)
/-- R292–R298, R303, R304: every binary32 row gives vd (FSINCOS and FROT vd and vd + 1), its flags and its latency: Z and N from the
result, V for an infinite result of finite operands or a saturated conversion, U on a NaN, L of FCLAMP where the result differs.
The readings the rules leave open are the model's: log entries 4, 7. -/
def Obligations.FloatRows : Prop :=
  let zn (f : Flags) (r : Word) : Flags := { f with z := fIsZero r, n := !fIsNaN r && r.msb, u := f.u || fIsNaN r }
  let znv (f : Flags) (r : Word) (ops : List Word) : Flags := { zn f r with v := fIsInf r && ops.all fFinite }
  let two (i : Nat → Fin 64 → Instr) (o lat : Nat) (r : Ctx → Word → Word × Word) : Prop :=
    ∀ (dt : Nat) (c : Fin 64) (z s : State) (w l : Word), s = z.elapse dt → s.Issues c w l → iOp w = o →
      ∃ t, exec (i dt c) z = .next t ∧
        (t.ctx c).reg (iD w) = (r (s.ctx c) w).1 ∧ (t.ctx c).reg (iD w + 1) = (r (s.ctx c) w).2 ∧
        (t.ctx c).rdyAt (iD w) = s.now + 64 * lat ∧ (t.ctx c).rdyAt (iD w + 1) = s.now + 64 * lat ∧
        (∀ k, k < 16 → k ≠ iD w → k ≠ iD w + 1 → (t.ctx c).reg k = (s.ctx c).reg k) ∧
        (t.ctx c).fl = { zn (s.ctx c).fl (r (s.ctx c) w).1 with u := (s.ctx c).fl.u || fIsNaN (r (s.ctx c) w).1 || fIsNaN (r (s.ctx c) w).2 } ∧
        (t.ctx c).pc = (s.ctx c).pc + 1 ∧ State.onlyCtx s t c
  RowGives .fadd 0x20 4 (fun x w _ => fAdd (x.reg (iA w)) (x.reg (iB w)))
    (fun x w f => znv f (fAdd (x.reg (iA w)) (x.reg (iB w))) [x.reg (iA w), x.reg (iB w)]) ∧
  RowGives .fsub 0x21 4 (fun x w _ => fSub (x.reg (iA w)) (x.reg (iB w)))
    (fun x w f => znv f (fSub (x.reg (iA w)) (x.reg (iB w))) [x.reg (iA w), x.reg (iB w)]) ∧
  RowGives .fmul 0x22 4 (fun x w _ => fMul (x.reg (iA w)) (x.reg (iB w)))
    (fun x w f => znv f (fMul (x.reg (iA w)) (x.reg (iB w))) [x.reg (iA w), x.reg (iB w)]) ∧
  RowGives .fma 0x23 4 (fun x w _ => fFma (x.reg (iA w)) (x.reg (iB w)) (x.reg (iD w)))
    (fun x w f => znv f (fFma (x.reg (iA w)) (x.reg (iB w)) (x.reg (iD w))) [x.reg (iA w), x.reg (iB w), x.reg (iD w)]) ∧
  RowGives .fdiv 0x2B 14 (fun x w _ => fDiv (x.reg (iA w)) (x.reg (iB w)))
    (fun x w f => znv f (fDiv (x.reg (iA w)) (x.reg (iB w))) [x.reg (iA w), x.reg (iB w)]) ∧
  RowGives .fsqrt 0x2C 14 (fun x w _ => fSqrt (x.reg (iA w))) (fun x w f => zn f (fSqrt (x.reg (iA w)))) ∧
  RowGives .fmin 0x24 2 (fun x w _ => fMin (x.reg (iA w)) (x.reg (iB w))) (fun x w f => zn f (fMin (x.reg (iA w)) (x.reg (iB w)))) ∧
  RowGives .fmax 0x25 2 (fun x w _ => fMax (x.reg (iA w)) (x.reg (iB w))) (fun x w f => zn f (fMax (x.reg (iA w)) (x.reg (iB w)))) ∧
  RowGives .fabs 0x26 2 (fun x w _ => fAbs (fCanon (x.reg (iA w)))) (fun x w f => zn f (fAbs (fCanon (x.reg (iA w))))) ∧
  RowGives .fneg 0x27 2 (fun x w _ => fNeg (fCanon (x.reg (iA w)))) (fun x w f => zn f (fNeg (fCanon (x.reg (iA w))))) ∧
  RowGives .fclamp 0x28 2
    (fun x w _ => if fIsNaN (fCanon (x.reg (iD w))) then qNaN else fClamp (fCanon (x.reg (iD w))) (fCanon (x.reg (iA w))) (fCanon (x.reg (iB w))))
    (fun x w f =>
      let r := if fIsNaN (fCanon (x.reg (iD w))) then qNaN else fClamp (fCanon (x.reg (iD w))) (fCanon (x.reg (iA w))) (fCanon (x.reg (iB w)))
      { zn f r with l := !fIsNaN r && decide (r ≠ fCanon (x.reg (iD w))) }) ∧
  RowGives .fatan2 0x2E 18 (fun x w _ => fAtan2 (x.reg (iA w)) (x.reg (iB w))) (fun x w f => zn f (fAtan2 (x.reg (iA w)) (x.reg (iB w)))) ∧
  RowGives .fwrap 0x30 4 (fun x w _ => fWrap (x.reg (iA w))) (fun x w f => zn f (fWrap (x.reg (iA w)))) ∧
  RowGives .fcvt 0x2A 3 (fun x w _ => (cvtOf (w.toNat % 16) (x.reg (iA w))).r)
    (fun x w f =>
      let r := cvtOf (w.toNat % 16) (x.reg (iA w))
      { f with z := r.z, n := r.n, v := r.sat, u := f.u || r.nan }) ∧
  two .fsincos 0x2D 18 (fun x w => (fSin (x.reg (iA w)), fCos (x.reg (iA w)))) ∧
  two .frot 0x2F 18 (fun x w => fRot (w.getLsbD 4) (x.reg (iA w)) (x.reg (iB w)) (x.reg (w.toNat % 16))) ∧
  RowGoes .fcmp (fun w => iOp w = 0x29)
    (fun x w f =>
      match fCmp (x.reg (iA w)) (x.reg (iB w)) with
      | .lt => { f with z := false, n := true, c := false, v := false }
      | .eq => { f with z := true, n := false, c := true, v := false }
      | .gt => { f with z := false, n := false, c := true, v := false }
      | .un => { f with z := false, n := false, c := false, v := true, u := true })
    (fun x _ => x.pc + 1) ∧
  (∀ (dt : Nat) (c : Fin 64) (z s : State) (w l : Word), s = z.elapse dt → s.Issues c w l → iOp w = 0x29 →
    ∃ t, exec (.fcmp dt c) z = .next t ∧ (t.ctx c).flRdy = max (s.ctx c).flRdy (s.now + 64 * 2))

/-- R292–R298, R303: what an arithmetic or function row delivers is never subnormal, and a NaN is 0x7FC00000. Of finite operands FADD, FSUB, FMUL, FMA,
FDIV, FSQRT and the conversions to binary32 give the word nearest the exact result, ties to even, zero where that rounds below 2^−126 and an infinity above
the range; a conversion to an integer rounds as its mode says and saturates; the invalid operations give NaN; FMIN and FMAX take the other operand of a
NaN; the function rows give NaN for operands that are not finite, and angles in (−π, +π]. The accuracy of R298 is stated against the fixed-point value the
model takes for the exact one (log entry 4); that a value is judged out of range after rounding is the model's (log entry 7). -/
def Obligations.FloatCanonical : Prop :=
  let ok (r : Word) : Prop := (fIsNaN r = true → r = 0x7FC00000#32) ∧ (r.toNat / 2 ^ 23 % 256 = 0 → r.toNat % 2 ^ 23 = 0)
  let ex (w : Word) : Nat := w.toNat / 2 ^ 23 % 256
  let fin (w : Word) : Prop := ex w ≠ 255
  let inf (w : Word) : Prop := ex w = 255 ∧ w.toNat % 2 ^ 23 = 0
  -- the exact value, in units of 2^-149
  let val (w : Word) : Int := if ex w = 0 then 0 else (if w.msb then -1 else 1) * ((2 ^ 23 + w.toNat % 2 ^ 23) * 2 ^ (ex w - 1) : Nat)
  -- r is num / den rounded
  let rounded (r : Word) (num : Int) (den : Nat) : Prop :=
    (4 * num.natAbs < (2 ^ 25 - 1) * den → fin r ∧ val r = 0) ∧
    ((2 ^ 25 - 1) * 2 ^ 252 * den ≤ num.natAbs → r = if num < 0 then 0xFF800000#32 else 0x7F800000#32) ∧
    ((2 ^ 25 - 1) * den ≤ 4 * num.natAbs → num.natAbs < (2 ^ 25 - 1) * 2 ^ 252 * den → fin r ∧ ∀ y, fin y →
      (val r * den - num).natAbs ≤ (val y * den - num).natAbs ∧
      ((val r * den - num).natAbs = (val y * den - num).natAbs → val y = val r ∨ r.getLsbD 0 = false))
  let floor (n v : Int) : Prop := n * 2 ^ 149 ≤ v ∧ v < (n + 1) * 2 ^ 149
  let ceil (n v : Int) : Prop := (n - 1) * 2 ^ 149 < v ∧ v ≤ n * 2 ^ 149
  let toInt (k : Nat) (lo hi : Int) (is : Int → Int → Prop) : Prop := ∀ a : Word,
    let x := cvtOf k a
    (fIsNaN a = true → x.r = 0#32 ∧ x.nan = true) ∧
    (inf a → x.r = BitVec.ofInt 32 (if a.msb then lo else hi) ∧ x.sat = true) ∧
    (∀ n : Int, fin a → is n (val a) → (lo ≤ n → n ≤ hi → x.r = BitVec.ofInt 32 n ∧ x.sat = false ∧ x.nan = false) ∧
      (n < lo → x.r = BitVec.ofInt 32 lo ∧ x.sat = true) ∧ (hi < n → x.r = BitVec.ofInt 32 hi ∧ x.sat = true))
  let trunc (n v : Int) : Prop := (0 ≤ v → floor n v) ∧ (v < 0 → ceil n v)
  (∀ a b d : Word, ok (fAdd a b) ∧ ok (fSub a b) ∧ ok (fMul a b) ∧ ok (fFma a b d) ∧ ok (fDiv a b) ∧ ok (fSqrt a) ∧
    ok (fMin a b) ∧ ok (fMax a b) ∧ ok (fAbs (fCanon a)) ∧ ok (fNeg (fCanon a)) ∧
    ok (fSin a) ∧ ok (fCos a) ∧ ok (fAtan2 a b) ∧ ok (fWrap a) ∧ ok (fRot true a b d).1 ∧ ok (fRot true a b d).2 ∧
    ok (fRot false a b d).1 ∧ ok (fRot false a b d).2 ∧ ok (fClamp (fCanon a) (fCanon b) (fCanon d))) ∧
  (∀ a b d : Word, fin a → fin b → fin d →
    rounded (fAdd a b) (val a + val b) 1 ∧ rounded (fSub a b) (val a - val b) 1 ∧ rounded (fMul a b) (val a * val b) (2 ^ 149) ∧
    rounded (fFma a b d) (val a * val b + val d * 2 ^ 149) (2 ^ 149) ∧
    (val b ≠ 0 → rounded (fDiv a b) (val a * 2 ^ 149 * (val b).sign) (val b).natAbs)) ∧
  (∀ a : Word, fin a → 0 < val a → fin (fSqrt a) ∧ 0 < val (fSqrt a) ∧ ∀ y, fin y → 0 ≤ val y →
    (val (fSqrt a) < val y → 4 * (val a * 2 ^ 149) ≤ (val (fSqrt a) + val y) ^ 2) ∧
    (val y < val (fSqrt a) → (val (fSqrt a) + val y) ^ 2 ≤ 4 * (val a * 2 ^ 149))) ∧
  (∀ a : Word, rounded (cvtOf 4 a).r (a.toInt * 2 ^ 149) 1 ∧ rounded (cvtOf 5 a).r (a.toNat * 2 ^ 149) 1) ∧
  toInt 0 (-(2 ^ 31)) (2 ^ 31 - 1) (fun n v => 2 * (n * 2 ^ 149 - v).natAbs ≤ 2 ^ 149 ∧ (2 * (n * 2 ^ 149 - v).natAbs = 2 ^ 149 → n % 2 = 0)) ∧
  toInt 1 (-(2 ^ 31)) (2 ^ 31 - 1) trunc ∧ toInt 2 (-(2 ^ 31)) (2 ^ 31 - 1) floor ∧ toInt 3 (-(2 ^ 31)) (2 ^ 31 - 1) ceil ∧ toInt 6 0 (2 ^ 32 - 1) trunc ∧
  (∀ a b : Word,
    (inf a → inf b → (a ≠ b → fAdd a b = qNaN) ∧ (a = b → fSub a b = qNaN) ∧ fDiv a b = qNaN) ∧
    (inf a → ex b = 0 → fMul a b = qNaN ∧ fMul b a = qNaN) ∧ (ex a = 0 → ex b = 0 → fDiv a b = qNaN) ∧
    (fin a → val a < 0 → fSqrt a = qNaN) ∧
    (fin a → val a ≠ 0 → ex b = 0 → fDiv a b = if a.msb = b.msb then 0x7F800000#32 else 0xFF800000#32) ∧
    (fIsNaN a = true → fMin a b = fCanon b ∧ fMax a b = fCanon b) ∧ (fIsNaN b = true → fMin a b = fCanon a ∧ fMax a b = fCanon a) ∧
    (fin a → fin b → val a < val b → fMin a b = fCanon a ∧ fMax a b = fCanon b ∧ fMin b a = fCanon a ∧ fMax b a = fCanon b) ∧
    (¬fin a → fSin a = qNaN ∧ fCos a = qNaN ∧ fWrap a = qNaN) ∧ (fIsNaN a = true ∨ fIsNaN b = true → fAtan2 a b = qNaN) ∧
    (ex a = 0 → fIsNaN b = false → fAtan2 a b = if ex b = 0 ∨ b.msb = false then 0#32 else 0x40490FDB#32) ∧
    (∀ i d, ¬fin a ∨ ¬fin b ∨ ¬fin d → fRot i a b d = (qNaN, qNaN)) ∧
    (fIsNaN a = false → fIsNaN b = false → fin (fAtan2 a b) ∧ val 0xC0490FDB#32 < val (fAtan2 a b) ∧ val (fAtan2 a b) ≤ val 0x40490FDB#32) ∧
    (fin a → fin (fWrap a) ∧ val 0xC0490FDB#32 < val (fWrap a) ∧ val (fWrap a) ≤ val 0x40490FDB#32)) ∧
  (∀ (v : Int) (k : Nat) (f : Word), k ≤ 22 → v.natAbs ≤ 2 ^ 102 → (val (withinAbs v k f) - v * 2 ^ 49).natAbs ≤ 2 ^ (149 - k)) ∧
  (∀ a : Word, fin a → (sinFix (angleFix a)).natAbs ≤ 2 ^ 102 → (cosFix (angleFix a)).natAbs ≤ 2 ^ 102 →
    let bound : Nat := if (val a).natAbs ≤ 65536 * 2 ^ 149 then 2 ^ 127 else 2 ^ 133
    (val (fSin a) - sinFix (angleFix a) * 2 ^ 49).natAbs ≤ bound ∧ (val (fCos a) - cosFix (angleFix a) * 2 ^ 49).natAbs ≤ bound)

/-- R285, R305, R306, R290, R323: B.cond, CALL, JR and NOP move pc and change no flag (CALL writes v15); FLAGS reads the six flags,
SETF writes those its mask names. The sum of an address and an offset is taken modulo 2^24, which no bank reaches (the model's choice
for a target outside its bank, log entry 48). -/
def Obligations.ControlFlow : Prop :=
  let cond (f : Flags) (k : Nat) : Bool :=
    [true, f.z, !f.z, f.n != f.v, f.n == f.v, !f.z && f.n == f.v, f.z || f.n != f.v, f.c, !f.c, f.v, !f.v, f.u, !f.u, f.l, !f.l, f.n].getD k false
  let target (x : Ctx) (w : Word) : Nat := (((x.pc : Int) + (w.extractLsb' 0 24).toInt) % (2 ^ 24 : Nat)).toNat
  RowGoes .bCond (fun w => 0x38 ≤ iOp w ∧ iOp w ≤ 0x47) (fun _ _ f => f)
    (fun x w => if cond x.fl (iOp w - 0x38) then target x w else x.pc + 1) ∧
  RowGoes .jr (fun w => iOp w = 0x49) (fun _ _ f => f) (fun x w => (x.reg (iA w)).toNat % 2 ^ 18) ∧
  RowGoes .nop (fun w => iOp w = 0x4B) (fun _ _ f => f) (fun x _ => x.pc + 1) ∧
  (∀ (dt : Nat) (c : Fin 64) (z s : State) (w l : Word), s = z.elapse dt → s.Issues c w l → iOp w = 0x48 →
    ∃ t, exec (.call dt c) z = .next t ∧
      (t.ctx c).reg 15 = BitVec.ofNat 32 ((s.ctx c).pc + 1) ∧ (∀ k, k < 15 → (t.ctx c).reg k = (s.ctx c).reg k) ∧
      (t.ctx c).fl = (s.ctx c).fl ∧ (t.ctx c).pc = target (s.ctx c) w ∧ State.onlyCtx s t c) ∧
  RowGives .flags 0x7B 1
    (fun x _ _ => BitVec.ofNat 32 (b2n x.fl.z + 2 * b2n x.fl.n + 4 * b2n x.fl.c + 8 * b2n x.fl.v + 16 * b2n x.fl.u + 32 * b2n x.fl.l))
    (fun _ _ f => f) ∧
  RowGoes .setf (fun w => iOp w = 0x7C)
    (fun x w f =>
      let g (i : Nat) (old : Bool) : Bool := if w.getLsbD i then (x.reg (iA w)).getLsbD i else old
      { z := g 0 f.z, n := g 1 f.n, c := g 2 f.c, v := g 3 f.v, u := g 4 f.u, l := g 5 f.l })
    (fun x _ => x.pc + 1)

/-- R233, R235–R237, R288, R305: END frees the lane and, once every result of the activation has come, ends it: with no trigger pending the context
waits, else the pending trigger first in the order of kinds starts the next activation. Until then the context is BLOCKED.
The readings the rules leave open are the model's: log entries 43, 75. -/
def Obligations.EndOfActivation : Prop :=
  ∀ (dt : Nat) (c : Fin 64) (z s : State) (w l : Word), s = z.elapse dt → s.Issues c w l → iOp w = 0x4A →
    let free (t : State) : Prop := (t.ctx c).v = (s.ctx c).v ∧ (t.ctx c).fl = (s.ctx c).fl ∧ (t.ctx c).lane = none ∧
      ∀ n, (s.ctx c).lane = some n → (t.lane n).ctx = none
    ((s.ctx c).doneAt ≤ s.now → s.flag F.TRC_CTL_EN = false → (s.ctx c).disableReq = false →
      ∃ t, exec (.endAct dt c) z = .next t ∧ free t ∧ State.onlyCtx s t c ∧
        ((s.ctx c).pend = [] → (t.ctx c).st = .waiting ∧ (t.ctx c).act = none) ∧
        (∀ g ∈ (s.ctx c).pend, (∀ u ∈ (s.ctx c).pend, g.kind ≤ u.kind) →
          (t.ctx c).st = .runnable ∧ (t.ctx c).act.map (·.kind) = some g.kind ∧ ∀ u ∈ (t.ctx c).pend, u.kind ≠ g.kind)) ∧
    (s.now < (s.ctx c).doneAt → ∃ t, exec (.endAct dt c) z = .next t ∧ free t ∧ State.onlyCtx s t c ∧
      (t.ctx c).st = .blocked ∧ (t.ctx c).wait = some (.ending (s.ctx c).doneAt))

/-- R307, R5, R30–R35, R195, R246, R308, R444, R516: a load of an on-chip or mirrored signal gives its value 2 cycles later, of one that hardware writes, or has
updated in the cycle, the value before that; a load of an absent unit's signal and one of an unmapped signal give 0.0, no flag changed; a load of an external
signal gives what the write buffer holds of it, else blocks the context, and so does one of a peer's signal that is not mirrored, with a request for the ring.
A store to an OP signal is taken unless a writer of a higher rank has written it in the cycle; to MSG_DST it also sends, to GPIO_OUT it drives the pins, to
HOST_BELL it rings; one to an external signal joins the write buffer or, where that is full, blocks the context; one to a peer's signal goes to the ring; one
to an absent unit's signal is discarded, to a hardware-owned, unmapped or mirrored one with U set; LDT reads table memory.
The readings the rules leave open are the model's: log entries 84, 96. -/
def Obligations.SignalsAndTable : Prop :=
  ∀ (dt : Nat) (c : Fin 64) (z s : State) (w l : Word), s = z.elapse dt → s.Issues c w l →
    let indexed : Nat := ((s.ctx c).reg (iA w) + (w.extractLsb' 0 12).signExtend 32).toNat
    let took (t : State) (v : Word) : Prop := Ctx.wrote (s.ctx c) (t.ctx c) (iD w) v (s.now + 128) (s.ctx c).fl 1
    let goes (t : State) (u : Bool) : Prop :=
      Ctx.went (s.ctx c) (t.ctx c) { (s.ctx c).fl with u := (s.ctx c).fl.u || u } ((s.ctx c).pc + 1)
    let load (i : Nat → Fin 64 → Instr) (id : Nat) : Prop :=
      (s.sigKind id = .op → (∀ e ∈ s.cyc.hwOld, e.1 ≠ id) → ∃ t, exec (i dt c) z = .next t ∧ took t (s.sigNow id) ∧ State.onlyCtx s t c) ∧
      (∀ v, s.sigKind id = .op → s.cyc.hwOld.find? (fun e => e.1 == id) = some (id, v) →
        ∃ t, exec (i dt c) z = .next t ∧ took t v ∧ State.onlyCtx s t c) ∧
      (s.sigKind id = .hw ∨ s.sigKind id = .mirror → ∃ t, exec (i dt c) z = .next t ∧ took t (s.before.sigNow id) ∧ State.onlyCtx s t c) ∧
      (s.sigKind id = .none_ → ∃ t, exec (i dt c) z = .next t ∧ took t 0#32 ∧ State.onlyCtx (s.noteSlow c id) t c) ∧
      (s.sigKind id = .absent → ∃ t, exec (i dt c) z = .next t ∧ took t 0#32 ∧ State.onlyCtx ((s.noteSlow c id).raise DS.ABSENT_UNIT 0) t c) ∧
      (∀ v, s.sigKind id = .ext → bufVal s.eng.wbuf id = some v → ∃ t, exec (i dt c) z = .next t ∧ took t v ∧ State.onlyCtx (s.noteSlow c id) t c) ∧
      (s.sigKind id = .ext → bufVal s.eng.wbuf id = none → ∃ t, exec (i dt c) z = .next t ∧ goes t false ∧
        (t.ctx c).st = .blocked ∧ (t.ctx c).wait = some (.access id (some (iD w)) 0#32 s.now false) ∧
        State.onlyCtx { s.noteSlow c id with mem.reads := s.mem.reads ++ [(c.val, id)] } t c) ∧
      (∀ node tgt, s.sigKind id = .peer node tgt → ∃ t, exec (i dt c) z = .next t ∧ goes t false ∧
        (t.ctx c).st = .blocked ∧ (t.ctx c).wait = some (.access id (some (iD w)) 0#32 s.now false) ∧ (t.ctx c).reqNo = (s.ctx c).reqNo + 1 ∧
        t.cyc.posts = insPost (s.laneRank c, .bulk 0 node [peerTag ((s.ctx c).reqNo + 1) c.val, BitVec.ofNat 32 tgt]) s.cyc.posts)
    let store (i : Nat → Fin 64 → Instr) (id : Nat) (x : Word) : Prop :=
      (s.sigKind id = .op → id ≠ 0x308 → id ≠ 0x501 → id ≠ 0x502 → s.canonical → ∃ t, exec (i dt c) z = .next t ∧ goes t false ∧
        t.sig id = (if s.outranked (s.laneRank c) id then s.sig id else x) ∧ ∀ j, j ≠ id → traceSig j = false → t.sig j = s.sig j) ∧
      (s.sigKind id = .hw ∨ s.sigKind id = .none_ ∨ s.sigKind id = .mirror → ∃ t, exec (i dt c) z = .next t ∧ goes t true ∧ t.sigs = s.sigs) ∧
      (s.sigKind id = .absent → ∃ t, exec (i dt c) z = .next t ∧ goes t false ∧ State.onlyCtx (s.raise DS.ABSENT_UNIT 0) t c) ∧
      (id = 0x308 → s.canonical → ∃ t, exec (i dt c) z = .next t ∧ goes t false ∧
        (x.toNat < 32 ∨ x.toNat = 63 → t.sig id = (if s.outranked (s.laneRank c) id then s.sig id else x) ∧
          t.cyc.posts = insPost (s.laneRank c, .message x.toNat) s.cyc.posts) ∧
        (32 ≤ x.toNat → x.toNat ≠ 63 → t.sigs = s.sigs ∧ t.cyc.posts = s.cyc.posts ∧ t.flag F.LK_STAT_CFG_ERR = true)) ∧
      (id = 0x501 → s.canonical → s.cyc.gpio = [] → s.mem.seqOn = none → ∃ t, exec (i dt c) z = .next t ∧ goes t false ∧
        t.rd R.GPIO_OUT = x ∧ t.sig id = x ∧ ∀ j, j ≠ id → traceSig j = false → t.sig j = s.sig j) ∧
      (id = 0x502 → s.canonical → ∃ t, exec (i dt c) z = .next t ∧ goes t false ∧ t.sig id = x ∧
        t.rd R.HOST_BELL = s.rd R.HOST_BELL ||| (x &&& 0xFFFF#32) ∧ t.fld F.HOST_IFLG_BELL = 1) ∧
      (s.sigKind id = .ext → s.outranked (s.laneRank c) id = true → bufVal s.eng.wbuf id = none →
        ∃ t, exec (i dt c) z = .next t ∧ goes t false ∧ State.onlyCtx s t c) ∧
      (s.sigKind id = .ext → s.outranked (s.laneRank c) id = false ∨ (bufVal s.eng.wbuf id).isSome = true → s.eng.wbuf.length < 16 →
        ∃ t, exec (i dt c) z = .next t ∧ goes t false ∧ t.eng.wbuf = bufPut s.cyc.bufd (s.laneRank c) (id, x) s.eng.wbuf) ∧
      (s.sigKind id = .ext → s.outranked (s.laneRank c) id = false ∨ (bufVal s.eng.wbuf id).isSome = true → 16 ≤ s.eng.wbuf.length →
        ∃ t, exec (i dt c) z = .next t ∧ goes t false ∧
        (t.ctx c).st = .blocked ∧ (t.ctx c).wait = some (.access id none x s.now false) ∧ State.onlyCtx s t c) ∧
      (∀ node tgt, s.sigKind id = .peer node tgt → ∃ t, exec (i dt c) z = .next t ∧ goes t false ∧
        t.cyc.posts = insPost (s.laneRank c, .bulk 2 node [BitVec.ofNat 32 tgt, x]) s.cyc.posts)
    (iOp w = 0x50 → load .lds (w.toNat % 2 ^ 20)) ∧ (iOp w = 0x52 → load .ldsi (indexed % 2 ^ 20)) ∧
    (iOp w = 0x51 → store .sts (w.toNat % 2 ^ 20) ((s.ctx c).reg (iD w))) ∧
    (iOp w = 0x53 → store .stsi (indexed % 2 ^ 20) ((s.ctx c).reg (iB w))) ∧
    (iOp w = 0x54 → ∃ t, exec (.ldt dt c) z = .next t ∧ took t (spGet 0#32 s.eng.tab (indexed % 4096)) ∧ State.onlyCtx s t c)

/-- R319–R322, R262, R263: TIME reads one instant into three registers, ACTV the trigger of the activation, DBELL rings a waiting
context, TRACE writes a record of type 2 into the buffer, or with the crow's nest off does nothing. -/
def Obligations.TimeTriggerTrace : Prop :=
  ∀ (dt : Nat) (c : Fin 64) (z s : State) (w l : Word), s = z.elapse dt → s.Issues c w l →
    let three (i : Nat → Fin 64 → Instr) (a b d : Word) : Prop :=
      ∃ t, exec (i dt c) z = .next t ∧ (t.ctx c).reg (iD w) = a ∧ (t.ctx c).reg (iD w + 1) = b ∧ (t.ctx c).reg (iD w + 2) = d ∧
        (∀ k, k < 16 → k < iD w ∨ iD w + 2 < k → (t.ctx c).reg k = (s.ctx c).reg k) ∧
        (t.ctx c).fl = (s.ctx c).fl ∧ (t.ctx c).pc = (s.ctx c).pc + 1 ∧ State.onlyCtx s t c
    (iOp w = 0x72 →
      let x := s.tb.total
      three .time (nat32 (x % nsSec / 2 ^ 32)) (nat32 (x / nsSec % 2 ^ 32)) (nat32 (x / nsSec / 2 ^ 32))) ∧
    (iOp w = 0x78 → ∀ g, (s.ctx c).act = some g → three .actv (nat32 g.kind) (nat32 g.a) (nat32 g.b)) ∧
    (iOp w = 0x79 → ∀ d : Fin 64,
      d.val = (if w.getLsbD 11 then ((s.ctx c).reg (iA w)).toNat % 64 else w.toNat % 64) → s.hasCtx d = true → d ≠ c →
      (s.ctx d).st = .waiting →
      ∃ t, exec (.dbell dt c) z = .next t ∧ Ctx.went (s.ctx c) (t.ctx c) (s.ctx c).fl ((s.ctx c).pc + 1) ∧
        (t.ctx d).st = .runnable ∧ (t.ctx d).act = some { kind := 7, a := c.val, b := 0, at_ := s.now }) ∧
    (iOp w = 0x7A → s.flag F.TRC_CTL_EN = false → ∃ t, exec (.trace dt c) z = .next t ∧
      Ctx.went (s.ctx c) (t.ctx c) (s.ctx c).fl ((s.ctx c).pc + 1) ∧ State.onlyCtx s t c) ∧
    (iOp w = 0x7A → s.canonical → s.flag F.TRC_CTL_EN = true → s.eng.trcTrig = true → s.eng.trcRun = true →
      (s.rd R.TRC_CTL).getLsbD 25 = true → s.flag F.TRC_CTL_DEST = false → (∀ x ∈ s.cyc.trc, x.rank ≤ s.cellRank c) →
      ∃ t, exec (.trace dt c) z = .next t ∧ Ctx.went (s.ctx c) (t.ctx c) (s.ctx c).fl ((s.ctx c).pc + 1) ∧
        t.eng.trcCount = s.eng.trcCount + 1 ∧
        t.sig (0xC00 + 4 * (s.eng.trcCount % 256)) = nat32 (2 * 2 ^ 28 + c.val * 2 ^ 22 + (iD w * 2 ^ 12 + w.toNat % 4096) % 2 ^ 22) ∧
        t.sig (0xC01 + 4 * (s.eng.trcCount % 256)) = nat32 (s.tb.total % nsSec / 2 ^ 32) ∧
        t.sig (0xC02 + 4 * (s.eng.trcCount % 256)) = (s.ctx c).reg (iA w) ∧
        t.sig (0xC03 + 4 * (s.eng.trcCount % 256)) = (s.ctx c).reg (iB w))
/-- R72, R310–R312, R314: OUTD and STGD stage the compares of the selected legs of the named mast, integer values limited to the field and duties rounded
against the PERIOD staged ahead of them, a NaN duty leaving its leg and setting U; STGP stages PERIOD, and converts anew the duties that a writer of a
higher rank has staged in the cycle; an absent mast changes nothing but pc. Every other staged value of every mast stays. So with no writer of a higher
rank in the SPARCLK cycle; what such a writer has staged stands (R316).
The readings the rules leave open are the model's: log entries 53, 84. -/
def Obligations.StagingRows : Prop :=
  ∀ (dt : Nat) (c : Fin 64) (z s : State) (w l : Word) (m : Fin 16), s = z.elapse dt → s.Issues c w l → s.canonical →
    m.val = (if w.getLsbD 11 then ((s.ctx c).reg (iD w)).toNat % 16 else w.toNat % 16) →
    let v (l : Nat) : Word := (s.ctx c).reg (iA w + l)
    let nan (l : Nat) : Bool := w.getLsbD (4 + l) && w.getLsbD 8 && fIsNaN (v l)
    let duty (per : Nat) (d : Word) : Nat :=
      if fLe d fZero then 0 else if fGe d fOne then 0x1FFFFF else (min 0x1FFFFF (max 0 (roundInt .rne (fScaled d * (32 * per : Nat))))).toNat
    let per : Nat := match stageTop s.cyc.stage (keyI R.PWM_CTL m) (s.laneRank c) with
      | some e => e.word.toNat % 65536
      | none => s.fld F.PWM_CTL_PERIOD m
    let value (l : Nat) : Nat := if w.getLsbD 8 then duty per (v l) else (min 0x1FFFFF (max 0 (v l).toInt)).toNat
    let first : Prop := ∀ e ∈ s.cyc.stage, e.rank ≤ s.laneRank c
    let put (g : LegSet) (x : Nat) : LegSet := if w.getLsbD 10 then { g with b := x } else { g with a := x }
    let staged (i : Nat → Fin 64 → Instr) : Prop :=
      ∃ t, exec (i dt c) z = .next t ∧
        Ctx.went (s.ctx c) (t.ctx c) { (s.ctx c).fl with u := (s.ctx c).fl.u || nan 0 || nan 1 || nan 2 || nan 3 } ((s.ctx c).pc + 1) ∧
        (∀ l, l < 4 → t.stagedLeg m l = if w.getLsbD (4 + l) && !nan l then put (s.stagedLeg m l) (value l) else s.stagedLeg m l) ∧
        (t.staged m).period = (s.staged m).period ∧ (∀ k, k ≠ m → t.staged k = s.staged k) ∧
        ((t.mast m).com.kindVec = true ↔ (s.mast m).com.kindVec = true ∧
          ¬ ∃ l, l < 3 ∧ w.getLsbD 10 = false ∧ w.getLsbD (4 + l) = true ∧ nan l = false)
    (s.hasMast m = true → (s.mast m).resetAt = none → first → iOp w = 0x60 → staged .outd) ∧
    (s.hasMast m = true → (s.mast m).resetAt = none → first → iOp w = 0x61 → staged .stgd) ∧
    (s.hasMast m = true → (s.mast m).resetAt = none → first → iOp w = 0x64 →
      ∃ t, exec (.stgp dt c) z = .next t ∧ Ctx.went (s.ctx c) (t.ctx c) (s.ctx c).fl ((s.ctx c).pc + 1) ∧
        (t.staged m).period = min 65535 ((s.ctx c).reg (iA w)).toNat ∧
        ((∀ e ∈ s.cyc.stage, e.duty = none ∨ e.key / 0x2000 ≠ m.val) → ∀ l, l < 4 → t.stagedLeg m l = s.stagedLeg m l) ∧
        ∀ k, k ≠ m → t.staged k = s.staged k) ∧
    (∀ e, s.hasMast m = true → (s.mast m).resetAt = none → stageTop s.cyc.stage (keyI R.PWM_CTL m) 10 = some e → s.laneRank c < e.rank →
      iOp w = 0x64 → ∃ t, exec (.stgp dt c) z = .next t ∧ (t.staged m).period = e.word.toNat % 65536) ∧
    (∀ (l : Fin 4) e d, s.hasMast m = true → (s.mast m).resetAt = none → (∀ x ∈ s.cyc.stage, x.key ≠ keyI R.PWM_CTL m) →
      stageTop s.cyc.stage (keyI R.LEG_CMP_A m + 8 * l) 10 = some e → s.laneRank c < e.rank → e.duty = some d →
      iOp w = 0x64 → ∃ t, exec (.stgp dt c) z = .next t ∧ (t.stagedLeg m l).a = duty (min 65535 ((s.ctx c).reg (iA w)).toNat) d) ∧
    (∀ i ∈ [(Instr.outd, 0x60), (Instr.stgd, 0x61), (Instr.outv, 0x62), (Instr.stgv, 0x63), (Instr.stgp, 0x64)],
      s.hasMast m = false → iOp w = i.2 →
      ∃ t, exec (i.1 dt c) z = .next t ∧ Ctx.went (s.ctx c) (t.ctx c) (s.ctx c).fl ((s.ctx c).pc + 1) ∧
        t.masts = s.masts ∧ ∀ k, t.staged k = s.staged k)

/-- R72, R169–R173, R310, R311, R313, R315: OUTD and OUTV commit the staging set of the named mast, complete 3 SPARCLK cycles after issue and 4 more for a
vector: tagged with the sample set where the activation is by a SAMPLE trigger of that mast, untagged otherwise; OUTV and STGV write VM_VA and VM_VB,
making the set of VECTOR kind, or set U where a value is not finite; STGD and STGV commit nothing. A set of VECTOR kind loads the modulator's conversion of
its vector: below 1.0 V half duties and VM_SAT, else the vector within its limit, with the zero sequence and the clamped leg of ZSEQ. That the commit
completes after exactly 3 cycles is the model's choice within "within 3 SPARCLK cycles" (log entry 44). So where no other writer of the SPARCLK cycle comes
between (R72, R316).
The readings the rules leave open are the model's: log entries 53, 84, 88. -/
def Obligations.CommitRows : Prop :=
  (∀ (dt : Nat) (c : Fin 64) (z s : State) (w l : Word) (m : Fin 16), s = z.elapse dt → s.Issues c w l → s.canonical →
    m.val = (if w.getLsbD 11 then ((s.ctx c).reg (iD w)).toNat % 16 else w.toNat % 16) → s.hasMast m = true → (s.mast m).resetAt = none →
    (∀ e ∈ s.cyc.stage, e.key / 0x2000 ≠ m.val) →
    (∀ e ∈ (s.mast m).pwm.untag ++ (s.mast m).pwm.shadow, e.cyc = s.now / tSpar → e.rank ≤ s.laneRank c) →
    let a := (s.ctx c).reg (iA w)
    let b := (s.ctx c).reg (iB w)
    let trig := (s.ctx c).act.map fun g => (g.kind, g.a, g.b)
    let done (t : State) : Nat := s.now + 384 + (if (t.mast m).com.kindVec then 512 else 0)
    let soft : Bool := decide (s.efld F.PWM_CTL_SH_SRC m = 0)
    let sheet : Option Nat := if iOp w = 0x60 ∧ w.getLsbD 9 = true ∧ soft = true then some (b.toNat % 256) else none
    let loads (e : Commit) (t : State) : Prop :=
      e.doneAt = done t ∧ e.rank = s.laneRank c ∧ e.sync = false ∧ e.sheet = sheet ∧ ((t.mast m).com.kindVec = false → e.set = t.staged m) ∧
      e.set.period = (t.staged m).period ∧ e.set.legs[3] = t.stagedLeg m 3 ∧
      ((t.mast m).com.kindVec = true → ∀ l : Fin 3,
        let r := (vmConvert (t.vmIn m (t.staged m)) (t.rd (keyI R.VM_VA m)) (t.rd (keyI R.VM_VB m))).1
        e.set.legs.toArray[l.val]? = some { t.stagedLeg m l with a := r.getD l 0 })
    let commits (t : State) : Prop :=
      (∀ k, trig ≠ some (1, m.val, k)) ∧
        (∃ e, (t.mast m).pwm.untag = putCommit (s.liveFrom m) e (s.mast m).pwm.untag ∧ loads e t) ∧ (t.mast m).pwm.shadow = (s.mast m).pwm.shadow ∨
      (∃ k, trig = some (1, m.val, k) ∧
        (∃ e, (t.mast m).pwm.shadow = twoTags (putCommit (s.liveFrom m) e (s.mast m).pwm.shadow) ∧ e.tag = k ∧ e.due = k + 1 + s.efld F.LOOP_CFG_DIV m ∧ loads e t) ∧
        (t.mast m).pwm.untag = (s.mast m).pwm.untag)
    let vector (t : State) : Prop :=
      (fFinite a = true ∧ fFinite b = true → t.rd (keyI R.VM_VA m) = a ∧ t.rd (keyI R.VM_VB m) = b ∧ (t.mast m).com.kindVec = true ∧
        Ctx.went (s.ctx c) (t.ctx c) (s.ctx c).fl ((s.ctx c).pc + 1)) ∧
      (fFinite a = false ∨ fFinite b = false → t.rd (keyI R.VM_VA m) = s.rd (keyI R.VM_VA m) ∧
        t.rd (keyI R.VM_VB m) = s.rd (keyI R.VM_VB m) ∧ (t.mast m).com.kindVec = (s.mast m).com.kindVec ∧
        Ctx.went (s.ctx c) (t.ctx c) { (s.ctx c).fl with u := true } ((s.ctx c).pc + 1))
    let none_ (t : State) : Prop := (t.mast m).pwm.untag = (s.mast m).pwm.untag ∧ (t.mast m).pwm.shadow = (s.mast m).pwm.shadow
    (iOp w = 0x60 → ∃ t, exec (.outd dt c) z = .next t ∧ commits t) ∧
    (iOp w = 0x61 → ∃ t, exec (.stgd dt c) z = .next t ∧ none_ t) ∧
    (iOp w = 0x62 → ∃ t, exec (.outv dt c) z = .next t ∧ commits t ∧ vector t) ∧
    (iOp w = 0x63 → ∃ t, exec (.stgv dt c) z = .next t ∧ none_ t ∧ vector t)) ∧
  ∀ (x : VmIn) (va vb e0 e1 e2 : Word), x.dtc = [e0, e1, e2] →
    let r := vmConvert x va vb
    let half (a : Word) : Word := fMul a fHalf
    let limit := fMul (if x.zseq = 0 then half x.vbus else fMul x.vbus fInvSqrt3) (fOfRat x.modMax 255)
    let size := fSqrt (fAdd (fMul va va) (fMul vb vb))
    let sat := fGt size limit
    let a := if sat then fMul va (fDiv limit size) else va
    let b := if sat then fMul vb (fDiv limit size) else vb
    let u := a
    let v := fAdd (fNeg (half a)) (fMul fSqrt3Half b)
    let w := fSub (fNeg (half a)) (fMul fSqrt3Half b)
    let lo := fMin u (fMin v w)
    let hi := fMax u (fMax v w)
    let zero := if x.zseq = 0 then fZero else if x.zseq = 2 then fSub (fNeg (half x.vbus)) lo else if x.zseq = 3 then fSub (half x.vbus) hi
      else fNeg (half (fAdd hi lo))
    let free (y e : Word) : Nat :=
      let d := fAdd (fAdd fHalf (fDiv (fAdd y zero) x.vbus)) e
      if fLe d fZero then 0 else if fGe d fOne then 0x1FFFFF else (fToInt .rne 0 0x1FFFFF (fMul d (fOfInt (32 * x.per)))).1.toNat
    let top := if x.zseq = 2 then lo else hi
    let end_ : Nat := if x.zseq = 2 then 0 else 0x1FFFFF
    let dpwm : Prop := x.zseq = 2 ∨ x.zseq = 3
    (fLt x.vbus fOne = true → r = ([16 * x.per, 16 * x.per, 16 * x.per], true)) ∧
    (r.1.length = 3 ∧ (x.per ≤ 65535 → ∀ n ∈ r.1, n ≤ 0x1FFFFF)) ∧
    (fLt x.vbus fOne = false → fGe (fAbs va) fBig = false → fGe (fAbs vb) fBig = false →
      r.2 = sat ∧
      r.1[0]? = some (if dpwm ∧ u = top then end_ else free u e0) ∧
      r.1[1]? = some (if dpwm ∧ u ≠ top ∧ v = top then end_ else free v e1) ∧
      r.1[2]? = some (if dpwm ∧ u ≠ top ∧ v ≠ top ∧ w = top then end_ else free w e2))
/-! ### Masts: periods, converters, sample sets (ch. 1–3) -/

/-- R23–R26, R48–R50, R53–R58, R63, R67–R70, R87, R102–R108: where a boundary of mast m has come, PWM_BOUNDARY carries it out on that mast alone: with RUN
set a period begins there, of the set due, T taps of R49 long, which the anchor trims by 2^SLEW taps at most, its AUXT instants still to come; with RUN
clear the timebase stops. A leg's outcome for the period is that of the case table for its compare pair, which the planner may shift. The case table goes
row by row. The planner shifts by the rooms of R105, in centre-aligned mode alone to earlier instants, and a plan it finds valid has the windows of R104
and its samples in them.
The readings the rules leave open are the model's: log entries 15, 78, 89, 91, 102. -/
def Obligations.BoundaryRow : Prop :=
  (∀ (dt : Nat) (m : Fin 16) (z s : State), s.boundaryDue m = true → (s.mast m).sense.released = true →
    let p := (s.mast m).pwm
    let set := if p.k = 0 then s.firstSet m p.bNext else ((chooseEntry p p.bNext).map (·.set)).getD p.act
    (MastRow dt m z s (.pwmBoundary dt m) fun y =>
      y.pwm.bPrev = p.bNext ∧ y.pwm.counting = s.running m ∧ y.sense.inlBar = (s.mast m).sense.inlBarNext ∧
      (s.running m = true → y.pwm.k = p.k + 1 ∧ y.pwm.fired = 0 ∧
        y.pwm.bNext = y.pwm.bPrev + y.pwm.tLen ∧ y.sense.released = false ∧
        ((s.mast m).resetAt = none → y.pwm.act.period = max 1200 set.period ∧
          ((s.mast m).seq.st = .off ∨ (s.mast m).seq.st = .run → (s.mast m).seq.reqs = [] → y.pwm.act = { set with period := max 1200 set.period })) ∧
        (let t := 32 * y.pwm.act.period * 2 ^ s.fld F.PWM_CTL_PRESC m * (if s.flag F.PWM_CTL_MODE m then 2 else 1)
         (s.flag F.PWM_ANCH_EN m = false → y.pwm.tLen = t) ∧
         t ≤ y.pwm.tLen + 2 ^ s.fld F.PWM_ANCH_SLEW m ∧ y.pwm.tLen ≤ t + 2 ^ s.fld F.PWM_ANCH_SLEW m) ∧
        ((∀ d ∈ s.deferred, d.key / 0x2000 ≠ m.val) → y.com.drive ≠ 2 → y.com.luff = none → y.com.est ∉ [.polarity, .low, .blend] →
          let planned := s.flag F.SNS_CTL_PLN_EN m && y.seq.outEn && decide (y.pwm.sheet % 64 ≠ 0x15)
          ∀ l : Fin 4,
            let f := s.legFld F.LEG_CFG_FUNC m l
            let a := y.pwm.act.legs[l]
            let centre := s.flag F.PWM_CTL_MODE m
            let own := s.legFld F.LEG_CFG_ASYM m l = 1 ∧ ¬(planned = true ∧ l.val < 3)
            let r := resolveLeg
              { centre := centre, stretch := s.legFld F.LEG_CFG_MINP_POL m l == 1, cal := (s.mast m).calValid[l], drive := s.legFld F.LEG_CFG_DRIVE m l
                tLen := y.pwm.tLen, per := y.pwm.act.period, p := 2 ^ s.fld F.PWM_CTL_PRESC m
                c := a.a, b := if own then a.b else if centre then a.a else 0, dtr := a.dtr, dtf := a.dtf, minp := a.minp }
            (f ≠ 1 → f ≠ 2 → y.pwm.plans[l] = .off) ∧
            (f = 1 ∨ f = 2 → (∃ d, y.pwm.plans[l] = r.1.shift d) ∧ (planned = false ∨ l.val = 3 → y.pwm.plans[l] = r.1)))) ∧
      (s.running m = false → y.pwm.k = 0 ∧ y.sense.released = true ∧ y.sense.capOld = none)) ∧
    (s.canonical → s.running m = true → (s.mast m).resetAt = none → set.period < 1200 →
      EventRow dt z s (.pwmBoundary dt m) fun t => t.flag F.PWM_STAT_CFG_ERR m = true)) ∧
  (∀ x : LegIn,
    let whole (v : Nat) : Nat := if x.cal then v else (v + 31) / 32 * 32
    let dr := if x.drive = 0 then whole x.dtr else 0
    let df := if x.drive = 0 then whole x.dtf else 0
    let taps (v : Nat) : Nat := if x.p = 1 ∧ x.cal = true then v else v / 32 * x.p * 32
    let c := taps x.c
    let b := taps x.b
    let least : Int := max (32 * x.minp) 64
    let mid : Int := 32 * x.per * x.p
    let high : Nat := if x.centre then c + b else c - b
    let rise : Int := if x.centre then mid - c else b
    let fall : Int := if x.centre then mid + b else c
    let edge (t : Int) : Int := if x.cal then t else t / 32 * 32
    let long := edge (x.tLen - df - least)
    resolveLeg x =
      if x.c = 0 ∨ (x.centre = false ∧ high = 0 ∧ x.c ≠ 0x1FFFFF) then (.low, .none)
      else if x.c = 0x1FFFFF then (.high, .none)
      else if (x.tLen : Int) < dr + df + 2 * least then (.off, .cfgErr)
      else if 32 * x.per ≤ x.c ∨ (x.centre = true ∧ 32 * x.per ≤ x.b) then
        (let r := if x.centre then edge ((x.tLen - long) / 2) else 0
         (.pulse r (r + long) dr df, .cmpSat))
      else if (high : Int) - dr < least then
        (let on := min (max (if x.centre then edge ((rise + fall - least) / 2) else rise + dr) dr) (long - least)
         (if x.stretch then .pulse (on - dr) (on + least) dr df else .low, .minpAct))
      else if (x.tLen : Int) - high - df < least then (if x.stretch then .pulse rise (rise + long) dr df else .high, .minpAct)
      else (.pulse rise fall dr df, .none)) ∧
  (∀ x : PlanIn, (x.legs.map (·.1)).Nodup → (∀ e ∈ x.legs, e.1 < 3) → 0 ≤ x.times.settle → 0 ≤ x.times.sample →
    let o := runPlanner x
    let d (l : Nat) : Int := o.shifts.getD l 0
    o.shifts.length = 3 ∧ (x.inl = true → ∀ l, d l = 0) ∧ (x.centre = false → ∀ l, 0 ≤ d l) ∧ (o.evalOk = false → ∀ l, d l = 0) ∧
    (∀ y ∈ x.order, (y.fixed = true → d y.l = 0) ∧ (0 < d y.l → y.fall + d y.l ≤ x.lim - y.df - y.m) ∧ (d y.l < 0 → y.m ≤ y.rise + d y.l)) ∧
    (o.plan.ok = true → ∃ q : List PLeg, q.map (·.l) = o.plan.order ∧ 2 ≤ q.length ∧ (∀ y ∈ q, ∃ w ∈ x.order, y = w.move (d w.l)) ∧
      (∀ w ∈ windows q, x.times.settle + x.times.sample ≤ w.2 - w.1 ∧
        ∀ y ∈ q, y.fixed = false → ¬(w.1 < y.rise ∧ y.rise < w.2) ∧ ¬(w.1 < y.fall ∧ y.fall < w.2)) ∧
      (∀ w, (windows q)[0]? = some w → 0 ≤ w.1 → w.1 + x.times.settle < o.plan.s1At + 32 ∧ o.plan.s1At + x.times.sample ≤ w.2) ∧
      (∀ w, (windows q).getLast? = some w → 0 ≤ w.1 → w.1 + x.times.settle < o.plan.s2At + 32 ∧ o.plan.s2At + x.times.sample ≤ w.2)))

/-- R82, R96–R99: an AUXT instant is used once in its period; the code of an ADC-S conversion joins its sample set and frees the
converter; ADC-P goes from slot to slot of its sequence; a held start begins when its converter is free.
The readings the rules leave open are the model's: log entries 9, 51. -/
def Obligations.ConverterRows : Prop :=
  ∀ (dt : Nat) (m : Fin 16) (z s : State),
    let x := (s.mast m).sense
    (∀ n : Fin 5, s.auxtDue m n = true → MastRow dt m z s (.auxtInstant dt m n) fun y => y.pwm.fired = (s.mast m).pwm.fired ||| 2 ^ n.val) ∧
    (∀ code c, x.adcS = some c → c.startAt + 1536 ≤ s.now →
      MastRow dt m z s (.adcSConversionDone dt m code) fun y => y.sense.adcS = none ∧
        (c.setNo = x.cap.k → c.idx = some 0 → y.sense.cap.s1 = some code.toInt ∧ y.sense.cap.s2 = x.cap.s2) ∧
        (c.setNo = x.cap.k → c.idx = some 1 → y.sense.cap.s1 = x.cap.s1 ∧ y.sense.cap.s2 = some code.toInt)) ∧
    (∀ c, x.adcS = none → x.sHeld = some c →
      MastRow dt m z s (.adcSHeldStart dt m) fun y => y.sense.adcS = some { c with startAt := s.now } ∧ y.sense.sHeld = none) ∧
    (∀ code c, x.adcP = some c → c.startAt + (c.slot + 1) * 3072 ≤ s.now →
      MastRow dt m z s (.adcPSlotDone dt m code) fun y =>
        y.sense.adcP = (if slotN c.pseq ≤ c.slot + 1 then none else some { c with slot := c.slot + 1 }) ∧
        (c.setNo = x.cap.k → y.sense.cap.pSlots = x.cap.pSlots ++ [(c.slot, slotCh c.pseq c.slot, code.toNat)])) ∧
    (∀ c, x.adcP = none → x.pHeld = some c →
      MastRow dt m z s (.adcPHeldSequence dt m) fun y => y.sense.adcP = some { c with startAt := s.now } ∧ y.sense.pHeld = none)

/-- R20, R100, R113–R115, R122, R124, R130, R131, R136, R331, R333: a complete sample set is released once, with the values of its conversions and why its
shunt is not valid; window recovery begins and ends; a cross-check test starts, on 2 to the power LEN + 4 periods, and ends with a result; with the
blanking window over, a comparator that stays asserted is latched.
The readings the rules leave open are the model's: log entries 12, 13, 14, 93, 104. -/
def Obligations.SetRows : Prop :=
  ∀ (dt : Nat) (m : Fin 16) (z s : State),
    let x := (s.mast m).sense
    (s.setDone m = true →
      MastRow dt m z s (.sampleSetRelease dt m) fun y => y.sense.capOld = none ∧ (x.capOld = none → y.sense.released = true) ∧ y.pwm.bNext = (s.mast m).pwm.bNext) ∧
    (s.recStartDue m = true → MastRow dt m z s (.windowRecoveryStart dt m) fun y => y.sense.recovery = true ∧ y.sense.recInv = 0 ∧ y.sense.planOkRun = b2n x.planOk) ∧
    (s.recEndDue m = true → MastRow dt m z s (.windowRecoveryEnd dt m) fun y => y.sense.recovery = false ∧ y.sense.recInv = 0) ∧
    (∀ c, s.setDone m = true → x.nextSet = some c → s.canonical → EventRow dt z s (.sampleSetRelease dt m) fun t =>
      let why : Nat :=
        if c.plan.active = false ∨ s.rsh m = 0 then 5 else if c.plan.order.length < 2 then 2 else if c.plan.ok = false then 1 else if c.changed then 3
        else if c.nS = 0 ∨ (c.plan.order.length = 3 ∧ c.nS < 2) then 7 else if c.lost then 6 else if c.sat then 4 else 0
      let last (ch : Nat) : Option Nat := ((c.pSlots.filter fun e => e.2.1 == ch).getLast?).map (·.2.2)
      let volts (ch div : Nat) : Word := match last ch with
        | none => 0#32
        | some raw => fOfRat (Config.trimP m.val ch raw * 3 * div) (4096 * 64)
      let amps (r : Int) : Word := if s.rsh m = 0 then 0#32 else
        fOfRat ((4 * Config.trimS m.val (s.gainCode m) r - s.shOfs4 m) * 8000000 * s.efld F.SH_CAL_XGAIN m) (5 * 4 * 8192 * s.gain m * s.rsh m * 32768)
      let refBad : Bool := match last 7 with
        | none => false
        | some raw => if 2024 ≤ Config.trimP m.val 7 raw ∧ Config.trimP m.val 7 raw ≤ 2072 then x.refBad && decide (x.refGoodRun + 1 < 16)
            else x.refBad || decide (1 ≤ x.refBadRun)
      let inside (ch : Nat) : Bool := match last ch with
        | none => false
        | some raw => decide (8 ≤ Config.trimP m.val ch raw ∧ Config.trimP m.val ch raw ≤ 4087)
      let inOk : Bool := inside 0 && inside 1 && !refBad && s.inlAvail m && !c.barred
      let ph : Nat := s.fld F.SNS_CTL_INL_PH m
      let cur (p : Nat) : Word := t.msig m p
      t.msig m 0x00C = nat32 c.k ∧ t.msig m 0x00E = nat32 why ∧ t.msig m 0x009 = (if why = 0 then 1#32 else 0#32) ∧
      t.msig m 0x008 = (if c.inline then b2w inOk else if why = 0 then 1#32 else 0#32) ∧ t.msig m 0x026 = b2w (c.pStarted && !refBad) ∧
      (∀ r, c.s1 = some r → t.msig m 0x003 = amps r ∧ t.msig m 0x010 = fSeconds c.t1) ∧
      (∀ r, c.s2 = some r → t.msig m 0x004 = amps r ∧ t.msig m 0x011 = fSeconds c.t2) ∧
      (∀ r, c.s1 = some r → c.s2 = none → c.plan.order.length = 2 → t.msig m 0x004 = amps r ∧ t.msig m 0x011 = fSeconds c.t1) ∧
      (t.msig m 0x008 = 0#32 → ∀ p, p < 3 → cur p = s.msig m p) ∧
      (c.inline = false → why = 0 → c.s1.isSome = true →
        (∀ a b, c.plan.order = [a, b] → a < 3 → b < 3 → a ≠ b → cur a = fNeg (t.msig m 0x003) ∧ cur b = t.msig m 0x003 ∧ ∀ p, p < 3 → p ≠ a → p ≠ b → cur p = 0#32) ∧
        (∀ a b d, c.plan.order = [a, b, d] → [a, b, d].Perm [0, 1, 2] → c.s2.isSome = true →
          cur a = fNeg (t.msig m 0x003) ∧ cur d = t.msig m 0x004 ∧ cur b = fSub (t.msig m 0x003) (t.msig m 0x004))) ∧
      (c.nS ≠ 0 ∨ c.pStarted = true →
        t.msig m 0x00A = b2w c.inline ∧ t.msig m 0x00B = nat32 c.reason ∧ t.msig m 0x00D = nat32 (if why = 0 then 0 else min 255 (x.invRun + 1)) ∧
        t.msig m 0x00F = x.xK ∧
        t.msig m 0x020 = volts 2 (s.efld F.VDIV_VPH_DIV m) ∧ t.msig m 0x021 = volts 3 (s.efld F.VDIV_VPH_DIV m) ∧
        t.msig m 0x022 = volts 4 (s.efld F.VDIV_VPH_DIV m) ∧ t.msig m 0x023 = volts 5 (s.efld F.VDIV_VBUS_DIV m) ∧
        t.msig m 0x024 = volts 6 64 ∧ t.msig m 0x025 = volts 7 64 ∧
        (c.inline = true → inOk = true → ph < 3 →
          cur ph = t.msig m 0x005 ∧ cur ((ph + 1) % 3) = t.msig m 0x006 ∧ cur ((ph + 2) % 3) = fSub (fNeg (t.msig m 0x005)) (t.msig m 0x006))) ∧
      (c.nS = 0 → c.pStarted = false → ∀ o ∈ [0x005, 0x006, 0x00A, 0x00B, 0x00D, 0x00F, 0x020, 0x021, 0x022, 0x023, 0x024, 0x025], t.msig m o = s.msig m o)) ∧
    (s.xchkDue m = true → MastRow dt m z s (.xchkTestStart dt m) fun y => y.sense.xPeriods = 0 ∧
      (x.inline = false → x.reason = 0 → x.xRun = none → y.sense.xRun = some (2 ^ (s.efld F.XCHK_CFG_LEN m + 4)) ∧ y.sense.xN = 0)) ∧
    (x.xRun = some 0 → MastRow dt m z s (.xchkTestEnd dt m) fun y => y.sense.xRun = none ∧ (y.sense.xRes = 1 ∨ y.sense.xRes = 2 ∨ y.sense.xRes = 3) ∧
      (y.sense.xRes = 3 ↔ x.xN < 64 ∧ x.xForceFail = false)) ∧
    (s.hasMast m = true → s.ocBlank m = false → MastRow dt m z s (.blankingWindowEnd dt m) fun y =>
      y.pwm.bNext = (s.mast m).pwm.bNext ∧
      ((s.ocLevel m 0 && s.flag F.SHR_CTL_OCP_EN m && !s.flag F.SHR_CTL_OCP_CBC m) = true → y.shr.ocp = true) ∧
      ((s.ocLevel m 1 && s.flag F.SHR_CTL_OCN_EN m && !s.flag F.SHR_CTL_OCN_CBC m) = true → y.shr.ocn = true))
/-- R52, R53, R72, R149, R338, R360: setting RUN starts the timebase of mast m, its first boundary 16 PWMCLK cycles on where it is not
anchored; RUN is cleared only with the outputs off; PWM_COMMIT commits the staging set; STEP_WR gives a step event; SHR_CMD.CLR clears the
latches whose cause has gone, and TEST starts the self-test with the outputs off and no latch set, and is refused otherwise.
The commit copies the staging set where no context has written it in the SPARCLK cycle (R72).
The readings the rules leave open are the model's: log entries 51, 84. -/
def Obligations.MastCommands : Prop :=
  ∀ (dt : Nat) (m : Fin 16) (w : Word) (z s : State), s.hasMast m = true → s.canonical →
    ((Instr.pwmRunSet dt m w).wf = true → s.running m = false →
      HostRow dt 0 z s (.pwmRunSet dt m w) fun t => t.running m = true ∧ (t.mast m).pwm.counting = true ∧
        ((s.mast m).pwm.counting = false → s.flag F.PWM_ANCH_EN m = false →
          (t.mast m).pwm.bNext = s.now + 512 ∧ (t.mast m).pwm.k = 0)) ∧
    ((Instr.pwmRunClear dt m w).wf = true → s.running m = true →
      HostRow dt 0 z s (.pwmRunClear dt m w) fun t => t.running m = s.outputsOn m ∧ (t.mast m).pwm.counting = (s.mast m).pwm.counting ∧
        (s.outputsOn m = true → t.flag F.PWM_STAT_CFG_ERR m = true)) ∧
    (w.getLsbD 0 = true → (s.mast m).resetAt = none → (s.mast m).com.kindVec = false →
      (∀ e ∈ s.cyc.stage, e.key / 0x2000 ≠ m.val) →
      HostRow dt 0 z s (.pwmCommit dt m w) fun t => ∃ e, (t.mast m).pwm.untag = putCommit (s.liveFrom m) e (s.mast m).pwm.untag ∧
        e.set = s.staged m ∧ e.doneAt = s.now ∧ e.rank = 0 ∧
        (t.mast m).pwm.shadow = (s.mast m).pwm.shadow ∧ (t.mast m).pwm.act = (s.mast m).pwm.act) ∧
    (w.getLsbD 19 = true → bitsOf w 18 16 < 6 → bitsOf w 9 0 = bitsOf (s.rd (keyI R.COM_CTL m)) 9 0 → s.comMode m = 1 → s.asrc m = 0 →
      (s.mast m).com.drive = 2 → (s.mast m).pwm.counting = true → s.efld F.PWM_CTL_SH_SRC m = 1 → s.efld F.PWM_CTL_SH_SYNC m = 1 →
      (s.mast m).com.target ≠ bitsOf w 18 16 →
      HostRow dt 1 z s (.stepWr dt m w) fun t => (t.mast m).pwm.stepPend = (s.mast m).pwm.stepPend ++ [(bitsOf w 18 16, s.now)] ∧
        (t.mast m).com.step = (s.mast m).com.step) ∧
    (w.getLsbD 0 = true → w.getLsbD 1 = false →
      HostRow dt 0 z s (.shroudClr dt m w) fun t =>
        (t.mast m).shr.ocp = ((s.mast m).shr.ocp && (s.ocLevel m 0 && s.flag F.SHR_CTL_OCP_EN m)) ∧
        (t.mast m).shr.ocn = ((s.mast m).shr.ocn && (s.ocLevel m 1 && s.flag F.SHR_CTL_OCN_EN m)) ∧
        (t.mast m).shr.trip = ((s.mast m).shr.trip && ((s.mast m).shr.tripLvl && s.flag F.SHR_CTL_TRIP_EN m))) ∧
    (w.getLsbD 1 = true → w.getLsbD 0 = false → (s.mast m).seq.outEn = false → (s.mast m).seq.brakeLow = false → (s.mast m).shr.latch = false →
      HostRow dt 0 z s (.shroudTest dt m w) fun t => (t.mast m).shr.testAt = some (s.now)) ∧
    (w.getLsbD 1 = true → w.getLsbD 0 = false → (s.mast m).seq.outEn = true ∨ (s.mast m).seq.brakeLow = true ∨ (s.mast m).shr.latch = true →
      HostRow dt 0 z s (.shroudTest dt m w) fun t => (t.mast m).shr.testAt = (s.mast m).shr.testAt ∧ t.flag F.SHR_STAT_CFG_ERR m = true)

/-! ### Housekeeping and supplies (ch. 10) -/

/-- R61, R62, R394, R395, R417, R420: a slot of the bosun's round gives way to the next after 625 HKCLK cycles, and the phase detector to the next leg; the
fast calibration makes every line of the masts present valid, once; a monitor goes out of range, and comes back once it has been in range for 1 ms;
PEAK_CLR takes the present maximum; SHUT_CLR clears the latch below SHUT − HYST (R413).
The readings the rules leave open are the model's: log entries 33, 79. -/
def Obligations.Housekeeping : Prop :=
  ∀ (dt : Nat) (z s : State),
    (∀ code early, s.hk.running = true → s.hk.slotAt ≤ s.now → EventRow dt z s (.bosunSlot dt code early) fun t =>
      t.hk.slot = (s.hk.slot + 1) % 48 ∧ t.hk.round = (if s.hk.slot = 47 then s.hk.round + 1 else s.hk.round) ∧
      t.hk.slotAt = s.hk.slotAt + 625 * tHk ∧ t.hk.visit = (s.hk.visit + 1) % (4 * s.variant.masts)) ∧
    (s.clk.locked = true → s.clk.fastDone = false → EventRow dt z s (.fastCalibrationDone dt) fun t => t.clk.fastDone = true ∧
      ∀ m : Fin 16, s.hasMast m = true → (t.mast m).calValid = Vector.replicate 4 true) ∧
    (∀ n : Fin 6, EventRow dt z s (.supplyOutOfRange dt n) fun t => (∀ k, t.hk.supOut.testBit k = (s.hk.supOut.testBit k || decide (k = n.val))) ∧
      t.hk.supAt[n] = s.now ∧
      (s.canonical → s.hk.supOut.testBit n = false → (t.rd R.SUP_STAT).getLsbD (8 + n) = true)) ∧
    (∀ n : Fin 6, EventRow dt z s (.supplyInRange dt n) fun t => ∀ k, t.hk.supOut.testBit k = (s.hk.supOut.testBit k && (decide (k ≠ n.val) || decide (s.now < s.hk.supAt[n] + tMs)))) ∧
    (∀ w : Word, w.getLsbD 1 = true → HostRow dt 1 z s (.peakClr dt w) fun t => t.hk.peak = s.hk.dieMax ∧ t.hk.peakSns = s.hk.hottest) ∧
    (∀ w : Word, w.getLsbD 0 = true → HostRow dt 1 z s (.shutClr dt w) fun t => t.hk.shut = (s.hk.shut && !s.cooled))

/-! ### Commutation and angle (ch. 3, 4) -/

/-- R148, R156, R158–R161: an accepted Hall code is counted and, where it belongs to a sector, names it and ends an illegal one, which else begins;
the sector beside the last one becomes the rotor's; an illegal code that stays is a sensor fault once; a rotor without
edges stands still, which TRACK follows with speed 0. A quadrature edge moves the position one count, forward or back, around CPR; the index
sets it to 0; an angle that has left its sector takes the sector it is in.
The readings the rules leave open are the model's: log entries 21, 54, 94. -/
def Obligations.PositionSensors : Prop :=
  ∀ (dt : Nat) (m : Fin 16) (z s : State), s.hasMast m = true →
    let h := s.hallPins m
    let g := s.quadPins m
    let c := (s.mast m).com
    (s.hallDue m = true → MastRow dt m z s (.hallCodeAccepted dt m) fun y =>
      y.com.hallCode = h.1 ∧ y.com.hallNo = c.hallNo + 1 ∧
      (s.hallSector m h.1 = none → y.com.hallIllegal = some h.2 ∧ y.com.hallSec = c.hallSec) ∧
      (∀ n, s.hallSector m h.1 = some n → y.com.hallIllegal = none ∧ y.com.hallRef = some n ∧
        (∀ p, c.hallRef = some p → p ≠ n →
          y.com.hallSec = (if adjacent6 p n then some n else c.hallSec)) ∧ (c.hallRef = none → y.com.hallSec = some n))) ∧
    (∀ t, c.hallIllegal = some t → t + 100 * tUs ≤ s.now →
      MastRow dt m z s (.hallIllegalTimeout dt m) fun y => y.com.hallIllegal = none ∧ y.com.sensorBad = true) ∧
    (s.hallStillDue m = true → MastRow dt m z s (.hallTimeout dt m) fun y => y.com.hallStill = true ∧
      y.com.omega = fZero ∧ ∀ n, c.hallSec = some n → y.com.theta = angMod (fAdd (degW (sectorCentre n)) (s.msig m 0x064))) ∧
    (s.quadDue m = true → MastRow dt m z s (.quadEdge dt m) fun y => y.com.quadAB = g.1 ∧
      (s.efld F.QUAD_CFG_CPR m = 0 → y.com.quadPos = c.quadPos) ∧
      (s.efld F.QUAD_CFG_CPR m ≠ 0 → quadNext c.quadAB = g.1 → y.com.quadPos = (c.quadPos + 1) % s.efld F.QUAD_CFG_CPR m) ∧
      (s.efld F.QUAD_CFG_CPR m ≠ 0 → quadNext c.quadAB ≠ g.1 → quadNext g.1 = c.quadAB →
        y.com.quadPos = (c.quadPos + s.efld F.QUAD_CFG_CPR m - 1) % s.efld F.QUAD_CFG_CPR m) ∧
      (quadNext c.quadAB ≠ g.1 → quadNext g.1 ≠ c.quadAB → y.com.quadPos = c.quadPos)) ∧
    (s.quadZDue m = true → MastRow dt m z s (.quadIndex dt m) fun y => y.com.quadPos = 0 ∧ y.com.quadZ = true) ∧
    (s.advDue m = true → MastRow dt m z s (.advancedAngleCheck dt m) fun y => y.com.advNo = s.advTick ∧ y.com.sector =
      (let a := s.advAngle m (s.advTick * (8 * tSpar)); if s.angleSteers m && fFinite a && leftSector c.sector a then sectorOf a else c.sector))

/-- R164–R167, R194: an accepted zero crossing ends the run of misses and, where crossings steer, sets the next step by half the step time less
ADV; the step timer takes the next step's sector; a miss counts and goes to it as well, the sixth loses the estimator.
The readings the rules leave open are the model's: log entries 17, 22, 94. -/
def Obligations.ZeroCrossingRows : Prop :=
  ∀ (dt : Nat) (m : Fin 16) (z s : State), s.hasMast m = true →
    let c := (s.mast m).com
    -- the mean of the last two intervals, of which none lies between two forced steps
    let stepT (t : Nat) (forced : Bool) : Nat := match c.zcRef with
      | none => c.stepT
      | some (r, f) => if f && forced then c.stepT else match c.zcPrevInt with
        | none => t - r
        | some p => (t - r + p) / 2
    (∀ (lvl : Bool) (age : Nat), s.zcDue m lvl age = true → MastRow dt m z s (.zeroCrossingAccepted dt m ⟨lvl, age⟩) fun y =>
      let tz := s.now - age
      y.com.zcLast = some tz ∧ y.com.missRun = 0 ∧ y.com.measAt = tz ∧
      y.com.stepT = stepT tz false ∧
      (c.zcSteer = true → y.com.zcSteer = true ∧
        y.com.zcNext = some (max tz ((tz + stepT tz false * (60 - s.efld F.ZC_CFG_ADV m) / 120) / 32 * 32)))) ∧
    (s.zcStepDue m = true → MastRow dt m z s (.zcStepTimer dt m) fun y => y.com.zcNext = none ∧ y.com.sector = stepSector c.rev c.nextStep) ∧
    (s.zcMissDue m = true → MastRow dt m z s (.zcMiss dt m) fun y => y.com.sector = stepSector c.rev c.nextStep ∧
      y.com.missRun = c.missRun + 1 ∧ (c.missRun < 5 → y.com.stepT = stepT (c.evAt + c.stepT + c.stepT / 2) true) ∧ (5 ≤ c.missRun → y.com.est = .lost))

/-- R151, R182, R183: the last period of a transfer ends it in its step; a correlator window ends with its sums cleared and its mean kept; the phases of
the polarity pulses follow one another, and decide.
The readings the rules leave open are the model's: log entries 20, 54. -/
def Obligations.TransferAndPolarity : Prop :=
  ∀ (dt : Nat) (m : Fin 16) (z s : State),
    let c := (s.mast m).com
    (s.luffOver m = true → MastRow dt m z s (.luffTransferEnd dt m) fun y => y.com.luff = none ∧
      ∀ l, c.luff = some l → y.pwm.sheet = s.evMask m l.toS ∧ (l.toS < 6 → y.com.step = l.toS) ∧
        let floats (mask n : Nat) : Prop := (mask >>> (2 * n)) % 4 = 1
        ((∃ n, n < 3 ∧ floats y.pwm.sheet n ∧ ¬floats (s.mast m).pwm.sheet n) → y.com.floatAt = (s.mast m).pwm.bNext) ∧
        ((∀ n, n < 3 → floats y.pwm.sheet n → floats (s.mast m).pwm.sheet n) → y.com.floatAt = c.floatAt)) ∧
    (s.hasMast m = true → s.winDue m = true → MastRow dt m z s (.correlatorWindowEnd dt m) fun y =>
      y.com.cCnt = 0 ∧ y.com.cN = 0 ∧ y.com.cD = fZero ∧ y.com.cQ = fZero ∧ y.com.cdOut = fDiv c.cD (fOfInt c.cN)) ∧
    (s.polOver m = true → MastRow dt m z s (.polarityPulseEnd dt m) fun y =>
      (c.pol.phase = .plus → y.com.pol.phase = .zero1 ∧ y.com.pol.nPlus = c.pol.n ∧ y.com.pol.iPlus = s.idAbs m ∧ y.com.pol.n = 0) ∧
      (c.pol.phase = .zero1 → y.com.pol.phase = .minus ∧ y.com.pol.n = 0) ∧
      (c.pol.phase = .minus → y.com.pol.phase = .zero2 ∧ y.com.pol.nMinus = c.pol.n ∧ y.com.pol.iMinus = s.idAbs m ∧ y.com.pol.n = 0) ∧
      (c.pol.phase = .zero2 → (polDecide c.pol = 1 → y.com.polResult = 1) ∧
        (polDecide c.pol = 2 → y.com.polResult = 2 ∧ y.com.theta = angMod (fAdd c.theta fPi)) ∧
        (polDecide c.pol ≠ 1 → polDecide c.pol ≠ 2 →
          (c.pol.second = true → y.com.polResult = 3) ∧ (c.pol.second = false → y.com.pol.phase = .plus ∧ y.com.pol.second = true))))

/-! ### The start sequencer, the halyard, the command pin (ch. 5) -/

/-- R208, R209, R213–R215: the pulses of a brake end, and its pauses, in another pulse or, at the boundary, in the state the brake was for; ALIGN leads
to RUN; a STOPPING that takes too long ends at the boundary with the outputs off.
The readings the rules leave open are the model's: log entry 73. -/
def Obligations.SequencerTimers : Prop :=
  ∀ (dt : Nat) (m : Fin 16) (z s : State),
    let q := (s.mast m).seq
    let after (b : Nat) : SeqSt := ((s.seqMove m b).mast m).seq.st
    (s.pulseOver m = true → MastRow dt m z s (.brakePulseEnd dt m) fun y => y.seq.pulse = false ∧ y.seq.cnt = 0 ∧ y.seq.st = .brake) ∧
    (s.pauseOver m = true → MastRow dt m z s (.brakePauseEnd dt m) fun y => y.seq.st = .brake ∧
      (s.brakeStops m = false → y.seq.pulse = true ∧ y.seq.cnt = 0) ∧ (s.brakeStops m = true → y.seq = { q with goto := some .off })) ∧
    (∀ b, q.st = .brake → q.goto = some .off →
      (q.purpose = .stop → after b = if q.endFault then .fault else if q.startRec then .listen else .off) ∧
      (q.purpose = .overspeed → after b = .listen)) ∧
    (s.alignDue m = true → MastRow dt m z s (.alignTimeout dt m) fun y => y.seq = { q with goto := some .run }) ∧
    (∀ b, q.st = .align → q.goto = some .run → after b = .run) ∧
    (s.stopTmoDue m = true → MastRow dt m z s (.stopTimeout dt m) fun y => y.seq = { q with goto := some .off }) ∧
    (∀ b, q.st = .stopping → q.goto = some .off → after b = if q.endFault then .fault else .off)

/-- R218, R223, R225, R227: the dwell at zero speed ends in the ramp; a stall starts a reversed attempt and counts it; the hold of an attempt
ends; the count returns to 0. An edge of the command pin is noted at its SPARCLK cycle where PWM or FREQ commands are read; a rising one gives
the duty or the frequency of the cycle before it and sets CMD_PIN.EDGE (R534); a lost command is not valid.
The readings the rules leave open are the model's: log entry 25. -/
def Obligations.HalyardAndCommandPin : Prop :=
  ∀ (dt : Nat) (m : Fin 16) (z s : State),
    let h := (s.mast m).hal
    (s.dwellDue m = true → MastRow dt m z s (.tackDwellEnd dt m) fun y => y.hal = { h with st := .ramping }) ∧
    (s.stallDue m = true → h.jamCount < s.fld F.STALL_CFG_JAM_N m → MastRow dt m z s (.stallEvent dt m) fun y =>
      y.hal.jamCount = h.jamCount + 1 ∧ y.hal.jamOn = true ∧ y.hal.st = .jam ∧ y.hal.stallAt = none ∧
      y.hal.jamTgt = fMul (fOfInt (-(fSign (s.spdTgt m)))) (s.msig m 0x086)) ∧
    (s.jamHoldDue m = true → MastRow dt m z s (.jamHoldEnd dt m) fun y =>
      y.hal = { h with jamOn := false, jamHold := none, st := if h.st = .jam then .ramping else h.st }) ∧
    (s.jamClearDue m = true → MastRow dt m z s (.jamCountClear dt m) fun y => y.hal = { h with jamCount := 0 }) ∧
    (s.hasMast m = true →
      let c := (s.mast m).cmd
      let t := s.now / tSpar * tSpar
      (∀ up, s.pmode m < 2 ∨ c.lvl = up → MastRow dt m z s (.cmdPinEdge dt m up) fun y => y.cmd = { c with lvl := up }) ∧
      (2 ≤ s.pmode m → c.lvl = true → MastRow dt m z s (.cmdPinEdge dt m false) fun y => y.cmd = { c with lvl := false, fallAt := some t }) ∧
      (2 ≤ s.pmode m → c.lvl = false → s.canonical → EventRow dt z s (.cmdPinEdge dt m true) fun u => (u.rd R.CMD_PIN).getLsbD (16 + m.val) = true) ∧
      (2 ≤ s.pmode m → c.lvl = false → MastRow dt m z s (.cmdPinEdge dt m true) fun y => y.cmd.riseAt = some t ∧ y.cmd.since = t ∧ y.cmd.fallAt = c.fallAt ∧
        y.cmd.lvl = true ∧
        (c.riseAt = none → y.cmd.hist = c.hist) ∧
        (∀ r, c.riseAt = some r → s.pmode m ≠ 2 → y.cmd.hist = (fDiv fOne (fSeconds (t - r)) :: c.hist).take (2 ^ s.fld F.CMD_CFG_FILT m)) ∧
        (∀ r f, c.riseAt = some r → c.fallAt = some f → r ≤ f → s.pmode m = 2 →
          y.cmd.hist = (fOfRat ((f - r : Nat) : Int) (t - r) :: c.hist).take (2 ^ s.fld F.CMD_CFG_FILT m))) ∧
      (s.lossDue m = true → MastRow dt m z s (.commandLoss dt m) fun y => y.cmd.valid = false ∧ y.cmd.lost = true ∧ y.cmd.goodRun = 0))

/-- R201, R202, R204: a request for the start sequencer, by SEQ_CMD or by SEQ, waits for the next boundary while the timebase runs (R200); with the
timebase stopped it is acted on as the next SPARCLK cycle begins: a START is refused, a COAST ends RUN, a CLEAR leaves FAULT. Of a START and a
STOP taken in one cycle the STOP stays, with CMD_DROP.
The readings the rules leave open are the model's: log entries 23, 24. -/
def Obligations.SequencerRequests : Prop :=
  ∀ (dt : Nat) (m : Fin 16) (z s : State), s.hasMast m = true → (s.mast m).resetAt = none → s.unrigged m = false → s.canonical →
    let q := (s.mast m).seq
    let cyc := s.now / tSpar
    let takes (r : SeqReq) (t : State) : Prop :=
      ((∀ e ∈ q.reqs, e.2 ≠ cyc) → (t.mast m).seq = { q with reqs := q.reqs ++ [(r, cyc)] }) ∧
      (∀ k, q.st ≠ .fault → q.reqs = [(.start, cyc)] → r = .stop k → (t.mast m).seq.reqs = [(r, cyc)] ∧ t.flag F.SEQ_STAT_CMD_DROP m = true) ∧
      (∀ k, q.st ≠ .fault → q.reqs = [(.stop k, cyc)] → r = .start → (t.mast m).seq.reqs = q.reqs ∧ t.flag F.SEQ_STAT_CMD_DROP m = true)
    (∀ w : Word, (Instr.seqStart dt (.host m w)).wf = true → HostRow dt 0 z s (.seqStart dt (.host m w)) (takes .start)) ∧
    (∀ w : Word, (Instr.seqStop dt (.host m w)).wf = true → HostRow dt 0 z s (.seqStop dt (.host m w)) (takes (.stop (bitsOf w 5 4)))) ∧
    (∀ w : Word, (Instr.seqClear dt (.host m w)).wf = true → HostRow dt 0 z s (.seqClear dt (.host m w)) (takes .clear)) ∧
    (∀ (c : Fin 64) (w l : Word), s.Issues c w l → iOp w = 0x65 →
      m.val = (if w.getLsbD 11 then ((s.ctx c).reg (iD w)).toNat % 16 else w.toNat % 16) →
      let issued (i : Instr) (r : SeqReq) : Prop :=
        EventRow dt z s i fun t => Ctx.went (s.ctx c) (t.ctx c) (s.ctx c).fl ((s.ctx c).pc + 1) ∧ takes r t
      (bitsOf w 6 4 = 1 → issued (.seqStart dt (.ctx c)) .start) ∧ (bitsOf w 6 4 = 2 → issued (.seqStop dt (.ctx c)) (.stop (bitsOf w 9 8))) ∧
      (bitsOf w 6 4 = 3 → issued (.seqClear dt (.ctx c)) .clear)) ∧
    (∀ r k, (s.mast m).pwm.counting = false → q.reqs = [(r, k)] → k < cyc →
      let y := ((s.seqTurn m).mast m).seq
      y.reqs = [] ∧ (r = .start → q.st = .off → y.st = .off ∧ y.refWhy = 1) ∧ (r = .stop 0 → q.st = .run → y.st = .off) ∧
        (r = .clear → q.st = .fault → s.mastSerious m = false → y.st = .off))

/-! ### Contexts, lanes, timers of the engine (ch. 6) -/

/-- R240, R241, R243, R286, R288: the context that a lane would run takes it; one whose quantum is over gives its lane back and waits its turn; one that
waits for a result goes on once it can be used, one whose END waits for its last results ends its activation once they have come. At its budget a context
is marked once, and demoted with policy 1; from policy 2 on its activation ends and ENG_FAULT names cause 5.
The readings the rules leave open are the model's: log entry 75. -/
def Obligations.Scheduling : Prop :=
  ∀ (dt : Nat) (c : Fin 64) (z s : State),
    let x := s.ctx c
    (∀ n, s.hasCtx c = true → x.st = .runnable → x.haltReq = false → s.pickLane c = some n → s.firstFor c n = true →
      EventRow dt z s (.contextDispatch dt c) fun t => (t.ctx c).st = .running ∧ (t.ctx c).lane = some n ∧ (t.lane n).ctx = some c.val ∧
        (x.begun = false → (t.ctx c).pc = s.fld F.CTX_CFG_ENTRY c ∧ (t.ctx c).issues = 0)) ∧
    (∀ n, s.quantumDue c = true → x.lane = some n → (s.lane n).ctx = some c.val →
      EventRow dt z s (.quantumExpiry dt c) fun t => (t.ctx c).st = .runnable ∧ (t.ctx c).lane = none ∧ (t.lane n).ctx = none ∧
        (t.ctx c).since = s.now ∧ (t.ctx c).spent = true ∧
        (∀ d, d ≠ c → 2 ≤ s.ctxClass d → t.ctxClass c = s.ctxClass d → (t.ctx d).since ≤ s.now → (t.ctx d).spent = false → t.ctxBefore c d = false)) ∧
    (∀ u, x.st = .blocked → x.wait = some (.result u) → u ≤ s.now → x.disableReq = false → x.haltReq = false →
      EventRow dt z s (.instructionResultReady dt c) fun t => (t.ctx c).st = .runnable ∧ (t.ctx c).wait = none ∧ (t.ctx c).view = x.view) ∧
    (∀ u, x.st = .blocked → x.wait = some (.ending u) → u ≤ s.now → x.disableReq = false → s.flag F.TRC_CTL_EN = false →
      EventRow dt z s (.instructionResultReady dt c) fun t => (t.ctx c).wait = none ∧ (t.ctx c).view = x.view ∧
        (x.pend = [] → (t.ctx c).st = .waiting ∧ (t.ctx c).act = none) ∧ (x.pend ≠ [] → (t.ctx c).st = .runnable ∧ (t.ctx c).begun = false)) ∧
    (s.budgetDue c = true →
      EventRow dt z s (.budgetExceeded dt c) fun t =>
        (s.fld F.CTX_BUDGET_POL c < 2 → (t.ctx c).st = .running ∧ (t.ctx c).budgetHit = true ∧ (t.ctx c).view = (s.ctx c).view ∧
          (t.ctx c).demoted = ((s.ctx c).demoted || decide (s.fld F.CTX_BUDGET_POL c = 1))) ∧
        (2 ≤ s.fld F.CTX_BUDGET_POL c → (t.ctx c).lane = none ∧
          (s.canonical → s.flag F.ENG_FAULT_VALID = false → t.fld F.ENG_FAULT_CAUSE = 5 ∧ t.fld F.ENG_FAULT_CTX = c.val)))

/-- R246, R247: the data of a blocked read reaches its register, a waiting write the write buffer, and the context goes on; an access that
takes too long gives NaN and sets U. -/
def Obligations.SignalAccesses : Prop :=
  ∀ (dt : Nat) (c : Fin 64) (z s : State), (s.ctx c).st = .blocked → (s.ctx c).disableReq = false → (s.ctx c).haltReq = false →
    let x := s.ctx c
    (∀ g r v t0, r < 16 → x.wait = some (.access g (some r) v t0 true) →
      EventRow dt z s (.signalAccessComplete dt c) fun t => (t.ctx c).st = .runnable ∧ (t.ctx c).wait = none ∧ (t.ctx c).reg r = v ∧
        (∀ k, k ≠ r → (t.ctx c).reg k = x.reg k) ∧ (t.ctx c).fl = x.fl ∧ (t.ctx c).pc = x.pc) ∧
    (∀ g v t0 d, x.wait = some (.access g none v t0 d) → s.eng.wbuf.length < 16 →
      EventRow dt z s (.signalAccessComplete dt c) fun t => (t.ctx c).st = .runnable ∧ (t.ctx c).view = x.view ∧
        t.eng.wbuf = bufPut s.cyc.bufd (s.laneRank c) (g, v) s.eng.wbuf ∧ (s.cyc.bufd = [] → t.eng.wbuf = s.eng.wbuf ++ [(g, v)])) ∧
    (∀ g r v t0, r < 16 → x.wait = some (.access g (some r) v t0 false) → s.sigTmo ≠ 0 → t0 + s.sigTmo ≤ s.now →
      EventRow dt z s (.signalAccessTimeout dt c) fun t => (t.ctx c).st = .runnable ∧ (t.ctx c).reg r = qNaN ∧ (t.ctx c).fl.u = true ∧
        (∀ k, k ≠ r → (t.ctx c).reg k = x.reg k) ∧ (t.ctx c).pc = x.pc) ∧
    (∀ g v t0 d, x.wait = some (.access g none v t0 d) → 16 ≤ s.eng.wbuf.length → s.sigTmo ≠ 0 → t0 + s.sigTmo ≤ s.now →
      EventRow dt z s (.signalAccessTimeout dt c) fun t => (t.ctx c).st = .runnable ∧ (t.ctx c).fl = { x.fl with u := true } ∧
        (t.ctx c).v = x.v ∧ t.eng.wbuf = s.eng.wbuf)

/-- R233, R235, R236, R239: an engine timer runs on by its period and triggers its context; a doorbell triggers the context it names. A waiting
context takes the trigger at once; any other but a faulted or disabled one keeps it, the last of each kind. -/
def Obligations.TimersAndDoorbells : Prop :=
  ∀ (dt : Nat) (c : Fin 64) (z s : State), s.hasCtx c = true →
    let x := s.ctx c
    let takes (k a b : Nat) (t : State) : Prop :=
      (x.st = .waiting → (t.ctx c).st = .runnable ∧ (t.ctx c).act = some { kind := k, a := a, b := b, at_ := s.now } ∧ (t.ctx c).begun = false) ∧
      (x.st ≠ .waiting → x.st ≠ .disabled → x.st ≠ .faulted →
        t.ctx c = { x with pend := putTrig { kind := k, a := a, b := b, at_ := s.now } x.pend }) ∧
      (x.st = .disabled ∨ x.st = .faulted → t.ctx c = x)
    (∀ (n : Fin 8) (u : Nat), s.eng.tmr[n] = some u → u ≤ s.now → s.fld F.ETMR_CTX n = c.val →
      EventRow dt z s (.etmrExpiry dt n) fun t => t.eng.tmr = s.eng.tmr.set n (some (u + s.fld F.ETMR_PERIOD n * tUs)) ∧ takes TK.TIMER n.val 0 t) ∧
    (∀ w : Word, bitsOf w 5 0 = c.val → HostRow dt 0 z s (.doorbell dt w) fun t => takes TK.DOORBELL 0xFFFFFFFF 0 t)

/-- R265, R268, R283: a lane in service with a parity error, or that has issued nothing for 4,096 cycles with a context on it, leaves service,
and the context's activation ends with cause 6; a parity error of a running context's registers is an exception with cause 4, an illegal
instruction one with cause 1: the context is FAULTED, off its lane, its registers as they were.
The readings the rules leave open are the model's: log entries 55, 66, 75. -/
def Obligations.EngineFaults : Prop :=
  ∀ (dt : Nat) (z s : State), s.canonical → s.flag F.ENG_FAULT_VALID = false →
    let blamed (t : State) (cause c pc : Nat) : Prop := t.flag F.ENG_FAULT_VALID = true ∧ t.fld F.ENG_FAULT_CAUSE = cause ∧
      t.fld F.ENG_FAULT_CTX = c ∧ t.fld F.ENG_FAULT_PC = pc % 2 ^ 18
    let out (n : Fin 4) (t : State) : Prop := (t.lane n).flt = true ∧ (t.lane n).act = false ∧
      ∀ c : Fin 64, (s.lane n).ctx = some c.val → (s.ctx c).lane = some n →
        blamed t 6 c (s.ctx c).pc ∧ (t.ctx c).lane = none ∧ (t.lane n).ctx = none
    let faulted (c : Fin 64) (t : State) (cause : Nat) : Prop := (t.ctx c).st = .faulted ∧ (t.ctx c).lane = none ∧ (t.ctx c).act = none ∧
      (t.ctx c).view = (s.ctx c).view ∧ blamed t cause c (s.ctx c).pc
    (∀ n, s.inService n = true → EventRow dt z s (.laneParityError dt n) fun t => out n t) ∧
    (∀ n, s.laneStuck n = true → EventRow dt z s (.laneIssueTimeout dt n) fun t => out n t) ∧
    (∀ c, (s.ctx c).st = .running → EventRow dt z s (.contextParityError dt c) fun t => faulted c t 4) ∧
    (∀ c w, s.canIssue c = true → s.misplaced c = false → s.fetch (s.ctx c).bank (s.ctx c).pc = .word w → illegal w = true →
      s.bkMatch c = false → EventRow dt z s (.illegalInstruction dt c) fun t => faulted c t 1)

/-- R233, R234, R264, R274, R275: CTX_CMD acts on the context ENG_SEL names: ENABLE and RESTART make it wait for a trigger, DISABLE and HALT take it off its
lane, RESUME and STEP make it runnable. TRC_CTL with EN newly set clears the trace buffer and its count.
The readings the rules leave open are the model's: log entry 75. -/
def Obligations.ContextCommands : Prop :=
  ∀ (dt : Nat) (c : Fin 64) (w : Word) (z s : State), s.hasCtx c = true → s.fld F.ENG_SEL_CTX = c.val →
    let x := s.ctx c
    ((Instr.ctxEnable dt w).wf = true → x.st = .disabled → HostRow dt 0 z s (.ctxEnable dt w) fun t => t.ctx c = { x with st := .waiting, pend := [] }) ∧
    ((Instr.ctxDisable dt w).wf = true → HostRow dt 0 z s (.ctxDisable dt w) fun t =>
      (x.st = .blocked → t.ctx c = { x with disableReq := true }) ∧
      (x.st ≠ .disabled → x.st ≠ .blocked → (t.ctx c).st = .disabled ∧ (t.ctx c).lane = none ∧ (t.ctx c).act = none ∧ (t.ctx c).pend = [] ∧
        (t.ctx c).view = x.view)) ∧
    ((Instr.ctxHalt dt w).wf = true → s.dbgEn = true → s.mayHalt c = true → HostRow dt 0 z s (.ctxHalt dt w) fun t =>
      (x.st = .running → (t.ctx c).st = .halted ∧ (t.ctx c).lane = none ∧ (t.ctx c).view = x.view) ∧
      (x.st = .blocked ∨ x.st = .waiting ∨ x.st = .runnable → t.ctx c = { x with haltReq := true })) ∧
    ((Instr.ctxResume dt w).wf = true → x.st = .halted → HostRow dt 0 z s (.ctxResume dt w) fun t => t.ctx c = { x with st := .runnable, since := s.now }) ∧
    ((Instr.ctxStep dt w).wf = true → x.st = .halted → s.dbgEn = true → HostRow dt 0 z s (.ctxStep dt w) fun t =>
      t.ctx c = { x with st := .runnable, stepping := true, since := s.now }) ∧
    ((Instr.ctxRestart dt w).wf = true → x.st = .faulted → HostRow dt 0 z s (.ctxRestart dt w) fun t => t.ctx c = { x with st := .waiting, pend := [] }) ∧
    ((Instr.traceEnable dt w).wf = true → s.canonical → s.flag F.TRC_CTL_EN = false → HostRow dt 0 z s (.traceEnable dt w) fun t =>
      t.flag F.TRC_CTL_EN = true ∧ t.eng.trcFull = false ∧ t.eng.trcCount = 0 ∧ ∀ i, i < 1024 → t.sig (0xC00 + i) = 0#32)

/-! ### Control cells and the data ports (ch. 6) -/

/-- R252, R253, R255, R257–R259, R291, R293, R294, R309: CELL and CELLX on cell n: vd takes U1 or the new output 8 cycles later, no subnormal and a NaN as
the quiet one with U set, Z and N follow vd, L and U as the mode says. A step of an OPEN or MANUAL cell and HOLD take a finite input into the history only;
a value that is not finite changes no word and sets U; a step in AUTO computes the forms 2P2Z and PI (CLAMP) as R252 writes them; PRESET, SETMAN, READ as
R259 lists. So where the SPARCLK cycle has seen no operation on a cell that comes after it in the order of R260.
The readings the rules leave open are the model's: log entries 46, 74. -/
def Obligations.CellInstructions : Prop :=
  ∀ (dt : Nat) (c : Fin 64) (z s : State) (w l : Word), s = z.elapse dt → s.Issues c w l → s.canonical →
    (∀ e ∈ s.cyc.cells, e.1 ≤ s.cellRank c) →
    let x := s.ctx c
    let e := fCanon (x.reg (iA w))
    let n := if iOp w = 0x58 then w.toNat % 4096 else (x.reg (iB w)).toNat % 4096
    let K (k : Nat) : Word := s.cw n k
    let gives (i : Nat → Fin 64 → Bool → Instr) (r : Word) (lim : Option Bool) (u : Bool) (f : Nat → Word) : Prop :=
      ∃ t, exec (i dt c false) z = .next t ∧
        Ctx.wrote x (t.ctx c) (iD w) (fCanon r) (s.now + 512)
          { x.fl with
            z := !fIsNaN (fCanon r) && fIsZero (fCanon r), n := !fIsNaN (fCanon r) && (fCanon r).msb, l := lim.getD x.fl.l
            u := x.fl.u || (u || fIsNaN (fCanon r)) } 1 ∧
        (∀ k, k < 16 → t.cw n k = f k) ∧ (∀ j k, j ≠ n → k < 16 → t.cw j k = s.cw j k)
    let history (k : Nat) : Word :=
      match s.cellForm n, k with
      | 1, 13 => e
      | 2, 11 => e
      | 2, 12 => K 11
      | 3, 11 => e
      | 3, 12 => K 11
      | 3, 13 => K 12
      | _, _ => K k
    let held : Prop := s.cellClosed n = false ∨ s.cellMan n = true
    let auto_ : Prop := s.cellClosed n = true ∧ s.cellMan n = false ∧ s.tinjOn n = false ∧ n ∉ s.eng.preset ∧
      ((cellAuto (K 0) K e none).mid.all fFinite) = true
    ((iOp w = 0x58 ∨ iOp w = 0x59) → cellMode w = 0 →
      (fFinite e = true → held → gives .cellStep (K 10) (some false) false history) ∧
      (fFinite e = false → gives .cellStep (K 10) none true K) ∧
      (fFinite e = true → auto_ → s.cellForm n = 2 →
        let u := fSub (fSub (fAdd (fAdd (fMul (K 1) e) (fMul (K 2) (K 11))) (fMul (K 3) (K 12))) (fMul (K 4) (K 10))) (fMul (K 5) (K 13))
        let v := fClamp u (fCanon (K 8)) (fCanon (K 9))
        gives .cellStep v (some (decide (v ≠ u))) false fun k => if k = 10 then v else if k = 11 then e else if k = 12 then K 11 else if k = 13 then K 10 else K k) ∧
      (fFinite e = true → auto_ → s.cellForm n = 0 → (K 0).toNat / 2 ^ 18 % 4 = 0 →
        let i := fAdd (K 11) (fMul (K 2) e)
        let u := fAdd (fAdd (fMul (K 1) e) i) fZero
        let v := fClamp u (fCanon (K 8)) (fCanon (K 9))
        gives .cellStep v (some (decide (v ≠ u))) false fun k => if k = 10 then v else if k = 11 then fClamp i (fCanon (K 8)) (fCanon (K 9)) else K k)) ∧
    ((iOp w = 0x58 ∨ iOp w = 0x59) → cellMode w = 1 →
      (fFinite e = true → gives .cellHold (K 10) (some false) false history) ∧ (fFinite e = false → gives .cellHold (K 10) (some false) true K)) ∧
    ((iOp w = 0x58 ∨ iOp w = 0x59) → cellMode w = 2 → ∃ f, gives .cellPreset e (some false) false f ∧ f 10 = e ∧ (∀ k, k < 10 → f k = K k) ∧
      (s.cellForm n < 2 → f 11 = fSub e (fMul (K 1) (s.cellLast n)) ∧ f 14 = K 14 ∧ f 15 = K 15) ∧
      (s.cellForm n = 2 → f 11 = s.cellLast n ∧ f 12 = s.cellLast n ∧ f 13 = e) ∧
      (s.cellForm n = 3 → f 11 = s.cellLast n ∧ f 12 = s.cellLast n ∧ f 13 = s.cellLast n ∧ f 14 = e ∧ f 15 = e)) ∧
    ((iOp w = 0x58 ∨ iOp w = 0x59) → cellMode w = 3 → gives .cellSetman e (some false) false fun k => if k = 10 then e else if k = 0 then K 0 ||| 0x40000000#32 else K k) ∧
    ((iOp w = 0x58 ∨ iOp w = 0x59) → cellMode w = 7 → gives .cellRead (K 10) (some false) false K)

/-- R254, R256, R258, R260, R268, R309: OPEN, CLOSE and AUTO by an instruction, U1 in vd; CLOSE only where the coefficients let it, else U is set;
a parity error of the cell leaves it OPEN and faults the context with cause 7, vd holding U1. So where the SPARCLK cycle has seen no operation on a cell that
comes after it; a host write that it has seen comes after an OPEN of a lane, and stands in the cell opened.
The readings the rules leave open are the model's: log entries 55, 74. -/
def Obligations.CellGuard : Prop :=
  ∀ (dt : Nat) (c : Fin 64) (z s : State) (w l : Word), s = z.elapse dt → s.Issues c w l → s.canonical → iOp w = 0x58 ∨ iOp w = 0x59 →
    let x := s.ctx c
    let n := if iOp w = 0x58 then w.toNat % 4096 else (x.reg (iB w)).toNat % 4096
    let K (k : Nat) : Word := s.cw n k
    let u1 := fCanon (K 10)
    let gives (i : Nat → Bool → Instr) (u : Bool) (w0 : Word) (p : State → Prop) : Prop :=
      ∃ t, exec (i dt false) z = .next t ∧
        Ctx.wrote x (t.ctx c) (iD w) u1 (s.now + 512)
          { x.fl with z := !fIsNaN u1 && fIsZero u1, n := !fIsNaN u1 && u1.msb, l := false, u := x.fl.u || (u || fIsNaN u1) } 1 ∧
        t.cw n 0 = w0 ∧ (∀ j k, j < 4096 → k < 16 → (j, k) ≠ (n, 0) → t.cw j k = s.cw j k) ∧ p t
    let bad (i : Nat → Bool → Instr) : Prop :=
      ∃ t, exec (i dt true) z = .next t ∧ (t.ctx c).st = .faulted ∧ (t.ctx c).reg (iD w) = u1 ∧ t.cellClosed n = false ∧
        (s.flag F.ENG_FAULT_VALID = false → t.fld F.ENG_FAULT_CAUSE = 7 ∧ t.fld F.ENG_FAULT_CTX = c.val)
    (cellMode w = 5 → ∀ k v, 1 ≤ k → k < 16 → s.cyc.cells = [(8, n, .data k v)] →
      ∃ t, exec (.cellOpen dt (.ctx c) false) z = .next t ∧ t.cw n k = v ∧ t.cellClosed n = false) ∧
    ((∀ e ∈ s.cyc.cells, e.1 ≤ s.cellRank c) →
    (cellMode w = 5 → gives (fun dt p => .cellOpen dt (.ctx c) p) false (K 0 &&& 0x7FFFFFFF#32) fun t => t.cellClosed n = false) ∧
    (cellMode w = 6 → s.cellCloses n = true →
      gives (fun dt p => .cellClose dt (.ctx c) p) false (K 0 ||| 0x80000000#32) fun t => t.cellClosed n = true ∧ n ∈ t.eng.preset) ∧
    (cellMode w = 6 → s.cellCloses n = false → gives (fun dt p => .cellClose dt (.ctx c) p) true (K 0) fun t => t.flag F.ENG_STAT_CELL_REF = true) ∧
    (cellMode w = 4 → gives (fun dt p => .cellAuto dt (.ctx c) p) false (K 0 &&& 0xBFFFFFFF#32) fun t => t.cellMan n = false ∧ n ∈ t.eng.preset) ∧
    (cellMode w = 5 → bad fun dt p => .cellOpen dt (.ctx c) p) ∧ (cellMode w = 6 → bad fun dt p => .cellClose dt (.ctx c) p) ∧
    (cellMode w = 4 → bad fun dt p => .cellAuto dt (.ctx c) p) ∧ (cellMode w = 0 → bad fun dt p => .cellStep dt c p) ∧
    (cellMode w = 1 → bad fun dt p => .cellHold dt c p) ∧ (cellMode w = 2 → bad fun dt p => .cellPreset dt c p) ∧
    (cellMode w = 3 → bad fun dt p => .cellSetman dt c p) ∧ (cellMode w = 7 → bad fun dt p => .cellRead dt c p))

/-- R250, R251, R254–R258, R272: CELL_CMD on the cell CELL_SEL names, its role in force: OPEN, CLOSE where the coefficients let it, AUTO, MANUAL,
and CLEAR of an OPEN cell; CELL_DATA writes the selected word of an OPEN cell, the limits and (in MANUAL) U1 of a CLOSED one, and goes on to the
next word where AINC is set.
The readings the rules leave open are the model's: log entry 74. -/
def Obligations.CellCommands : Prop :=
  ∀ (dt : Nat) (w : Word) (z s : State), s.canonical →
    let n := s.fld F.CELL_SEL_CELL
    let k := s.fld F.CELL_SEL_WORD
    let K (k : Nat) : Word := s.cw n k
    let others (t : State) (P : Nat → Prop) : Prop := (∀ i, i < 16 → P i → t.cw n i = K i) ∧ ∀ j i, j ≠ n → i < 16 → t.cw j i = s.cw j i
    s.cellRole n ≤ 2 →
    ((Instr.cellOpen dt (.host w) false).wf = true → HostRow dt 2 z s (.cellOpen dt (.host w) false) fun t =>
      t.cellClosed n = false ∧ t.cellMan n = s.cellMan n ∧ others t (· ≠ 0)) ∧
    ((Instr.cellClose dt (.host w) false).wf = true → HostRow dt 2 z s (.cellClose dt (.host w) false) fun t =>
      (s.cellCloses n = true → t.cellClosed n = true ∧ n ∈ t.eng.preset ∧ others t (· ≠ 0)) ∧
      (s.cellCloses n = false → others t (fun _ => True) ∧ t.flag F.ENG_STAT_CELL_REF = true)) ∧
    ((Instr.cellAuto dt (.host w) false).wf = true → HostRow dt 2 z s (.cellAuto dt (.host w) false) fun t =>
      t.cellMan n = false ∧ t.cellClosed n = s.cellClosed n ∧ n ∈ t.eng.preset ∧ others t (· ≠ 0)) ∧
    ((Instr.cellManual dt w).wf = true → HostRow dt 2 z s (.cellManual dt w) fun t => t.cellMan n = true ∧ t.cellClosed n = s.cellClosed n ∧ others t (· ≠ 0)) ∧
    ((Instr.cellClear dt w).wf = true → HostRow dt 2 z s (.cellClear dt w) fun t =>
      (s.cellClosed n = false → (∀ i, 10 ≤ i → i < 16 → t.cw n i = 0#32) ∧ others t (· < 10) ∧ n ∉ t.eng.seen) ∧
      (s.cellClosed n = true → others t (fun _ => True) ∧ t.flag F.ENG_STAT_CELL_REF = true)) ∧
    HostRow dt 2 z s (.cellDataWrite dt w) (fun t =>
      (1 ≤ k → s.cellClosed n = false → t.cw n k = w ∧ others t (· ≠ k)) ∧
      (k = 8 ∨ k = 9 → t.cw n k = w ∧ others t (· ≠ k)) ∧
      (k = 10 → s.cellMan n = true → t.cw n k = w ∧ others t (· ≠ k)) ∧
      (s.cellClosed n = true → k ≤ 7 ∨ 11 ≤ k ∨ (k = 10 ∧ s.cellMan n = false) → others t (fun _ => True) ∧ t.flag F.ENG_STAT_CELL_REF = true) ∧
      (s.flag F.CELL_SEL_AINC = false → t.rd R.CELL_SEL = s.rd R.CELL_SEL) ∧
      (s.flag F.CELL_SEL_AINC = true → 16 * t.fld F.CELL_SEL_CELL + t.fld F.CELL_SEL_WORD = (16 * n + k + 1) % 65536))

/-- R4, R30, R35, R271, R272: PRG_DATA writes the selected word of a bank that no enabled context runs from, else sets PRG_REF; TAB_DATA writes the
selected table word; SIG_DATA writes the selected signal where it is a writable one on chip that no context has written in the cycle
(R33), and no signal where it is hardware's, unmapped, mirrored or an absent unit's, of which it sets ABSENT. Each address goes on by one where AINC is set.
The readings the rules leave open are the model's: log entries 70, 84. -/
def Obligations.DataPorts : Prop :=
  ∀ (dt : Nat) (w : Word) (z s : State), s.canonical →
    let b := s.fld F.PRG_ADDR_BANK
    let id := s.fld F.SIG_ADDR_ID
    HostRow dt 2 z s (.prgDataWrite dt w) (fun t =>
      (s.bankUsed b = false → ∀ a, spGet 0#32 t.eng.prog a = if a = b * 2 ^ 18 + s.fld F.PRG_ADDR_ADDR then w else spGet 0#32 s.eng.prog a) ∧
      (s.bankUsed b = true → t.eng.prog = s.eng.prog ∧ t.flag F.ENG_STAT_PRG_REF = true) ∧
      t.fld F.PRG_ADDR_ADDR = (if s.flag F.PRG_ADDR_AINC then (s.fld F.PRG_ADDR_ADDR + 1) % 2 ^ 15 else s.fld F.PRG_ADDR_ADDR) ∧
      t.fld F.PRG_ADDR_BANK = b) ∧
    HostRow dt 1 z s (.tabDataWrite dt w) (fun t =>
      (∀ a, spGet 0#32 t.eng.tab a = if a = s.fld F.TAB_ADDR_ADDR then w else spGet 0#32 s.eng.tab a) ∧
      t.fld F.TAB_ADDR_ADDR = (if s.flag F.TAB_ADDR_AINC then (s.fld F.TAB_ADDR_ADDR + 1) % 4096 else s.fld F.TAB_ADDR_ADDR)) ∧
    HostRow dt 0 z s (.sigDataWrite dt w) (fun t =>
      (s.sigKind id = .op → id ≠ 0x308 → id ≠ 0x501 → id ≠ 0x502 → t.sig id = (if s.outranked 0 id then s.sig id else w) ∧ ∀ j, j ≠ id → traceSig j = false → t.sig j = s.sig j) ∧
      (s.sigKind id = .hw ∨ s.sigKind id = .none_ ∨ s.sigKind id = .mirror → t.sigs = s.sigs) ∧
      (s.sigKind id = .absent → t.sigs = s.sigs ∧ t.flag F.HOST_STAT_ABSENT = true) ∧
      (s.sigKind id ∈ [SigKind.op, .hw, .none_, .mirror, .absent] →
        t.fld F.SIG_ADDR_ID = if s.flag F.SIG_ADDR_AINC then (id + 1) % 2 ^ 20 else id))

/-! ### Shroud, furl, bus groups (ch. 8) -/

/-- R326, R333, R335, R336, R360, R602: a comparator compares the amplifier's output with the code of SHR_OC times 1,562.5 µV, and releases 6 mV below; the
trip pin and the comparators of a mast, enabled and outside their blanking, set their latch, or in cycle-by-cycle mode cut the period's REF; a run of cut
periods latches; the self-test ends with its result. The readings the rules leave open are the model's: log entries 28, 51, 79, 85, 107. -/
def Obligations.ShroudRows : Prop :=
  ∀ (dt : Nat) (m : Fin 16) (z s : State), s.hasMast m = true →
    let h := (s.mast m).shr
    (∀ low, MastRow dt m z s (.tripPinAssert dt m low) fun y => y.shr.tripLvl = low ∧ y.shr.amp = h.amp ∧
      (h.ocp = true → y.shr.ocp = true) ∧ (h.ocn = true → y.shr.ocn = true) ∧ (h.trip = true → y.shr.trip = true) ∧
      (low = true → s.flag F.SHR_CTL_TRIP_EN m = true → s.tripBlank m = false → y.shr.trip = true)) ∧
    (∀ below uv, MastRow dt m z s (.overcurrentAssert dt m below uv) fun y =>
      let amp : Int := if below then -(uv : Int) else uv
      let above (bit : Nat) : Prop := ocOver bit amp (s.rd (keyI R.SHR_OC m)) = true ∧
        ∀ e ∈ h.ocOlds, s.now < e.2 + 7680 → ocOver bit amp e.1 = true
      let cut (bit : Nat) : Prop := y.shr.cutAt = some s.now ∧ y.shr.cutBy.testBit bit = true ∧ y.shr.cbcRun = satNat 255 (h.cbcRun + 1)
      y.shr.amp = amp ∧ y.shr.tripLvl = h.tripLvl ∧
      y.shr.ocOn.testBit 0 = (ocOver 0 amp (s.rd (keyI R.SHR_OC m)) || (h.ocOn.testBit 0 && ocOver 0 (amp + 6000) (s.rd (keyI R.SHR_OC m)))) ∧
      y.shr.ocOn.testBit 1 = (ocOver 1 amp (s.rd (keyI R.SHR_OC m)) || (h.ocOn.testBit 1 && ocOver 1 (amp - 6000) (s.rd (keyI R.SHR_OC m)))) ∧
      (h.ocp = true → y.shr.ocp = true) ∧ (h.ocn = true → y.shr.ocn = true) ∧ (h.trip = true → y.shr.trip = true) ∧
      (above 0 → s.flag F.SHR_CTL_OCP_EN m = true → s.ocBlank m = false →
        (s.flag F.SHR_CTL_OCP_CBC m = false ∨ s.clk.lost = true → y.shr.ocp = true) ∧
        (s.flag F.SHR_CTL_OCP_CBC m = true → s.clk.lost = false → h.cutAt = none → cut 0)) ∧
      (above 1 → s.flag F.SHR_CTL_OCN_EN m = true → s.ocBlank m = false →
        (s.flag F.SHR_CTL_OCN_CBC m = false ∨ s.clk.lost = true → y.shr.ocn = true) ∧
        (s.flag F.SHR_CTL_OCN_CBC m = true → s.clk.lost = false → h.cutAt = none → cut 1))) ∧
    (s.cbcDue m = true → MastRow dt m z s (.cbcLimitLatch dt m) fun y => y.shr.cbcRun = 0 ∧
      (h.cutBy.testBit 0 = true → y.shr.ocp = true) ∧ (h.cutBy.testBit 1 = true → y.shr.ocn = true)) ∧
    (∀ t pass, h.testAt = some t → t + 3 * tUs ≤ s.now → MastRow dt m z s (.shroudTestDone dt m pass) fun y => y.shr.testAt = none ∧ y.shr.testOk = pass)

/-- R345–R347, R361: FURL_N low, and FURL_CTL.SET, take every present mast into the safe state of BUS_CFG; CLR ends furl where the pin is high and
no thermal shut-down is latched, and else changes nothing but the causes that have gone, and sets CLR_REF.
The readings the rules leave open are the model's: log entries 28, 79. -/
def Obligations.FurlRows : Prop :=
  ∀ (dt : Nat) (z s : State),
    let held (t : State) (cause : Nat) : Prop := t.furl.furled = true ∧ t.furl.causes = s.furl.causes ||| 2 ^ cause ∧
      ∀ m : Fin 16, t.furlReq m = if s.flag F.BUS_CFG_FURL_SAFE m then 2 else 1
    (∀ low, EventRow dt z s (.furlPin dt low) fun t => t.furl.pinLow = low ∧ (low = true → held t FC.PIN) ∧
      (low = false → t.furl.furled = s.furl.furled ∧ t.furl.causes = s.furl.causes)) ∧
    (∀ w : Word, (Instr.furlSet dt w).wf = true → HostRow dt 0 z s (.furlSet dt w) fun t => held t FC.SOFT) ∧
    (∀ w : Word, (Instr.furlClear dt w).wf = true → w.getLsbD 30 = false → s.furl.furled = true → s.canonical →
      HostRow dt 0 z s (.furlClear dt w) fun t =>
        (s.furl.pinLow = false → s.hk.shut = false → t.furl.furled = false ∧ t.furl.causes = 0 ∧ ∀ m, t.furlReq m = 0) ∧
        (s.furl.pinLow = true ∨ s.hk.shut = true → t.furl.furled = true ∧ t.flag F.FURL_STAT_CLR_REF = true ∧
          ∀ k, t.furl.causes.testBit k = (s.furl.causes.testBit k && ((k == FC.PIN && s.furl.pinLow) || (k == FC.THERMAL && s.hk.shut)))))

/-- R357: a bus group that refuses or is safe recovers once its voltage has been below the limit for its time, or is acknowledged below the limit;
an acknowledgement above it, or with no voltage known, is refused.
The readings the rules leave open are the model's: log entry 28. -/
def Obligations.BusGroups : Prop :=
  ∀ (dt : Nat) (g : Fin 8) (z s : State),
    (s.recoveryDue g = true → EventRow dt z s (.busGroupRecovery dt g) fun t => (t.bg g).st = .normal ∧ (t.bg g).clearAt = s.now ∧
      ∀ k, k ≠ g → t.bg k = s.bg k) ∧
    (∀ w : Word, (Instr.busGroupAck dt w).wf = true → bitsOf w 2 0 = g.val → (s.bg g).st = .refuse ∨ (s.bg g).st = .safe → s.canonical →
      let low := match (s.bg g).vbg with | some v => fLt v (s.ov1 g) | none => false
      HostRow dt 1 z s (.busGroupAck dt w) fun t =>
        (low = true → (t.bg g).st = .normal ∧ (t.bg g).clearAt = s.now) ∧
        (low = false → t.bg g = s.bg g ∧ t.flag F.BG_STAT_ACK_REF g = true) ∧ ∀ k, k ≠ g → t.bg k = s.bg k)

/-! ### The fault collector (ch. 9) -/

/-- R367, R370, R373, R377, R378, R382: a cycle with one event of an enabled source that is not suppressed writes one record, with the next sequence
number and the event's source, detail, severity and reaction; it is pending from severity 2 on, the first record where there is none;
FURL enters furl, DEVICE_RESET is set going, STOP_COAST and STOP_ASC stop the mast's sequencer, MAST_RESET resets the mast's block.
The readings the rules leave open are the model's: log entries 52, 80. -/
def Obligations.CollectorCycle : Prop :=
  ∀ (s z : State) (e : Ev) (v : Verdict), s.fc.events = [e] →
    State.classify (s.updFc fun f => { f with events := [] }) e = (some v, z) → z.suppressed v = false →
    let t := s.collect
    t.fc.seq = nextSeq s.fc.seq ∧
    (∃ r : Rec, (nextSeq s.fc.seq % 256, r) ∈ t.fc.log ∧ r.seq = nextSeq s.fc.seq ∧ r.src = e.src ∧ r.detail = e.detail ∧ r.mast = e.mast ∧
      r.sev = v.sev ∧ r.react = v.react ∧ r.conseq = v.conseq ∧
      (2 ≤ v.sev → v.conseq = false → e.src ≠ DS.FC_PEND_FULL → s.fc.pend.length < 64 → t.fc.pend = s.fc.pend ++ [r]) ∧
      (v.sev < 2 ∨ v.conseq = true → t.fc.pend = s.fc.pend) ∧
      (s.fc.first = none → s.fld F.FC_CTL_FIRST_SEV ≤ v.sev → t.fc.first = some r)) ∧
    (∀ x, s.fc.first = some x → t.fc.first = some x) ∧
    (v.conseq = false → v.react = 7 → t.furl.furled = true) ∧ (v.conseq = false → v.react = 8 → t.fc.resetDue.isSome = true) ∧
    (∀ m : Fin 16, v.conseq = false → e.mast = some m.val →
      (v.react = 3 ∨ v.react = 4 → (t.mast m).seq.st = .fault ∨ (t.mast m).seq.pendFault = true) ∧
      (v.react = 6 → (t.mast m).resetAt.isSome = true))

/-- R362, R364, R366, R377, R386, R393: a parity error of a memory, and a test event of a present source, are that source's event of the present SPARCLK
cycle with its detail, 0xFF for a test; a record that found the pending table full raises FC_PEND_FULL's. Two events of one source in one cycle are one with
the higher detail, and of the records of a cycle the more severe comes first, of one severity that of the lower source.
The readings the rules leave open are the model's: log entries 55, 77, 80. -/
def Obligations.EventsRecorded : Prop :=
  ∀ (dt : Nat) (z s : State),
    (∀ mem : BitVec 8, EventRow dt z s (.memoryParityError dt mem) fun t =>
      t.fc.events = if mem = 0xFF#8 then s.fc.events else s.fc.events ++ [{ src := DS.PARITY, detail := mem.toNat, mast := none }]) ∧
    (s.fc.fullDue = true → EventRow dt z s (.pendingTableFull dt) fun t =>
      t.fc.events = s.fc.events ++ [{ src := DS.FC_PEND_FULL, detail := 0, mast := none }] ∧ t.fc.fullDue = false) ∧
    (∀ w : Word, (srcPresent s.variant (bitsOf w 7 0) = true → HostRow dt 1 z s (.fcTest dt w) fun t =>
        t.fc.events = s.fc.events ++ [{ src := bitsOf w 7 0, detail := 0xFF, mast := srcMast (bitsOf w 7 0) }]) ∧
      (srcPresent s.variant (bitsOf w 7 0) = false → s.canonical → HostRow dt 1 z s (.fcTest dt w) fun t =>
        t.fc.events = s.fc.events ∧ t.flag F.FC_STAT_CFG_ERR 0 = true)) ∧
    (∀ (x y : Ev), x.src = y.src → (mergeEv y (mergeEv x [])) = [if x.detail < y.detail then y else x]) ∧
    (∀ (evs : List Ev), (s.classifyAll evs).1.Pairwise fun v u => u.sev < v.sev ∨ (u.sev = v.sev ∧ v.ev.src ≤ u.ev.src))

/-- R378, R379, R383, R393: a wake is over at its end; FC_ACK takes the record it names from the pending table, where the role permits; ACK_ALL takes
them all under installer rights; LOG_CLR empties the log, whose snapshot stays, and FIRST_CLR the first record. -/
def Obligations.CollectorCommands : Prop :=
  ∀ (dt : Nat) (w : Word) (z s : State),
    (EventRow dt z s (.wakeEnd dt) fun t => t.fc.wakes = s.fc.wakes.filter fun x => decide (s.now < x.until_)) ∧
    HostRow dt 0 z s (.fcAck dt w) (fun t =>
      (∀ r ∈ s.fc.pend, r.seq = w.toNat → w ≠ 0#32 → (∀ q ∈ s.fc.pend, q.seq = w.toNat → q = r) → r.sev < 4 ∨ 1 ≤ s.role.role →
        t.fc.pend = s.fc.pend.filter fun q => q.seq != w.toNat) ∧
      ((∀ r ∈ s.fc.pend, r.seq ≠ w.toNat) → t.fc.pend = s.fc.pend)) ∧
    ((Instr.ackAll dt w).wf = true → s.store.audQ = [] → s.fc.pend.length ≤ 32 → HostRow dt 1 z s (.ackAll dt w) fun t => t.fc.pend = []) ∧
    ((Instr.logClr dt w).wf = true → w.getLsbD 2 = false → HostRow dt 0 z s (.logClr dt w) fun t => t.fc.log = [] ∧ t.fc.pend = s.fc.pend ∧ t.fc.logSnap = s.fc.logSnap) ∧
    ((Instr.firstClr dt w).wf = true → w.getLsbD 2 = false → HostRow dt 0 z s (.firstClr dt w) fun t => t.fc.first = none)

/-! ### The Izengan ring (ch. 11) -/

/-- R426–R429, R433: a port that is not disabled notes whether signal is detected, and a quiet one that detects it acquires; a port locks, loses its
lock, and turns quiet where it has been without signal for T_Q in ACQUIRE; a node with both ports ready is
inserted; one that no port of has come up in 100 µs leaves and tries again 10 ms later, one with a single port UP wraps at the other; a LINK
set with the peer's lock brings a locked port of an inserted node UP; a port that leaves UP wraps, or with both down the node leaves; a
wrap at a port that has been UP for 10 ms ends.
The readings the rules leave open are the model's: log entries 26, 27, 67, 111. -/
def Obligations.RingPorts : Prop :=
  ∀ (dt : Nat) (q : Fin 2) (z s : State),
    let p := s.port q
    let o : Fin 2 := Fin.ofNat 2 (1 - q.val)
    (∀ present, p.st ≠ .disabled → EventRow dt z s (.signalDetected dt ⟨q, present⟩) fun t => (t.port q).sig = present ∧
      (p.st = .quiet → present = true → (t.port q).st = .acquire ∧ (t.port q).since = s.now) ∧
      (p.st ≠ .quiet ∨ present = false → (t.port q).st = p.st ∧ (t.port q).since = p.since) ∧
      (p.st ≠ .quiet → p.sig = true → present = false → (t.port q).noSig = s.now)) ∧
    (p.st = .acquire → EventRow dt z s (.linkLocked dt q) fun t => (t.port q).st = .locked ∧ (t.port q).lock = true) ∧
    (p.st = .locked → EventRow dt z s (.symbolLockLost dt q) fun t => (t.port q).st = .acquire ∧ (t.port q).lock = false) ∧
    (p.st = .acquire → p.sig = false → p.since + ringTq ≤ s.now → p.noSig + ringTq ≤ s.now →
      EventRow dt z s (.linkQuietTimeout dt q) fun t => (t.port q).st = .quiet) ∧
    (p.sig = true ∨ s.now < p.noSig + ringTq → EventRow dt z s (.linkQuietTimeout dt q) fun t => t.ring = s.ring) ∧
    (s.insertDue = true → EventRow dt z s (.ringInsert dt) fun t => t.ring.inserted = true ∧ t.ring.insAt = s.now ∧ t.ring.tokens = 0 ∧
      t.ring.founder = (decide ((s.port 0).st = .quiet) && decide ((s.port 1).st = .quiet))) ∧
    (s.ring.inserted = true → s.ring.insAt + 100 * tUs ≤ s.now → EventRow dt z s (.insertionTimeout dt) fun t =>
      (p.st ≠ .up → (s.port o).st ≠ .up → s.ring.everUp = false → t.ring.inserted = false ∧ (t.port q).st = .acquire ∧
        t.ring.retryAt = some (s.now + 10 * tMs)) ∧
      (p.st = .up → (s.port o).st ≠ .up → (t.port o).wrap = true ∧ t.ring.inserted = true)) ∧
    (∀ u, s.ring.retryAt = some u → u ≤ s.now → EventRow dt z s (.retrainTimer dt) fun t => t.ring.retryAt = none) ∧
    (∀ lock ins (n : BitVec 5), p.st = .locked ∨ p.st = .up → EventRow dt z s (.linkSetReceived dt q lock ins n) fun t =>
      (t.port q).peerLock = lock ∧ (t.port q).peer = n.toNat ∧
      (p.st = .locked → s.ring.inserted = true → lock = true → (t.port q).st = .up ∧ t.ring.everUp = true)) ∧
    (p.st = .up → EventRow dt z s (.linkDown dt q) fun t => (t.port q).st = .acquire ∧
      ((s.port o).st ≠ .up → t.ring.inserted = false) ∧
      ((s.port o).st = .up → t.ring.inserted = s.ring.inserted ∧ (t.port q).wrap = true ∧ (p.wrap = false → t.ring.wrapped = true))) ∧
    (p.st = .up → p.wrap = true → p.since + 10 * tMs ≤ s.now → EventRow dt z s (.unwrapTimer dt q) fun t => (t.port q).wrap = false ∧
      (t.port q).st = .up)

/-- R438–R440, R454: a STOP of another node is noted with its source, counted where it is new, and furls the device where STOP_RX is set; LK_STOP.SEND
furls this one; a STOP of this node leaves both ports of an inserted node at once and three times more, 1 µs apart, whatever other STOPs are being
repeated; the loopback test runs with the node disabled, and ends with its result.
The readings the rules leave open are the model's: log entry 27. -/
def Obligations.RingStops : Prop :=
  ∀ (dt : Nat) (z s : State),
    (∀ (q : Fin 2) (src : BitVec 5) (no : BitVec 3) cut, (s.port q).st = .locked ∨ (s.port q).st = .up → src.toNat ≠ s.node →
      EventRow dt z s (.ringStopReceived dt q src no cut) fun t => t.ring.stopSrc = src.toNat ∧
        (s.flag F.LK_CTL_STOP_RX = true → t.furl.furled = true) ∧
        ((∀ e ∈ s.ring.stopRx, e.1 = src.toNat → e.2.1 = no.toNat → e.2.2 + 100 * tUs ≤ s.now) →
          t.ring.stopCnt = satNat 255 (s.ring.stopCnt + 1) ∧ (src.toNat, no.toNat, s.now) ∈ t.ring.stopRx) ∧
        ((∃ e ∈ s.ring.stopRx, e.1 = src.toNat ∧ e.2.1 = no.toNat ∧ s.now < e.2.2 + 100 * tUs) → t.ring.stopCnt = s.ring.stopCnt) ∧
        (s.ring.inserted = true → (∀ e ∈ s.ring.stopFwd, e.1 = (s.outPort (otherPort q)).val → e.2.1 = src.toNat → e.2.2.1 = no.toNat →
          e.2.2.2 + 100 * tUs ≤ s.now) → ((s.outPort (otherPort q)).val, src.toNat, no.toNat, s.now) ∈ t.ring.stopFwd ∧
            ((s.outPort (otherPort q)).val, stopSymbol src.toNat no.toNat) ∈ t.ring.stopSent)) ∧
    (∀ w : Word, s.variant.ring = true → (Instr.stopSend dt w).wf = true → HostRow dt 0 z s (.stopSend dt w) fun t => t.furl.furled = true ∧
      t.ring.stopReps = s.ring.stopReps ++ [(s.ring.stopNo, 3, s.now + tUs)] ∧ t.ring.stopNo = (s.ring.stopNo + 1) % 8 ∧
      (s.ring.inserted = true → t.ring.stopSent = s.ring.stopSent ++ [(0, stopSymbol s.node s.ring.stopNo), (1, stopSymbol s.node s.ring.stopNo)]) ∧
      (s.ring.inserted = false → t.ring.stopSent = s.ring.stopSent)) ∧
    ((∃ e ∈ s.ring.stopReps, e.2.2 ≤ s.now) → EventRow dt z s (.stopRepeat dt) fun t =>
      (∀ e ∈ s.ring.stopReps, s.now < e.2.2 → e ∈ t.ring.stopReps) ∧
      (∀ n k u, (n, k, u) ∈ s.ring.stopReps → u ≤ s.now → (2 ≤ k → (n, k - 1, u + tUs) ∈ t.ring.stopReps) ∧
        (s.ring.inserted = true → (0, stopSymbol s.node n) ∈ t.ring.stopSent ∧ (1, stopSymbol s.node n) ∈ t.ring.stopSent)) ∧
      (∀ n k u, (n, k, u) ∈ t.ring.stopReps → (n, k, u) ∈ s.ring.stopReps ∨ ∃ v, (n, k + 1, v) ∈ s.ring.stopReps ∧ v ≤ s.now ∧ 1 ≤ k ∧ u = v + tUs)) ∧
    (∀ w : Word, s.variant.ring = true → (Instr.loopbackTest dt w).wf = true → HostRow dt 1 z s (.loopbackTest dt w) fun t =>
      (s.flag F.LK_CTL_EN = false → t.ring.loopAt = some s.now ∧ t.ring.lbDone = false) ∧
      (s.flag F.LK_CTL_EN = true → t.ring.loopAt = s.ring.loopAt ∧ (s.canonical → t.flag F.LK_STAT_CFG_ERR = true))) ∧
    (∀ u pass, s.ring.loopAt = some u → u + 100 * tUs ≤ s.now → EventRow dt z s (.loopbackDone dt pass) fun t =>
      t.ring.loopAt = none ∧ t.ring.lbDone = true ∧ t.ring.lbOk = pass)

/-- R35, R430–R432, R434, R444, R447, R449–R451: a frame that passes policing goes on, HOPS incremented; the first copy of one for this node is acted on: a
MESSAGE and a WRITE write the signals a peer may write, a TOPO says the ring is wrapped, a BEACON names a node heard, a PUBLISH reaches the mirrors, a
READ_REQ is answered with the signal's value, 0.0 for one of an absent mast, a READ_RSP completes the access that waits with its number, another's is
discarded; a second copy of a MESSAGE or WRITE writes nothing.
The readings the rules leave open are the model's: log entry 27. -/
def Obligations.RingFrames : Prop :=
  ∀ (dt : Nat) (q : Fin 2) (f : Frame) (z s : State), s.canonical → f.wf = true → (s.port q).st = .up → s.ring.inserted = true →
    f.src.toNat ≠ s.node → f.dst.toNat = s.node ∨ f.dst.toNat = 63 →
    let fresh (cls : Nat) : Prop := s.ring.first.contains (f.src.toNat, cls, f.seq.toNat, f.cycle.toNat) = false
    let passes (cls typ : Nat) : Prop := (s.police q cls typ f).1 = true
    let onward (cls typ : Nat) (t : State) : Prop := f.hops.toNat + 1 < 63 → ((s.outPort (otherPort q)).val,
      ({ cls := cls, typ := typ, frame := { f with hops := BitVec.ofNat 6 (f.hops.toNat + 1) } } : TxFrame)) ∈ t.ring.sent
    let src := f.src.toNat
    (∀ i v : Word, f.words = [i, v] → passes 0 1 → EventRow dt z s (.messageReceived dt q f) fun t => onward 0 1 t ∧
      (fresh 0 → i.msb = true → s.peerOk (i.toNat % 2 ^ 20) = true → t.sig (i.toNat % 2 ^ 20) = v) ∧
      (¬fresh 0 ∨ i.msb = false → ∀ j, traceSig j = false → t.sig j = s.sig j)) ∧
    (∀ i v : Word, f.words = [i, v] → passes 3 2 → EventRow dt z s (.writeReceived dt q f) fun t => onward 3 2 t ∧
      (fresh 3 → s.peerOk (i.toNat % 2 ^ 20) = true → t.sig (i.toNat % 2 ^ 20) = v) ∧
      (fresh 3 → s.peerOk (i.toNat % 2 ^ 20) = false → t.flag F.LK_STAT_PWR_REF = true ∧ ∀ j, traceSig j = false → t.sig j = s.sig j) ∧
      (¬fresh 3 → ∀ j, traceSig j = false → t.sig j = s.sig j)) ∧
    (passes 0 2 → EventRow dt z s (.topoReceived dt q f) fun t => onward 0 2 t ∧ (fresh 0 → t.ring.wrapped = true ∧ t.ring.wrapAge = 0)) ∧
    (passes 0 0 → EventRow dt z s (.beaconReceived dt q f) fun t => (fresh 0 → (src, 0) ∈ t.ring.heard ∧
      ∀ n k, n ≠ src → ((n, k) ∈ t.ring.heard ↔ (n, k) ∈ s.ring.heard))) ∧
    (∀ (d v : Word) (p : Fin 16) last, f.words = [d, v] → passes 2 0 → fresh 2 → s.pwinOn p = true → s.pwin F.LK_PWIN_NODE p = src →
      s.pwin F.LK_PWIN_BASE p * 0x1000 ≤ d.toNat % 2 ^ 20 → d.toNat % 2 ^ 20 - s.pwin F.LK_PWIN_BASE p * 0x1000 < 0x8000 →
      s.mirrored p (d.toNat % 2 ^ 20 - s.pwin F.LK_PWIN_BASE p * 0x1000) = true →
      EventRow dt z s (.publishReceived dt q f last) fun t =>
        t.sig (0x80000 + 0x8000 * p.val + (d.toNat % 2 ^ 20 - s.pwin F.LK_PWIN_BASE p * 0x1000)) = v ∧ t.ring.pubAge.toArray.getD src 1 = 0) ∧
    (∀ tag i : Word, f.words = [tag, i] → i.toNat % 2 ^ 20 < 0x10000 → passes 3 0 → fresh 3 → EventRow dt z s (.readReqReceived dt q f) fun t =>
      ∃ x : TxFrame, x.cls = 3 ∧ x.typ = 1 ∧ x.frame.dst.toNat = src ∧ x.frame.words = [tag, s.sigRead (i.toNat % 2 ^ 20)] ∧
        (s.sigKind (i.toNat % 2 ^ 20) = .absent → x.frame.words = [tag, 0#32]) ∧
        (x ∈ t.ring.bulk ∨ ∃ p, (p, x) ∈ t.ring.sent)) ∧
    (∀ (tag v : Word) (c : Fin 64) (r sg : Nat) v0 t0, f.words = [tag, v] → bitsOf tag 6 0 = c.val → passes 3 1 → fresh 3 → s.host.fifo = [] → (s.ctx c).st = .blocked →
      (s.ctx c).wait = some (.access sg (some r) v0 t0 false) → 0x80000 ≤ sg → EventRow dt z s (.readRspReceived dt q f) fun t =>
        (bitsOf tag 31 7 = (s.ctx c).reqNo % 2 ^ 25 → (t.ctx c).wait = some (.access sg (some r) v t0 true)) ∧
        (bitsOf tag 31 7 ≠ (s.ctx c).reqNo % 2 ^ 25 → t.ctx c = s.ctx c))

/-- R422, R424, R435, R437, R442–R444: a frame that is dropped counts among its port's errors, and so does a code error, in a frame or outside one; a ring
cycle that begins takes its number, empties the policing counts' cycle part, and sends the BEACON and the message that waits; a write of MSG_DST is noted for
the end of its cycle in the order of the ranks, one of a node that does not exist refused, and there the four entries go to the node at once in a free
express slot, wait for the next where it is used, or are applied where the node is this one.
The readings the rules leave open are the model's: log entries 27, 67, 84. -/
def Obligations.RingCycle : Prop :=
  ∀ (dt : Nat) (z : State), (z.elapse dt).canonical →
    let s := z.elapse dt
    (∀ (q : Fin 2) (k : FrameErr), (s.port q).st = .up → s.ring.inserted = true → ∃ t, exec (.frameError dt q k) z = .next t ∧
      (k ≠ .stray → t.fld (errFld F.LK_ERR0_CRC q) = satNat 255 (s.fld (errFld F.LK_ERR0_CRC q) + 1)) ∧
      (k = .stray → t.fld (errFld F.LK_ERR0_CRC q) = s.fld (errFld F.LK_ERR0_CRC q)) ∧
      (k = .code ∨ k = .stray → t.fld (errFld F.LK_ERR0_CODE q) = satNat 255 (s.fld (errFld F.LK_ERR0_CODE q) + 1)) ∧
      (k = .crc ∨ k = .eof ∨ k = .reserved → t.fld (errFld F.LK_ERR0_CODE q) = s.fld (errFld F.LK_ERR0_CODE q)) ∧ t.ring = s.ring) ∧
    (∀ q : Fin 2, (s.port q).st = .locked ∨ (s.port q).st = .up → ∃ t, exec (.frameError dt q .stray) z = .next t ∧
      t.fld (errFld F.LK_ERR0_CODE q) = satNat 255 (s.fld (errFld F.LK_ERR0_CODE q) + 1) ∧ t.ring = s.ring) ∧
    (s.cycleDue = true → ∃ t, exec (.ringCycleStart dt) z = .next t ∧ t.ring.cycle = s.cycNow ∧
      t.sig 0x30A = nat32 s.cycNow ∧ t.ring.polExp = Vector.replicate 64 0 ∧
      (s.ring.inserted = true → ∃ x : TxFrame, ((s.outPort 1).val, x) ∈ t.ring.sent ∧ x.cls = 0 ∧ x.typ = 0 ∧ x.frame.dir = false ∧ x.frame.dst = 63#6 ∧
        x.frame.words = [nat32 uid0, s.wrapStatus]) ∧
      (∀ d e, s.ring.inserted = true → s.ring.topo = false → s.ring.msg = some (d, e) → t.ring.slotUsed = true ∧ t.ring.msg = none ∧
        ∃ x : TxFrame, ((s.outPort 1).val, x) ∈ t.ring.sent ∧ x.cls = 0 ∧ x.typ = 1 ∧ x.frame.dst = BitVec.ofNat 6 d ∧ x.frame.words = e)) ∧
    (∀ w : Word, s.asked.canonical → s.asked.TakesWrites 0 → ∃ t, exec (.messageSend dt w) z = .next t ∧
      (w.toNat < 32 ∨ w.toNat = 63 → t.sig 0x308 = (if s.asked.outranked 0 0x308 then s.asked.sig 0x308 else w) ∧
        t.cyc.posts = insPost (0, .message w.toNat) s.asked.cyc.posts) ∧
      (32 ≤ w.toNat → w.toNat ≠ 63 → t.sig 0x308 = s.asked.sig 0x308 ∧ t.cyc.posts = s.asked.cyc.posts ∧ t.flag F.LK_STAT_CFG_ERR = true)) ∧
    (∀ d : Nat, d < 32 ∨ d = 63 →
      let e := [0, 1, 2, 3].flatMap fun i => [s.sig (0x300 + i), s.sig (0x304 + i)]
      let t := s.sendPost (.message d)
      (d ≠ s.node → s.ring.inserted = true → s.ring.slotUsed = false → t.ring.slotUsed = true ∧ t.ring.msg = none ∧
        ∃ x : TxFrame, ((s.outPort 1).val, x) ∈ t.ring.sent ∧ x.cls = 0 ∧ x.typ = 1 ∧ x.frame.dst.toNat = d ∧ x.frame.words = e) ∧
      (d ≠ s.node → s.ring.inserted = false ∨ s.ring.slotUsed = true → t.ring.msg = some (d, e) ∧ t.ring.sent = s.ring.sent) ∧
      (d ≠ s.node → s.ring.msg ≠ none → t.flag F.LK_STAT_MSG_OVR = true) ∧
      (d = s.node → t.ring = s.ring ∧ ((s.sig 0x303).msb = true → s.peerOk ((s.sig 0x303).toNat % 2 ^ 20) = true →
        t.sig ((s.sig 0x303).toNat % 2 ^ 20) = s.sig 0x307)))

/-! ### Network time and the action calendar (ch. 12) -/

/-- R459, R463–R468, R490: a Sync that passes its checks goes on with the link delay and its residence added to its correction, and its first copy gives
its offset θ to the domain whose slave this node is, for the main domain unless the servo is FREE; one of another version or domain, with twoStepFlag, or
at a port whose link delay is not valid, adds to TIME_DROP; a Pdelay_Req waits for its answer with its arrival, and the answer carries the turnaround and
the identity of the port that asked; a Pdelay_Resp to the request sent filters the link delay, valid after 4 exchanges; the Sync of this node leaves on its
lanes as copies of one frame, each with its own port's timestamp.
The readings the rules leave open are the model's: log entries 29, 30. -/
def Obligations.TimeFrames : Prop :=
  ∀ (dt : Nat) (q : Fin 2) (f : TimeFrame) (z s : State), s.canonical → f.hdr.wf = true → (s.port q).st = .up → s.ring.inserted = true →
    let passes (typ : Nat) : Prop := (s.police q 1 typ f.hdr).1 = true
    let stype : Nat := if f.mizzen then 0x10 else 0
    let dom := if f.mizzen then s.fld F.PTP_CFG_DOM_Z else s.fld F.PTP_CFG_DOM_M
    let fresh : Prop := s.ring.first.contains (f.hdr.src.toNat, 1, f.hdr.seq.toNat, f.hdr.cycle.toNat) = false
    let half : Int := tbWrap / 2
    let th := (s.stamp s.now - s.srv.ld[q] - (f.sec.toNat * nsSec + f.ns.toNat * 2 ^ 32) - f.corr.toInt * 2 ^ 16 + half) % (tbWrap : Int) - half
    let dropped (t : State) : Prop := t.sig 0x408 = s.sig 0x408 + 1#32 ∧ t.srv = s.srv ∧ t.tb = s.tb
    (passes stype → f.version = 2#4 → f.twoStep = false → f.dom.toNat = dom → s.srv.ldOk[q] = true → f.hdr.src.toNat ≠ s.node → fresh →
      EventRow dt z s (.syncReceived dt q f) fun t =>
        (f.mizzen = false → s.mrole = 1 → s.srv.st ≠ .free → t.srv.ofs = th ∧ t.srv.mainAt = s.now) ∧
        (f.hdr.hops.toNat + 1 < 63 → ((s.outPort (otherPort q)).val, 0, ({ f with
          hdr := { f.hdr with hops := BitVec.ofNat 6 (f.hdr.hops.toNat + 1) }
          corr := BitVec.ofInt 64 (f.corr.toInt + s.srv.ld[q] / 2 ^ 16 + (s.egress (s.outPort (otherPort q)).val - s.stamp s.now) / 2 ^ 16) } :
            TimeFrame)) ∈ t.srv.sent) ∧
        (f.mizzen = true → s.zrole = 1 → t.srv.mz = ((th, s.now) :: s.srv.mz).take 16)) ∧
    (passes stype → f.version ≠ 2#4 ∨ f.twoStep = true ∨ f.dom.toNat ≠ dom ∨ s.srv.ldOk[q] = false →
      EventRow dt z s (.syncReceived dt q f) fun t => dropped t) ∧
    (passes 2 → EventRow dt z s (.pdelayReqReceived dt q f) fun t =>
      (f.version = 2#4 → f.twoStep = false → t.srv = { s.srv with
        pdAsked := s.srv.pdAsked ++ [⟨q.val, f.seqId.toNat, s.stamp s.now, f.clockId, f.portNo⟩] }) ∧
      (f.version ≠ 2#4 ∨ f.twoStep = true → dropped t)) ∧
    (∀ ago : Nat, passes 3 → EventRow dt z s (.pdelayRespReceived dt q f ago) fun t =>
      (∀ t1, f.version = 2#4 → f.twoStep = false → s.srv.pdReq[q] = some (f.seqId.toNat, t1) →
        let d := (s.stamp (s.now - ago) - t1 - f.corr.toInt * 2 ^ 16) / 2
        t.srv.ld[q] = s.srv.ld[q] + (d - s.srv.ld[q]) / 2 ^ min (s.fld F.PTP_CFG_PD_TC) 8 ∧
        t.srv.ldN[q] = s.srv.ldN[q] + 1 ∧ (t.srv.ldOk[q] = true ↔ 4 ≤ t.srv.ldN[q]) ∧ t.srv.pdReq[q] = none) ∧
      (f.version = 2#4 → f.twoStep = false → (∀ t1, s.srv.pdReq[q] ≠ some (f.seqId.toNat, t1)) → t.srv = s.srv) ∧
      (f.version ≠ 2#4 ∨ f.twoStep = true → dropped t)) ∧
    (∀ (e : PdAsk), (s.port (Fin.ofNat 2 e.port)).st = .up → ∃ x : TimeFrame, (s.answerDelay e).srv.sent = s.srv.sent ++ [(e.port, 3, x)] ∧
      x.corr = BitVec.ofInt 64 ((s.egress e.port - e.t2) / 2 ^ 16) ∧ x.reqClock = e.clock ∧ x.reqPort = e.portNo ∧ x.seqId = BitVec.ofNat 16 e.id) ∧
    (∀ mizzen, (s.sendSync mizzen).srv.sent.length = s.srv.sent.length + s.lanesOut.length ∧
      ∀ x ∈ (s.sendSync mizzen).srv.sent.drop s.srv.sent.length, x.2.1 = 0 ∧ x.2.2.hdr.seq = BitVec.ofNat 8 s.ring.seqs[1] ∧
        x.2.2.seqId = BitVec.ofNat 16 (s.srv.seqIds.toArray.getD (if mizzen then 1 else 0) 0) ∧
        x.2.2.sec = BitVec.ofNat 48 ((s.egress x.1 % (tbWrap : Int)).toNat / nsSec))

/-- R442, R458, R460, R469, R473, R476, R477, R514: losing the main master leads to MIZZEN, with I taken from the rate in force and P cleared, or to
FREERUN; the loss of a master that the servo does not work on is noted; a mizzen domain that becomes valid by its role ends FREERUN; 8 intervals of HOLD to
REVALIDATE, REVERT from MIZZEN to ACQUIRE; a host SET_TIME loads the time base as the next SPARCLK cycle begins, a slave's servo acquiring anew, or is
refused for 1,000,000,000 ns or more; a step of the time base begins no ring cycle in its middle; a capture unit takes the time base at the edge of its
sense of the pin it names; an edge of a pin is noted.
The readings the rules leave open are the model's: log entries 30, 79. -/
def Obligations.TimeBase : Prop :=
  ∀ (dt : Nat) (z s : State), s.canonical →
    (s.srv.st = .acquire ∨ s.srv.st = .track ∨ s.srv.st = .hold ∨ s.srv.st = .revalidate → s.srv.mainGone = false → s.srv.mainAt + s.syncTmo ≤ s.now →
      EventRow dt z s (.masterLost dt) fun t => t.flag F.TB_STAT_SYNC_LOST = true ∧ t.srv.since = s.now ∧ t.srv.mainGone = true ∧
      t.srv.st = (if s.mzValid then .mizzen else .freerun) ∧
      (s.mzValid = true → t.srv.p = fZero ∧ t.srv.i = fClamp (fSub s.srv.rho s.mzRate) (fNeg s.rateMax) s.rateMax ∧ (s.mzOwn = true → t.tb = s.tb))) ∧
    (s.srv.st = .freerun ∨ s.srv.st = .mizzen → s.srv.mainGone = false → s.srv.mainAt + s.syncTmo ≤ s.now → EventRow dt z s (.masterLost dt) fun t =>
      t.flag F.TB_STAT_SYNC_LOST = true ∧ t.srv.mainGone = true ∧ t.tb = s.tb) ∧
    (s.zrole = 1 → s.srv.mzGone = false → s.srv.mzAt + s.syncTmo ≤ s.now → EventRow dt z s (.masterLost dt) fun t =>
      t.flag F.TB_STAT_SYNC_LOST = true ∧ t.srv.mzGone = true ∧ t.sig 0x407 = b2w s.mzValid) ∧
    (s.srv.st = .mizzen → s.mzValid = false → EventRow dt z s (.masterLost dt) fun t => t.srv.st = .freerun ∧ t.tb = s.tb) ∧
    (∀ role : Nat, s.mrole = 1 → s.srv.st = .freerun → s.mzValid = true → s.zrole = 2 → (s.refreshRole role).srv.st = .mizzen) ∧
    (s.srv.st = .hold → s.srv.since + 8 * s.tsTaps ≤ s.now → EventRow dt z s (.holdTimeout dt) fun t => t.srv.st = .revalidate ∧ t.srv.reval = [] ∧
      t.tb = s.tb) ∧
    (∀ w : Word, w.getLsbD 1 = true → w.getLsbD 0 = false → HostRow dt 1 z s (.tbRevert dt w) fun t => t.tb = s.tb ∧
      (s.srv.st = .mizzen → t.srv.st = .acquire ∧ t.srv.noSet = true ∧ t.srv.mainAt = s.now) ∧
      (s.srv.st ≠ .mizzen → t.flag F.TB_STAT_CFG_ERR = true ∧ t.srv = s.srv)) ∧
    (∀ w : Word, w.getLsbD 0 = true → w.getLsbD 1 = false → HostRow dt 1 z s (.setTime dt w) fun t =>
      (s.fld F.SET_NS_NS < 1000000000 → t.srv = s.srv ∧ t.tb = { s.tb with
        load := some (.host ((s.fld F.SET_SEC_LO_SEC + 2 ^ 32 * s.fld F.SET_SEC_HI_SEC) * nsSec + s.fld F.SET_NS_NS * 2 ^ 32)) }) ∧
      (1000000000 ≤ s.fld F.SET_NS_NS → t.tb = s.tb ∧ t.srv = s.srv ∧ t.flag F.TB_STAT_CFG_ERR = true)) ∧
    (∀ x, s.tb.load = some (.host x) →
      let t := s.tbLoad
      t.tb = { s.tb with load := none, total := x % tbWrap / 2 ^ 32 * 2 ^ 32 } ∧ t.flag F.TB_STAT_SET_DONE = true ∧
      (s.mrole = 1 → t.srv.st = .acquire ∧ t.srv.mainAt = s.now ∧ t.srv.mainGone = false) ∧
      (0 < s.cycNs → x % tbWrap / 2 ^ 32 % s.cycNs ≠ 0 → t.cycleDue = false)) ∧
    (∀ (n : Fin 4) (p : Fin 32) up, s.capOn n.val up = true → bitsOf (s.rd R.TSC_CFG) (8 * n.val + 4) (8 * n.val) = p.val →
      s.gpio.inp.testBit p.val ≠ up → ∀ i, i = .captureEdge dt n up ∨ i = .gpioInputEdge dt p up → EventRow dt z s i fun t =>
      let b := 0x410 + 4 * n.val
      t.sig b = nat32 (s.tbSec % 2 ^ 32) ∧ t.sig (b + 1) = nat32 (s.tbSec / 2 ^ 32) ∧ t.sig (b + 2) = nat32 s.tbNs ∧ t.sig (b + 3) = s.sig (b + 3) + 1#32 ∧
      t.fld ⟨R.TSC_STAT, 8 * n.val + 7, 8 * n.val + 7⟩ = 1 ∧
      (s.fld ⟨R.TSC_STAT, 8 * n.val + 7, 8 * n.val + 7⟩ = 1 → t.fld ⟨R.TSC_STAT, 8 * n.val + 6, 8 * n.val + 6⟩ = 1)) ∧
    (∀ (p : Fin 32) level, EventRow dt z s (.gpioInputEdge dt p level) fun t =>
      (s.gpio.inp.testBit p.val = level → t.gpio = s.gpio ∧ t.rd R.GPIO_EDGE = s.rd R.GPIO_EDGE) ∧
      (s.gpio.inp.testBit p.val ≠ level → t.rd R.GPIO_EDGE = s.rd R.GPIO_EDGE ||| BitVec.ofNat 32 (2 ^ p.val) ∧
        t.sig 0x500 = BitVec.ofNat 32 t.gpio.inp ∧ ∀ k, t.gpio.inp.testBit k = if k = p.val then level else s.gpio.inp.testBit k))

/-- R318, R479–R484, R486–R488: a due entry is dispatched, one in a SPARCLK cycle, and a one-shot one freed; CAL_CMD and CALI ask for an insertion, CAL_CMD
and CALD for a removal, CAL_CMD for a copy, and a CAL_CMD is refused while one is in progress or reads as such in its cycle; the commands of a cycle are
carried out in the order of the lanes, the host last: an insertion queues an entry that is not late at the lowest free index and answers it, or refuses it
with the code of R481; a removal frees the entry; the result goes to CAL_RES, or to the register and the flags of the context; setting EN drops the one-shot
entries with LATE = DROP whose instants have passed. The readings the rules leave open are the model's: log entries 31, 45. -/
def Obligations.Calendar : Prop :=
  ∀ (dt : Nat) (z s : State), s.canonical →
    let l := s.cal.entries
    let asks (t : State) (j : CalJob) : Prop := t.cal = { s.cal with jobs := insJob j s.cal.jobs }
    let host (t : State) (j : CalJob) : Prop :=
      (s.calBusy = false → s.before.calBusy = false → asks t j) ∧
      (s.calBusy = true ∨ s.before.calBusy = true → t.cal = s.cal ∧ t.flag F.CAL_STAT_CFG_ERR = true)
    let lane (c : Fin 64) (w : Word) (cmd : Nat) (w0 w1 w2 w3 : Word) (t : State) : Prop :=
      asks t { rank := ((s.ctx c).lane.map (·.val)).getD 0, dest := some (c, iD w), cmd := cmd, w0 := w0, w1 := w1, w2 := w2, w3 := w3 } ∧
      (t.ctx c).st = .blocked ∧ (t.ctx c).wait = some (.result (s.now + 64 * tEng)) ∧ Ctx.went (s.ctx c) (t.ctx c) (s.ctx c).fl ((s.ctx c).pc + 1)
    (∀ e, s.calDue = some e → e.ival = 0 → s.cyc.cal = false → EventRow dt z s (.calendarDispatch dt) fun t => t.cyc.cal = true ∧
      (e.action ≠ 0 → t.cal.entries = dropEntry e.ix l) ∧
      (e.action = 5 → t.sig (0x412 + 4 * (e.arg % 4)) = nat32 s.tbNs) ∧
      (e.action = 3 → s.hasCtx (e.arg % 64) = true → (s.ctx (Fin.ofNat 64 e.arg)).st = .waiting → -(s.calD e) ≤ s.calGuard →
        (t.ctx (Fin.ofNat 64 e.arg)).st = .runnable ∧ (t.ctx (Fin.ofNat 64 e.arg)).act = some { kind := TK.CALENDAR, a := e.ix, b := 0, at_ := s.now })) ∧
    (s.cyc.cal = true → EventRow dt z s (.calendarDispatch dt) fun t => t.cal = s.cal) ∧
    (∀ w : Word, bitsOf w 31 30 = 1 → HostRow dt 0 z s (.calInsert dt (.host w)) fun t =>
      host t { rank := 4, dest := none, cmd := 1, w0 := s.rd R.CAL_W0, w1 := s.rd R.CAL_W1, w2 := s.rd R.CAL_W2, w3 := s.rd R.CAL_W3 }) ∧
    (∀ (c : Fin 64) (w k : Word), s.Issues c w k → iOp w = 0x70 → EventRow dt z s (.calInsert dt (.ctx c)) fun t =>
      lane c w 1 (s.vr c (iA w)) (s.vr c (iA w + 1)) (s.vr c (iA w + 2)) (s.vr c (iA w + 3)) t) ∧
    (∀ w : Word, bitsOf w 31 30 = 2 → HostRow dt 0 z s (.calRemove dt (.host w)) fun t =>
      host t { rank := 4, dest := none, cmd := 2, w0 := nat32 (bitsOf w 13 0) }) ∧
    (∀ (c : Fin 64) (w k : Word), s.Issues c w k → iOp w = 0x71 → EventRow dt z s (.calRemove dt (.ctx c)) fun t =>
      lane c w 2 (s.vr c (iA w)) 0#32 0#32 0#32 t) ∧
    (∀ w : Word, bitsOf w 31 30 = 3 → HostRow dt 0 z s (.calRead dt w) fun t =>
      host t { rank := 4, dest := none, cmd := 3, w0 := nat32 (bitsOf w 13 0) }) ∧
    (∀ (j : CalJob) (q : List CalJob), q.Pairwise (fun a b => a.rank ≤ b.rank) → (insJob j q).Pairwise fun a b => a.rank ≤ b.rank) ∧
    (∀ w0 w1 w2 w3 : Word,
      let e : CalEntry := { ix := freeIx 0 l, w0 := w0, w1 := w1, w2 := w2, w3 := w3, ord := s.cal.ord }
      let r := s.calInsert w0 w1 w2 w3
      let refused (code : Int) : Prop := r.1.cal = s.cal ∧ r.2 = code ∧ r.1.flag F.CAL_STAT_REJ = true
      (e.bad = true → refused (-4)) ∧
      (e.bad = false → s.calAbsent e = true → refused (-3)) ∧
      (e.bad = false → s.calAbsent e = false → calSize ≤ e.ix → refused (-1)) ∧
      (e.bad = false → s.calAbsent e = false → e.ix < calSize → s.calD e < s.calGuard → e.late = 2 → refused (-2)) ∧
      (e.bad = false → s.calAbsent e = false → e.ix < calSize → s.calGuard ≤ s.calD e → r.1.cal.entries = putEntry e l ∧ r.2 = e.ix ∧
        r.1.sig 0x422 = nat32 (putEntry e l).length)) ∧
    (∀ ix : Nat, (calSize ≤ ix → s.calRemove ix = (s, -4)) ∧ (ix < calSize → (∀ e ∈ l, e.ix ≠ ix) → s.calRemove ix = (s, -1)) ∧
      (ix < calSize → (∃ e ∈ l, e.ix = ix) → (s.calRemove ix).1.cal.entries = dropEntry ix l ∧ (s.calRemove ix).2 = 0)) ∧
    (∀ ix : Nat, ix < calSize → let r := s.calRead ix
      r.1.cal = s.cal ∧
      (∀ e, findEntry ix l = some e → r.2 = 0 ∧
        r.1.rd R.CAL_W0 = e.w0 ∧ r.1.rd R.CAL_W1 = e.w1 ∧ r.1.rd R.CAL_W2 = e.w2 ∧ r.1.rd R.CAL_W3 = e.w3) ∧
      (findEntry ix l = none → r.2 = -1 ∧ r.1.rd R.CAL_W0 = 0 ∧ r.1.rd R.CAL_W1 = 0 ∧ r.1.rd R.CAL_W2 = 0 ∧ r.1.rd R.CAL_W3 = 0)) ∧
    (∀ j : CalJob,
      let res := (s.calRun j).2
      (j.dest = none → (s.calJob j).fld F.CAL_RES_RES = (res % 65536).toNat) ∧
      (∀ (c : Fin 64) d, d < 16 → j.dest = some (c, d) → ((s.calJob j).ctx c).reg d = wordOfInt res ∧
        ((s.calJob j).ctx c).fl = (((s.calRun j).1.ctx c).fl.calOf (wordOfInt res)))) ∧
    (∀ w : Word, w.getLsbD 31 = true → HostRow dt 1 z s (.calEnable dt w) fun t => t.flag F.CAL_CTL_EN = true ∧
      (s.flag F.CAL_CTL_EN = true ∨ (∀ e ∈ l, 0 ≤ s.calD e ∨ e.due = true) → t.cal = s.cal) ∧
      (s.flag F.CAL_CTL_EN = false → l.Pairwise (fun a b => a.ix < b.ix) →
        ∀ e ∈ l, s.calD e < 0 → e.due = false → e.late = 1 → e.ival = 0 → findEntry e.ix t.cal.entries = none))

/-! ### The host port (ch. 13) -/

/-- R457, R497, R501, R502, R504–R508, R388, R560: the first word of a read of on-chip registers is the register's value as its SPARCLK cycle began with
it, 0 where there is none, and as many words follow as are read; a read of a register in the snapshot hold sends the held value; an RC access takes the
counts, but not what its own cycle adds, and so does the access of the address after the last word, which no word follows; a low word snapshots its others;
FC_LOG3, AUD_DATA and SIG_DATA advance their selection, MEM_DATA takes the receive queue's oldest word or underruns; STATUS sends HOST_STAT, a word for
each row; SNAPSHOT holds the registers of its group until RELEASE. A transaction finds a cycle of its own: that is the model's choice, log entry 86. The
readings the rules leave open are the model's: log entry 49. -/
def Obligations.HostReads : Prop :=
  ∀ (dt : Nat) (z s : State), s = (z.elapse dt).asked → s.canonical → s.HostIdle →
    let gives (i : Instr) (p : State → Prop) : Prop := ∃ t, exec i z = .next t ∧ p t
    let b := ({ s with cyc := { s.cyc with host := true } } : State).before
    let val (a : Nat) : Word := match s.place a with
      | .reg k i row => b.regVal k i row
      | _ => 0
    let sigVal (id : Nat) : Word := match s.sigKind id with
      | .absent | .none_ => 0#32
      | .op => (match s.cyc.hwOld.find? fun e => e.1 == id with | some e => e.2 | none => s.sigNow id)
      | _ => b.sigNow id
    let plain (id : Nat) : Prop := s.sigKind id ≠ .ext ∧ ∀ n t, s.sigKind id ≠ .peer n t
    let h := s.host.heldRegs
    (h = [] → ∀ (a : BitVec 13) (n : Nat), a.toNat ≠ R.SIG_DATA → a.toNat ≠ R.MEM_DATA → 0 < n →
      (gives (.hostRead dt a n) fun t => t.host.out.length = n ∧ t.host.out.head? = some (val a.toNat)) ∧
      (gives (.readFix dt a n) fun t => t.host.out.length = n ∧ t.host.out.head? = some (val a.toNat))) ∧
    (h = [] → ∀ (a : BitVec 13) k i row, s.place a.toNat = .reg k i row → rcMask row ≠ 0 → k ≠ R.FC_SRC_STAT →
      gives (.rcFieldRead dt a) fun t => t.host.out = [val a.toNat] ∧
        ∃ u : State, t = ((u.accessPast (nextAddr a.toNat)).updHost fun x => { x with out := [val a.toNat] }).finish ∧
          u.rd (keyI k i) = (s.rd (keyI k i) &&& ~~~rcMask row) ||| (s.freshOf (keyI k i) &&& rcMask row) ∧
          u.host.rc = some (false, keyI k i, val a.toNat &&& rcMask row) ∧ u.host.ahead = none) ∧
    (∀ x, s.hasRc x = false → s.accessPast x = s) ∧
    (h = [] → ∀ x k i row, s.cyc.host = false → x < addrPast → s.place x = .reg k i row → rcMask row ≠ 0 → k ≠ R.FC_SRC_STAT →
      (s.accessPast x).host.ahead = some (false, keyI k i, val x &&& rcMask row) ∧ (s.accessPast x).host.out = s.host.out ∧
      (s.accessPast x).rd (keyI k i) = (s.rd (keyI k i) &&& ~~~rcMask row) ||| (s.freshOf (keyI k i) &&& rcMask row)) ∧
    (h = [] → gives (.snapshotLowWordRead dt (BitVec.ofNat 13 R.TB_NS)) fun t => t.host.out = [val R.TB_NS] ∧ t.tb.snapSec = some s.before.tbSec) ∧
    (h = [] → gives (.snapshotLowWordRead dt (BitVec.ofNat 13 R.FC_FIRST0)) fun t => t.host.out = [val R.FC_FIRST0] ∧
      t.fc.firstSnap = some s.before.fc.first) ∧
    (h = [] → gives (.fcLog3Read dt) fun t => t.host.out = [val R.FC_LOG3] ∧
      t.fld F.FC_LOG_SEL_SLOT = (s.fld F.FC_LOG_SEL_SLOT + b2n (s.flag F.FC_LOG_SEL_AINC)) % 256) ∧
    (h = [] → gives (.audDataRead dt) fun t => t.host.out = [val R.AUD_DATA] ∧
      ∃ u : State, t = ((u.accessPast R.ROLE_FAILS).updHost fun x => { x with out := [val R.AUD_DATA] }).finish ∧
        u.fld F.AUD_SEL_WORD = (s.fld F.AUD_SEL_WORD + b2n (s.flag F.AUD_SEL_AINC)) % 4 ∧
        u.fld F.AUD_SEL_SLOT = (s.fld F.AUD_SEL_SLOT + b2n (s.flag F.AUD_SEL_AINC && s.fld F.AUD_SEL_WORD == 3)) % 2048) ∧
    (h = [] → gives (.memDataRead dt) fun t => (∀ v r, s.mem.rx = v :: r → t.host.out = [v] ∧ t.mem.rx = r) ∧
      (s.mem.rx = [] → t.host.out = [0#32] ∧ t.host.late.isSome = true ∧ t.flag F.HOST_STAT_UNDERRUN = true)) ∧
    (h = [] → plain (s.fld F.SIG_ADDR_ID) → gives (.sigDataRead dt) fun t => t.host.out = [sigVal (s.fld F.SIG_ADDR_ID)] ∧
      t.fld F.SIG_ADDR_ID = (s.fld F.SIG_ADDR_ID + b2n (s.flag F.SIG_ADDR_AINC)) % 2 ^ 20) ∧
    (∀ (id : BitVec 20) (n : Nat), 0 < n → plain id.toNat → gives (.sigRead dt id n) fun t =>
      t.host.out.length = n ∧ t.host.out.head? = some (sigVal id.toNat)) ∧
    (gives (.status dt) fun t => t.host.fifo = [] ∧ t.host.status = true ∧
      (s.host.status = false → t.host.out = [b.hostStat]) ∧ (s.host.status = true → t.host.out = s.host.out ++ [b.hostStat])) ∧
    (h = [] → ∀ (g : BitVec 8) (l : List Nat), s.snapRegs g.toNat = some l → gives (.snapshot dt g) fun t => t.host.held = some g.toNat ∧
      ∀ a ∈ l, ∀ k i row, s.place a = .reg k i row →
        (a, ({ b.holdEnd with tb := { b.holdEnd.tb with snapSec := none } } : State).regVal k i row, rcMask row != 0) ∈ t.host.heldRegs) ∧
    (∀ g : BitVec 8, s.snapRegs g.toNat = none → gives (.snapshot dt g) fun t => t.host.held = s.host.held ∧
      t.fld F.HOST_CNT_PROTO = satNat 255 (s.fld F.HOST_CNT_PROTO + 1)) ∧
    (∀ (a : BitVec 13) v k, h.find? (fun e => e.1 == a.toNat) = some (a.toNat, v, k) → gives (.hostRead dt a 1) fun t => t.host.out = [v]) ∧
    ((∀ e ∈ h, e.2.2 = false) → gives (.release dt) fun t => t.host.held = none ∧ t.host.heldRegs = [] ∧
      ∀ key, key % 0x2000 ≠ R.ST_STAT → t.rd key = s.rd key)

/-- R4, R495, R496, R499, R503, R508–R511, R537: a word written lands in its register, and the address advances but for WRITE_FIX; a register takes the
word in a role that may write it, and in a lower one refuses it with DENIED, through JTAG as through the port, where TRST_N does not hold the tap;
SIG_WRITE sets signals, one of an absent unit the flag ABSENT; NOP does nothing; header 0xD555 furls, another STOP header and a reserved one only count; a
late access that has its data fills the hold; HSEL_N's rise ends a transaction, notes what it cut, and gives back what was taken for a word that was not
sent. The readings the rules leave open are the model's: log entries 49, 81, 86. -/
def Obligations.HostCommands : Prop :=
  ∀ (dt : Nat) (z s : State), s.canonical →
    let port (i : Instr) (p : State → Prop) : Prop := s = (z.elapse dt).asked → ∃ t, exec i z = .next t ∧ p t
    (∀ a : Word, HostRow dt 0 z s (.hostWrite dt (BitVec.ofNat 13 R.CAL_W0) [a]) fun t =>
      t.rd R.CAL_W0 = a ∧ t.rd R.CAL_W1 = s.rd R.CAL_W1 ∧ t.host.cur = some (.write R.CAL_W1 false)) ∧
    (∀ a : Word, HostRow dt 0 z s (.writeFix dt (BitVec.ofNat 13 R.CAL_W0) [a]) fun t =>
      t.rd R.CAL_W0 = a ∧ t.rd R.CAL_W1 = s.rd R.CAL_W1 ∧ t.host.cur = some (.write R.CAL_W0 true)) ∧
    (∀ w : Word, HostRow dt 1 z s (.registerWrite dt ⟨.host, BitVec.ofNat 13 R.SET_SEC_LO⟩ w) fun t => t.rd R.SET_SEC_LO = w) ∧
    (∀ w : Word, s.HostIdle → s.role.role = 0 → w ≠ s.rd R.SET_SEC_LO →
      port (.registerWrite dt ⟨.host, BitVec.ofNat 13 R.SET_SEC_LO⟩ w) fun t => t.rd R.SET_SEC_LO = s.rd R.SET_SEC_LO ∧
        t.flag F.HOST_STAT_DENIED = true) ∧
    (∀ (id : BitVec 20) (w : Word), s.sigKind id.toNat = .op → id.toNat ∉ [0x308, 0x501, 0x502] → traceSig id.toNat = false →
      HostRow dt 0 z s (.sigWrite dt id [w]) fun t => t.sig id.toNat = (if s.outranked 0 id.toNat then s.sig id.toNat else w) ∧
        ∀ j, j ≠ id.toNat → traceSig j = false → t.sig j = s.sig j) ∧
    (∀ (id : BitVec 20) (w : Word), s.sigKind id.toNat = .absent →
      HostRow dt 0 z s (.sigWrite dt id [w]) fun t => t.sigs = s.sigs ∧ t.flag F.HOST_STAT_ABSENT = true) ∧
    (s.HostIdle → port (.extNop dt) fun t => t.host.out = [] ∧ t.host.fifo = [] ∧
      (∀ j, traceSig j = false → t.sig j = s.sig j) ∧ ∀ key, key % 0x2000 ≠ R.ST_STAT → t.rd key = s.rd key) ∧
    (∀ hdr : BitVec 16, s.clk.locked = true → (Instr.hostStop dt hdr).wf = true → EventRow dt z s (.hostStop dt hdr) fun t =>
      (hdr = 0xD555#16 → t.furl.furled = true ∧ t.fld F.HOST_CNT_STOPS = satNat 255 (s.fld F.HOST_CNT_STOPS + 1)) ∧
      (hdr ≠ 0xD555#16 → t.fld F.HOST_CNT_PROTO = satNat 255 (s.fld F.HOST_CNT_PROTO + 1) ∧ t.fld F.HOST_CNT_STOPS = s.fld F.HOST_CNT_STOPS)) ∧
    (∀ hdr : BitVec 16, s.HostIdle → (Instr.reservedHeader dt hdr).wf = true → port (.reservedHeader dt hdr) fun t =>
      t.fld F.HOST_CNT_PROTO = satNat 255 (s.fld F.HOST_CNT_PROTO + 1)) ∧
    (∀ l v, s.host.late = some l → l.got = some v → s.host.fifo = [] → EventRow dt z s (.readHoldFilled dt) fun t =>
      t.host.hold = some (l.sig, l.addr, v) ∧ t.host.late = none ∧ t.fld F.HOST_IFLG_DATA = 1) ∧
    (∀ a w, (z.elapse dt).tap.trstLow = true → ∃ t, exec (.registerWrite dt ⟨.jtag, a⟩ w) z = .next t ∧ t = (z.elapse dt).finish) ∧
    (∀ w : Word, (z.elapse dt).tap.trstLow = false → (z.elapse dt).clk.locked = true → s = (z.elapse dt).hostTurn → s.clk.ready = true →
      s.store.audQ.length < 32 → s.host.hold = none →
      ∃ t, exec (.registerWrite dt ⟨.jtag, BitVec.ofNat 13 R.SET_SEC_LO⟩ w) z = .next t ∧ t.role.jtag = false ∧ t.role.lastWrite = s.now ∧
        t.host.fifo = s.host.fifo ∧ t.host.out = s.host.out ∧ (1 ≤ s.role.role → t.rd R.SET_SEC_LO = w) ∧
        (s.role.role = 0 → w ≠ s.rd R.SET_SEC_LO → t.rd R.SET_SEC_LO = s.rd R.SET_SEC_LO ∧ t.flag F.HOST_STAT_DENIED = true)) ∧
    (s.HostIdle → s.host.drop = false →
      (EventRow dt z s (.hselNRise dt .clean) fun t => t.host.rc = none ∧ t.host.ahead = none ∧ t.host.status = false ∧
        t.host.lanes = s.lastSent.fld F.HOST_CFG_LANES ∧ ∀ key, key % 0x2000 ≠ R.ST_STAT → t.rd key = s.lastSent.rd key) ∧
      (EventRow dt z s (.hselNRise dt .header) fun t => t.flag F.HOST_STAT_HDR_ERR = true ∧
        t.fld F.HOST_CNT_PROTO = satNat 255 (s.lastSent.fld F.HOST_CNT_PROTO + 1)) ∧
      (∀ (k : Fin 32) w id, k ≠ 0 → s.host.writing = true → s.host.cur = some (.swrite id) → s.cyc.host = false →
        EventRow dt z s (.hselNRise dt (.word k w)) fun t =>
          t.flag F.HOST_STAT_PART = true ∧ t.fld F.HOST_STAT_PBITS = k.val ∧ ∀ j, traceSig j = false → t.sig j = s.sig j) ∧
      (∀ (k : Fin 32) w, k ≠ 0 → s.host.writing = false → EventRow dt z s (.hselNRise dt (.word k w)) fun t => t.host.rc = none ∧ t.host.ahead = none ∧
        ∀ key v, s.host.rc = some (false, key, v) → s.host.ahead = none → ∀ k, k % 0x2000 ≠ R.ST_STAT → t.rd k = (s.rcBack key v).rd k))

/-! ### The memory port (ch. 13) -/

/-- R35, R247, R518, R519, R522–R524, R527, R528, R530: once the selects have been high for CSH, the port grants its next request, and sends for one to the
PSRAM its command (in 8D-8D-8D with the extension byte), its address of three or four bytes, the dummy cycles and the data; at a transaction's end a read
reaches its reader, a posted write leaves the buffer, a line reaches a prefetch buffer and the contexts that wait for it, a sequence moves on with its
queues and ends with SEQ_DONE; a transaction that lasts TMO is abandoned, a read of it with NaN and U.
The readings the rules leave open are the model's: log entries 47, 50, 100. -/
def Obligations.MemoryTransactions : Prop :=
  ∀ (dt : Nat) (z s : State), s.canonical → s.host.fifo = [] →
    (∀ r, s.mem.busy = none → s.memNext = some r → s.flag F.MEM_CFG_EN = true → (∀ l, r = .fetch l → s.flag F.MEM_XIP_EN = true) →
      EventRow dt z s (.memGrant dt) fun t => (∀ u, s.mem.endAt = some u → s.now < u + s.selHigh → t.mem = s.mem) ∧
      ((∀ u, s.mem.endAt = some u → u + s.selHigh ≤ s.now) → t.mem.busy = some (r, s.now) ∧ t.mem.frames = s.framesOf r ∧ t.mem.sent = [] ∧ t.mem.stale = false ∧
        (∀ l, r = .fetch l → l ∉ t.mem.fetches) ∧ (∀ c id, r = .sread c id → t.mem.reads = s.mem.reads.drop 1) ∧
        (∀ l, r = .prefetch l → t.mem.pre = s.mem.pre.drop 1))) ∧
    (∀ r at_ ok data, s.mem.busy = some (r, at_) → EventRow dt z s (.memTransactionDone dt ok data) fun t =>
      (r ≠ .seq → t.mem.busy = none ∧ t.mem.endAt = some s.now) ∧
      (∀ (c : Fin 64) id k v since, r = .sread c.val id → (s.ctx c).st = .blocked → (s.ctx c).wait = some (.access id (some k) v since false) →
        t.ctx c = { s.ctx c with wait := some (.access id (some k) (data.getD 0 0#32) since true) }) ∧
      (∀ l id, r = .sread 64 id → s.host.late = some l → l.id = some id → t.host.late = some { l with got := some (data.getD 0 0#32) }) ∧
      (r = .swrite → t.eng.wbuf = s.eng.wbuf.drop 1 ∧ (s.mem.unmap = true → s.eng.wbuf.length ≤ 1 → t.flag F.MEM_PSRAM_EN = false)) ∧
      (∀ l, r = .fetch l → ok = true → t.mem.bufs.head? = some (l, data.take 16) ∧
        ∀ c : Fin 64, s.hasCtx c = true → (s.ctx c).wait = some (.fetch l) → (s.ctx c).disableReq = false → (s.ctx c).haltReq = false →
          (t.ctx c).st = .runnable ∧ (t.ctx c).wait = none) ∧
      (∀ (p : Phase) sel g w, r = .seq → s.mem.seqOn = some ([p], sel, g) → p.kind = 1 → 0 < p.left → p.left ≤ 32 → data = [w] → s.mem.rx.length < 16 →
        t.mem.busy = none ∧ t.mem.seqOn = none ∧ t.mem.rx = s.mem.rx ++ [topBits p.left w] ∧ t.flag F.MEM_STAT_SEQ_DONE = true) ∧
      (∀ (p : Phase) sel g, r = .seq → s.mem.seqOn = some ([p], sel, g) → p.kind = 0 → 0 < p.left → p.left ≤ 32 →
        (∀ w l, s.mem.tx = w :: l → t.mem.seqOn = none ∧ t.mem.tx = l ∧ t.mem.sent = s.mem.sent ++ [(p.left, topBits p.left w)] ∧
          t.flag F.MEM_STAT_SEQ_DONE = true) ∧
        (s.mem.tx = [] → t.mem.seqOn = s.mem.seqOn ∧ t.mem.busy = s.mem.busy))) ∧
    (∀ r at_, s.mem.busy = some (r, at_) → s.memTmoDue = true → EventRow dt z s (.memTimeout dt) fun t =>
      t.mem.busy = none ∧ t.mem.endAt = some s.now ∧ t.flag F.MEM_STAT_TMO = true ∧
      (∀ (c : Fin 64) id k v since, r = .sread c.val id → (s.ctx c).st = .blocked → (s.ctx c).wait = some (.access id (some k) v since false) →
        (t.ctx c).wait = some (.access id (some k) qNaN since true) ∧ (t.ctx c).fl = { (s.ctx c).fl with u := true }) ∧
      (r = .swrite → t.eng.wbuf = s.eng.wbuf.drop 1) ∧ (r = .seq → s.mem.seqOn.isSome = true → t.mem.seqOn = none)) ∧
    (∀ c id : Nat,
      let a := if s.flag F.MEM_PSRAM_AWORD then 4 * (id - 0x10000) / 2 else 4 * (id - 0x10000)
      let byte (k : Nat) : Byte := BitVec.ofNat 8 (a / 256 ^ k)
      let cmd (f : Fld) : Byte := BitVec.ofNat 8 (s.fld f)
      let wait (lanes : Nat) (ddr : Bool) (f : Fld) : List BusPhase :=
        if s.fld f = 0 then [] else [{ lanes := lanes, ddr := ddr, data := .dummy (s.fld f) }]
      let low (phases : List BusPhase) : List MemFrame := [{ sel := 2, phases := phases }]
      (s.fld F.MEM_PSRAM_MODE = 0 → s.framesOf (.sread c id) = low (
        [{ lanes := 1, ddr := false, data := .command [cmd F.MEM_PSCMD_RD_CMD] },
          { lanes := 1, ddr := false, data := .address (if s.flag F.MEM_PSRAM_ADDR4 then [byte 3, byte 2, byte 1, byte 0] else [byte 2, byte 1, byte 0]) }] ++
        wait 1 false F.MEM_PSRAM_DUMMY ++ [{ lanes := 1, ddr := false, data := .read 4 false }])) ∧
      (s.fld F.MEM_PSRAM_MODE = 11 →
        let two (f : Fld) : BusPhase :=
          { lanes := 8, ddr := true, data := .command [cmd f, if s.flag F.MEM_PSRAM_CMDX then cmd f else ~~~cmd f] }
        let addr : BusPhase := { lanes := 8, ddr := true, data := .address [byte 3, byte 2, byte 1, byte 0] }
        s.framesOf (.sread c id) =
          low ([two F.MEM_PSCMD_RD_CMD, addr] ++ wait 8 true F.MEM_PSRAM_DUMMY ++ [{ lanes := 8, ddr := true, data := .read 4 true }]) ∧
        (∀ w l, s.eng.wbuf = (id, w) :: l → s.framesOf .swrite =
          low ([two F.MEM_PSCMD_WR_CMD, addr] ++ wait 8 true F.MEM_PSCMD_WR_DUMMY ++ [{ lanes := 8, ddr := true, data := .write (leBytes w) }]))))

/-- R522, R528–R530: MEM_PH queues a phase and MEM_DATA a word while their queues have room, else set CFG_ERR; GO starts the phases it names, or is refused
with SEQ_REF; ABORT empties the queues and ends the sequence; clearing EN of MEM_PSRAM takes effect once the write buffer is empty.
The readings the rules leave open are the model's: log entry 50. -/
def Obligations.MemoryCommands : Prop :=
  ∀ (dt : Nat) (w : Word) (z s : State), s.canonical →
    let refused : Prop := bitsOf w 3 0 = 0 ∨ s.mem.phq.length < bitsOf w 3 0 ∨ bitsOf w 29 28 = 3 ∨ s.mem.seqOn.isSome = true ∨
      s.flag F.MEM_CFG_EN = false
    let bad : Prop := 8 ≤ s.mem.phq.length ∨ bitsOf w 31 30 = 3 ∨ (bitsOf w 31 30 < 2 ∧ phLen w % phBits w ≠ 0)
    HostRow dt 1 z s (.memPhPush dt w) (fun t =>
      (bad → t.mem = s.mem ∧ t.flag F.MEM_STAT_CFG_ERR = true) ∧ (¬bad → t.mem = { s.mem with phq := s.mem.phq ++ [w] })) ∧
    HostRow dt 1 z s (.memDataWrite dt w) (fun t =>
      (16 ≤ s.mem.tx.length → t.mem = s.mem ∧ t.flag F.MEM_STAT_CFG_ERR = true) ∧
      (s.mem.tx.length < 16 → t.mem = { s.mem with tx := s.mem.tx ++ [w] })) ∧
    (w.getLsbD 31 = true → w.getLsbD 30 = false → HostRow dt 1 z s (.memGo dt w) fun t =>
        (refused → t.mem = s.mem ∧ t.flag F.MEM_STAT_SEQ_REF = true) ∧
        (¬refused → t.mem = { s.mem with
          seqOn := some ((s.mem.phq.take (bitsOf w 3 0)).map phaseOf, bitsOf w 29 28, s.now), phq := s.mem.phq.drop (bitsOf w 3 0) })) ∧
    (w.getLsbD 30 = true → HostRow dt 1 z s (.memAbort dt w) fun t => t.mem.tx = [] ∧ t.mem.rx = [] ∧ t.mem.phq = [] ∧ t.mem.seqOn = none) ∧
    (s.flag F.MEM_PSRAM_EN = true → w = setBitsOf (s.rd R.MEM_PSRAM) 31 31 0 → w.toNat % 256 = 0 → HostRow dt 1 z s (.psramUnmap dt w) fun t =>
      (s.eng.wbuf = [] → t.flag F.MEM_PSRAM_EN = false) ∧ (s.eng.wbuf ≠ [] → t.mem.unmap = true ∧ t.flag F.MEM_PSRAM_EN = true))

/-! ### Roles and rigging (ch. 14) -/

/-- R540–R544, R559: CHAL draws a challenge for a role whose key is programmed, and is refused for another and while it is barred; a record names the port
its write came through; RESP with the right HMAC gives the role, any other bars CHAL for 2 s; END and an idle session
return to OP; KEY programs a free slot; a challenge expires after 30 s; RIG_CTL unrigs masts that are OFF or in FAULT, and rigs any.
The readings the rules leave open are the model's: log entries 37, 39, 56. -/
def Obligations.RolesAndRigging : Prop :=
  ∀ (dt : Nat) (w : Word) (z s : State), s.canonical →
    let cmd := bitsOf w 31 28
    let want := bitsOf w 27 26
    let slot := bitsOf w 3 0
    let unrig := bitsOf w 15 0 % 2 ^ s.variant.masts
    let old := s.fld F.RIG_CTL_UNRIG
    let free : Prop := ∀ m : Fin 16, s.hasMast m = true → unrig.testBit m.val = true → old.testBit m.val = true ∨ (s.mast m).seq.st = .off ∨ (s.mast m).seq.st = .fault
    let rigged (t : State) : Prop := (free → t.fld F.RIG_CTL_UNRIG = unrig) ∧
      (¬free → t.fld F.RIG_CTL_UNRIG = old ∧ t.flag F.ROLE_STAT_CFG_ERR = true)
    (cmd = 1 → want = 1 ∨ want = 2 → s.role.lockUntil = none → HostRow dt 0 z s (.chal dt w) fun t =>
      ((s.roleKey want).isSome = true → ∃ ws, t.role = { s.role with chal := some (ws, want, s.now), rbuf := ws, draws := s.role.draws + 1, lastWrite := s.now } ∧
        ws.length = 8 ∧ ws[0]? = some (nat32 (Config.nonce s.role.draws).toNat) ∧ ws[4]? = some (nat32 Config.uid.toNat) ∧ ws[7]? = some (nat32 s.role.unlocks)) ∧
      (s.roleKey want = none → t.role = { s.role with lastWrite := s.now } ∧ t.flag F.ROLE_STAT_NOKEY = true ∧
        t.flag F.ROLE_STAT_CFG_ERR = true)) ∧
    (cmd = 1 → want = 0 ∨ want = 3 ∨ s.role.lockUntil.isSome = true → HostRow dt 0 z s (.chal dt w) fun t =>
      t.role = { s.role with lastWrite := s.now } ∧ t.flag F.ROLE_STAT_CFG_ERR = true) ∧
    (∀ kind tgt val, (s.audit kind tgt val).store.audQ = s.store.audQ ++ [audWords kind s.role.role (b2n s.role.jtag) tgt s.tbSec s.store.audSeq val]) ∧
    (cmd = 2 → s.role.role = 0 → HostRow dt 0 z s (.resp dt w) fun t => t.role.chal = none ∧
      (∀ ws role at_ k, s.role.chal = some (ws, role, at_) → s.roleKey role = some k → hmacSha256 k (bytesOf ws) = bytesOf s.role.wbuf →
        t.role.role = role ∧ t.role.unlocks = s.role.unlocks + 1 ∧ t.role.lockUntil = s.role.lockUntil) ∧
      ((∀ ws role at_ k, s.role.chal = some (ws, role, at_) → s.roleKey role = some k → hmacSha256 k (bytesOf ws) ≠ bytesOf s.role.wbuf) →
        t.role.role = 0 ∧ t.role.unlocks = s.role.unlocks ∧ t.role.lockUntil = some (s.now + 2 * tSec) ∧ t.flag F.ROLE_STAT_FAIL = true)) ∧
    (cmd = 3 → HostRow dt 0 z s (.roleEnd dt w) fun t => t.role.role = 0 ∧ t.role.chal = s.role.chal) ∧
    (cmd = 4 → HostRow dt 0 z s (.key dt w) fun t => t.role.role = s.role.role ∧ t.role.rbuf = List.replicate 8 0#32 ∧
      (slot = 0 → t.role.kMak = some (s.role.kMak.getD s.role.wbuf)) ∧
      (slot = 1 → t.role.kIns = if s.role.role = 2 ∧ s.role.kIns.length < 4 then s.role.kIns ++ [s.role.wbuf] else s.role.kIns) ∧
      (slot = 2 → t.role.imgX = if s.role.role = 2 then some (s.role.imgX.getD s.role.wbuf) else s.role.imgX) ∧
      (slot = 3 → t.role.imgY = if s.role.role = 2 then some (s.role.imgY.getD s.role.wbuf) else s.role.imgY)) ∧
    (s.chalOld = true → EventRow dt z s (.challengeExpiry dt) fun t => t.role = { s.role with chal := none, rbuf := List.replicate 8 0#32 }) ∧
    (s.lockOver = true → EventRow dt z s (.lockoutEnd dt) fun t => t.role = { s.role with lockUntil := none }) ∧
    (s.idleDue = true → EventRow dt z s (.sessionIdleTimeout dt) fun t =>
      (s.store.audQ.length < 32 → t.role = { s.role with role := 0, burst := [] }) ∧
      (s.store.audQ.length = 32 → t.role = s.role ∧ t.flag F.AUD_STAT_QFULL = true)) ∧
    HostRow dt 1 z s (.mastUnrig dt w) rigged ∧ HostRow dt 1 z s (.mastRig dt w) rigged

/-! ### The store (ch. 14) -/

/-- R553, R555, R557, R561: ST_DATA sets a word of the row; while a command runs another is refused with RESULT 1; ERASE, PROG, COMMIT, LOAD, JREG, JSIG
and JCOMMIT begin, or are refused with their RESULT; JDROP discards the pending entries; ABORT ends a command after its pulse.
The readings the rules leave open are the model's: log entries 40, 62. -/
def Obligations.StoreCommands : Prop :=
  ∀ (dt : Nat) (w : Word) (z s : State), s.canonical → s.hk.shut = false → s.flashLow = false →
    let cmd := bitsOf w 31 28
    let a := s.fld F.ST_ADDR_ADDR
    let b := s.idleBank
    let g := s.bankAt b
    let row := s.store.rowAt / 32 * 8
    let starts (c : StCmd) (t : State) : Prop := t.store.cmd = some c ∧ t.store.result = s.store.result ∧ t.store.mem = s.store.mem
    let refused (n : Nat) (t : State) : Prop := t.store.cmd = s.store.cmd ∧ t.store.result = n ∧ t.flag F.ST_STAT_ERR = true ∧ t.flag F.ST_STAT_DONE = true
    let runs : List (Nat × Instr) := [(1, .erase dt w), (2, .prog dt w), (3, .commit dt w), (4, .load dt w), (5, .jreg dt w), (6, .jsig dt w),
      (7, .jcommit dt w), (8, .jdrop dt w)]
    (s.store.cmd.isSome = true → ∀ e ∈ runs, cmd = e.1 → HostRow dt 2 z s e.2 (refused 1)) ∧
    HostRow dt 2 z s (.stDataWrite dt w) (fun t => t.store.row = s.store.row.set (a / 4 % 8) w ∧ t.store.rowAt = a ∧
      t.fld F.ST_ADDR_ADDR = (a + 4 * b2n (s.flag F.ST_ADDR_AINC)) % 2 ^ 20) ∧
    (cmd = 9 → HostRow dt 2 z s (.stAbort dt w) fun t =>
      (s.store.cmd = none → t.store.cmd = none ∧ t.store.result = s.store.result) ∧
      (s.store.cmd.isSome = true → s.store.pulse = some .cmd → t.store.abort = true ∧ t.store.cmd = s.store.cmd) ∧
      (s.store.cmd.isSome = true → s.store.pulse ≠ some .cmd → t.store.cmd = none ∧ t.store.result = 7)) ∧
    (s.store.cmd = none →
      (cmd = 1 → HostRow dt 2 z s (.erase dt w) (starts (.erase b (95 :: List.range 95)))) ∧
      (cmd = 2 → HostRow dt 2 z s (.prog dt w) fun t =>
        (bankWord b ≤ row ∧ row + 8 ≤ bankWord b + 49152 ∧ s.stErased row 8 = true → starts (.prog row s.store.row) t ∧
          t.store.row = List.replicate 8 stBlank) ∧
        (¬(bankWord b ≤ row ∧ row + 8 ≤ bankWord b + 49152 ∧ s.stErased row 8 = true) → refused 3 t)) ∧
      (cmd = 3 → HostRow dt 2 z s (.commit dt w) fun t =>
        (s.imgKey = none → refused 10 t) ∧
        (s.imgKey.isSome = true → imgFormat g = false → refused 3 t) ∧
        (s.imgKey.isSome = true → imgFormat g = true → s.imgSigned g = false → refused 2 t) ∧
        (imgFormat g = true → s.imgSigned g = true → s.imgNew g = false → refused 4 t) ∧
        (imgFormat g = true → s.imgSigned g = true → s.imgNew g = true → s.imgForMe g = false → refused 5 t) ∧
        (imgFormat g = true → s.imgSigned g = true → s.imgNew g = true → s.imgForMe g = true →
          let r := [0x54494D43#32, nat32 (s.topSeq + 1), imgVer g]
          starts (.commit b (r ++ [crc32 (bytesOf r)])) t)) ∧
      (cmd = 4 → HostRow dt 2 z s (.load dt w) fun t =>
        (s.bankUsed (bitsOf w 0 0) = true → refused 6 t) ∧
        (s.bankUsed (bitsOf w 0 0) = false → s.newestBank = none → refused 3 t) ∧
        (s.bankUsed (bitsOf w 0 0) = false → s.newestBank.isSome = true → starts (.load (bitsOf w 0 0)) t)) ∧
      (cmd = 5 → HostRow dt 2 z s (.jreg dt w) fun t =>
        (s.jregOk a = false → refused 3 t) ∧ (s.jregOk a = true → s.jFull = true → refused 9 t) ∧
        (s.jregOk a = true → s.jFull = false → starts (.append 0 a (s.peek a)) t)) ∧
      (cmd = 6 → HostRow dt 2 z s (.jsig dt w) fun t =>
        (s.jsigOk a = false → refused 3 t) ∧ (s.jsigOk a = true → s.jFull = true → refused 9 t) ∧
        (s.jsigOk a = true → s.jFull = false → starts (.append 1 a (s.sigNow a)) t)) ∧
      (cmd = 7 → HostRow dt 2 z s (.jcommit dt w) fun t =>
        (1984 < s.jLiveAfter ∨ s.jFull = true → refused 9 t) ∧
        (s.jLiveAfter ≤ 1984 → s.jFull = false → starts (.append 2 s.store.jPend.length 0#32) t)) ∧
      (cmd = 8 → HostRow dt 2 z s (.jdrop dt w) fun t => t.store.jPend = [] ∧ t.store.jPos = s.store.jPos ∧ t.store.result = 0 ∧ t.store.cmd = none))

/-- R389, R416, R546, R550, R553–R558: a pulse's end leaves its words or an erased sector in the store and nothing else changed, and the running command
goes on to its next step or ends with RESULT 0, or 8 where the pulse failed; LOAD ends with RESULT 0 where the SHA-256 of what it copied is that of the
image's sections, else 2; a compaction writes the live values with their marker and the pending entries to the other half, then its header, which puts that
half in force, and then erases the old half, each of these a pulse or an erase of its own; one that is lost before the header ends it.
The readings the rules leave open are the model's: log entries 41, 60, 108. -/
def Obligations.StorePulses : Prop :=
  ∀ (dt : Nat) (z s : State), s.canonical →
    let programmed (i : Nat) (ws : List Word) (t : State) : Prop := ∀ k, t.stWord k = if i ≤ k then (ws[k - i]?).getD (s.stWord k) else s.stWord k
    let erased (n : Nat) (t : State) : Prop := ∀ k, t.stWord k = if k / 512 = n then stBlank else s.stWord k
    let ends (n : Nat) (t : State) : Prop := t.store.cmd = none ∧ t.store.result = n
    (∀ p, s.store.pulse = some p → EventRow dt z s (.storePulseDone dt true) fun t =>
      (∀ i ws, p = .fault i ws → programmed (faultWord i) ws t) ∧
      (∀ i ws, p = .audit i ws → programmed (audWord i) ws t ∧ t.store.audCount = s.store.audCount + 1) ∧
      (∀ n, p = .faultErase n ∨ p = .auditErase n → erased n t) ∧
      (p = .cmd → s.store.abort = false →
        (∀ i ws, s.store.cmd = some (.prog i ws) → programmed i ws t ∧ ends 0 t) ∧
        (∀ b ws, s.store.cmd = some (.commit b ws) → programmed (bankWord b + 49144) ws t ∧ ends 0 t) ∧
        (∀ b k l, s.store.cmd = some (.erase b (k :: l)) → erased (sectorOfWord (bankWord b) + k) t ∧ (l = [] → ends 0 t) ∧
          (l ≠ [] → t.store.cmd = some (.erase b l))) ∧
        (∀ pb b, s.store.cmd = some (.load pb) → s.newestBank = some b → let u := s.loadCopy (s.bankAt b) pb
          t.eng.prog = u.eng.prog ∧ t.eng.tab = u.eng.tab ∧ (u.loadOk (s.bankAt b) pb = true → ends 0 t) ∧ (u.loadOk (s.bankAt b) pb = false → ends 2 t)) ∧
        (∀ k g v, s.store.cmd = some (.append k g v) → programmed (jSlotWord s.store.jHalf s.store.jPos) (jWords k g s.store.jSeq v) t ∧ ends 0 t ∧
          t.store.jPos = s.store.jPos + 1 ∧
          (k = 2 → t.store.jPend = [] ∧ t.store.jLive = jMerge s.store.jLive s.store.jPend) ∧
          (k ≠ 2 → t.store.jPend = s.store.jPend ++ [(k, g, v)] ∧ t.store.jLive = s.store.jLive))) ∧
      (p = .step →
        (∀ i ws l, s.store.jSteps = .put i ws :: l → programmed i ws t ∧ t.store.jSteps = l ∧ t.store.jHalf = s.store.jHalf) ∧
        (∀ n ws l, s.store.jSteps = .head n ws :: l → programmed (jSlotWord (1 - s.store.jHalf) 0) ws t ∧ t.store.jSteps = l ∧
          t.store.jHalf = 1 - s.store.jHalf ∧ t.store.jPos = 1 + n ∧ t.store.jSeq = s.store.jSeq + n) ∧
        (∀ n l, s.store.jSteps = .wipe n :: l → erased n t ∧ t.store.jSteps = l ∧ t.store.compact = (s.store.compact && !l.isEmpty)))) ∧
    (s.store.pulse = some .step → EventRow dt z s (.storePulseDone dt false) fun t => t.store.jHalf = s.store.jHalf ∧
      ((∃ n ws, JStep.head n ws ∈ s.store.jSteps) → t.store.jSteps = []) ∧
      ((∀ n ws, JStep.head n ws ∉ s.store.jSteps) → t.store.jSteps = s.store.jSteps)) ∧
    (s.store.pulse = some .cmd → EventRow dt z s (.storePulseDone dt false) fun t =>
      (∀ i ws, s.store.cmd = some (.prog i ws) → ends 8 t ∧ ∀ k, k < i ∨ i + ws.length ≤ k → t.stWord k = s.stWord k) ∧
      (∀ pb, s.store.cmd = some (.load pb) → ends (if (s.loadImage pb).2 then 0 else 2) t ∧ t.store.mem = s.store.mem)) ∧
    (s.jDue = true → EventRow dt z s (.journalCompaction dt) fun t => t.store.jSteps = s.jPlan ∧ t.store.jHalf = s.store.jHalf ∧
      t.store.jLive = s.store.jLive ∧ t.store.jPend = s.store.jPend ∧ t.store.mem = s.store.mem) ∧
    (∀ l, l = s.store.jLive ++ [(2, s.store.jLive.length, 0#32)] ++ s.store.jPend →
      s.stErased (jHalfWord (1 - s.store.jHalf)) 8192 = true → s.jPlan.length = l.length + 17 ∧
        s.jPlan[l.length]? = some (.head l.length (jWords 3 0 0 (nat32 s.store.jSeq))) ∧
        (∀ (i k g : Nat) v, l[i]? = some (k, g, v) → s.jPlan[i]? = some (.put (jSlotWord (1 - s.store.jHalf) (1 + i)) (jWords k g (s.store.jSeq + i) v))) ∧
        ∀ i < 16, s.jPlan[l.length + 1 + i]? = some (.wipe (sectorOfWord (jHalfWord s.store.jHalf) + i)))

/-! ### Clocks, resets and boot (ch. 15) -/

/-- R566, R567, R569, R571–R574, R577, R585, R373: a device reset of any cause takes every unit to its reset value, with the clocks stopped, the cause
noted, the store and the OTP kept, and the TAP where VDD and VDDIO stay; a supply below its assert level resets, and the reset ends once every supply has
been above its release level for 1 ms; a clock is lost on the monitor's conditions alone; a supply or RESET_N that lets go changes no register.
The readings the rules leave open are the model's: log entries 52, 64, 72, 79, 101, 112. -/
def Obligations.DeviceResets : Prop :=
  ∀ (dt : Nat) (z s : State), s.canonical →
    let loss (o : ClockSeen) : Prop := if o.clock.val = 1 then 8 * tUs ≤ o.apart
      else 16 ≤ o.still ∨ monNominal o.clock.val < 4 * ((20 * o.count : Int) - monNominal o.clock.val).natAbs
    let down (cause : Nat) (t : State) : Prop :=
      t.clk.inReset = true ∧ t.clk.locked = false ∧ t.clk.ready = false ∧ t.clk.rstAt = s.now ∧
      t.eng = State.reset.eng ∧ t.cal = State.reset.cal ∧ t.tb = State.reset.tb ∧ t.srv = State.reset.srv ∧ t.fc = State.reset.fc ∧
      t.ring = State.reset.ring ∧ (cause ≠ 0 → t.tap = s.tap) ∧ t.sigs = State.reset.sigs ∧ t.bgs = State.reset.bgs ∧
      (∀ m : Fin 16, t.mast m = (s.mast m).pinsOnly) ∧ t.furl.furled = false ∧
      t.role.role = 0 ∧ t.role.kMak = s.role.kMak ∧ t.role.kIns = s.role.kIns ∧ t.role.unlocks = s.role.unlocks ∧
      t.store.cmd = none ∧ t.store.pulse = none ∧ t.store.jPend = [] ∧ t.store.boots = s.store.boots ∧
      (s.store.pulse = none → t.store.mem = s.store.mem) ∧
      (∀ key, key ≠ R.RST_CAUSE → key ≠ R.RST_CNT → t.rd key = resetWord s.variant key) ∧
      (cause ≠ 0 → t.fld F.RST_CAUSE_CAUSE = cause ∧ (t.fld F.RST_CAUSE_SEEN).testBit cause = true)
    (∀ (v : Supplies) vrefp (st : BitVec 3), v.vdd < 780 ∨ v.vddio < 2700 ∨ v.vdda < 2700 → EventRow dt z s (.powerOnReset dt v vrefp st) fun t =>
      t.clk.porLow = true ∧ t.clk.aboveAt = none ∧ t.clk.at_ = v ∧ (s.clk.porLow = false → down 0 t) ∧
      (v.vdd < 780 ∨ v.vddio < 2700 → t.tap = {}) ∧ (780 ≤ v.vdd → 2700 ≤ v.vddio → t.tap = s.tap)) ∧
    (∀ (v : Supplies) vrefp (st : BitVec 3), 820 < v.vdd → 2850 < v.vddio → 2850 < v.vdda → s.clk.porLow = true → s.store.pulse = none →
      EventRow dt z s (.powerOnReset dt v vrefp st) fun t => t.regs = s.regs ∧ t.clk.aboveAt = some (s.clk.aboveAt.getD s.now) ∧
        (∀ u, s.clk.aboveAt = some u → u + tMs ≤ s.now →
          t.clk.porLow = false ∧ t.clk.vrefExt = vrefp ∧ (s.clk.pinLow = false → t.clk.straps = st.toNat)) ∧
        ((∀ u, s.clk.aboveAt = some u → s.now < u + tMs) → t.clk.porLow = true)) ∧
    (∀ (v : Supplies) vrefp (st : BitVec 3), 780 ≤ v.vdd → 2700 ≤ v.vddio → 2700 ≤ v.vdda → v.vdd ≤ 820 ∨ v.vddio ≤ 2850 ∨ v.vdda ≤ 2850 →
      s.store.pulse = none → EventRow dt z s (.powerOnReset dt v vrefp st) fun t => t.regs = s.regs ∧ t.clk.porLow = s.clk.porLow ∧ t.clk.aboveAt = none) ∧
    (∀ st : BitVec 3, s.clk.pinLow = false → EventRow dt z s (.resetPin dt true st) fun t => down 1 t ∧ t.clk.pinLow = true ∧
      t.fld F.RST_CNT_PIN = satNat 255 (s.fld F.RST_CNT_PIN + 1)) ∧
    (∀ st : BitVec 3, s.clk.pinLow = true → s.store.pulse = none → EventRow dt z s (.resetPin dt false st) fun t =>
      t.clk.pinLow = false ∧ (s.clk.porLow = false → t.clk.straps = st.toNat) ∧ t.regs = s.regs) ∧
    (∀ mon : ClockSeen, s.clk.inReset = false → s.clk.locked = true → EventRow dt z s (.clockLoss dt mon) fun t =>
      (loss mon → down 2 t ∧ t.clk.lost = true ∧ t.clk.clockRec = some mon.clock.val ∧ t.fld F.RST_CAUSE_CLK = mon.clock.val) ∧
      (¬loss mon → t.clk = s.clk)) ∧
    (∀ w : Word, bitsOf w 31 24 = 0x5A → bitsOf w 23 20 = 1 → HostRow dt 1 z s (.softReset dt w) (down 3)) ∧
    (∀ w : Word, bitsOf w 31 24 ≠ 0x5A → bitsOf w 23 20 = 1 → HostRow dt 1 z s (.softReset dt w) fun t => t.flag F.RST_STAT_CFG_ERR = true ∧
      t.clk = s.clk) ∧
    (s.reactDue = true → EventRow dt z s (.reactionDeviceReset dt) fun t => down 4 t)

/-- R267, R392, R574–R577: RST_CMD begins the block reset of the masts it names, or a lane's self-test, or is refused; a block reset ends with the mast OFF, its
commits and sample sets discarded and its timebase running on; a lane that passes its self-test, 20 µs after its start, enters service where it is enabled.
The readings the rules leave open are the model's: log entries 65, 66, 106. -/
def Obligations.BlockResets : Prop :=
  ∀ (dt : Nat) (z s : State), s.canonical →
    (∀ w : Word, bitsOf w 23 20 = 2 → HostRow dt 1 z s (.mastResetCmd dt w) fun t => ∀ m : Fin 16, s.hasMast m = true →
      (t.mast m).resetAt = if s.rstOk w ∧ w.getLsbD m.val then some ((s.mast m).resetAt.getD s.now) else (s.mast m).resetAt) ∧
    (∀ w : Word, bitsOf w 23 20 = 3 → HostRow dt 1 z s (.laneReset dt w) fun t =>
      (s.rstOk w = true → (t.lane (Fin.ofNat 4 (bitsOf w 19 18))).testAt = some s.now) ∧
      (s.rstOk w = false → t.eng.lanes = s.eng.lanes ∧ t.flag F.RST_STAT_CFG_ERR = true)) ∧
    (∀ m : Fin 16, s.hasMast m = true → (s.mast m).resetAt.isSome = true → EventRow dt z s (.mastResetComplete dt m) fun t =>
      (t.mast m).pwm.untag = [] ∧ (t.mast m).pwm.hist = [] ∧ (t.mast m).pwm.shadow = [] ∧ (t.mast m).pwm.dueSets = [] ∧ (t.mast m).pwm.anchLock = false ∧
      (t.mast m).pwm.counting = (s.mast m).pwm.counting ∧ (t.mast m).pwm.bNext = (s.mast m).pwm.bNext ∧
      (∀ p, p ≠ m → (t.mast p).apart = (s.mast p).apart) ∧
      ((s.mast m).restart = false → s.ocLevel m 0 = false → s.ocLevel m 1 = false → (s.mast m).shr.tripLvl = false →
        (t.mast m).resetAt = none ∧ (t.mast m).seq.st = .off ∧ (s.comMode m = 0 → (t.mast m).com.est = .idle))) ∧
    (∀ (n : Fin 4) pass, s.laneTestDue n = true → EventRow dt z s (.laneSelfTestDone dt n pass) fun t => (t.lane n).testAt = none ∧
      (pass = true → (t.lane n).flt = false ∧ (t.lane n).act = (s.fld F.ENG_CTL_LANE_EN).testBit n.val) ∧
      (pass = false → (t.lane n).flt = true ∧ (t.lane n).failed = true ∧ (t.lane n).act = false))

/-- R562, R564, R573, R578–R583: the internal reset ends in boot with a boot counted; the count chooses the reference; at PLL lock the clocks run from an
edge of them all and time starts from 0, and a FLASH boot reads its bank; the boot steps try the newest committed bank and apply a valid one; READY, once
the calibrations and the first bosun round have ended, gives an OP session, and halts every context where BOOT_CFG.HALT says so.
The readings the rules leave open are the model's: log entries 58, 60, 61, 72, 112. -/
def Obligations.Boot : Prop :=
  ∀ (dt : Nat) (z s : State), s.canonical →
    let src := bootSrc s.clk.straps
    (s.resetEndDue = true → EventRow dt z s (.internalResetEnd dt) fun t => t.clk.inReset = false ∧ t.clk.phase = 0 ∧
      t.clk.countAt = s.now + 20 * tUs ∧ t.store.boots = s.store.boots + 1 ∧ t.host.lanes = bootLanes s.clk.straps ∧ t.fld F.BOOT_STAT_SRC = src) ∧
    (∀ f x : Nat, s.countDue = true → EventRow dt z s (.referenceCount dt f x) fun t =>
      (20000 ≤ f → f ≤ 28000 → t.clk = { s.clk with ref := some true, phase := 2 }) ∧
      (f < 20000 ∨ 28000 < f → 20000 ≤ x → x ≤ 28000 → t.clk = { s.clk with ref := some false, phase := 2 }) ∧
      (f < 20000 ∨ 28000 < f → x < 20000 ∨ 28000 < x → t.clk.ref = none ∧ t.clk.countAt + 50 * tUs = s.now + tMs)) ∧
    (s.clk.inReset = false → s.clk.locked = false → s.clk.ref.isSome = true → EventRow dt z s (.pllLock dt) fun t =>
      t.clk.locked = true ∧ t.clk.lost = false ∧ t.clk.ready = s.clk.ready ∧ t.clk.phase = (if src = 2 then 7 else 3) ∧ t.tb.total = 0 ∧
      t.hk.running = true ∧ t.clk.clockRec = none ∧ (src = 2 → t.flag F.BOOT_STAT_NOIMG = true) ∧
      t.now % 512 = 0 ∧ s.now ≤ t.now ∧ t.eng.roundAt = t.now ∧ t.hk.slotAt = t.now ∧
      (src = 1 → t.mem.frames = [{ sel := 1, phases := [
        { lanes := 1, ddr := false, data := .command [0x0B#8] }, { lanes := 1, ddr := false, data := .address [0#8, 0#8, 0#8] },
        { lanes := 1, ddr := false, data := .dummy 8 }, { lanes := 1, ddr := false, data := .read 0x30000 false }] }])) ∧
    (∀ flash, s.clk.locked = true → s.clk.ready = false → EventRow dt z s (.bootStepDone dt flash) fun t =>
      (s.clk.phase = 3 → src = 1 → t.clk = { s.clk with flash := flash, phase := 4 } ∧ t.mem.frames = [] ∧ t.flag F.MEM_CFG_EN = true) ∧
      (s.clk.phase = 3 → src ≠ 1 → s.clk.second = false → ∀ b, s.newestBank = some b → t.clk = { s.clk with bank := b, phase := 4 }) ∧
      (s.clk.phase = 3 → src ≠ 1 → s.clk.second = false → s.newestBank = none → t.clk = { s.clk with phase := 7 } ∧ t.flag F.BOOT_STAT_NOIMG = true) ∧
      (s.clk.phase = 4 → t.clk = { s.clk with phase := 5 }) ∧
      (s.clk.phase = 5 → s.imgValid s.bootImg = true → t.clk = { s.clk with phase := 6 }) ∧
      (s.clk.phase = 5 → s.imgValid s.bootImg = false → src ≠ 1 → s.clk.bank < 2 →
        t.flag (if s.clk.bank = 0 then F.BOOT_STAT_A_FAIL else F.BOOT_STAT_B_FAIL) = true ∧
        (s.clk.second = true → t.clk = { s.clk with phase := 7 } ∧ t.flag F.BOOT_STAT_NOIMG = true) ∧
        (s.clk.second = false → t.clk = { s.clk with bank := 1 - s.clk.bank, second := true, phase := 3 })) ∧
      (s.clk.phase = 6 → t.clk.phase = 7 ∧ t.rd R.BOOT_VER = imgVer s.bootImg ∧ t.store.booted = if src = 1 then 0 else s.clk.bank)) ∧
    (s.clk.phase ≠ 7 ∨ s.clk.fastDone = false ∨ s.hk.round = 0 → EventRow dt z s (.bootReady dt) fun t => t.clk = s.clk) ∧
    (s.clk.locked = true → s.clk.ready = false → s.clk.phase = 7 → s.clk.fastDone = true → 1 ≤ s.hk.round → EventRow dt z s (.bootReady dt) fun t => t.clk.ready = true ∧ t.clk.phase = 8 ∧ t.role.role = 0 ∧
      (t.flag F.BOOT_CFG_HALT = true → t.flag F.BOOT_STAT_HALTED = true ∧ ∀ c : Fin 64, t.hasCtx c = true → (t.ctx c).st = .disabled) ∧
      (s.furl.pinLow = true → src = 2 → t.furl.furled = true))
end

