-- ==== Sys2Proof/Laws/Sparse.lean ====
section
/-! SUPPORT. Laws/Sparse.lean: reads after writes of a sparse memory, and that its operations keep the canonical form. -/

namespace Sys2Proof.Machine

/-- A larger bound is a stronger demand. -/
theorem spWfFrom_mono {d : Nat → Word} {k j : Nat} (hkj : k ≤ j) : ∀ {m : Sparse}, spWfFrom d j m = true → spWfFrom d k m = true
  | [], _ => rfl
  | (a, x) :: r, h => by
    simp only [spWfFrom, Bool.and_eq_true, decide_eq_true_eq] at h ⊢
    exact ⟨⟨by omega, h.1.2⟩, h.2⟩

/-- A write keeps the canonical form. -/
theorem spSet_wfFrom {d : Nat → Word} {k : Nat} {w : Word} :
    ∀ {m : Sparse} {b : Nat}, b ≤ k → spWfFrom d b m = true → spWfFrom d b (spSet (d k) m k w) = true
  | [], b, hb, _ => by
    by_cases hw : w = d k
    · simp [spSet, hw, spWfFrom]
    · simp [spSet, hw, spWfFrom, hb]
  | (a, x) :: r, b, hb, h => by
    simp only [spWfFrom, Bool.and_eq_true, decide_eq_true_eq] at h
    obtain ⟨⟨hba, hx⟩, hr⟩ := h
    by_cases hka : k = a
    · subst hka
      by_cases hw : w = d k
      · simpa [spSet, hw] using spWfFrom_mono (by omega) hr
      · simp [spSet, hw, spWfFrom, hba, hr]
    · by_cases hlt : k < a
      · by_cases hw : w = d k
        · simp [spSet, hka, hlt, hw, spWfFrom, hba, hx, hr]
        · simp only [spSet, hka, hlt, hw, if_true, if_false, spWfFrom, Bool.and_eq_true, decide_eq_true_eq]
          exact ⟨⟨hb, hw⟩, ⟨⟨by omega, hx⟩, hr⟩⟩
      · simp only [spSet, hka, hlt, if_false, spWfFrom, Bool.and_eq_true, decide_eq_true_eq]
        exact ⟨⟨hba, hx⟩, spSet_wfFrom (by omega) hr⟩

/-- A write keeps the canonical form. -/
theorem spSet_wf {d : Nat → Word} {m : Sparse} {k : Nat} {w : Word} (h : spWf d m = true) : spWf d (spSet (d k) m k w) = true :=
  spSet_wfFrom (Nat.zero_le _) h

/-- A key below the bound reads as its default. -/
theorem spGet_below {d : Nat → Word} {c : Word} {k : Nat} :
    ∀ {m : Sparse} {b : Nat}, k < b → spWfFrom d b m = true → spGet c m k = c
  | [], _, _, _ => rfl
  | (a, x) :: r, b, hk, h => by
    simp only [spWfFrom, Bool.and_eq_true, decide_eq_true_eq] at h
    have hne : k ≠ a := by omega
    simp only [spGet, hne, if_false]
    exact spGet_below (b := a + 1) (by omega) h.2

/-- A key reads the word just written to it, in canonical form. -/
theorem spGet_spSet_same {d : Nat → Word} {k : Nat} {w : Word} :
    ∀ {m : Sparse} {b : Nat}, spWfFrom d b m = true → spGet (d k) (spSet (d k) m k w) k = w
  | [], _, _ => by
    by_cases hw : w = d k
    · simp [spSet, hw, spGet]
    · simp [spSet, hw, spGet]
  | (a, x) :: r, b, h => by
    have h2 := h
    simp only [spWfFrom, Bool.and_eq_true, decide_eq_true_eq] at h
    by_cases hka : k = a
    · subst hka
      by_cases hw : w = d k
      · simp only [spSet, hw, if_true]
        exact spGet_below (Nat.lt_succ_self k) h.2
      · simp [spSet, hw, spGet]
    · by_cases hlt : k < a
      · by_cases hw : w = d k
        · simp only [spSet, hka, hlt, hw, if_true, if_false, spGet]
          exact spGet_below (b := a + 1) (by omega) h.2
        · simp [spSet, hka, hlt, hw, spGet]
      · simp only [spSet, hka, hlt, if_false, spGet]
        exact spGet_spSet_same h.2

/-- The keys other than the one written read as before. -/
theorem spGet_spSet_other {c c' : Word} {k j : Nat} {w : Word} (hj : j ≠ k) :
    ∀ {m : Sparse}, spGet c (spSet c' m k w) j = spGet c m j
  | [] => by
    by_cases hw : w = c'
    · simp [spSet, hw]
    · simp [spSet, hw, spGet, hj]
  | (a, x) :: r => by
    by_cases hka : k = a
    · subst hka
      by_cases hw : w = c'
      · simp [spSet, hw, spGet, hj]
      · simp [spSet, hw, spGet, hj]
    · by_cases hlt : k < a
      · by_cases hw : w = c'
        · simp [spSet, hka, hlt, hw]
        · simp [spSet, hka, hlt, hw, spGet, hj]
      · simp only [spSet, hka, hlt, if_false, spGet]
        rw [spGet_spSet_other hj]

/-- Dropping entries keeps the canonical form. -/
theorem spWfFrom_filter {d : Nat → Word} {p : Nat × Word → Bool} :
    ∀ {m : Sparse} {b : Nat}, spWfFrom d b m = true → spWfFrom d b (m.filter p) = true
  | [], _, _ => rfl
  | (a, x) :: r, b, h => by
    simp only [spWfFrom, Bool.and_eq_true, decide_eq_true_eq] at h
    have hr := spWfFrom_filter (p := p) h.2
    by_cases hp : p (a, x) = true
    · simp only [List.filter_cons, hp, if_true, spWfFrom, Bool.and_eq_true, decide_eq_true_eq]
      exact ⟨h.1, hr⟩
    · simp only [List.filter_cons, hp]
      exact spWfFrom_mono (by omega) hr

/-- Dropping entries keeps the canonical form. -/
theorem spWf_filter {d : Nat → Word} {m : Sparse} {p : Nat × Word → Bool} (h : spWf d m = true) : spWf d (m.filter p) = true :=
  spWfFrom_filter h

/-- Writing words keeps the store's canonical form. -/
theorem putWords_wf : ∀ {ws : List Word} {m : Sparse} {i : Nat}, spWf (fun _ => stBlank) m = true → spWf (fun _ => stBlank) (putWords m i ws) = true
  | [], _, _, h => h
  | _ :: _, _, i, h => by
    rw [putWords]
    exact putWords_wf (spSet_wf (d := fun _ => stBlank) (k := i) h)

/-- Writing a list of words keeps the canonical form of an engine memory. -/
theorem spFold_wf {key : Word × Nat → Nat} : ∀ {l : List (Word × Nat)} {m : Sparse}, spWf (fun _ => 0#32) m = true →
    spWf (fun _ => 0#32) (l.foldl (fun m x => spSet 0#32 m (key x) x.1) m) = true
  | [], _, h => h
  | x :: _, _, h => by
    rw [List.foldl_cons]
    exact spFold_wf (spSet_wf (d := fun _ => 0#32) (k := key x) h)

end Sys2Proof.Machine
end

