-- ==== Sys2Proof/Laws/State.lean ====
section
/-! SUPPORT. Laws/State.lean: each update of a part of the state, field by field. -/

namespace Sys2Proof.Machine

variable {s : State}

/-! ### advance -/

@[simp] theorem State.advance_pending {dt : Nat} : (s.advance dt).pending = s.pending := rfl
@[simp] theorem State.advance_variant {dt : Nat} : (s.advance dt).variant = s.variant := rfl
@[simp] theorem State.advance_regs {dt : Nat} : (s.advance dt).regs = s.regs := rfl
@[simp] theorem State.advance_deferred {dt : Nat} : (s.advance dt).deferred = s.deferred := rfl
@[simp] theorem State.advance_sigs {dt : Nat} : (s.advance dt).sigs = s.sigs := rfl
@[simp] theorem State.advance_masts {dt : Nat} : (s.advance dt).masts = s.masts := rfl
@[simp] theorem State.advance_bgs {dt : Nat} : (s.advance dt).bgs = s.bgs := rfl
@[simp] theorem State.advance_furl {dt : Nat} : (s.advance dt).furl = s.furl := rfl
@[simp] theorem State.advance_fc {dt : Nat} : (s.advance dt).fc = s.fc := rfl
@[simp] theorem State.advance_eng {dt : Nat} : (s.advance dt).eng = s.eng := rfl
@[simp] theorem State.advance_ring {dt : Nat} : (s.advance dt).ring = s.ring := rfl
@[simp] theorem State.advance_hk {dt : Nat} : (s.advance dt).hk = s.hk := rfl
@[simp] theorem State.advance_srv {dt : Nat} : (s.advance dt).srv = s.srv := rfl
@[simp] theorem State.advance_cal {dt : Nat} : (s.advance dt).cal = s.cal := rfl
@[simp] theorem State.advance_gpio {dt : Nat} : (s.advance dt).gpio = s.gpio := rfl
@[simp] theorem State.advance_host {dt : Nat} : (s.advance dt).host = s.host := rfl
@[simp] theorem State.advance_mem {dt : Nat} : (s.advance dt).mem = s.mem := rfl
@[simp] theorem State.advance_role {dt : Nat} : (s.advance dt).role = s.role := rfl
@[simp] theorem State.advance_store {dt : Nat} : (s.advance dt).store = s.store := rfl
@[simp] theorem State.advance_clk {dt : Nat} : (s.advance dt).clk = s.clk := rfl
@[simp] theorem State.advance_tap {dt : Nat} : (s.advance dt).tap = s.tap := rfl
@[simp] theorem State.advance_cyc {dt : Nat} : (s.advance dt).cyc = s.cyc := rfl
@[simp] theorem State.advance_was {dt : Nat} : (s.advance dt).was = s.was := rfl

/-! ### wr -/

@[simp] theorem State.wr_pending {k : Nat} {w : Word} : (s.wr k w).pending = s.pending := rfl
@[simp] theorem State.wr_now {k : Nat} {w : Word} : (s.wr k w).now = s.now := rfl
@[simp] theorem State.wr_variant {k : Nat} {w : Word} : (s.wr k w).variant = s.variant := rfl
@[simp] theorem State.wr_deferred {k : Nat} {w : Word} : (s.wr k w).deferred = s.deferred := rfl
@[simp] theorem State.wr_sigs {k : Nat} {w : Word} : (s.wr k w).sigs = s.sigs := rfl
@[simp] theorem State.wr_masts {k : Nat} {w : Word} : (s.wr k w).masts = s.masts := rfl
@[simp] theorem State.wr_bgs {k : Nat} {w : Word} : (s.wr k w).bgs = s.bgs := rfl
@[simp] theorem State.wr_furl {k : Nat} {w : Word} : (s.wr k w).furl = s.furl := rfl
@[simp] theorem State.wr_fc {k : Nat} {w : Word} : (s.wr k w).fc = s.fc := rfl
@[simp] theorem State.wr_eng {k : Nat} {w : Word} : (s.wr k w).eng = s.eng := rfl
@[simp] theorem State.wr_ring {k : Nat} {w : Word} : (s.wr k w).ring = s.ring := rfl
@[simp] theorem State.wr_hk {k : Nat} {w : Word} : (s.wr k w).hk = s.hk := rfl
@[simp] theorem State.wr_tb {k : Nat} {w : Word} : (s.wr k w).tb = s.tb := rfl
@[simp] theorem State.wr_srv {k : Nat} {w : Word} : (s.wr k w).srv = s.srv := rfl
@[simp] theorem State.wr_cal {k : Nat} {w : Word} : (s.wr k w).cal = s.cal := rfl
@[simp] theorem State.wr_gpio {k : Nat} {w : Word} : (s.wr k w).gpio = s.gpio := rfl
@[simp] theorem State.wr_host {k : Nat} {w : Word} : (s.wr k w).host = s.host := rfl
@[simp] theorem State.wr_mem {k : Nat} {w : Word} : (s.wr k w).mem = s.mem := rfl
@[simp] theorem State.wr_role {k : Nat} {w : Word} : (s.wr k w).role = s.role := rfl
@[simp] theorem State.wr_store {k : Nat} {w : Word} : (s.wr k w).store = s.store := rfl
@[simp] theorem State.wr_clk {k : Nat} {w : Word} : (s.wr k w).clk = s.clk := rfl
@[simp] theorem State.wr_tap {k : Nat} {w : Word} : (s.wr k w).tap = s.tap := rfl
@[simp] theorem State.wr_cyc {k : Nat} {w : Word} : (s.wr k w).cyc = s.cyc := rfl
@[simp] theorem State.wr_was {k : Nat} {w : Word} : (s.wr k w).was = s.was := rfl

/-! ### updM -/

@[simp] theorem State.updM_pending {m : Fin 16} {f : Mast → Mast} : (s.updM m f).pending = s.pending := rfl
@[simp] theorem State.updM_now {m : Fin 16} {f : Mast → Mast} : (s.updM m f).now = s.now := rfl
@[simp] theorem State.updM_variant {m : Fin 16} {f : Mast → Mast} : (s.updM m f).variant = s.variant := rfl
@[simp] theorem State.updM_regs {m : Fin 16} {f : Mast → Mast} : (s.updM m f).regs = s.regs := rfl
@[simp] theorem State.updM_deferred {m : Fin 16} {f : Mast → Mast} : (s.updM m f).deferred = s.deferred := rfl
@[simp] theorem State.updM_sigs {m : Fin 16} {f : Mast → Mast} : (s.updM m f).sigs = s.sigs := rfl
@[simp] theorem State.updM_bgs {m : Fin 16} {f : Mast → Mast} : (s.updM m f).bgs = s.bgs := rfl
@[simp] theorem State.updM_furl {m : Fin 16} {f : Mast → Mast} : (s.updM m f).furl = s.furl := rfl
@[simp] theorem State.updM_fc {m : Fin 16} {f : Mast → Mast} : (s.updM m f).fc = s.fc := rfl
@[simp] theorem State.updM_eng {m : Fin 16} {f : Mast → Mast} : (s.updM m f).eng = s.eng := rfl
@[simp] theorem State.updM_ring {m : Fin 16} {f : Mast → Mast} : (s.updM m f).ring = s.ring := rfl
@[simp] theorem State.updM_hk {m : Fin 16} {f : Mast → Mast} : (s.updM m f).hk = s.hk := rfl
@[simp] theorem State.updM_tb {m : Fin 16} {f : Mast → Mast} : (s.updM m f).tb = s.tb := rfl
@[simp] theorem State.updM_srv {m : Fin 16} {f : Mast → Mast} : (s.updM m f).srv = s.srv := rfl
@[simp] theorem State.updM_cal {m : Fin 16} {f : Mast → Mast} : (s.updM m f).cal = s.cal := rfl
@[simp] theorem State.updM_gpio {m : Fin 16} {f : Mast → Mast} : (s.updM m f).gpio = s.gpio := rfl
@[simp] theorem State.updM_host {m : Fin 16} {f : Mast → Mast} : (s.updM m f).host = s.host := rfl
@[simp] theorem State.updM_mem {m : Fin 16} {f : Mast → Mast} : (s.updM m f).mem = s.mem := rfl
@[simp] theorem State.updM_role {m : Fin 16} {f : Mast → Mast} : (s.updM m f).role = s.role := rfl
@[simp] theorem State.updM_store {m : Fin 16} {f : Mast → Mast} : (s.updM m f).store = s.store := rfl
@[simp] theorem State.updM_clk {m : Fin 16} {f : Mast → Mast} : (s.updM m f).clk = s.clk := rfl
@[simp] theorem State.updM_tap {m : Fin 16} {f : Mast → Mast} : (s.updM m f).tap = s.tap := rfl
@[simp] theorem State.updM_cyc {m : Fin 16} {f : Mast → Mast} : (s.updM m f).cyc = s.cyc := rfl
@[simp] theorem State.updM_was {m : Fin 16} {f : Mast → Mast} : (s.updM m f).was = s.was := rfl

/-! ### updPwm -/

@[simp] theorem State.updPwm_pending {m : Fin 16} {f : Pwm → Pwm} : (s.updPwm m f).pending = s.pending := rfl
@[simp] theorem State.updPwm_now {m : Fin 16} {f : Pwm → Pwm} : (s.updPwm m f).now = s.now := rfl
@[simp] theorem State.updPwm_variant {m : Fin 16} {f : Pwm → Pwm} : (s.updPwm m f).variant = s.variant := rfl
@[simp] theorem State.updPwm_regs {m : Fin 16} {f : Pwm → Pwm} : (s.updPwm m f).regs = s.regs := rfl
@[simp] theorem State.updPwm_deferred {m : Fin 16} {f : Pwm → Pwm} : (s.updPwm m f).deferred = s.deferred := rfl
@[simp] theorem State.updPwm_sigs {m : Fin 16} {f : Pwm → Pwm} : (s.updPwm m f).sigs = s.sigs := rfl
@[simp] theorem State.updPwm_bgs {m : Fin 16} {f : Pwm → Pwm} : (s.updPwm m f).bgs = s.bgs := rfl
@[simp] theorem State.updPwm_furl {m : Fin 16} {f : Pwm → Pwm} : (s.updPwm m f).furl = s.furl := rfl
@[simp] theorem State.updPwm_fc {m : Fin 16} {f : Pwm → Pwm} : (s.updPwm m f).fc = s.fc := rfl
@[simp] theorem State.updPwm_eng {m : Fin 16} {f : Pwm → Pwm} : (s.updPwm m f).eng = s.eng := rfl
@[simp] theorem State.updPwm_ring {m : Fin 16} {f : Pwm → Pwm} : (s.updPwm m f).ring = s.ring := rfl
@[simp] theorem State.updPwm_hk {m : Fin 16} {f : Pwm → Pwm} : (s.updPwm m f).hk = s.hk := rfl
@[simp] theorem State.updPwm_tb {m : Fin 16} {f : Pwm → Pwm} : (s.updPwm m f).tb = s.tb := rfl
@[simp] theorem State.updPwm_srv {m : Fin 16} {f : Pwm → Pwm} : (s.updPwm m f).srv = s.srv := rfl
@[simp] theorem State.updPwm_cal {m : Fin 16} {f : Pwm → Pwm} : (s.updPwm m f).cal = s.cal := rfl
@[simp] theorem State.updPwm_gpio {m : Fin 16} {f : Pwm → Pwm} : (s.updPwm m f).gpio = s.gpio := rfl
@[simp] theorem State.updPwm_host {m : Fin 16} {f : Pwm → Pwm} : (s.updPwm m f).host = s.host := rfl
@[simp] theorem State.updPwm_mem {m : Fin 16} {f : Pwm → Pwm} : (s.updPwm m f).mem = s.mem := rfl
@[simp] theorem State.updPwm_role {m : Fin 16} {f : Pwm → Pwm} : (s.updPwm m f).role = s.role := rfl
@[simp] theorem State.updPwm_store {m : Fin 16} {f : Pwm → Pwm} : (s.updPwm m f).store = s.store := rfl
@[simp] theorem State.updPwm_clk {m : Fin 16} {f : Pwm → Pwm} : (s.updPwm m f).clk = s.clk := rfl
@[simp] theorem State.updPwm_tap {m : Fin 16} {f : Pwm → Pwm} : (s.updPwm m f).tap = s.tap := rfl
@[simp] theorem State.updPwm_cyc {m : Fin 16} {f : Pwm → Pwm} : (s.updPwm m f).cyc = s.cyc := rfl
@[simp] theorem State.updPwm_was {m : Fin 16} {f : Pwm → Pwm} : (s.updPwm m f).was = s.was := rfl

/-! ### updSense -/

@[simp] theorem State.updSense_pending {m : Fin 16} {f : Sense → Sense} : (s.updSense m f).pending = s.pending := rfl
@[simp] theorem State.updSense_now {m : Fin 16} {f : Sense → Sense} : (s.updSense m f).now = s.now := rfl
@[simp] theorem State.updSense_variant {m : Fin 16} {f : Sense → Sense} : (s.updSense m f).variant = s.variant := rfl
@[simp] theorem State.updSense_regs {m : Fin 16} {f : Sense → Sense} : (s.updSense m f).regs = s.regs := rfl
@[simp] theorem State.updSense_deferred {m : Fin 16} {f : Sense → Sense} : (s.updSense m f).deferred = s.deferred := rfl
@[simp] theorem State.updSense_sigs {m : Fin 16} {f : Sense → Sense} : (s.updSense m f).sigs = s.sigs := rfl
@[simp] theorem State.updSense_bgs {m : Fin 16} {f : Sense → Sense} : (s.updSense m f).bgs = s.bgs := rfl
@[simp] theorem State.updSense_furl {m : Fin 16} {f : Sense → Sense} : (s.updSense m f).furl = s.furl := rfl
@[simp] theorem State.updSense_fc {m : Fin 16} {f : Sense → Sense} : (s.updSense m f).fc = s.fc := rfl
@[simp] theorem State.updSense_eng {m : Fin 16} {f : Sense → Sense} : (s.updSense m f).eng = s.eng := rfl
@[simp] theorem State.updSense_ring {m : Fin 16} {f : Sense → Sense} : (s.updSense m f).ring = s.ring := rfl
@[simp] theorem State.updSense_hk {m : Fin 16} {f : Sense → Sense} : (s.updSense m f).hk = s.hk := rfl
@[simp] theorem State.updSense_tb {m : Fin 16} {f : Sense → Sense} : (s.updSense m f).tb = s.tb := rfl
@[simp] theorem State.updSense_srv {m : Fin 16} {f : Sense → Sense} : (s.updSense m f).srv = s.srv := rfl
@[simp] theorem State.updSense_cal {m : Fin 16} {f : Sense → Sense} : (s.updSense m f).cal = s.cal := rfl
@[simp] theorem State.updSense_gpio {m : Fin 16} {f : Sense → Sense} : (s.updSense m f).gpio = s.gpio := rfl
@[simp] theorem State.updSense_host {m : Fin 16} {f : Sense → Sense} : (s.updSense m f).host = s.host := rfl
@[simp] theorem State.updSense_mem {m : Fin 16} {f : Sense → Sense} : (s.updSense m f).mem = s.mem := rfl
@[simp] theorem State.updSense_role {m : Fin 16} {f : Sense → Sense} : (s.updSense m f).role = s.role := rfl
@[simp] theorem State.updSense_store {m : Fin 16} {f : Sense → Sense} : (s.updSense m f).store = s.store := rfl
@[simp] theorem State.updSense_clk {m : Fin 16} {f : Sense → Sense} : (s.updSense m f).clk = s.clk := rfl
@[simp] theorem State.updSense_tap {m : Fin 16} {f : Sense → Sense} : (s.updSense m f).tap = s.tap := rfl
@[simp] theorem State.updSense_cyc {m : Fin 16} {f : Sense → Sense} : (s.updSense m f).cyc = s.cyc := rfl
@[simp] theorem State.updSense_was {m : Fin 16} {f : Sense → Sense} : (s.updSense m f).was = s.was := rfl

/-! ### updCom -/

@[simp] theorem State.updCom_pending {m : Fin 16} {f : Com → Com} : (s.updCom m f).pending = s.pending := rfl
@[simp] theorem State.updCom_now {m : Fin 16} {f : Com → Com} : (s.updCom m f).now = s.now := rfl
@[simp] theorem State.updCom_variant {m : Fin 16} {f : Com → Com} : (s.updCom m f).variant = s.variant := rfl
@[simp] theorem State.updCom_regs {m : Fin 16} {f : Com → Com} : (s.updCom m f).regs = s.regs := rfl
@[simp] theorem State.updCom_deferred {m : Fin 16} {f : Com → Com} : (s.updCom m f).deferred = s.deferred := rfl
@[simp] theorem State.updCom_sigs {m : Fin 16} {f : Com → Com} : (s.updCom m f).sigs = s.sigs := rfl
@[simp] theorem State.updCom_bgs {m : Fin 16} {f : Com → Com} : (s.updCom m f).bgs = s.bgs := rfl
@[simp] theorem State.updCom_furl {m : Fin 16} {f : Com → Com} : (s.updCom m f).furl = s.furl := rfl
@[simp] theorem State.updCom_fc {m : Fin 16} {f : Com → Com} : (s.updCom m f).fc = s.fc := rfl
@[simp] theorem State.updCom_eng {m : Fin 16} {f : Com → Com} : (s.updCom m f).eng = s.eng := rfl
@[simp] theorem State.updCom_ring {m : Fin 16} {f : Com → Com} : (s.updCom m f).ring = s.ring := rfl
@[simp] theorem State.updCom_hk {m : Fin 16} {f : Com → Com} : (s.updCom m f).hk = s.hk := rfl
@[simp] theorem State.updCom_tb {m : Fin 16} {f : Com → Com} : (s.updCom m f).tb = s.tb := rfl
@[simp] theorem State.updCom_srv {m : Fin 16} {f : Com → Com} : (s.updCom m f).srv = s.srv := rfl
@[simp] theorem State.updCom_cal {m : Fin 16} {f : Com → Com} : (s.updCom m f).cal = s.cal := rfl
@[simp] theorem State.updCom_gpio {m : Fin 16} {f : Com → Com} : (s.updCom m f).gpio = s.gpio := rfl
@[simp] theorem State.updCom_host {m : Fin 16} {f : Com → Com} : (s.updCom m f).host = s.host := rfl
@[simp] theorem State.updCom_mem {m : Fin 16} {f : Com → Com} : (s.updCom m f).mem = s.mem := rfl
@[simp] theorem State.updCom_role {m : Fin 16} {f : Com → Com} : (s.updCom m f).role = s.role := rfl
@[simp] theorem State.updCom_store {m : Fin 16} {f : Com → Com} : (s.updCom m f).store = s.store := rfl
@[simp] theorem State.updCom_clk {m : Fin 16} {f : Com → Com} : (s.updCom m f).clk = s.clk := rfl
@[simp] theorem State.updCom_tap {m : Fin 16} {f : Com → Com} : (s.updCom m f).tap = s.tap := rfl
@[simp] theorem State.updCom_cyc {m : Fin 16} {f : Com → Com} : (s.updCom m f).cyc = s.cyc := rfl
@[simp] theorem State.updCom_was {m : Fin 16} {f : Com → Com} : (s.updCom m f).was = s.was := rfl

/-! ### updSeq -/

@[simp] theorem State.updSeq_pending {m : Fin 16} {f : Seq → Seq} : (s.updSeq m f).pending = s.pending := rfl
@[simp] theorem State.updSeq_now {m : Fin 16} {f : Seq → Seq} : (s.updSeq m f).now = s.now := rfl
@[simp] theorem State.updSeq_variant {m : Fin 16} {f : Seq → Seq} : (s.updSeq m f).variant = s.variant := rfl
@[simp] theorem State.updSeq_regs {m : Fin 16} {f : Seq → Seq} : (s.updSeq m f).regs = s.regs := rfl
@[simp] theorem State.updSeq_deferred {m : Fin 16} {f : Seq → Seq} : (s.updSeq m f).deferred = s.deferred := rfl
@[simp] theorem State.updSeq_sigs {m : Fin 16} {f : Seq → Seq} : (s.updSeq m f).sigs = s.sigs := rfl
@[simp] theorem State.updSeq_bgs {m : Fin 16} {f : Seq → Seq} : (s.updSeq m f).bgs = s.bgs := rfl
@[simp] theorem State.updSeq_furl {m : Fin 16} {f : Seq → Seq} : (s.updSeq m f).furl = s.furl := rfl
@[simp] theorem State.updSeq_fc {m : Fin 16} {f : Seq → Seq} : (s.updSeq m f).fc = s.fc := rfl
@[simp] theorem State.updSeq_eng {m : Fin 16} {f : Seq → Seq} : (s.updSeq m f).eng = s.eng := rfl
@[simp] theorem State.updSeq_ring {m : Fin 16} {f : Seq → Seq} : (s.updSeq m f).ring = s.ring := rfl
@[simp] theorem State.updSeq_hk {m : Fin 16} {f : Seq → Seq} : (s.updSeq m f).hk = s.hk := rfl
@[simp] theorem State.updSeq_tb {m : Fin 16} {f : Seq → Seq} : (s.updSeq m f).tb = s.tb := rfl
@[simp] theorem State.updSeq_srv {m : Fin 16} {f : Seq → Seq} : (s.updSeq m f).srv = s.srv := rfl
@[simp] theorem State.updSeq_cal {m : Fin 16} {f : Seq → Seq} : (s.updSeq m f).cal = s.cal := rfl
@[simp] theorem State.updSeq_gpio {m : Fin 16} {f : Seq → Seq} : (s.updSeq m f).gpio = s.gpio := rfl
@[simp] theorem State.updSeq_host {m : Fin 16} {f : Seq → Seq} : (s.updSeq m f).host = s.host := rfl
@[simp] theorem State.updSeq_mem {m : Fin 16} {f : Seq → Seq} : (s.updSeq m f).mem = s.mem := rfl
@[simp] theorem State.updSeq_role {m : Fin 16} {f : Seq → Seq} : (s.updSeq m f).role = s.role := rfl
@[simp] theorem State.updSeq_store {m : Fin 16} {f : Seq → Seq} : (s.updSeq m f).store = s.store := rfl
@[simp] theorem State.updSeq_clk {m : Fin 16} {f : Seq → Seq} : (s.updSeq m f).clk = s.clk := rfl
@[simp] theorem State.updSeq_tap {m : Fin 16} {f : Seq → Seq} : (s.updSeq m f).tap = s.tap := rfl
@[simp] theorem State.updSeq_cyc {m : Fin 16} {f : Seq → Seq} : (s.updSeq m f).cyc = s.cyc := rfl
@[simp] theorem State.updSeq_was {m : Fin 16} {f : Seq → Seq} : (s.updSeq m f).was = s.was := rfl

/-! ### updHal -/

@[simp] theorem State.updHal_pending {m : Fin 16} {f : Hal → Hal} : (s.updHal m f).pending = s.pending := rfl
@[simp] theorem State.updHal_now {m : Fin 16} {f : Hal → Hal} : (s.updHal m f).now = s.now := rfl
@[simp] theorem State.updHal_variant {m : Fin 16} {f : Hal → Hal} : (s.updHal m f).variant = s.variant := rfl
@[simp] theorem State.updHal_regs {m : Fin 16} {f : Hal → Hal} : (s.updHal m f).regs = s.regs := rfl
@[simp] theorem State.updHal_deferred {m : Fin 16} {f : Hal → Hal} : (s.updHal m f).deferred = s.deferred := rfl
@[simp] theorem State.updHal_sigs {m : Fin 16} {f : Hal → Hal} : (s.updHal m f).sigs = s.sigs := rfl
@[simp] theorem State.updHal_bgs {m : Fin 16} {f : Hal → Hal} : (s.updHal m f).bgs = s.bgs := rfl
@[simp] theorem State.updHal_furl {m : Fin 16} {f : Hal → Hal} : (s.updHal m f).furl = s.furl := rfl
@[simp] theorem State.updHal_fc {m : Fin 16} {f : Hal → Hal} : (s.updHal m f).fc = s.fc := rfl
@[simp] theorem State.updHal_eng {m : Fin 16} {f : Hal → Hal} : (s.updHal m f).eng = s.eng := rfl
@[simp] theorem State.updHal_ring {m : Fin 16} {f : Hal → Hal} : (s.updHal m f).ring = s.ring := rfl
@[simp] theorem State.updHal_hk {m : Fin 16} {f : Hal → Hal} : (s.updHal m f).hk = s.hk := rfl
@[simp] theorem State.updHal_tb {m : Fin 16} {f : Hal → Hal} : (s.updHal m f).tb = s.tb := rfl
@[simp] theorem State.updHal_srv {m : Fin 16} {f : Hal → Hal} : (s.updHal m f).srv = s.srv := rfl
@[simp] theorem State.updHal_cal {m : Fin 16} {f : Hal → Hal} : (s.updHal m f).cal = s.cal := rfl
@[simp] theorem State.updHal_gpio {m : Fin 16} {f : Hal → Hal} : (s.updHal m f).gpio = s.gpio := rfl
@[simp] theorem State.updHal_host {m : Fin 16} {f : Hal → Hal} : (s.updHal m f).host = s.host := rfl
@[simp] theorem State.updHal_mem {m : Fin 16} {f : Hal → Hal} : (s.updHal m f).mem = s.mem := rfl
@[simp] theorem State.updHal_role {m : Fin 16} {f : Hal → Hal} : (s.updHal m f).role = s.role := rfl
@[simp] theorem State.updHal_store {m : Fin 16} {f : Hal → Hal} : (s.updHal m f).store = s.store := rfl
@[simp] theorem State.updHal_clk {m : Fin 16} {f : Hal → Hal} : (s.updHal m f).clk = s.clk := rfl
@[simp] theorem State.updHal_tap {m : Fin 16} {f : Hal → Hal} : (s.updHal m f).tap = s.tap := rfl
@[simp] theorem State.updHal_cyc {m : Fin 16} {f : Hal → Hal} : (s.updHal m f).cyc = s.cyc := rfl
@[simp] theorem State.updHal_was {m : Fin 16} {f : Hal → Hal} : (s.updHal m f).was = s.was := rfl

/-! ### updCmd -/

@[simp] theorem State.updCmd_pending {m : Fin 16} {f : CmdPin → CmdPin} : (s.updCmd m f).pending = s.pending := rfl
@[simp] theorem State.updCmd_now {m : Fin 16} {f : CmdPin → CmdPin} : (s.updCmd m f).now = s.now := rfl
@[simp] theorem State.updCmd_variant {m : Fin 16} {f : CmdPin → CmdPin} : (s.updCmd m f).variant = s.variant := rfl
@[simp] theorem State.updCmd_regs {m : Fin 16} {f : CmdPin → CmdPin} : (s.updCmd m f).regs = s.regs := rfl
@[simp] theorem State.updCmd_deferred {m : Fin 16} {f : CmdPin → CmdPin} : (s.updCmd m f).deferred = s.deferred := rfl
@[simp] theorem State.updCmd_sigs {m : Fin 16} {f : CmdPin → CmdPin} : (s.updCmd m f).sigs = s.sigs := rfl
@[simp] theorem State.updCmd_bgs {m : Fin 16} {f : CmdPin → CmdPin} : (s.updCmd m f).bgs = s.bgs := rfl
@[simp] theorem State.updCmd_furl {m : Fin 16} {f : CmdPin → CmdPin} : (s.updCmd m f).furl = s.furl := rfl
@[simp] theorem State.updCmd_fc {m : Fin 16} {f : CmdPin → CmdPin} : (s.updCmd m f).fc = s.fc := rfl
@[simp] theorem State.updCmd_eng {m : Fin 16} {f : CmdPin → CmdPin} : (s.updCmd m f).eng = s.eng := rfl
@[simp] theorem State.updCmd_ring {m : Fin 16} {f : CmdPin → CmdPin} : (s.updCmd m f).ring = s.ring := rfl
@[simp] theorem State.updCmd_hk {m : Fin 16} {f : CmdPin → CmdPin} : (s.updCmd m f).hk = s.hk := rfl
@[simp] theorem State.updCmd_tb {m : Fin 16} {f : CmdPin → CmdPin} : (s.updCmd m f).tb = s.tb := rfl
@[simp] theorem State.updCmd_srv {m : Fin 16} {f : CmdPin → CmdPin} : (s.updCmd m f).srv = s.srv := rfl
@[simp] theorem State.updCmd_cal {m : Fin 16} {f : CmdPin → CmdPin} : (s.updCmd m f).cal = s.cal := rfl
@[simp] theorem State.updCmd_gpio {m : Fin 16} {f : CmdPin → CmdPin} : (s.updCmd m f).gpio = s.gpio := rfl
@[simp] theorem State.updCmd_host {m : Fin 16} {f : CmdPin → CmdPin} : (s.updCmd m f).host = s.host := rfl
@[simp] theorem State.updCmd_mem {m : Fin 16} {f : CmdPin → CmdPin} : (s.updCmd m f).mem = s.mem := rfl
@[simp] theorem State.updCmd_role {m : Fin 16} {f : CmdPin → CmdPin} : (s.updCmd m f).role = s.role := rfl
@[simp] theorem State.updCmd_store {m : Fin 16} {f : CmdPin → CmdPin} : (s.updCmd m f).store = s.store := rfl
@[simp] theorem State.updCmd_clk {m : Fin 16} {f : CmdPin → CmdPin} : (s.updCmd m f).clk = s.clk := rfl
@[simp] theorem State.updCmd_tap {m : Fin 16} {f : CmdPin → CmdPin} : (s.updCmd m f).tap = s.tap := rfl
@[simp] theorem State.updCmd_cyc {m : Fin 16} {f : CmdPin → CmdPin} : (s.updCmd m f).cyc = s.cyc := rfl
@[simp] theorem State.updCmd_was {m : Fin 16} {f : CmdPin → CmdPin} : (s.updCmd m f).was = s.was := rfl

/-! ### updShr -/

@[simp] theorem State.updShr_pending {m : Fin 16} {f : Shroud → Shroud} : (s.updShr m f).pending = s.pending := rfl
@[simp] theorem State.updShr_now {m : Fin 16} {f : Shroud → Shroud} : (s.updShr m f).now = s.now := rfl
@[simp] theorem State.updShr_variant {m : Fin 16} {f : Shroud → Shroud} : (s.updShr m f).variant = s.variant := rfl
@[simp] theorem State.updShr_regs {m : Fin 16} {f : Shroud → Shroud} : (s.updShr m f).regs = s.regs := rfl
@[simp] theorem State.updShr_deferred {m : Fin 16} {f : Shroud → Shroud} : (s.updShr m f).deferred = s.deferred := rfl
@[simp] theorem State.updShr_sigs {m : Fin 16} {f : Shroud → Shroud} : (s.updShr m f).sigs = s.sigs := rfl
@[simp] theorem State.updShr_bgs {m : Fin 16} {f : Shroud → Shroud} : (s.updShr m f).bgs = s.bgs := rfl
@[simp] theorem State.updShr_furl {m : Fin 16} {f : Shroud → Shroud} : (s.updShr m f).furl = s.furl := rfl
@[simp] theorem State.updShr_fc {m : Fin 16} {f : Shroud → Shroud} : (s.updShr m f).fc = s.fc := rfl
@[simp] theorem State.updShr_eng {m : Fin 16} {f : Shroud → Shroud} : (s.updShr m f).eng = s.eng := rfl
@[simp] theorem State.updShr_ring {m : Fin 16} {f : Shroud → Shroud} : (s.updShr m f).ring = s.ring := rfl
@[simp] theorem State.updShr_hk {m : Fin 16} {f : Shroud → Shroud} : (s.updShr m f).hk = s.hk := rfl
@[simp] theorem State.updShr_tb {m : Fin 16} {f : Shroud → Shroud} : (s.updShr m f).tb = s.tb := rfl
@[simp] theorem State.updShr_srv {m : Fin 16} {f : Shroud → Shroud} : (s.updShr m f).srv = s.srv := rfl
@[simp] theorem State.updShr_cal {m : Fin 16} {f : Shroud → Shroud} : (s.updShr m f).cal = s.cal := rfl
@[simp] theorem State.updShr_gpio {m : Fin 16} {f : Shroud → Shroud} : (s.updShr m f).gpio = s.gpio := rfl
@[simp] theorem State.updShr_host {m : Fin 16} {f : Shroud → Shroud} : (s.updShr m f).host = s.host := rfl
@[simp] theorem State.updShr_mem {m : Fin 16} {f : Shroud → Shroud} : (s.updShr m f).mem = s.mem := rfl
@[simp] theorem State.updShr_role {m : Fin 16} {f : Shroud → Shroud} : (s.updShr m f).role = s.role := rfl
@[simp] theorem State.updShr_store {m : Fin 16} {f : Shroud → Shroud} : (s.updShr m f).store = s.store := rfl
@[simp] theorem State.updShr_clk {m : Fin 16} {f : Shroud → Shroud} : (s.updShr m f).clk = s.clk := rfl
@[simp] theorem State.updShr_tap {m : Fin 16} {f : Shroud → Shroud} : (s.updShr m f).tap = s.tap := rfl
@[simp] theorem State.updShr_cyc {m : Fin 16} {f : Shroud → Shroud} : (s.updShr m f).cyc = s.cyc := rfl
@[simp] theorem State.updShr_was {m : Fin 16} {f : Shroud → Shroud} : (s.updShr m f).was = s.was := rfl

/-! ### updG -/

@[simp] theorem State.updG_pending {g : Fin 8} {f : BusGroup → BusGroup} : (s.updG g f).pending = s.pending := rfl
@[simp] theorem State.updG_now {g : Fin 8} {f : BusGroup → BusGroup} : (s.updG g f).now = s.now := rfl
@[simp] theorem State.updG_variant {g : Fin 8} {f : BusGroup → BusGroup} : (s.updG g f).variant = s.variant := rfl
@[simp] theorem State.updG_regs {g : Fin 8} {f : BusGroup → BusGroup} : (s.updG g f).regs = s.regs := rfl
@[simp] theorem State.updG_deferred {g : Fin 8} {f : BusGroup → BusGroup} : (s.updG g f).deferred = s.deferred := rfl
@[simp] theorem State.updG_sigs {g : Fin 8} {f : BusGroup → BusGroup} : (s.updG g f).sigs = s.sigs := rfl
@[simp] theorem State.updG_masts {g : Fin 8} {f : BusGroup → BusGroup} : (s.updG g f).masts = s.masts := rfl
@[simp] theorem State.updG_furl {g : Fin 8} {f : BusGroup → BusGroup} : (s.updG g f).furl = s.furl := rfl
@[simp] theorem State.updG_fc {g : Fin 8} {f : BusGroup → BusGroup} : (s.updG g f).fc = s.fc := rfl
@[simp] theorem State.updG_eng {g : Fin 8} {f : BusGroup → BusGroup} : (s.updG g f).eng = s.eng := rfl
@[simp] theorem State.updG_ring {g : Fin 8} {f : BusGroup → BusGroup} : (s.updG g f).ring = s.ring := rfl
@[simp] theorem State.updG_hk {g : Fin 8} {f : BusGroup → BusGroup} : (s.updG g f).hk = s.hk := rfl
@[simp] theorem State.updG_tb {g : Fin 8} {f : BusGroup → BusGroup} : (s.updG g f).tb = s.tb := rfl
@[simp] theorem State.updG_srv {g : Fin 8} {f : BusGroup → BusGroup} : (s.updG g f).srv = s.srv := rfl
@[simp] theorem State.updG_cal {g : Fin 8} {f : BusGroup → BusGroup} : (s.updG g f).cal = s.cal := rfl
@[simp] theorem State.updG_gpio {g : Fin 8} {f : BusGroup → BusGroup} : (s.updG g f).gpio = s.gpio := rfl
@[simp] theorem State.updG_host {g : Fin 8} {f : BusGroup → BusGroup} : (s.updG g f).host = s.host := rfl
@[simp] theorem State.updG_mem {g : Fin 8} {f : BusGroup → BusGroup} : (s.updG g f).mem = s.mem := rfl
@[simp] theorem State.updG_role {g : Fin 8} {f : BusGroup → BusGroup} : (s.updG g f).role = s.role := rfl
@[simp] theorem State.updG_store {g : Fin 8} {f : BusGroup → BusGroup} : (s.updG g f).store = s.store := rfl
@[simp] theorem State.updG_clk {g : Fin 8} {f : BusGroup → BusGroup} : (s.updG g f).clk = s.clk := rfl
@[simp] theorem State.updG_tap {g : Fin 8} {f : BusGroup → BusGroup} : (s.updG g f).tap = s.tap := rfl
@[simp] theorem State.updG_cyc {g : Fin 8} {f : BusGroup → BusGroup} : (s.updG g f).cyc = s.cyc := rfl
@[simp] theorem State.updG_was {g : Fin 8} {f : BusGroup → BusGroup} : (s.updG g f).was = s.was := rfl

/-! ### updC -/

@[simp] theorem State.updC_pending {c : Fin 64} {f : Ctx → Ctx} : (s.updC c f).pending = s.pending := rfl
@[simp] theorem State.updC_now {c : Fin 64} {f : Ctx → Ctx} : (s.updC c f).now = s.now := rfl
@[simp] theorem State.updC_variant {c : Fin 64} {f : Ctx → Ctx} : (s.updC c f).variant = s.variant := rfl
@[simp] theorem State.updC_regs {c : Fin 64} {f : Ctx → Ctx} : (s.updC c f).regs = s.regs := rfl
@[simp] theorem State.updC_deferred {c : Fin 64} {f : Ctx → Ctx} : (s.updC c f).deferred = s.deferred := rfl
@[simp] theorem State.updC_sigs {c : Fin 64} {f : Ctx → Ctx} : (s.updC c f).sigs = s.sigs := rfl
@[simp] theorem State.updC_masts {c : Fin 64} {f : Ctx → Ctx} : (s.updC c f).masts = s.masts := rfl
@[simp] theorem State.updC_bgs {c : Fin 64} {f : Ctx → Ctx} : (s.updC c f).bgs = s.bgs := rfl
@[simp] theorem State.updC_furl {c : Fin 64} {f : Ctx → Ctx} : (s.updC c f).furl = s.furl := rfl
@[simp] theorem State.updC_fc {c : Fin 64} {f : Ctx → Ctx} : (s.updC c f).fc = s.fc := rfl
@[simp] theorem State.updC_ring {c : Fin 64} {f : Ctx → Ctx} : (s.updC c f).ring = s.ring := rfl
@[simp] theorem State.updC_hk {c : Fin 64} {f : Ctx → Ctx} : (s.updC c f).hk = s.hk := rfl
@[simp] theorem State.updC_tb {c : Fin 64} {f : Ctx → Ctx} : (s.updC c f).tb = s.tb := rfl
@[simp] theorem State.updC_srv {c : Fin 64} {f : Ctx → Ctx} : (s.updC c f).srv = s.srv := rfl
@[simp] theorem State.updC_cal {c : Fin 64} {f : Ctx → Ctx} : (s.updC c f).cal = s.cal := rfl
@[simp] theorem State.updC_gpio {c : Fin 64} {f : Ctx → Ctx} : (s.updC c f).gpio = s.gpio := rfl
@[simp] theorem State.updC_host {c : Fin 64} {f : Ctx → Ctx} : (s.updC c f).host = s.host := rfl
@[simp] theorem State.updC_mem {c : Fin 64} {f : Ctx → Ctx} : (s.updC c f).mem = s.mem := rfl
@[simp] theorem State.updC_role {c : Fin 64} {f : Ctx → Ctx} : (s.updC c f).role = s.role := rfl
@[simp] theorem State.updC_store {c : Fin 64} {f : Ctx → Ctx} : (s.updC c f).store = s.store := rfl
@[simp] theorem State.updC_clk {c : Fin 64} {f : Ctx → Ctx} : (s.updC c f).clk = s.clk := rfl
@[simp] theorem State.updC_tap {c : Fin 64} {f : Ctx → Ctx} : (s.updC c f).tap = s.tap := rfl
@[simp] theorem State.updC_cyc {c : Fin 64} {f : Ctx → Ctx} : (s.updC c f).cyc = s.cyc := rfl
@[simp] theorem State.updC_was {c : Fin 64} {f : Ctx → Ctx} : (s.updC c f).was = s.was := rfl

/-! ### updL -/

@[simp] theorem State.updL_pending {n : Fin 4} {f : Lane → Lane} : (s.updL n f).pending = s.pending := rfl
@[simp] theorem State.updL_now {n : Fin 4} {f : Lane → Lane} : (s.updL n f).now = s.now := rfl
@[simp] theorem State.updL_variant {n : Fin 4} {f : Lane → Lane} : (s.updL n f).variant = s.variant := rfl
@[simp] theorem State.updL_regs {n : Fin 4} {f : Lane → Lane} : (s.updL n f).regs = s.regs := rfl
@[simp] theorem State.updL_deferred {n : Fin 4} {f : Lane → Lane} : (s.updL n f).deferred = s.deferred := rfl
@[simp] theorem State.updL_sigs {n : Fin 4} {f : Lane → Lane} : (s.updL n f).sigs = s.sigs := rfl
@[simp] theorem State.updL_masts {n : Fin 4} {f : Lane → Lane} : (s.updL n f).masts = s.masts := rfl
@[simp] theorem State.updL_bgs {n : Fin 4} {f : Lane → Lane} : (s.updL n f).bgs = s.bgs := rfl
@[simp] theorem State.updL_furl {n : Fin 4} {f : Lane → Lane} : (s.updL n f).furl = s.furl := rfl
@[simp] theorem State.updL_fc {n : Fin 4} {f : Lane → Lane} : (s.updL n f).fc = s.fc := rfl
@[simp] theorem State.updL_ring {n : Fin 4} {f : Lane → Lane} : (s.updL n f).ring = s.ring := rfl
@[simp] theorem State.updL_hk {n : Fin 4} {f : Lane → Lane} : (s.updL n f).hk = s.hk := rfl
@[simp] theorem State.updL_tb {n : Fin 4} {f : Lane → Lane} : (s.updL n f).tb = s.tb := rfl
@[simp] theorem State.updL_srv {n : Fin 4} {f : Lane → Lane} : (s.updL n f).srv = s.srv := rfl
@[simp] theorem State.updL_cal {n : Fin 4} {f : Lane → Lane} : (s.updL n f).cal = s.cal := rfl
@[simp] theorem State.updL_gpio {n : Fin 4} {f : Lane → Lane} : (s.updL n f).gpio = s.gpio := rfl
@[simp] theorem State.updL_host {n : Fin 4} {f : Lane → Lane} : (s.updL n f).host = s.host := rfl
@[simp] theorem State.updL_mem {n : Fin 4} {f : Lane → Lane} : (s.updL n f).mem = s.mem := rfl
@[simp] theorem State.updL_role {n : Fin 4} {f : Lane → Lane} : (s.updL n f).role = s.role := rfl
@[simp] theorem State.updL_store {n : Fin 4} {f : Lane → Lane} : (s.updL n f).store = s.store := rfl
@[simp] theorem State.updL_clk {n : Fin 4} {f : Lane → Lane} : (s.updL n f).clk = s.clk := rfl
@[simp] theorem State.updL_tap {n : Fin 4} {f : Lane → Lane} : (s.updL n f).tap = s.tap := rfl
@[simp] theorem State.updL_cyc {n : Fin 4} {f : Lane → Lane} : (s.updL n f).cyc = s.cyc := rfl
@[simp] theorem State.updL_was {n : Fin 4} {f : Lane → Lane} : (s.updL n f).was = s.was := rfl

/-! ### updFc -/

@[simp] theorem State.updFc_pending {f : Fc → Fc} : (s.updFc f).pending = s.pending := rfl
@[simp] theorem State.updFc_now {f : Fc → Fc} : (s.updFc f).now = s.now := rfl
@[simp] theorem State.updFc_variant {f : Fc → Fc} : (s.updFc f).variant = s.variant := rfl
@[simp] theorem State.updFc_regs {f : Fc → Fc} : (s.updFc f).regs = s.regs := rfl
@[simp] theorem State.updFc_deferred {f : Fc → Fc} : (s.updFc f).deferred = s.deferred := rfl
@[simp] theorem State.updFc_sigs {f : Fc → Fc} : (s.updFc f).sigs = s.sigs := rfl
@[simp] theorem State.updFc_masts {f : Fc → Fc} : (s.updFc f).masts = s.masts := rfl
@[simp] theorem State.updFc_bgs {f : Fc → Fc} : (s.updFc f).bgs = s.bgs := rfl
@[simp] theorem State.updFc_furl {f : Fc → Fc} : (s.updFc f).furl = s.furl := rfl
@[simp] theorem State.updFc_eng {f : Fc → Fc} : (s.updFc f).eng = s.eng := rfl
@[simp] theorem State.updFc_ring {f : Fc → Fc} : (s.updFc f).ring = s.ring := rfl
@[simp] theorem State.updFc_hk {f : Fc → Fc} : (s.updFc f).hk = s.hk := rfl
@[simp] theorem State.updFc_tb {f : Fc → Fc} : (s.updFc f).tb = s.tb := rfl
@[simp] theorem State.updFc_srv {f : Fc → Fc} : (s.updFc f).srv = s.srv := rfl
@[simp] theorem State.updFc_cal {f : Fc → Fc} : (s.updFc f).cal = s.cal := rfl
@[simp] theorem State.updFc_gpio {f : Fc → Fc} : (s.updFc f).gpio = s.gpio := rfl
@[simp] theorem State.updFc_host {f : Fc → Fc} : (s.updFc f).host = s.host := rfl
@[simp] theorem State.updFc_mem {f : Fc → Fc} : (s.updFc f).mem = s.mem := rfl
@[simp] theorem State.updFc_role {f : Fc → Fc} : (s.updFc f).role = s.role := rfl
@[simp] theorem State.updFc_store {f : Fc → Fc} : (s.updFc f).store = s.store := rfl
@[simp] theorem State.updFc_clk {f : Fc → Fc} : (s.updFc f).clk = s.clk := rfl
@[simp] theorem State.updFc_tap {f : Fc → Fc} : (s.updFc f).tap = s.tap := rfl
@[simp] theorem State.updFc_cyc {f : Fc → Fc} : (s.updFc f).cyc = s.cyc := rfl
@[simp] theorem State.updFc_was {f : Fc → Fc} : (s.updFc f).was = s.was := rfl

/-! ### updEng -/

@[simp] theorem State.updEng_pending {f : Eng → Eng} : (s.updEng f).pending = s.pending := rfl
@[simp] theorem State.updEng_now {f : Eng → Eng} : (s.updEng f).now = s.now := rfl
@[simp] theorem State.updEng_variant {f : Eng → Eng} : (s.updEng f).variant = s.variant := rfl
@[simp] theorem State.updEng_regs {f : Eng → Eng} : (s.updEng f).regs = s.regs := rfl
@[simp] theorem State.updEng_deferred {f : Eng → Eng} : (s.updEng f).deferred = s.deferred := rfl
@[simp] theorem State.updEng_sigs {f : Eng → Eng} : (s.updEng f).sigs = s.sigs := rfl
@[simp] theorem State.updEng_masts {f : Eng → Eng} : (s.updEng f).masts = s.masts := rfl
@[simp] theorem State.updEng_bgs {f : Eng → Eng} : (s.updEng f).bgs = s.bgs := rfl
@[simp] theorem State.updEng_furl {f : Eng → Eng} : (s.updEng f).furl = s.furl := rfl
@[simp] theorem State.updEng_fc {f : Eng → Eng} : (s.updEng f).fc = s.fc := rfl
@[simp] theorem State.updEng_ring {f : Eng → Eng} : (s.updEng f).ring = s.ring := rfl
@[simp] theorem State.updEng_hk {f : Eng → Eng} : (s.updEng f).hk = s.hk := rfl
@[simp] theorem State.updEng_tb {f : Eng → Eng} : (s.updEng f).tb = s.tb := rfl
@[simp] theorem State.updEng_srv {f : Eng → Eng} : (s.updEng f).srv = s.srv := rfl
@[simp] theorem State.updEng_cal {f : Eng → Eng} : (s.updEng f).cal = s.cal := rfl
@[simp] theorem State.updEng_gpio {f : Eng → Eng} : (s.updEng f).gpio = s.gpio := rfl
@[simp] theorem State.updEng_host {f : Eng → Eng} : (s.updEng f).host = s.host := rfl
@[simp] theorem State.updEng_mem {f : Eng → Eng} : (s.updEng f).mem = s.mem := rfl
@[simp] theorem State.updEng_role {f : Eng → Eng} : (s.updEng f).role = s.role := rfl
@[simp] theorem State.updEng_store {f : Eng → Eng} : (s.updEng f).store = s.store := rfl
@[simp] theorem State.updEng_clk {f : Eng → Eng} : (s.updEng f).clk = s.clk := rfl
@[simp] theorem State.updEng_tap {f : Eng → Eng} : (s.updEng f).tap = s.tap := rfl
@[simp] theorem State.updEng_cyc {f : Eng → Eng} : (s.updEng f).cyc = s.cyc := rfl
@[simp] theorem State.updEng_was {f : Eng → Eng} : (s.updEng f).was = s.was := rfl

/-! ### updRing -/

@[simp] theorem State.updRing_pending {f : Ring → Ring} : (s.updRing f).pending = s.pending := rfl
@[simp] theorem State.updRing_now {f : Ring → Ring} : (s.updRing f).now = s.now := rfl
@[simp] theorem State.updRing_variant {f : Ring → Ring} : (s.updRing f).variant = s.variant := rfl
@[simp] theorem State.updRing_regs {f : Ring → Ring} : (s.updRing f).regs = s.regs := rfl
@[simp] theorem State.updRing_deferred {f : Ring → Ring} : (s.updRing f).deferred = s.deferred := rfl
@[simp] theorem State.updRing_sigs {f : Ring → Ring} : (s.updRing f).sigs = s.sigs := rfl
@[simp] theorem State.updRing_masts {f : Ring → Ring} : (s.updRing f).masts = s.masts := rfl
@[simp] theorem State.updRing_bgs {f : Ring → Ring} : (s.updRing f).bgs = s.bgs := rfl
@[simp] theorem State.updRing_furl {f : Ring → Ring} : (s.updRing f).furl = s.furl := rfl
@[simp] theorem State.updRing_fc {f : Ring → Ring} : (s.updRing f).fc = s.fc := rfl
@[simp] theorem State.updRing_eng {f : Ring → Ring} : (s.updRing f).eng = s.eng := rfl
@[simp] theorem State.updRing_hk {f : Ring → Ring} : (s.updRing f).hk = s.hk := rfl
@[simp] theorem State.updRing_tb {f : Ring → Ring} : (s.updRing f).tb = s.tb := rfl
@[simp] theorem State.updRing_srv {f : Ring → Ring} : (s.updRing f).srv = s.srv := rfl
@[simp] theorem State.updRing_cal {f : Ring → Ring} : (s.updRing f).cal = s.cal := rfl
@[simp] theorem State.updRing_gpio {f : Ring → Ring} : (s.updRing f).gpio = s.gpio := rfl
@[simp] theorem State.updRing_host {f : Ring → Ring} : (s.updRing f).host = s.host := rfl
@[simp] theorem State.updRing_mem {f : Ring → Ring} : (s.updRing f).mem = s.mem := rfl
@[simp] theorem State.updRing_role {f : Ring → Ring} : (s.updRing f).role = s.role := rfl
@[simp] theorem State.updRing_store {f : Ring → Ring} : (s.updRing f).store = s.store := rfl
@[simp] theorem State.updRing_clk {f : Ring → Ring} : (s.updRing f).clk = s.clk := rfl
@[simp] theorem State.updRing_tap {f : Ring → Ring} : (s.updRing f).tap = s.tap := rfl
@[simp] theorem State.updRing_cyc {f : Ring → Ring} : (s.updRing f).cyc = s.cyc := rfl
@[simp] theorem State.updRing_was {f : Ring → Ring} : (s.updRing f).was = s.was := rfl

/-! ### updPort -/

@[simp] theorem State.updPort_pending {q : Fin 2} {f : Port → Port} : (s.updPort q f).pending = s.pending := rfl
@[simp] theorem State.updPort_now {q : Fin 2} {f : Port → Port} : (s.updPort q f).now = s.now := rfl
@[simp] theorem State.updPort_variant {q : Fin 2} {f : Port → Port} : (s.updPort q f).variant = s.variant := rfl
@[simp] theorem State.updPort_regs {q : Fin 2} {f : Port → Port} : (s.updPort q f).regs = s.regs := rfl
@[simp] theorem State.updPort_deferred {q : Fin 2} {f : Port → Port} : (s.updPort q f).deferred = s.deferred := rfl
@[simp] theorem State.updPort_sigs {q : Fin 2} {f : Port → Port} : (s.updPort q f).sigs = s.sigs := rfl
@[simp] theorem State.updPort_masts {q : Fin 2} {f : Port → Port} : (s.updPort q f).masts = s.masts := rfl
@[simp] theorem State.updPort_bgs {q : Fin 2} {f : Port → Port} : (s.updPort q f).bgs = s.bgs := rfl
@[simp] theorem State.updPort_furl {q : Fin 2} {f : Port → Port} : (s.updPort q f).furl = s.furl := rfl
@[simp] theorem State.updPort_fc {q : Fin 2} {f : Port → Port} : (s.updPort q f).fc = s.fc := rfl
@[simp] theorem State.updPort_eng {q : Fin 2} {f : Port → Port} : (s.updPort q f).eng = s.eng := rfl
@[simp] theorem State.updPort_hk {q : Fin 2} {f : Port → Port} : (s.updPort q f).hk = s.hk := rfl
@[simp] theorem State.updPort_tb {q : Fin 2} {f : Port → Port} : (s.updPort q f).tb = s.tb := rfl
@[simp] theorem State.updPort_srv {q : Fin 2} {f : Port → Port} : (s.updPort q f).srv = s.srv := rfl
@[simp] theorem State.updPort_cal {q : Fin 2} {f : Port → Port} : (s.updPort q f).cal = s.cal := rfl
@[simp] theorem State.updPort_gpio {q : Fin 2} {f : Port → Port} : (s.updPort q f).gpio = s.gpio := rfl
@[simp] theorem State.updPort_host {q : Fin 2} {f : Port → Port} : (s.updPort q f).host = s.host := rfl
@[simp] theorem State.updPort_mem {q : Fin 2} {f : Port → Port} : (s.updPort q f).mem = s.mem := rfl
@[simp] theorem State.updPort_role {q : Fin 2} {f : Port → Port} : (s.updPort q f).role = s.role := rfl
@[simp] theorem State.updPort_store {q : Fin 2} {f : Port → Port} : (s.updPort q f).store = s.store := rfl
@[simp] theorem State.updPort_clk {q : Fin 2} {f : Port → Port} : (s.updPort q f).clk = s.clk := rfl
@[simp] theorem State.updPort_tap {q : Fin 2} {f : Port → Port} : (s.updPort q f).tap = s.tap := rfl
@[simp] theorem State.updPort_cyc {q : Fin 2} {f : Port → Port} : (s.updPort q f).cyc = s.cyc := rfl
@[simp] theorem State.updPort_was {q : Fin 2} {f : Port → Port} : (s.updPort q f).was = s.was := rfl

/-! ### updHk -/

@[simp] theorem State.updHk_pending {f : Hk → Hk} : (s.updHk f).pending = s.pending := rfl
@[simp] theorem State.updHk_now {f : Hk → Hk} : (s.updHk f).now = s.now := rfl
@[simp] theorem State.updHk_variant {f : Hk → Hk} : (s.updHk f).variant = s.variant := rfl
@[simp] theorem State.updHk_regs {f : Hk → Hk} : (s.updHk f).regs = s.regs := rfl
@[simp] theorem State.updHk_deferred {f : Hk → Hk} : (s.updHk f).deferred = s.deferred := rfl
@[simp] theorem State.updHk_sigs {f : Hk → Hk} : (s.updHk f).sigs = s.sigs := rfl
@[simp] theorem State.updHk_masts {f : Hk → Hk} : (s.updHk f).masts = s.masts := rfl
@[simp] theorem State.updHk_bgs {f : Hk → Hk} : (s.updHk f).bgs = s.bgs := rfl
@[simp] theorem State.updHk_furl {f : Hk → Hk} : (s.updHk f).furl = s.furl := rfl
@[simp] theorem State.updHk_fc {f : Hk → Hk} : (s.updHk f).fc = s.fc := rfl
@[simp] theorem State.updHk_eng {f : Hk → Hk} : (s.updHk f).eng = s.eng := rfl
@[simp] theorem State.updHk_ring {f : Hk → Hk} : (s.updHk f).ring = s.ring := rfl
@[simp] theorem State.updHk_tb {f : Hk → Hk} : (s.updHk f).tb = s.tb := rfl
@[simp] theorem State.updHk_srv {f : Hk → Hk} : (s.updHk f).srv = s.srv := rfl
@[simp] theorem State.updHk_cal {f : Hk → Hk} : (s.updHk f).cal = s.cal := rfl
@[simp] theorem State.updHk_gpio {f : Hk → Hk} : (s.updHk f).gpio = s.gpio := rfl
@[simp] theorem State.updHk_host {f : Hk → Hk} : (s.updHk f).host = s.host := rfl
@[simp] theorem State.updHk_mem {f : Hk → Hk} : (s.updHk f).mem = s.mem := rfl
@[simp] theorem State.updHk_role {f : Hk → Hk} : (s.updHk f).role = s.role := rfl
@[simp] theorem State.updHk_store {f : Hk → Hk} : (s.updHk f).store = s.store := rfl
@[simp] theorem State.updHk_clk {f : Hk → Hk} : (s.updHk f).clk = s.clk := rfl
@[simp] theorem State.updHk_tap {f : Hk → Hk} : (s.updHk f).tap = s.tap := rfl
@[simp] theorem State.updHk_cyc {f : Hk → Hk} : (s.updHk f).cyc = s.cyc := rfl
@[simp] theorem State.updHk_was {f : Hk → Hk} : (s.updHk f).was = s.was := rfl

/-! ### updSns -/

@[simp] theorem State.updSns_pending {i : Fin 32} {f : Sns → Sns} : (s.updSns i f).pending = s.pending := rfl
@[simp] theorem State.updSns_now {i : Fin 32} {f : Sns → Sns} : (s.updSns i f).now = s.now := rfl
@[simp] theorem State.updSns_variant {i : Fin 32} {f : Sns → Sns} : (s.updSns i f).variant = s.variant := rfl
@[simp] theorem State.updSns_regs {i : Fin 32} {f : Sns → Sns} : (s.updSns i f).regs = s.regs := rfl
@[simp] theorem State.updSns_deferred {i : Fin 32} {f : Sns → Sns} : (s.updSns i f).deferred = s.deferred := rfl
@[simp] theorem State.updSns_sigs {i : Fin 32} {f : Sns → Sns} : (s.updSns i f).sigs = s.sigs := rfl
@[simp] theorem State.updSns_masts {i : Fin 32} {f : Sns → Sns} : (s.updSns i f).masts = s.masts := rfl
@[simp] theorem State.updSns_bgs {i : Fin 32} {f : Sns → Sns} : (s.updSns i f).bgs = s.bgs := rfl
@[simp] theorem State.updSns_furl {i : Fin 32} {f : Sns → Sns} : (s.updSns i f).furl = s.furl := rfl
@[simp] theorem State.updSns_fc {i : Fin 32} {f : Sns → Sns} : (s.updSns i f).fc = s.fc := rfl
@[simp] theorem State.updSns_eng {i : Fin 32} {f : Sns → Sns} : (s.updSns i f).eng = s.eng := rfl
@[simp] theorem State.updSns_ring {i : Fin 32} {f : Sns → Sns} : (s.updSns i f).ring = s.ring := rfl
@[simp] theorem State.updSns_tb {i : Fin 32} {f : Sns → Sns} : (s.updSns i f).tb = s.tb := rfl
@[simp] theorem State.updSns_srv {i : Fin 32} {f : Sns → Sns} : (s.updSns i f).srv = s.srv := rfl
@[simp] theorem State.updSns_cal {i : Fin 32} {f : Sns → Sns} : (s.updSns i f).cal = s.cal := rfl
@[simp] theorem State.updSns_gpio {i : Fin 32} {f : Sns → Sns} : (s.updSns i f).gpio = s.gpio := rfl
@[simp] theorem State.updSns_host {i : Fin 32} {f : Sns → Sns} : (s.updSns i f).host = s.host := rfl
@[simp] theorem State.updSns_mem {i : Fin 32} {f : Sns → Sns} : (s.updSns i f).mem = s.mem := rfl
@[simp] theorem State.updSns_role {i : Fin 32} {f : Sns → Sns} : (s.updSns i f).role = s.role := rfl
@[simp] theorem State.updSns_store {i : Fin 32} {f : Sns → Sns} : (s.updSns i f).store = s.store := rfl
@[simp] theorem State.updSns_clk {i : Fin 32} {f : Sns → Sns} : (s.updSns i f).clk = s.clk := rfl
@[simp] theorem State.updSns_tap {i : Fin 32} {f : Sns → Sns} : (s.updSns i f).tap = s.tap := rfl
@[simp] theorem State.updSns_cyc {i : Fin 32} {f : Sns → Sns} : (s.updSns i f).cyc = s.cyc := rfl
@[simp] theorem State.updSns_was {i : Fin 32} {f : Sns → Sns} : (s.updSns i f).was = s.was := rfl

/-! ### updSrv -/

@[simp] theorem State.updSrv_pending {f : Servo → Servo} : (s.updSrv f).pending = s.pending := rfl
@[simp] theorem State.updSrv_now {f : Servo → Servo} : (s.updSrv f).now = s.now := rfl
@[simp] theorem State.updSrv_variant {f : Servo → Servo} : (s.updSrv f).variant = s.variant := rfl
@[simp] theorem State.updSrv_regs {f : Servo → Servo} : (s.updSrv f).regs = s.regs := rfl
@[simp] theorem State.updSrv_deferred {f : Servo → Servo} : (s.updSrv f).deferred = s.deferred := rfl
@[simp] theorem State.updSrv_sigs {f : Servo → Servo} : (s.updSrv f).sigs = s.sigs := rfl
@[simp] theorem State.updSrv_masts {f : Servo → Servo} : (s.updSrv f).masts = s.masts := rfl
@[simp] theorem State.updSrv_bgs {f : Servo → Servo} : (s.updSrv f).bgs = s.bgs := rfl
@[simp] theorem State.updSrv_furl {f : Servo → Servo} : (s.updSrv f).furl = s.furl := rfl
@[simp] theorem State.updSrv_fc {f : Servo → Servo} : (s.updSrv f).fc = s.fc := rfl
@[simp] theorem State.updSrv_eng {f : Servo → Servo} : (s.updSrv f).eng = s.eng := rfl
@[simp] theorem State.updSrv_ring {f : Servo → Servo} : (s.updSrv f).ring = s.ring := rfl
@[simp] theorem State.updSrv_hk {f : Servo → Servo} : (s.updSrv f).hk = s.hk := rfl
@[simp] theorem State.updSrv_tb {f : Servo → Servo} : (s.updSrv f).tb = s.tb := rfl
@[simp] theorem State.updSrv_cal {f : Servo → Servo} : (s.updSrv f).cal = s.cal := rfl
@[simp] theorem State.updSrv_gpio {f : Servo → Servo} : (s.updSrv f).gpio = s.gpio := rfl
@[simp] theorem State.updSrv_host {f : Servo → Servo} : (s.updSrv f).host = s.host := rfl
@[simp] theorem State.updSrv_mem {f : Servo → Servo} : (s.updSrv f).mem = s.mem := rfl
@[simp] theorem State.updSrv_role {f : Servo → Servo} : (s.updSrv f).role = s.role := rfl
@[simp] theorem State.updSrv_store {f : Servo → Servo} : (s.updSrv f).store = s.store := rfl
@[simp] theorem State.updSrv_clk {f : Servo → Servo} : (s.updSrv f).clk = s.clk := rfl
@[simp] theorem State.updSrv_tap {f : Servo → Servo} : (s.updSrv f).tap = s.tap := rfl
@[simp] theorem State.updSrv_cyc {f : Servo → Servo} : (s.updSrv f).cyc = s.cyc := rfl
@[simp] theorem State.updSrv_was {f : Servo → Servo} : (s.updSrv f).was = s.was := rfl

/-! ### updHost -/

@[simp] theorem State.updHost_pending {f : HostPort → HostPort} : (s.updHost f).pending = s.pending := rfl
@[simp] theorem State.updHost_now {f : HostPort → HostPort} : (s.updHost f).now = s.now := rfl
@[simp] theorem State.updHost_variant {f : HostPort → HostPort} : (s.updHost f).variant = s.variant := rfl
@[simp] theorem State.updHost_regs {f : HostPort → HostPort} : (s.updHost f).regs = s.regs := rfl
@[simp] theorem State.updHost_deferred {f : HostPort → HostPort} : (s.updHost f).deferred = s.deferred := rfl
@[simp] theorem State.updHost_sigs {f : HostPort → HostPort} : (s.updHost f).sigs = s.sigs := rfl
@[simp] theorem State.updHost_masts {f : HostPort → HostPort} : (s.updHost f).masts = s.masts := rfl
@[simp] theorem State.updHost_bgs {f : HostPort → HostPort} : (s.updHost f).bgs = s.bgs := rfl
@[simp] theorem State.updHost_furl {f : HostPort → HostPort} : (s.updHost f).furl = s.furl := rfl
@[simp] theorem State.updHost_fc {f : HostPort → HostPort} : (s.updHost f).fc = s.fc := rfl
@[simp] theorem State.updHost_eng {f : HostPort → HostPort} : (s.updHost f).eng = s.eng := rfl
@[simp] theorem State.updHost_ring {f : HostPort → HostPort} : (s.updHost f).ring = s.ring := rfl
@[simp] theorem State.updHost_hk {f : HostPort → HostPort} : (s.updHost f).hk = s.hk := rfl
@[simp] theorem State.updHost_tb {f : HostPort → HostPort} : (s.updHost f).tb = s.tb := rfl
@[simp] theorem State.updHost_srv {f : HostPort → HostPort} : (s.updHost f).srv = s.srv := rfl
@[simp] theorem State.updHost_cal {f : HostPort → HostPort} : (s.updHost f).cal = s.cal := rfl
@[simp] theorem State.updHost_gpio {f : HostPort → HostPort} : (s.updHost f).gpio = s.gpio := rfl
@[simp] theorem State.updHost_mem {f : HostPort → HostPort} : (s.updHost f).mem = s.mem := rfl
@[simp] theorem State.updHost_role {f : HostPort → HostPort} : (s.updHost f).role = s.role := rfl
@[simp] theorem State.updHost_store {f : HostPort → HostPort} : (s.updHost f).store = s.store := rfl
@[simp] theorem State.updHost_clk {f : HostPort → HostPort} : (s.updHost f).clk = s.clk := rfl
@[simp] theorem State.updHost_tap {f : HostPort → HostPort} : (s.updHost f).tap = s.tap := rfl
@[simp] theorem State.updHost_cyc {f : HostPort → HostPort} : (s.updHost f).cyc = s.cyc := rfl
@[simp] theorem State.updHost_was {f : HostPort → HostPort} : (s.updHost f).was = s.was := rfl

/-! ### updMem -/

@[simp] theorem State.updMem_pending {f : MemPort → MemPort} : (s.updMem f).pending = s.pending := rfl
@[simp] theorem State.updMem_now {f : MemPort → MemPort} : (s.updMem f).now = s.now := rfl
@[simp] theorem State.updMem_variant {f : MemPort → MemPort} : (s.updMem f).variant = s.variant := rfl
@[simp] theorem State.updMem_regs {f : MemPort → MemPort} : (s.updMem f).regs = s.regs := rfl
@[simp] theorem State.updMem_deferred {f : MemPort → MemPort} : (s.updMem f).deferred = s.deferred := rfl
@[simp] theorem State.updMem_sigs {f : MemPort → MemPort} : (s.updMem f).sigs = s.sigs := rfl
@[simp] theorem State.updMem_masts {f : MemPort → MemPort} : (s.updMem f).masts = s.masts := rfl
@[simp] theorem State.updMem_bgs {f : MemPort → MemPort} : (s.updMem f).bgs = s.bgs := rfl
@[simp] theorem State.updMem_furl {f : MemPort → MemPort} : (s.updMem f).furl = s.furl := rfl
@[simp] theorem State.updMem_fc {f : MemPort → MemPort} : (s.updMem f).fc = s.fc := rfl
@[simp] theorem State.updMem_eng {f : MemPort → MemPort} : (s.updMem f).eng = s.eng := rfl
@[simp] theorem State.updMem_ring {f : MemPort → MemPort} : (s.updMem f).ring = s.ring := rfl
@[simp] theorem State.updMem_hk {f : MemPort → MemPort} : (s.updMem f).hk = s.hk := rfl
@[simp] theorem State.updMem_tb {f : MemPort → MemPort} : (s.updMem f).tb = s.tb := rfl
@[simp] theorem State.updMem_srv {f : MemPort → MemPort} : (s.updMem f).srv = s.srv := rfl
@[simp] theorem State.updMem_cal {f : MemPort → MemPort} : (s.updMem f).cal = s.cal := rfl
@[simp] theorem State.updMem_gpio {f : MemPort → MemPort} : (s.updMem f).gpio = s.gpio := rfl
@[simp] theorem State.updMem_host {f : MemPort → MemPort} : (s.updMem f).host = s.host := rfl
@[simp] theorem State.updMem_role {f : MemPort → MemPort} : (s.updMem f).role = s.role := rfl
@[simp] theorem State.updMem_store {f : MemPort → MemPort} : (s.updMem f).store = s.store := rfl
@[simp] theorem State.updMem_clk {f : MemPort → MemPort} : (s.updMem f).clk = s.clk := rfl
@[simp] theorem State.updMem_tap {f : MemPort → MemPort} : (s.updMem f).tap = s.tap := rfl
@[simp] theorem State.updMem_cyc {f : MemPort → MemPort} : (s.updMem f).cyc = s.cyc := rfl
@[simp] theorem State.updMem_was {f : MemPort → MemPort} : (s.updMem f).was = s.was := rfl

/-! ### updRole -/

@[simp] theorem State.updRole_pending {f : RoleSt → RoleSt} : (s.updRole f).pending = s.pending := rfl
@[simp] theorem State.updRole_now {f : RoleSt → RoleSt} : (s.updRole f).now = s.now := rfl
@[simp] theorem State.updRole_variant {f : RoleSt → RoleSt} : (s.updRole f).variant = s.variant := rfl
@[simp] theorem State.updRole_regs {f : RoleSt → RoleSt} : (s.updRole f).regs = s.regs := rfl
@[simp] theorem State.updRole_deferred {f : RoleSt → RoleSt} : (s.updRole f).deferred = s.deferred := rfl
@[simp] theorem State.updRole_sigs {f : RoleSt → RoleSt} : (s.updRole f).sigs = s.sigs := rfl
@[simp] theorem State.updRole_masts {f : RoleSt → RoleSt} : (s.updRole f).masts = s.masts := rfl
@[simp] theorem State.updRole_bgs {f : RoleSt → RoleSt} : (s.updRole f).bgs = s.bgs := rfl
@[simp] theorem State.updRole_furl {f : RoleSt → RoleSt} : (s.updRole f).furl = s.furl := rfl
@[simp] theorem State.updRole_fc {f : RoleSt → RoleSt} : (s.updRole f).fc = s.fc := rfl
@[simp] theorem State.updRole_eng {f : RoleSt → RoleSt} : (s.updRole f).eng = s.eng := rfl
@[simp] theorem State.updRole_ring {f : RoleSt → RoleSt} : (s.updRole f).ring = s.ring := rfl
@[simp] theorem State.updRole_hk {f : RoleSt → RoleSt} : (s.updRole f).hk = s.hk := rfl
@[simp] theorem State.updRole_tb {f : RoleSt → RoleSt} : (s.updRole f).tb = s.tb := rfl
@[simp] theorem State.updRole_srv {f : RoleSt → RoleSt} : (s.updRole f).srv = s.srv := rfl
@[simp] theorem State.updRole_cal {f : RoleSt → RoleSt} : (s.updRole f).cal = s.cal := rfl
@[simp] theorem State.updRole_gpio {f : RoleSt → RoleSt} : (s.updRole f).gpio = s.gpio := rfl
@[simp] theorem State.updRole_host {f : RoleSt → RoleSt} : (s.updRole f).host = s.host := rfl
@[simp] theorem State.updRole_mem {f : RoleSt → RoleSt} : (s.updRole f).mem = s.mem := rfl
@[simp] theorem State.updRole_store {f : RoleSt → RoleSt} : (s.updRole f).store = s.store := rfl
@[simp] theorem State.updRole_clk {f : RoleSt → RoleSt} : (s.updRole f).clk = s.clk := rfl
@[simp] theorem State.updRole_tap {f : RoleSt → RoleSt} : (s.updRole f).tap = s.tap := rfl
@[simp] theorem State.updRole_cyc {f : RoleSt → RoleSt} : (s.updRole f).cyc = s.cyc := rfl
@[simp] theorem State.updRole_was {f : RoleSt → RoleSt} : (s.updRole f).was = s.was := rfl

/-! ### updStore -/

@[simp] theorem State.updStore_pending {f : Store → Store} : (s.updStore f).pending = s.pending := rfl
@[simp] theorem State.updStore_now {f : Store → Store} : (s.updStore f).now = s.now := rfl
@[simp] theorem State.updStore_variant {f : Store → Store} : (s.updStore f).variant = s.variant := rfl
@[simp] theorem State.updStore_regs {f : Store → Store} : (s.updStore f).regs = s.regs := rfl
@[simp] theorem State.updStore_deferred {f : Store → Store} : (s.updStore f).deferred = s.deferred := rfl
@[simp] theorem State.updStore_sigs {f : Store → Store} : (s.updStore f).sigs = s.sigs := rfl
@[simp] theorem State.updStore_masts {f : Store → Store} : (s.updStore f).masts = s.masts := rfl
@[simp] theorem State.updStore_bgs {f : Store → Store} : (s.updStore f).bgs = s.bgs := rfl
@[simp] theorem State.updStore_furl {f : Store → Store} : (s.updStore f).furl = s.furl := rfl
@[simp] theorem State.updStore_fc {f : Store → Store} : (s.updStore f).fc = s.fc := rfl
@[simp] theorem State.updStore_eng {f : Store → Store} : (s.updStore f).eng = s.eng := rfl
@[simp] theorem State.updStore_ring {f : Store → Store} : (s.updStore f).ring = s.ring := rfl
@[simp] theorem State.updStore_hk {f : Store → Store} : (s.updStore f).hk = s.hk := rfl
@[simp] theorem State.updStore_tb {f : Store → Store} : (s.updStore f).tb = s.tb := rfl
@[simp] theorem State.updStore_srv {f : Store → Store} : (s.updStore f).srv = s.srv := rfl
@[simp] theorem State.updStore_cal {f : Store → Store} : (s.updStore f).cal = s.cal := rfl
@[simp] theorem State.updStore_gpio {f : Store → Store} : (s.updStore f).gpio = s.gpio := rfl
@[simp] theorem State.updStore_host {f : Store → Store} : (s.updStore f).host = s.host := rfl
@[simp] theorem State.updStore_mem {f : Store → Store} : (s.updStore f).mem = s.mem := rfl
@[simp] theorem State.updStore_role {f : Store → Store} : (s.updStore f).role = s.role := rfl
@[simp] theorem State.updStore_clk {f : Store → Store} : (s.updStore f).clk = s.clk := rfl
@[simp] theorem State.updStore_tap {f : Store → Store} : (s.updStore f).tap = s.tap := rfl
@[simp] theorem State.updStore_cyc {f : Store → Store} : (s.updStore f).cyc = s.cyc := rfl
@[simp] theorem State.updStore_was {f : Store → Store} : (s.updStore f).was = s.was := rfl

/-! ### updClk -/

@[simp] theorem State.updClk_pending {f : Clk → Clk} : (s.updClk f).pending = s.pending := rfl
@[simp] theorem State.updClk_now {f : Clk → Clk} : (s.updClk f).now = s.now := rfl
@[simp] theorem State.updClk_variant {f : Clk → Clk} : (s.updClk f).variant = s.variant := rfl
@[simp] theorem State.updClk_regs {f : Clk → Clk} : (s.updClk f).regs = s.regs := rfl
@[simp] theorem State.updClk_deferred {f : Clk → Clk} : (s.updClk f).deferred = s.deferred := rfl
@[simp] theorem State.updClk_sigs {f : Clk → Clk} : (s.updClk f).sigs = s.sigs := rfl
@[simp] theorem State.updClk_masts {f : Clk → Clk} : (s.updClk f).masts = s.masts := rfl
@[simp] theorem State.updClk_bgs {f : Clk → Clk} : (s.updClk f).bgs = s.bgs := rfl
@[simp] theorem State.updClk_furl {f : Clk → Clk} : (s.updClk f).furl = s.furl := rfl
@[simp] theorem State.updClk_fc {f : Clk → Clk} : (s.updClk f).fc = s.fc := rfl
@[simp] theorem State.updClk_eng {f : Clk → Clk} : (s.updClk f).eng = s.eng := rfl
@[simp] theorem State.updClk_ring {f : Clk → Clk} : (s.updClk f).ring = s.ring := rfl
@[simp] theorem State.updClk_hk {f : Clk → Clk} : (s.updClk f).hk = s.hk := rfl
@[simp] theorem State.updClk_tb {f : Clk → Clk} : (s.updClk f).tb = s.tb := rfl
@[simp] theorem State.updClk_srv {f : Clk → Clk} : (s.updClk f).srv = s.srv := rfl
@[simp] theorem State.updClk_cal {f : Clk → Clk} : (s.updClk f).cal = s.cal := rfl
@[simp] theorem State.updClk_gpio {f : Clk → Clk} : (s.updClk f).gpio = s.gpio := rfl
@[simp] theorem State.updClk_host {f : Clk → Clk} : (s.updClk f).host = s.host := rfl
@[simp] theorem State.updClk_mem {f : Clk → Clk} : (s.updClk f).mem = s.mem := rfl
@[simp] theorem State.updClk_role {f : Clk → Clk} : (s.updClk f).role = s.role := rfl
@[simp] theorem State.updClk_store {f : Clk → Clk} : (s.updClk f).store = s.store := rfl
@[simp] theorem State.updClk_tap {f : Clk → Clk} : (s.updClk f).tap = s.tap := rfl
@[simp] theorem State.updClk_cyc {f : Clk → Clk} : (s.updClk f).cyc = s.cyc := rfl
@[simp] theorem State.updClk_was {f : Clk → Clk} : (s.updClk f).was = s.was := rfl

/-! ### setFld -/

@[simp] theorem State.setFld_pending {f : Fld} {i v : Nat} : (s.setFld f i v).pending = s.pending := rfl
@[simp] theorem State.setFld_now {f : Fld} {i v : Nat} : (s.setFld f i v).now = s.now := rfl
@[simp] theorem State.setFld_variant {f : Fld} {i v : Nat} : (s.setFld f i v).variant = s.variant := rfl
@[simp] theorem State.setFld_deferred {f : Fld} {i v : Nat} : (s.setFld f i v).deferred = s.deferred := rfl
@[simp] theorem State.setFld_sigs {f : Fld} {i v : Nat} : (s.setFld f i v).sigs = s.sigs := rfl
@[simp] theorem State.setFld_masts {f : Fld} {i v : Nat} : (s.setFld f i v).masts = s.masts := rfl
@[simp] theorem State.setFld_bgs {f : Fld} {i v : Nat} : (s.setFld f i v).bgs = s.bgs := rfl
@[simp] theorem State.setFld_furl {f : Fld} {i v : Nat} : (s.setFld f i v).furl = s.furl := rfl
@[simp] theorem State.setFld_fc {f : Fld} {i v : Nat} : (s.setFld f i v).fc = s.fc := rfl
@[simp] theorem State.setFld_eng {f : Fld} {i v : Nat} : (s.setFld f i v).eng = s.eng := rfl
@[simp] theorem State.setFld_ring {f : Fld} {i v : Nat} : (s.setFld f i v).ring = s.ring := rfl
@[simp] theorem State.setFld_hk {f : Fld} {i v : Nat} : (s.setFld f i v).hk = s.hk := rfl
@[simp] theorem State.setFld_tb {f : Fld} {i v : Nat} : (s.setFld f i v).tb = s.tb := rfl
@[simp] theorem State.setFld_srv {f : Fld} {i v : Nat} : (s.setFld f i v).srv = s.srv := rfl
@[simp] theorem State.setFld_cal {f : Fld} {i v : Nat} : (s.setFld f i v).cal = s.cal := rfl
@[simp] theorem State.setFld_gpio {f : Fld} {i v : Nat} : (s.setFld f i v).gpio = s.gpio := rfl
@[simp] theorem State.setFld_host {f : Fld} {i v : Nat} : (s.setFld f i v).host = s.host := rfl
@[simp] theorem State.setFld_mem {f : Fld} {i v : Nat} : (s.setFld f i v).mem = s.mem := rfl
@[simp] theorem State.setFld_role {f : Fld} {i v : Nat} : (s.setFld f i v).role = s.role := rfl
@[simp] theorem State.setFld_store {f : Fld} {i v : Nat} : (s.setFld f i v).store = s.store := rfl
@[simp] theorem State.setFld_clk {f : Fld} {i v : Nat} : (s.setFld f i v).clk = s.clk := rfl
@[simp] theorem State.setFld_tap {f : Fld} {i v : Nat} : (s.setFld f i v).tap = s.tap := rfl
@[simp] theorem State.setFld_was {f : Fld} {i v : Nat} : (s.setFld f i v).was = s.was := rfl

/-! ### turn -/

@[simp] theorem State.turn_pending : s.turn.pending = s.pending := rfl
@[simp] theorem State.turn_now : s.turn.now = s.now := rfl
@[simp] theorem State.turn_variant : s.turn.variant = s.variant := rfl
@[simp] theorem State.turn_regs : s.turn.regs = s.regs := rfl
@[simp] theorem State.turn_deferred : s.turn.deferred = s.deferred := rfl
@[simp] theorem State.turn_sigs : s.turn.sigs = s.sigs := rfl
@[simp] theorem State.turn_masts : s.turn.masts = s.masts := rfl
@[simp] theorem State.turn_bgs : s.turn.bgs = s.bgs := rfl
@[simp] theorem State.turn_furl : s.turn.furl = s.furl := rfl
@[simp] theorem State.turn_fc : s.turn.fc = s.fc := rfl
@[simp] theorem State.turn_eng : s.turn.eng = s.eng := rfl
@[simp] theorem State.turn_ring : s.turn.ring = s.ring := rfl
@[simp] theorem State.turn_hk : s.turn.hk = s.hk := rfl
@[simp] theorem State.turn_tb : s.turn.tb = s.tb := rfl
@[simp] theorem State.turn_srv : s.turn.srv = s.srv := rfl
@[simp] theorem State.turn_cal : s.turn.cal = s.cal := rfl
@[simp] theorem State.turn_gpio : s.turn.gpio = s.gpio := rfl
@[simp] theorem State.turn_host : s.turn.host = s.host := rfl
@[simp] theorem State.turn_mem : s.turn.mem = s.mem := rfl
@[simp] theorem State.turn_role : s.turn.role = s.role := rfl
@[simp] theorem State.turn_store : s.turn.store = s.store := rfl
@[simp] theorem State.turn_clk : s.turn.clk = s.clk := rfl
@[simp] theorem State.turn_tap : s.turn.tap = s.tap := rfl

/-! ### The fields the updates change -/

@[simp] theorem State.advance_now {dt : Nat} : (s.advance dt).now = s.now + dt := rfl
@[simp] theorem State.wr_regs {k : Nat} {w : Word} : (s.wr k w).regs = spSet (resetWord s.variant k) s.regs k w := rfl
@[simp] theorem State.turn_cyc : s.turn.cyc = {} := rfl
@[simp] theorem State.turn_was : s.turn.was = s.note := rfl
@[simp] theorem State.updFc_fc {f : Fc → Fc} : (s.updFc f).fc = f s.fc := rfl
@[simp] theorem State.updEng_eng {f : Eng → Eng} : (s.updEng f).eng = f s.eng := rfl
@[simp] theorem State.updRing_ring {f : Ring → Ring} : (s.updRing f).ring = f s.ring := rfl
@[simp] theorem State.updHk_hk {f : Hk → Hk} : (s.updHk f).hk = f s.hk := rfl
@[simp] theorem State.updSrv_srv {f : Servo → Servo} : (s.updSrv f).srv = f s.srv := rfl
@[simp] theorem State.updHost_host {f : HostPort → HostPort} : (s.updHost f).host = f s.host := rfl
@[simp] theorem State.updMem_mem {f : MemPort → MemPort} : (s.updMem f).mem = f s.mem := rfl
@[simp] theorem State.updRole_role {f : RoleSt → RoleSt} : (s.updRole f).role = f s.role := rfl
@[simp] theorem State.updStore_store {f : Store → Store} : (s.updStore f).store = f s.store := rfl
@[simp] theorem State.updClk_clk {f : Clk → Clk} : (s.updClk f).clk = f s.clk := rfl

theorem State.updM_same {m : Fin 16} {f : Mast → Mast} : (s.updM m f).mast m = f (s.mast m) := by
  simp [State.mast, State.updM]

theorem State.updM_other {m j : Fin 16} {f : Mast → Mast} (h : j ≠ m) : (s.updM m f).mast j = s.mast j := by
  have hv : ¬ m.val = j.val := fun e => h (Fin.ext e.symm)
  simp [State.mast, State.updM, hv]

theorem State.updG_same {g : Fin 8} {f : BusGroup → BusGroup} : (s.updG g f).bg g = f (s.bg g) := by
  simp [State.bg, State.updG]

theorem State.updG_other {g j : Fin 8} {f : BusGroup → BusGroup} (h : j ≠ g) : (s.updG g f).bg j = s.bg j := by
  have hv : ¬ g.val = j.val := fun e => h (Fin.ext e.symm)
  simp [State.bg, State.updG, hv]

theorem State.updC_same {c : Fin 64} {f : Ctx → Ctx} : (s.updC c f).ctx c = f (s.ctx c) := by
  simp [State.ctx, State.updC]

theorem State.updC_other {c j : Fin 64} {f : Ctx → Ctx} (h : j ≠ c) : (s.updC c f).ctx j = s.ctx j := by
  have hv : ¬ c.val = j.val := fun e => h (Fin.ext e.symm)
  simp [State.ctx, State.updC, hv]

theorem State.updL_same {n : Fin 4} {f : Lane → Lane} : (s.updL n f).lane n = f (s.lane n) := by
  simp [State.lane, State.updL]

theorem State.updL_other {n j : Fin 4} {f : Lane → Lane} (h : j ≠ n) : (s.updL n f).lane j = s.lane j := by
  have hv : ¬ n.val = j.val := fun e => h (Fin.ext e.symm)
  simp [State.lane, State.updL, hv]

@[simp] theorem State.advance_mast {dt : Nat} {j : Fin 16} : (s.advance dt).mast j = s.mast j := rfl
@[simp] theorem State.advance_ctx {dt : Nat} {j : Fin 64} : (s.advance dt).ctx j = s.ctx j := rfl
@[simp] theorem State.advance_lane {dt : Nat} {j : Fin 4} : (s.advance dt).lane j = s.lane j := rfl
@[simp] theorem State.advance_bg {dt : Nat} {j : Fin 8} : (s.advance dt).bg j = s.bg j := rfl
@[simp] theorem State.advance_rd {dt : Nat} {j : Nat} : (s.advance dt).rd j = s.rd j := rfl
@[simp] theorem State.advance_fld {dt : Nat} {x : Fld} {j : Nat} : (s.advance dt).fld x j = s.fld x j := rfl
@[simp] theorem State.advance_sig {dt : Nat} {j : Nat} : (s.advance dt).sig j = s.sig j := rfl
@[simp] theorem State.wr_mast {k : Nat} {w : Word} {j : Fin 16} : (s.wr k w).mast j = s.mast j := rfl
@[simp] theorem State.wr_ctx {k : Nat} {w : Word} {j : Fin 64} : (s.wr k w).ctx j = s.ctx j := rfl
@[simp] theorem State.wr_lane {k : Nat} {w : Word} {j : Fin 4} : (s.wr k w).lane j = s.lane j := rfl
@[simp] theorem State.wr_bg {k : Nat} {w : Word} {j : Fin 8} : (s.wr k w).bg j = s.bg j := rfl
@[simp] theorem State.wr_sig {k : Nat} {w : Word} {j : Nat} : (s.wr k w).sig j = s.sig j := rfl
@[simp] theorem State.updM_ctx {m : Fin 16} {f : Mast → Mast} {j : Fin 64} : (s.updM m f).ctx j = s.ctx j := rfl
@[simp] theorem State.updM_lane {m : Fin 16} {f : Mast → Mast} {j : Fin 4} : (s.updM m f).lane j = s.lane j := rfl
@[simp] theorem State.updM_bg {m : Fin 16} {f : Mast → Mast} {j : Fin 8} : (s.updM m f).bg j = s.bg j := rfl
@[simp] theorem State.updM_rd {m : Fin 16} {f : Mast → Mast} {j : Nat} : (s.updM m f).rd j = s.rd j := rfl
@[simp] theorem State.updM_fld {m : Fin 16} {f : Mast → Mast} {x : Fld} {j : Nat} : (s.updM m f).fld x j = s.fld x j := rfl
@[simp] theorem State.updM_sig {m : Fin 16} {f : Mast → Mast} {j : Nat} : (s.updM m f).sig j = s.sig j := rfl
@[simp] theorem State.updPwm_ctx {m : Fin 16} {f : Pwm → Pwm} {j : Fin 64} : (s.updPwm m f).ctx j = s.ctx j := rfl
@[simp] theorem State.updPwm_lane {m : Fin 16} {f : Pwm → Pwm} {j : Fin 4} : (s.updPwm m f).lane j = s.lane j := rfl
@[simp] theorem State.updPwm_bg {m : Fin 16} {f : Pwm → Pwm} {j : Fin 8} : (s.updPwm m f).bg j = s.bg j := rfl
@[simp] theorem State.updPwm_rd {m : Fin 16} {f : Pwm → Pwm} {j : Nat} : (s.updPwm m f).rd j = s.rd j := rfl
@[simp] theorem State.updPwm_fld {m : Fin 16} {f : Pwm → Pwm} {x : Fld} {j : Nat} : (s.updPwm m f).fld x j = s.fld x j := rfl
@[simp] theorem State.updPwm_sig {m : Fin 16} {f : Pwm → Pwm} {j : Nat} : (s.updPwm m f).sig j = s.sig j := rfl
@[simp] theorem State.updSense_ctx {m : Fin 16} {f : Sense → Sense} {j : Fin 64} : (s.updSense m f).ctx j = s.ctx j := rfl
@[simp] theorem State.updSense_lane {m : Fin 16} {f : Sense → Sense} {j : Fin 4} : (s.updSense m f).lane j = s.lane j := rfl
@[simp] theorem State.updSense_bg {m : Fin 16} {f : Sense → Sense} {j : Fin 8} : (s.updSense m f).bg j = s.bg j := rfl
@[simp] theorem State.updSense_rd {m : Fin 16} {f : Sense → Sense} {j : Nat} : (s.updSense m f).rd j = s.rd j := rfl
@[simp] theorem State.updSense_fld {m : Fin 16} {f : Sense → Sense} {x : Fld} {j : Nat} : (s.updSense m f).fld x j = s.fld x j := rfl
@[simp] theorem State.updSense_sig {m : Fin 16} {f : Sense → Sense} {j : Nat} : (s.updSense m f).sig j = s.sig j := rfl
@[simp] theorem State.updCom_ctx {m : Fin 16} {f : Com → Com} {j : Fin 64} : (s.updCom m f).ctx j = s.ctx j := rfl
@[simp] theorem State.updCom_lane {m : Fin 16} {f : Com → Com} {j : Fin 4} : (s.updCom m f).lane j = s.lane j := rfl
@[simp] theorem State.updCom_bg {m : Fin 16} {f : Com → Com} {j : Fin 8} : (s.updCom m f).bg j = s.bg j := rfl
@[simp] theorem State.updCom_rd {m : Fin 16} {f : Com → Com} {j : Nat} : (s.updCom m f).rd j = s.rd j := rfl
@[simp] theorem State.updCom_fld {m : Fin 16} {f : Com → Com} {x : Fld} {j : Nat} : (s.updCom m f).fld x j = s.fld x j := rfl
@[simp] theorem State.updCom_sig {m : Fin 16} {f : Com → Com} {j : Nat} : (s.updCom m f).sig j = s.sig j := rfl
@[simp] theorem State.updSeq_ctx {m : Fin 16} {f : Seq → Seq} {j : Fin 64} : (s.updSeq m f).ctx j = s.ctx j := rfl
@[simp] theorem State.updSeq_lane {m : Fin 16} {f : Seq → Seq} {j : Fin 4} : (s.updSeq m f).lane j = s.lane j := rfl
@[simp] theorem State.updSeq_bg {m : Fin 16} {f : Seq → Seq} {j : Fin 8} : (s.updSeq m f).bg j = s.bg j := rfl
@[simp] theorem State.updSeq_rd {m : Fin 16} {f : Seq → Seq} {j : Nat} : (s.updSeq m f).rd j = s.rd j := rfl
@[simp] theorem State.updSeq_fld {m : Fin 16} {f : Seq → Seq} {x : Fld} {j : Nat} : (s.updSeq m f).fld x j = s.fld x j := rfl
@[simp] theorem State.updSeq_sig {m : Fin 16} {f : Seq → Seq} {j : Nat} : (s.updSeq m f).sig j = s.sig j := rfl
@[simp] theorem State.updHal_ctx {m : Fin 16} {f : Hal → Hal} {j : Fin 64} : (s.updHal m f).ctx j = s.ctx j := rfl
@[simp] theorem State.updHal_lane {m : Fin 16} {f : Hal → Hal} {j : Fin 4} : (s.updHal m f).lane j = s.lane j := rfl
@[simp] theorem State.updHal_bg {m : Fin 16} {f : Hal → Hal} {j : Fin 8} : (s.updHal m f).bg j = s.bg j := rfl
@[simp] theorem State.updHal_rd {m : Fin 16} {f : Hal → Hal} {j : Nat} : (s.updHal m f).rd j = s.rd j := rfl
@[simp] theorem State.updHal_fld {m : Fin 16} {f : Hal → Hal} {x : Fld} {j : Nat} : (s.updHal m f).fld x j = s.fld x j := rfl
@[simp] theorem State.updHal_sig {m : Fin 16} {f : Hal → Hal} {j : Nat} : (s.updHal m f).sig j = s.sig j := rfl
@[simp] theorem State.updCmd_ctx {m : Fin 16} {f : CmdPin → CmdPin} {j : Fin 64} : (s.updCmd m f).ctx j = s.ctx j := rfl
@[simp] theorem State.updCmd_lane {m : Fin 16} {f : CmdPin → CmdPin} {j : Fin 4} : (s.updCmd m f).lane j = s.lane j := rfl
@[simp] theorem State.updCmd_bg {m : Fin 16} {f : CmdPin → CmdPin} {j : Fin 8} : (s.updCmd m f).bg j = s.bg j := rfl
@[simp] theorem State.updCmd_rd {m : Fin 16} {f : CmdPin → CmdPin} {j : Nat} : (s.updCmd m f).rd j = s.rd j := rfl
@[simp] theorem State.updCmd_fld {m : Fin 16} {f : CmdPin → CmdPin} {x : Fld} {j : Nat} : (s.updCmd m f).fld x j = s.fld x j := rfl
@[simp] theorem State.updCmd_sig {m : Fin 16} {f : CmdPin → CmdPin} {j : Nat} : (s.updCmd m f).sig j = s.sig j := rfl
@[simp] theorem State.updShr_ctx {m : Fin 16} {f : Shroud → Shroud} {j : Fin 64} : (s.updShr m f).ctx j = s.ctx j := rfl
@[simp] theorem State.updShr_lane {m : Fin 16} {f : Shroud → Shroud} {j : Fin 4} : (s.updShr m f).lane j = s.lane j := rfl
@[simp] theorem State.updShr_bg {m : Fin 16} {f : Shroud → Shroud} {j : Fin 8} : (s.updShr m f).bg j = s.bg j := rfl
@[simp] theorem State.updShr_rd {m : Fin 16} {f : Shroud → Shroud} {j : Nat} : (s.updShr m f).rd j = s.rd j := rfl
@[simp] theorem State.updShr_fld {m : Fin 16} {f : Shroud → Shroud} {x : Fld} {j : Nat} : (s.updShr m f).fld x j = s.fld x j := rfl
@[simp] theorem State.updShr_sig {m : Fin 16} {f : Shroud → Shroud} {j : Nat} : (s.updShr m f).sig j = s.sig j := rfl
@[simp] theorem State.updG_mast {g : Fin 8} {f : BusGroup → BusGroup} {j : Fin 16} : (s.updG g f).mast j = s.mast j := rfl
@[simp] theorem State.updG_ctx {g : Fin 8} {f : BusGroup → BusGroup} {j : Fin 64} : (s.updG g f).ctx j = s.ctx j := rfl
@[simp] theorem State.updG_lane {g : Fin 8} {f : BusGroup → BusGroup} {j : Fin 4} : (s.updG g f).lane j = s.lane j := rfl
@[simp] theorem State.updG_rd {g : Fin 8} {f : BusGroup → BusGroup} {j : Nat} : (s.updG g f).rd j = s.rd j := rfl
@[simp] theorem State.updG_fld {g : Fin 8} {f : BusGroup → BusGroup} {x : Fld} {j : Nat} : (s.updG g f).fld x j = s.fld x j := rfl
@[simp] theorem State.updG_sig {g : Fin 8} {f : BusGroup → BusGroup} {j : Nat} : (s.updG g f).sig j = s.sig j := rfl
@[simp] theorem State.updC_mast {c : Fin 64} {f : Ctx → Ctx} {j : Fin 16} : (s.updC c f).mast j = s.mast j := rfl
@[simp] theorem State.updC_bg {c : Fin 64} {f : Ctx → Ctx} {j : Fin 8} : (s.updC c f).bg j = s.bg j := rfl
@[simp] theorem State.updC_rd {c : Fin 64} {f : Ctx → Ctx} {j : Nat} : (s.updC c f).rd j = s.rd j := rfl
@[simp] theorem State.updC_fld {c : Fin 64} {f : Ctx → Ctx} {x : Fld} {j : Nat} : (s.updC c f).fld x j = s.fld x j := rfl
@[simp] theorem State.updC_sig {c : Fin 64} {f : Ctx → Ctx} {j : Nat} : (s.updC c f).sig j = s.sig j := rfl
@[simp] theorem State.updL_mast {n : Fin 4} {f : Lane → Lane} {j : Fin 16} : (s.updL n f).mast j = s.mast j := rfl
@[simp] theorem State.updL_bg {n : Fin 4} {f : Lane → Lane} {j : Fin 8} : (s.updL n f).bg j = s.bg j := rfl
@[simp] theorem State.updL_rd {n : Fin 4} {f : Lane → Lane} {j : Nat} : (s.updL n f).rd j = s.rd j := rfl
@[simp] theorem State.updL_fld {n : Fin 4} {f : Lane → Lane} {x : Fld} {j : Nat} : (s.updL n f).fld x j = s.fld x j := rfl
@[simp] theorem State.updL_sig {n : Fin 4} {f : Lane → Lane} {j : Nat} : (s.updL n f).sig j = s.sig j := rfl
@[simp] theorem State.updFc_mast {f : Fc → Fc} {j : Fin 16} : (s.updFc f).mast j = s.mast j := rfl
@[simp] theorem State.updFc_ctx {f : Fc → Fc} {j : Fin 64} : (s.updFc f).ctx j = s.ctx j := rfl
@[simp] theorem State.updFc_lane {f : Fc → Fc} {j : Fin 4} : (s.updFc f).lane j = s.lane j := rfl
@[simp] theorem State.updFc_bg {f : Fc → Fc} {j : Fin 8} : (s.updFc f).bg j = s.bg j := rfl
@[simp] theorem State.updFc_rd {f : Fc → Fc} {j : Nat} : (s.updFc f).rd j = s.rd j := rfl
@[simp] theorem State.updFc_fld {f : Fc → Fc} {x : Fld} {j : Nat} : (s.updFc f).fld x j = s.fld x j := rfl
@[simp] theorem State.updFc_sig {f : Fc → Fc} {j : Nat} : (s.updFc f).sig j = s.sig j := rfl
@[simp] theorem State.updEng_mast {f : Eng → Eng} {j : Fin 16} : (s.updEng f).mast j = s.mast j := rfl
@[simp] theorem State.updEng_bg {f : Eng → Eng} {j : Fin 8} : (s.updEng f).bg j = s.bg j := rfl
@[simp] theorem State.updEng_rd {f : Eng → Eng} {j : Nat} : (s.updEng f).rd j = s.rd j := rfl
@[simp] theorem State.updEng_fld {f : Eng → Eng} {x : Fld} {j : Nat} : (s.updEng f).fld x j = s.fld x j := rfl
@[simp] theorem State.updEng_sig {f : Eng → Eng} {j : Nat} : (s.updEng f).sig j = s.sig j := rfl
@[simp] theorem State.updRing_mast {f : Ring → Ring} {j : Fin 16} : (s.updRing f).mast j = s.mast j := rfl
@[simp] theorem State.updRing_ctx {f : Ring → Ring} {j : Fin 64} : (s.updRing f).ctx j = s.ctx j := rfl
@[simp] theorem State.updRing_lane {f : Ring → Ring} {j : Fin 4} : (s.updRing f).lane j = s.lane j := rfl
@[simp] theorem State.updRing_bg {f : Ring → Ring} {j : Fin 8} : (s.updRing f).bg j = s.bg j := rfl
@[simp] theorem State.updRing_rd {f : Ring → Ring} {j : Nat} : (s.updRing f).rd j = s.rd j := rfl
@[simp] theorem State.updRing_fld {f : Ring → Ring} {x : Fld} {j : Nat} : (s.updRing f).fld x j = s.fld x j := rfl
@[simp] theorem State.updRing_sig {f : Ring → Ring} {j : Nat} : (s.updRing f).sig j = s.sig j := rfl
@[simp] theorem State.updPort_mast {q : Fin 2} {f : Port → Port} {j : Fin 16} : (s.updPort q f).mast j = s.mast j := rfl
@[simp] theorem State.updPort_ctx {q : Fin 2} {f : Port → Port} {j : Fin 64} : (s.updPort q f).ctx j = s.ctx j := rfl
@[simp] theorem State.updPort_lane {q : Fin 2} {f : Port → Port} {j : Fin 4} : (s.updPort q f).lane j = s.lane j := rfl
@[simp] theorem State.updPort_bg {q : Fin 2} {f : Port → Port} {j : Fin 8} : (s.updPort q f).bg j = s.bg j := rfl
@[simp] theorem State.updPort_rd {q : Fin 2} {f : Port → Port} {j : Nat} : (s.updPort q f).rd j = s.rd j := rfl
@[simp] theorem State.updPort_fld {q : Fin 2} {f : Port → Port} {x : Fld} {j : Nat} : (s.updPort q f).fld x j = s.fld x j := rfl
@[simp] theorem State.updPort_sig {q : Fin 2} {f : Port → Port} {j : Nat} : (s.updPort q f).sig j = s.sig j := rfl
@[simp] theorem State.updHk_mast {f : Hk → Hk} {j : Fin 16} : (s.updHk f).mast j = s.mast j := rfl
@[simp] theorem State.updHk_ctx {f : Hk → Hk} {j : Fin 64} : (s.updHk f).ctx j = s.ctx j := rfl
@[simp] theorem State.updHk_lane {f : Hk → Hk} {j : Fin 4} : (s.updHk f).lane j = s.lane j := rfl
@[simp] theorem State.updHk_bg {f : Hk → Hk} {j : Fin 8} : (s.updHk f).bg j = s.bg j := rfl
@[simp] theorem State.updHk_rd {f : Hk → Hk} {j : Nat} : (s.updHk f).rd j = s.rd j := rfl
@[simp] theorem State.updHk_fld {f : Hk → Hk} {x : Fld} {j : Nat} : (s.updHk f).fld x j = s.fld x j := rfl
@[simp] theorem State.updHk_sig {f : Hk → Hk} {j : Nat} : (s.updHk f).sig j = s.sig j := rfl
@[simp] theorem State.updSns_mast {i : Fin 32} {f : Sns → Sns} {j : Fin 16} : (s.updSns i f).mast j = s.mast j := rfl
@[simp] theorem State.updSns_ctx {i : Fin 32} {f : Sns → Sns} {j : Fin 64} : (s.updSns i f).ctx j = s.ctx j := rfl
@[simp] theorem State.updSns_lane {i : Fin 32} {f : Sns → Sns} {j : Fin 4} : (s.updSns i f).lane j = s.lane j := rfl
@[simp] theorem State.updSns_bg {i : Fin 32} {f : Sns → Sns} {j : Fin 8} : (s.updSns i f).bg j = s.bg j := rfl
@[simp] theorem State.updSns_rd {i : Fin 32} {f : Sns → Sns} {j : Nat} : (s.updSns i f).rd j = s.rd j := rfl
@[simp] theorem State.updSns_fld {i : Fin 32} {f : Sns → Sns} {x : Fld} {j : Nat} : (s.updSns i f).fld x j = s.fld x j := rfl
@[simp] theorem State.updSns_sig {i : Fin 32} {f : Sns → Sns} {j : Nat} : (s.updSns i f).sig j = s.sig j := rfl
@[simp] theorem State.updSrv_mast {f : Servo → Servo} {j : Fin 16} : (s.updSrv f).mast j = s.mast j := rfl
@[simp] theorem State.updSrv_ctx {f : Servo → Servo} {j : Fin 64} : (s.updSrv f).ctx j = s.ctx j := rfl
@[simp] theorem State.updSrv_lane {f : Servo → Servo} {j : Fin 4} : (s.updSrv f).lane j = s.lane j := rfl
@[simp] theorem State.updSrv_bg {f : Servo → Servo} {j : Fin 8} : (s.updSrv f).bg j = s.bg j := rfl
@[simp] theorem State.updSrv_rd {f : Servo → Servo} {j : Nat} : (s.updSrv f).rd j = s.rd j := rfl
@[simp] theorem State.updSrv_fld {f : Servo → Servo} {x : Fld} {j : Nat} : (s.updSrv f).fld x j = s.fld x j := rfl
@[simp] theorem State.updSrv_sig {f : Servo → Servo} {j : Nat} : (s.updSrv f).sig j = s.sig j := rfl
@[simp] theorem State.updHost_mast {f : HostPort → HostPort} {j : Fin 16} : (s.updHost f).mast j = s.mast j := rfl
@[simp] theorem State.updHost_ctx {f : HostPort → HostPort} {j : Fin 64} : (s.updHost f).ctx j = s.ctx j := rfl
@[simp] theorem State.updHost_lane {f : HostPort → HostPort} {j : Fin 4} : (s.updHost f).lane j = s.lane j := rfl
@[simp] theorem State.updHost_bg {f : HostPort → HostPort} {j : Fin 8} : (s.updHost f).bg j = s.bg j := rfl
@[simp] theorem State.updHost_rd {f : HostPort → HostPort} {j : Nat} : (s.updHost f).rd j = s.rd j := rfl
@[simp] theorem State.updHost_fld {f : HostPort → HostPort} {x : Fld} {j : Nat} : (s.updHost f).fld x j = s.fld x j := rfl
@[simp] theorem State.updHost_sig {f : HostPort → HostPort} {j : Nat} : (s.updHost f).sig j = s.sig j := rfl
@[simp] theorem State.updMem_mast {f : MemPort → MemPort} {j : Fin 16} : (s.updMem f).mast j = s.mast j := rfl
@[simp] theorem State.updMem_ctx {f : MemPort → MemPort} {j : Fin 64} : (s.updMem f).ctx j = s.ctx j := rfl
@[simp] theorem State.updMem_lane {f : MemPort → MemPort} {j : Fin 4} : (s.updMem f).lane j = s.lane j := rfl
@[simp] theorem State.updMem_bg {f : MemPort → MemPort} {j : Fin 8} : (s.updMem f).bg j = s.bg j := rfl
@[simp] theorem State.updMem_rd {f : MemPort → MemPort} {j : Nat} : (s.updMem f).rd j = s.rd j := rfl
@[simp] theorem State.updMem_fld {f : MemPort → MemPort} {x : Fld} {j : Nat} : (s.updMem f).fld x j = s.fld x j := rfl
@[simp] theorem State.updMem_sig {f : MemPort → MemPort} {j : Nat} : (s.updMem f).sig j = s.sig j := rfl
@[simp] theorem State.updRole_mast {f : RoleSt → RoleSt} {j : Fin 16} : (s.updRole f).mast j = s.mast j := rfl
@[simp] theorem State.updRole_ctx {f : RoleSt → RoleSt} {j : Fin 64} : (s.updRole f).ctx j = s.ctx j := rfl
@[simp] theorem State.updRole_lane {f : RoleSt → RoleSt} {j : Fin 4} : (s.updRole f).lane j = s.lane j := rfl
@[simp] theorem State.updRole_bg {f : RoleSt → RoleSt} {j : Fin 8} : (s.updRole f).bg j = s.bg j := rfl
@[simp] theorem State.updRole_rd {f : RoleSt → RoleSt} {j : Nat} : (s.updRole f).rd j = s.rd j := rfl
@[simp] theorem State.updRole_fld {f : RoleSt → RoleSt} {x : Fld} {j : Nat} : (s.updRole f).fld x j = s.fld x j := rfl
@[simp] theorem State.updRole_sig {f : RoleSt → RoleSt} {j : Nat} : (s.updRole f).sig j = s.sig j := rfl
@[simp] theorem State.updStore_mast {f : Store → Store} {j : Fin 16} : (s.updStore f).mast j = s.mast j := rfl
@[simp] theorem State.updStore_ctx {f : Store → Store} {j : Fin 64} : (s.updStore f).ctx j = s.ctx j := rfl
@[simp] theorem State.updStore_lane {f : Store → Store} {j : Fin 4} : (s.updStore f).lane j = s.lane j := rfl
@[simp] theorem State.updStore_bg {f : Store → Store} {j : Fin 8} : (s.updStore f).bg j = s.bg j := rfl
@[simp] theorem State.updStore_rd {f : Store → Store} {j : Nat} : (s.updStore f).rd j = s.rd j := rfl
@[simp] theorem State.updStore_fld {f : Store → Store} {x : Fld} {j : Nat} : (s.updStore f).fld x j = s.fld x j := rfl
@[simp] theorem State.updStore_sig {f : Store → Store} {j : Nat} : (s.updStore f).sig j = s.sig j := rfl
@[simp] theorem State.updClk_mast {f : Clk → Clk} {j : Fin 16} : (s.updClk f).mast j = s.mast j := rfl
@[simp] theorem State.updClk_ctx {f : Clk → Clk} {j : Fin 64} : (s.updClk f).ctx j = s.ctx j := rfl
@[simp] theorem State.updClk_lane {f : Clk → Clk} {j : Fin 4} : (s.updClk f).lane j = s.lane j := rfl
@[simp] theorem State.updClk_bg {f : Clk → Clk} {j : Fin 8} : (s.updClk f).bg j = s.bg j := rfl
@[simp] theorem State.updClk_rd {f : Clk → Clk} {j : Nat} : (s.updClk f).rd j = s.rd j := rfl
@[simp] theorem State.updClk_fld {f : Clk → Clk} {x : Fld} {j : Nat} : (s.updClk f).fld x j = s.fld x j := rfl
@[simp] theorem State.updClk_sig {f : Clk → Clk} {j : Nat} : (s.updClk f).sig j = s.sig j := rfl

/-! ### The units of a mast -/

@[simp] theorem State.updPwm_pwm {m : Fin 16} {f : Pwm → Pwm} : ((s.updPwm m f).mast m).pwm = f (s.mast m).pwm := by
  simp [State.updPwm, State.updM_same]
@[simp] theorem State.updPwm_mast_sense {m j : Fin 16} {f : Pwm → Pwm} : ((s.updPwm m f).mast j).sense = (s.mast j).sense := by
  by_cases h : j = m
  · subst h; simp [State.updPwm, State.updM_same]
  · simp [State.updPwm, State.updM_other h]
@[simp] theorem State.updPwm_mast_com {m j : Fin 16} {f : Pwm → Pwm} : ((s.updPwm m f).mast j).com = (s.mast j).com := by
  by_cases h : j = m
  · subst h; simp [State.updPwm, State.updM_same]
  · simp [State.updPwm, State.updM_other h]
@[simp] theorem State.updPwm_mast_seq {m j : Fin 16} {f : Pwm → Pwm} : ((s.updPwm m f).mast j).seq = (s.mast j).seq := by
  by_cases h : j = m
  · subst h; simp [State.updPwm, State.updM_same]
  · simp [State.updPwm, State.updM_other h]
@[simp] theorem State.updPwm_mast_hal {m j : Fin 16} {f : Pwm → Pwm} : ((s.updPwm m f).mast j).hal = (s.mast j).hal := by
  by_cases h : j = m
  · subst h; simp [State.updPwm, State.updM_same]
  · simp [State.updPwm, State.updM_other h]
@[simp] theorem State.updPwm_mast_cmd {m j : Fin 16} {f : Pwm → Pwm} : ((s.updPwm m f).mast j).cmd = (s.mast j).cmd := by
  by_cases h : j = m
  · subst h; simp [State.updPwm, State.updM_same]
  · simp [State.updPwm, State.updM_other h]
@[simp] theorem State.updPwm_mast_shr {m j : Fin 16} {f : Pwm → Pwm} : ((s.updPwm m f).mast j).shr = (s.mast j).shr := by
  by_cases h : j = m
  · subst h; simp [State.updPwm, State.updM_same]
  · simp [State.updPwm, State.updM_other h]
@[simp] theorem State.updSense_sense {m : Fin 16} {f : Sense → Sense} : ((s.updSense m f).mast m).sense = f (s.mast m).sense := by
  simp [State.updSense, State.updM_same]
@[simp] theorem State.updSense_mast_pwm {m j : Fin 16} {f : Sense → Sense} : ((s.updSense m f).mast j).pwm = (s.mast j).pwm := by
  by_cases h : j = m
  · subst h; simp [State.updSense, State.updM_same]
  · simp [State.updSense, State.updM_other h]
@[simp] theorem State.updSense_mast_com {m j : Fin 16} {f : Sense → Sense} : ((s.updSense m f).mast j).com = (s.mast j).com := by
  by_cases h : j = m
  · subst h; simp [State.updSense, State.updM_same]
  · simp [State.updSense, State.updM_other h]
@[simp] theorem State.updSense_mast_seq {m j : Fin 16} {f : Sense → Sense} : ((s.updSense m f).mast j).seq = (s.mast j).seq := by
  by_cases h : j = m
  · subst h; simp [State.updSense, State.updM_same]
  · simp [State.updSense, State.updM_other h]
@[simp] theorem State.updSense_mast_hal {m j : Fin 16} {f : Sense → Sense} : ((s.updSense m f).mast j).hal = (s.mast j).hal := by
  by_cases h : j = m
  · subst h; simp [State.updSense, State.updM_same]
  · simp [State.updSense, State.updM_other h]
@[simp] theorem State.updSense_mast_cmd {m j : Fin 16} {f : Sense → Sense} : ((s.updSense m f).mast j).cmd = (s.mast j).cmd := by
  by_cases h : j = m
  · subst h; simp [State.updSense, State.updM_same]
  · simp [State.updSense, State.updM_other h]
@[simp] theorem State.updSense_mast_shr {m j : Fin 16} {f : Sense → Sense} : ((s.updSense m f).mast j).shr = (s.mast j).shr := by
  by_cases h : j = m
  · subst h; simp [State.updSense, State.updM_same]
  · simp [State.updSense, State.updM_other h]
@[simp] theorem State.updCom_com {m : Fin 16} {f : Com → Com} : ((s.updCom m f).mast m).com = f (s.mast m).com := by
  simp [State.updCom, State.updM_same]
@[simp] theorem State.updCom_mast_pwm {m j : Fin 16} {f : Com → Com} : ((s.updCom m f).mast j).pwm = (s.mast j).pwm := by
  by_cases h : j = m
  · subst h; simp [State.updCom, State.updM_same]
  · simp [State.updCom, State.updM_other h]
@[simp] theorem State.updCom_mast_sense {m j : Fin 16} {f : Com → Com} : ((s.updCom m f).mast j).sense = (s.mast j).sense := by
  by_cases h : j = m
  · subst h; simp [State.updCom, State.updM_same]
  · simp [State.updCom, State.updM_other h]
@[simp] theorem State.updCom_mast_seq {m j : Fin 16} {f : Com → Com} : ((s.updCom m f).mast j).seq = (s.mast j).seq := by
  by_cases h : j = m
  · subst h; simp [State.updCom, State.updM_same]
  · simp [State.updCom, State.updM_other h]
@[simp] theorem State.updCom_mast_hal {m j : Fin 16} {f : Com → Com} : ((s.updCom m f).mast j).hal = (s.mast j).hal := by
  by_cases h : j = m
  · subst h; simp [State.updCom, State.updM_same]
  · simp [State.updCom, State.updM_other h]
@[simp] theorem State.updCom_mast_cmd {m j : Fin 16} {f : Com → Com} : ((s.updCom m f).mast j).cmd = (s.mast j).cmd := by
  by_cases h : j = m
  · subst h; simp [State.updCom, State.updM_same]
  · simp [State.updCom, State.updM_other h]
@[simp] theorem State.updCom_mast_shr {m j : Fin 16} {f : Com → Com} : ((s.updCom m f).mast j).shr = (s.mast j).shr := by
  by_cases h : j = m
  · subst h; simp [State.updCom, State.updM_same]
  · simp [State.updCom, State.updM_other h]
@[simp] theorem State.updSeq_seq {m : Fin 16} {f : Seq → Seq} : ((s.updSeq m f).mast m).seq = f (s.mast m).seq := by
  simp [State.updSeq, State.updM_same]
@[simp] theorem State.updSeq_mast_pwm {m j : Fin 16} {f : Seq → Seq} : ((s.updSeq m f).mast j).pwm = (s.mast j).pwm := by
  by_cases h : j = m
  · subst h; simp [State.updSeq, State.updM_same]
  · simp [State.updSeq, State.updM_other h]
@[simp] theorem State.updSeq_mast_sense {m j : Fin 16} {f : Seq → Seq} : ((s.updSeq m f).mast j).sense = (s.mast j).sense := by
  by_cases h : j = m
  · subst h; simp [State.updSeq, State.updM_same]
  · simp [State.updSeq, State.updM_other h]
@[simp] theorem State.updSeq_mast_com {m j : Fin 16} {f : Seq → Seq} : ((s.updSeq m f).mast j).com = (s.mast j).com := by
  by_cases h : j = m
  · subst h; simp [State.updSeq, State.updM_same]
  · simp [State.updSeq, State.updM_other h]
@[simp] theorem State.updSeq_mast_hal {m j : Fin 16} {f : Seq → Seq} : ((s.updSeq m f).mast j).hal = (s.mast j).hal := by
  by_cases h : j = m
  · subst h; simp [State.updSeq, State.updM_same]
  · simp [State.updSeq, State.updM_other h]
@[simp] theorem State.updSeq_mast_cmd {m j : Fin 16} {f : Seq → Seq} : ((s.updSeq m f).mast j).cmd = (s.mast j).cmd := by
  by_cases h : j = m
  · subst h; simp [State.updSeq, State.updM_same]
  · simp [State.updSeq, State.updM_other h]
@[simp] theorem State.updSeq_mast_shr {m j : Fin 16} {f : Seq → Seq} : ((s.updSeq m f).mast j).shr = (s.mast j).shr := by
  by_cases h : j = m
  · subst h; simp [State.updSeq, State.updM_same]
  · simp [State.updSeq, State.updM_other h]
@[simp] theorem State.updHal_hal {m : Fin 16} {f : Hal → Hal} : ((s.updHal m f).mast m).hal = f (s.mast m).hal := by
  simp [State.updHal, State.updM_same]
@[simp] theorem State.updHal_mast_pwm {m j : Fin 16} {f : Hal → Hal} : ((s.updHal m f).mast j).pwm = (s.mast j).pwm := by
  by_cases h : j = m
  · subst h; simp [State.updHal, State.updM_same]
  · simp [State.updHal, State.updM_other h]
@[simp] theorem State.updHal_mast_sense {m j : Fin 16} {f : Hal → Hal} : ((s.updHal m f).mast j).sense = (s.mast j).sense := by
  by_cases h : j = m
  · subst h; simp [State.updHal, State.updM_same]
  · simp [State.updHal, State.updM_other h]
@[simp] theorem State.updHal_mast_com {m j : Fin 16} {f : Hal → Hal} : ((s.updHal m f).mast j).com = (s.mast j).com := by
  by_cases h : j = m
  · subst h; simp [State.updHal, State.updM_same]
  · simp [State.updHal, State.updM_other h]
@[simp] theorem State.updHal_mast_seq {m j : Fin 16} {f : Hal → Hal} : ((s.updHal m f).mast j).seq = (s.mast j).seq := by
  by_cases h : j = m
  · subst h; simp [State.updHal, State.updM_same]
  · simp [State.updHal, State.updM_other h]
@[simp] theorem State.updHal_mast_cmd {m j : Fin 16} {f : Hal → Hal} : ((s.updHal m f).mast j).cmd = (s.mast j).cmd := by
  by_cases h : j = m
  · subst h; simp [State.updHal, State.updM_same]
  · simp [State.updHal, State.updM_other h]
@[simp] theorem State.updHal_mast_shr {m j : Fin 16} {f : Hal → Hal} : ((s.updHal m f).mast j).shr = (s.mast j).shr := by
  by_cases h : j = m
  · subst h; simp [State.updHal, State.updM_same]
  · simp [State.updHal, State.updM_other h]
@[simp] theorem State.updCmd_cmd {m : Fin 16} {f : CmdPin → CmdPin} : ((s.updCmd m f).mast m).cmd = f (s.mast m).cmd := by
  simp [State.updCmd, State.updM_same]
@[simp] theorem State.updCmd_mast_pwm {m j : Fin 16} {f : CmdPin → CmdPin} : ((s.updCmd m f).mast j).pwm = (s.mast j).pwm := by
  by_cases h : j = m
  · subst h; simp [State.updCmd, State.updM_same]
  · simp [State.updCmd, State.updM_other h]
@[simp] theorem State.updCmd_mast_sense {m j : Fin 16} {f : CmdPin → CmdPin} : ((s.updCmd m f).mast j).sense = (s.mast j).sense := by
  by_cases h : j = m
  · subst h; simp [State.updCmd, State.updM_same]
  · simp [State.updCmd, State.updM_other h]
@[simp] theorem State.updCmd_mast_com {m j : Fin 16} {f : CmdPin → CmdPin} : ((s.updCmd m f).mast j).com = (s.mast j).com := by
  by_cases h : j = m
  · subst h; simp [State.updCmd, State.updM_same]
  · simp [State.updCmd, State.updM_other h]
@[simp] theorem State.updCmd_mast_seq {m j : Fin 16} {f : CmdPin → CmdPin} : ((s.updCmd m f).mast j).seq = (s.mast j).seq := by
  by_cases h : j = m
  · subst h; simp [State.updCmd, State.updM_same]
  · simp [State.updCmd, State.updM_other h]
@[simp] theorem State.updCmd_mast_hal {m j : Fin 16} {f : CmdPin → CmdPin} : ((s.updCmd m f).mast j).hal = (s.mast j).hal := by
  by_cases h : j = m
  · subst h; simp [State.updCmd, State.updM_same]
  · simp [State.updCmd, State.updM_other h]
@[simp] theorem State.updCmd_mast_shr {m j : Fin 16} {f : CmdPin → CmdPin} : ((s.updCmd m f).mast j).shr = (s.mast j).shr := by
  by_cases h : j = m
  · subst h; simp [State.updCmd, State.updM_same]
  · simp [State.updCmd, State.updM_other h]
@[simp] theorem State.updShr_shr {m : Fin 16} {f : Shroud → Shroud} : ((s.updShr m f).mast m).shr = f (s.mast m).shr := by
  simp [State.updShr, State.updM_same]
@[simp] theorem State.updShr_mast_pwm {m j : Fin 16} {f : Shroud → Shroud} : ((s.updShr m f).mast j).pwm = (s.mast j).pwm := by
  by_cases h : j = m
  · subst h; simp [State.updShr, State.updM_same]
  · simp [State.updShr, State.updM_other h]
@[simp] theorem State.updShr_mast_sense {m j : Fin 16} {f : Shroud → Shroud} : ((s.updShr m f).mast j).sense = (s.mast j).sense := by
  by_cases h : j = m
  · subst h; simp [State.updShr, State.updM_same]
  · simp [State.updShr, State.updM_other h]
@[simp] theorem State.updShr_mast_com {m j : Fin 16} {f : Shroud → Shroud} : ((s.updShr m f).mast j).com = (s.mast j).com := by
  by_cases h : j = m
  · subst h; simp [State.updShr, State.updM_same]
  · simp [State.updShr, State.updM_other h]
@[simp] theorem State.updShr_mast_seq {m j : Fin 16} {f : Shroud → Shroud} : ((s.updShr m f).mast j).seq = (s.mast j).seq := by
  by_cases h : j = m
  · subst h; simp [State.updShr, State.updM_same]
  · simp [State.updShr, State.updM_other h]
@[simp] theorem State.updShr_mast_hal {m j : Fin 16} {f : Shroud → Shroud} : ((s.updShr m f).mast j).hal = (s.mast j).hal := by
  by_cases h : j = m
  · subst h; simp [State.updShr, State.updM_same]
  · simp [State.updShr, State.updM_other h]
@[simp] theorem State.updShr_mast_cmd {m j : Fin 16} {f : Shroud → Shroud} : ((s.updShr m f).mast j).cmd = (s.mast j).cmd := by
  by_cases h : j = m
  · subst h; simp [State.updShr, State.updM_same]
  · simp [State.updShr, State.updM_other h]

/-! ### The register store -/

/-- A register reads the word just stored, in a canonical store. -/
theorem State.rd_wr_same {k : Nat} {w : Word} (h : spWf (resetWord s.variant) s.regs = true) : (s.wr k w).rd k = w :=
  spGet_spSet_same (d := resetWord s.variant) h

/-- The other registers read as before. -/
theorem State.rd_wr_other {k j : Nat} {w : Word} (h : j ≠ k) : (s.wr k w).rd j = s.rd j :=
  spGet_spSet_other h

end Sys2Proof.Machine
end

