-- ==== Sys2Proof/Laws/Reg.lean ====
section
/-! SUPPORT. Laws/Reg.lean: bit fields, and what a field of a register reads after a field has been set. -/

namespace Sys2Proof.Machine

variable {s : State}

/-! ### Bit fields -/

theorem bitsOf_lt {w : Word} {hi lo : Nat} : bitsOf w hi lo < 2 ^ (hi + 1 - lo) := Nat.mod_lt _ (Nat.two_pow_pos _)

theorem bitsOf_testBit {w : Word} {hi lo i : Nat} : (bitsOf w hi lo).testBit i = (decide (i < hi + 1 - lo) && w.getLsbD (lo + i)) := by
  unfold bitsOf
  rw [Nat.testBit_mod_two_pow, Nat.testBit_shiftRight]
  rfl

theorem setBitsOf_getLsbD {w : Word} {hi lo v i : Nat} (hi32 : hi < 32) :
    (setBitsOf w hi lo v).getLsbD i = if lo ≤ i ∧ i ≤ hi then v.testBit (i - lo) else w.getLsbD i := by
  unfold setBitsOf maskOf
  by_cases h32 : i < 32
  · simp only [BitVec.getLsbD_or, BitVec.getLsbD_and, BitVec.getLsbD_not, BitVec.getLsbD_ofNat, Nat.testBit_shiftLeft, Nat.testBit_mod_two_pow,
      Nat.testBit_two_pow_sub_one, h32, decide_true, Bool.true_and]
    by_cases h1 : lo ≤ i
    · by_cases h2 : i ≤ hi
      · have : i - lo < hi + 1 - lo := by omega
        simp [h1, h2, this]
      · have : ¬ i - lo < hi + 1 - lo := by omega
        simp [h2, this]
    · simp [h1]
  · rw [BitVec.getLsbD_of_ge _ _ (by omega), BitVec.getLsbD_of_ge _ _ (by omega)]
    split
    · omega
    · rfl

/-- A field reads what was set. -/
theorem bitsOf_setBitsOf_same {w : Word} {hi lo v : Nat} (h : hi < 32) : bitsOf (setBitsOf w hi lo v) hi lo = v % 2 ^ (hi + 1 - lo) := by
  apply Nat.eq_of_testBit_eq
  intro i
  rw [bitsOf_testBit, setBitsOf_getLsbD h, Nat.testBit_mod_two_pow]
  by_cases k : i < hi + 1 - lo
  · rw [if_pos (by omega), Nat.add_sub_cancel_left]
  · simp [k]

/-- The other fields read as before. -/
theorem bitsOf_setBitsOf_other {w : Word} {hi lo v p q : Nat} (h : hi < 32) (hd : p < lo ∨ hi < q) :
    bitsOf (setBitsOf w hi lo v) p q = bitsOf w p q := by
  apply Nat.eq_of_testBit_eq
  intro i
  rw [bitsOf_testBit, bitsOf_testBit, setBitsOf_getLsbD h]
  by_cases k : i < p + 1 - q
  · rw [if_neg (by omega)]
  · simp [k]

/-! ### Fields of registers -/

/-- The register store is canonical. -/
abbrev State.regsWf (s : State) : Prop := spWf (resetWord s.variant) s.regs = true

theorem State.wr_regsWf {k : Nat} {w : Word} (h : s.regsWf) : (s.wr k w).regsWf := spSet_wf (d := resetWord s.variant) h

theorem State.setFld_regsWf {f : Fld} {i v : Nat} (h : s.regsWf) : (s.setFld f i v).regsWf :=
  State.wr_regsWf (s := s) (k := keyI f.addr i) h

theorem State.rd_setFld_other {f : Fld} {i v key : Nat} (h : key ≠ keyI f.addr i) : (s.setFld f i v).rd key = s.rd key :=
  State.rd_wr_other (s := s) h

theorem State.rd_setFld_same {f : Fld} {i v : Nat} (h : s.regsWf) :
    (s.setFld f i v).rd (keyI f.addr i) = setBitsOf (s.rd (keyI f.addr i)) f.hi f.lo v :=
  State.rd_wr_same (s := s) h

theorem State.fld_setFld_same {f : Fld} {i v : Nat} (h : s.regsWf) (hf : f.hi < 32) : (s.setFld f i v).fld f i = v % 2 ^ (f.hi + 1 - f.lo) := by
  unfold State.fld
  rw [State.rd_setFld_same h, bitsOf_setBitsOf_same hf]

/-- A field of another register. -/
theorem State.fld_setFld_reg {f g : Fld} {i j v : Nat} (h : keyI g.addr j ≠ keyI f.addr i) : (s.setFld f i v).fld g j = s.fld g j := by
  unfold State.fld
  rw [State.rd_setFld_other h]

/-- Another field of the register. -/
theorem State.fld_setFld_bits {f g : Fld} {i v : Nat} (h : s.regsWf) (ha : g.addr = f.addr) (hf : f.hi < 32) (hd : g.hi < f.lo ∨ f.hi < g.lo) :
    (s.setFld f i v).fld g i = s.fld g i := by
  unfold State.fld
  rw [ha, State.rd_setFld_same h, bitsOf_setBitsOf_other hf hd]

/-- A flag just set. -/
theorem State.flag_setFld_one {f : Fld} {i : Nat} (h : s.regsWf) (hf : f.hi < 32) (h1 : f.lo = f.hi) : (s.setFld f i 1).flag f i = true := by
  unfold State.flag
  rw [State.fld_setFld_same h hf, h1]
  simp

/-- A register address and a unit number make one key. -/
theorem keyI_mod {a i : Nat} (h : a < 0x2000) : keyI a i % 0x2000 = a := by unfold keyI; omega

theorem keyI_ne {a b i j : Nat} (ha : a < 0x2000) (hb : b < 0x2000) (h : a ≠ b ∨ i ≠ j) : keyI a i ≠ keyI b j := by unfold keyI; omega

end Sys2Proof.Machine
end

