-- ==== Sys2Proof/Laws/Settle.lean ====
section
/-! SUPPORT. Laws/Settle.lean: what the end of a command leaves as it is: only the store works there. -/

namespace Sys2Proof.Machine

variable {s t z : State}

theorem State.Stores.refl (s : State) : s.Stores s := ⟨rfl, fun _ _ => rfl⟩

theorem State.Stores.trans {a b c : State} (h : a.Stores b) (k : b.Stores c) : a.Stores c :=
  ⟨k.rest.trans h.rest, fun key hk => (k.regs key hk).trans (h.regs key hk)⟩

/-- A change of the host port apart. -/
theorem State.Stores.withHost (h : s.Stores t) (p : HostPort) : ({ s with host := p } : State).Stores { t with host := p } :=
  ⟨by have e := congrArg (fun x : State => ({ x with host := p } : State)) h.rest; exact e, h.regs⟩

theorem State.Stores.fc (h : z.Stores s) {f : Fc → Fc}
    (hf : ({ f s.fc with queue := [], rsvQueue := [] } : Fc) = { s.fc with queue := [], rsvQueue := [] }) : z.Stores (s.updFc f) := by
  refine ⟨?_, h.regs⟩
  rw [← h.rest]
  unfold State.unstored State.updFc
  dsimp only
  rw [hf]

theorem State.Stores.st (h : z.Stores s) (f : Store → Store) : z.Stores (s.updStore f) := ⟨h.rest, h.regs⟩

theorem State.Stores.wr (h : z.Stores s) {k : Nat} {w : Word} (hk : k % 0x2000 = R.ST_STAT) : z.Stores (s.wr k w) :=
  ⟨h.rest, fun key hn => by
    have : key ≠ k := fun e => hn (e ▸ hk)
    rw [State.rd_wr_other this]
    exact h.regs key hn⟩

theorem State.Stores.setFld (h : z.Stores s) {f : Fld} {i v : Nat} (hk : f.addr % 0x2000 = R.ST_STAT) : z.Stores (s.setFld f i v) := by
  have h1 : z.Stores (s.wr (keyI f.addr i) (setBitsOf (s.rd (keyI f.addr i)) f.hi f.lo v)) := h.wr (by unfold keyI; omega)
  exact ⟨h1.rest, h1.regs⟩

theorem State.Stores.stEnd (h : z.Stores s) {r : Nat} : z.Stores (s.stEnd r) := by
  unfold State.stEnd State.when
  dsimp only
  split
  · exact State.Stores.st (State.Stores.setFld (State.Stores.setFld h rfl) rfl) _
  · exact State.Stores.st (State.Stores.setFld h rfl) _

theorem State.Stores.stAbort (h : z.Stores s) {i n : Nat} : z.Stores (s.stAbort i n) := by
  unfold State.stAbort State.stProgram
  exact h.st _

theorem State.stAbortPulse_stores (h : z.Stores s) : z.Stores s.stAbortPulse := by
  unfold State.stAbortPulse
  split
  · exact h
  · dsimp only
    split
    · exact (h.st _).stAbort
    · exact (h.st _).stAbort
    · exact (h.st _).stAbort
    · exact (h.st _).stAbort
    · split
      · exact h.st _
      · exact ((h.st _).stAbort).stEnd
    · unfold State.jStepLost
      split
      · exact h.st _
      · exact ((h.st _).stAbort).st _

theorem State.stKick_stores (h : z.Stores s) : z.Stores s.stKick := by
  unfold State.stKick State.stBegin
  split
  · exact h
  · split
    · exact (h.st _).fc rfl
    · split
      · dsimp only
        split
        · exact h.st _
        · exact (h.st _).st _
      · split
        · dsimp only
          split
          · exact h.st _
          · exact ((h.st _).fc rfl).st _
        · split
          · exact h.st _
          · split
            · exact h.st _
            · exact h

/-- At the end of a command only the store works. -/
theorem State.finish_stores (s : State) : s.Stores s.finish := by
  unfold State.finish
  split
  · exact State.stKick_stores (State.stAbortPulse_stores (.refl s))
  · exact State.stKick_stores (.refl s)

/-- Where nothing waits, the end of a command changes nothing. -/
theorem State.finish_calm (h : s.calm) : s.finish = s := by
  obtain ⟨h2, h3, h4, h5, h6, h7⟩ := h
  have e2 : s.stMustAbort = false := by unfold State.stMustAbort; rw [h2]; rfl
  have e4 : s.stepMay = false := by unfold State.stepMay; rw [h7]; rfl
  have e3 : s.cmdMay = false := by unfold State.cmdMay; rw [h3]; rfl
  unfold State.finish
  rw [e2]
  simp only [Bool.false_eq_true, if_false]
  unfold State.stKick
  split
  · rfl
  · split
    · simp_all
    · split
      · simp_all
      · split
        · simp_all
        · simp [e3, e4]

/-! ### Reading it -/

theorem State.Stores.masts (h : s.Stores t) : t.masts = s.masts := by have e := congrArg State.masts h.rest; exact e
theorem State.Stores.mast (h : s.Stores t) (m : Fin 16) : t.mast m = s.mast m := by unfold State.mast; rw [h.masts]
theorem State.Stores.eng (h : s.Stores t) : t.eng = s.eng := by have e := congrArg State.eng h.rest; exact e
theorem State.Stores.ctx (h : s.Stores t) (c : Fin 64) : t.ctx c = s.ctx c := by unfold State.ctx; rw [h.eng]
theorem State.Stores.sigs (h : s.Stores t) : t.sigs = s.sigs := by have e := congrArg State.sigs h.rest; exact e
theorem State.Stores.furl (h : s.Stores t) : t.furl = s.furl := by have e := congrArg State.furl h.rest; exact e
theorem State.Stores.mem (h : s.Stores t) : t.mem = s.mem := by have e := congrArg State.mem h.rest; exact e
theorem State.Stores.ring (h : s.Stores t) : t.ring = s.ring := by have e := congrArg State.ring h.rest; exact e
theorem State.Stores.variant (h : s.Stores t) : t.variant = s.variant := by have e := congrArg State.variant h.rest; exact e
theorem State.Stores.sig (h : s.Stores t) (id : Nat) : t.sig id = s.sig id := by unfold State.sig; rw [h.sigs]
theorem State.Stores.fc_ (h : s.Stores t) :
    ({ t.fc with queue := [], rsvQueue := [] } : Fc) = { s.fc with queue := [], rsvQueue := [] } := by
  have e := congrArg State.fc h.rest; exact e

theorem State.Stores.now (h : s.Stores t) : t.now = s.now := by have e := congrArg State.now h.rest; exact e
theorem State.Stores.pending (h : s.Stores t) : t.pending = s.pending := by have e := congrArg State.pending h.rest; exact e
theorem State.Stores.deferred (h : s.Stores t) : t.deferred = s.deferred := by have e := congrArg State.deferred h.rest; exact e
theorem State.Stores.bgs (h : s.Stores t) : t.bgs = s.bgs := by have e := congrArg State.bgs h.rest; exact e
theorem State.Stores.tb (h : s.Stores t) : t.tb = s.tb := by have e := congrArg State.tb h.rest; exact e
theorem State.Stores.srv (h : s.Stores t) : t.srv = s.srv := by have e := congrArg State.srv h.rest; exact e
theorem State.Stores.cal (h : s.Stores t) : t.cal = s.cal := by have e := congrArg State.cal h.rest; exact e
theorem State.Stores.gpio (h : s.Stores t) : t.gpio = s.gpio := by have e := congrArg State.gpio h.rest; exact e
theorem State.Stores.host (h : s.Stores t) : t.host = s.host := by have e := congrArg State.host h.rest; exact e
theorem State.Stores.role (h : s.Stores t) : t.role = s.role := by have e := congrArg State.role h.rest; exact e
theorem State.Stores.hk (h : s.Stores t) : t.hk = s.hk := by have e := congrArg State.hk h.rest; exact e
theorem State.Stores.clk (h : s.Stores t) : t.clk = s.clk := by have e := congrArg State.clk h.rest; exact e
theorem State.Stores.tap (h : s.Stores t) : t.tap = s.tap := by have e := congrArg State.tap h.rest; exact e
theorem State.Stores.was (h : s.Stores t) : t.was = s.was := by have e := congrArg State.was h.rest; exact e
theorem State.Stores.events (h : s.Stores t) : t.fc.events = s.fc.events := by have e := congrArg Fc.events h.fc_; exact e

end Sys2Proof.Machine
end

