-- ==== Sys2Proof/Laws/Host.lean ====
section
/-! SUPPORT. Laws/Host.lean: what a WRITE of one register does where nothing waits on the host port: the register's effect, and the end of the command. -/

namespace Sys2Proof.Machine

variable {s t : State}

theorem State.hostTurn_cyc : s.hostTurn.cyc.host = false := by
  unfold State.hostTurn
  split
  · rfl
  · rename_i h
    exact Bool.eq_false_iff.mpr h

theorem State.hostTurn_same (h : s.cyc.host = false) : s.hostTurn = s := by
  unfold State.hostTurn
  rw [h]
  rfl

/-- The machine in the cycle of an access of the host port. -/
def State.onPort (s : State) : State := { s with cyc.host := true }

theorem State.hostCycle_same (h : s.cyc.host = false) : s.hostCycle = s.onPort := by
  unfold State.hostCycle
  rw [State.hostTurn_same h]
  rfl

/-- The state in which a write of a register takes effect: beside the host port, the time of the last write, the bursts and the audit
queue have moved. -/
def State.asHost (s : State) (p : HostPort) (b : List Nat) (q : List (List Word)) (n : Nat) : State :=
  { s with host := p, role := { s.role with lastWrite := s.now, burst := b }, store := { s.store with audQ := q, audSeq := n } }

theorem State.audited_room {n : Nat} {f : State → State} (h : n ≤ s.audRoom) : s.audited n f = f s := by
  unfold State.audited
  rw [if_pos h]

/-- A record that joins the audit queue is the store's. -/
theorem State.audit_stores {z : State} {kind tgt port : Nat} {val : Word} (h : z.Stores s) : z.Stores (s.audit kind tgt val port) := by
  unfold State.audit
  exact h.st _

theorem State.addFields_same {a i : Nat} {v : Word} : ∀ (l : List FieldRow) (s : State), (s.addFields a i v l).cyc = s.cyc ∧ (s.addFields a i v l).clk = s.clk ∧
    (s.addFields a i v l).host = s.host
  | [], _ => ⟨rfl, rfl, rfl⟩
  | f :: r, s => by
    unfold State.addFields
    have h := State.addFields_same (a := a) (i := i) (v := v) r (if f.acc = .rc then s.wr (keyI a i) (bumpBits ⟨a, f.hi, f.lo⟩ (bitsOf v f.hi f.lo) (s.rd (keyI a i))) else s)
    refine ⟨h.1.trans ?_, h.2.1.trans ?_, h.2.2.trans ?_⟩ <;> split <;> rfl

/-- Putting back what RC fields gave touches no more than counts. -/
theorem State.rcBack_same {k : Nat} {v : Word} : (s.rcBack k v).cyc = s.cyc ∧ (s.rcBack k v).clk = s.clk ∧ (s.rcBack k v).host = s.host := by
  unfold State.rcBack
  dsimp only
  split
  · exact ⟨rfl, rfl, rfl⟩
  · split
    · exact ⟨rfl, rfl, rfl⟩
    · split
      · exact State.addFields_same _ _
      · exact ⟨rfl, rfl, rfl⟩

theorem State.accessBack_same {e : Option (Bool × Nat × Word)} :
    (s.accessBack e).cyc = s.cyc ∧ (s.accessBack e).clk = s.clk ∧ (s.accessBack e).host = s.host := by
  unfold State.accessBack
  split
  · exact State.rcBack_same
  · exact ⟨rfl, rfl, rfl⟩

theorem State.wordSent_same : s.wordSent.cyc = s.cyc ∧ s.wordSent.clk = s.clk := by
  unfold State.wordSent
  dsimp only
  split <;> exact ⟨rfl, rfl⟩

/-- After the last word nothing of the read is left on the port. -/
theorem State.lastSent_same : s.lastSent.cyc = s.cyc ∧ s.lastSent.clk = s.clk ∧ s.lastSent.host.rc = none ∧ s.lastSent.host.ahead = none := by
  unfold State.lastSent State.wordCut
  have h1 := @State.accessBack_same (s.wordSent.updHost fun h => { h with rc := none, ahead := none }) s.wordSent.host.rc
  have h2 := @State.accessBack_same ((s.wordSent.updHost fun h => { h with rc := none, ahead := none }).accessBack s.wordSent.host.rc) s.wordSent.host.ahead
  have h3 := @State.wordSent_same s
  refine ⟨(h2.1.trans h1.1).trans h3.1, (h2.2.1.trans h1.2.1).trans h3.2, ?_, ?_⟩ <;> rw [h2.2.2, h1.2.2] <;> rfl

theorem State.lastSent_none (h : s.host.rc = none) (h2 : s.host.ahead = none) : s.lastSent = s := by
  have key : ∀ p : HostPort, p.rc = none → p.ahead = none → ({ s with host := p } : State).lastSent = { s with host := p } := fun p e1 e2 => by
    cases p
    cases e1
    cases e2
    rfl
  exact key s.host h h2

theorem State.asked_cyc : s.asked.cyc.host = false := by
  unfold State.asked
  rw [State.lastSent_same.1]
  exact State.hostTurn_cyc

theorem State.asked_same (h : s.cyc.host = false) (h1 : s.host.rc = none) (h2 : s.host.ahead = none) : s.asked = s := by
  unfold State.asked
  rw [State.hostTurn_same h, State.lastSent_none h1 h2]

theorem State.calAgain_none {a i : Nat} {row : RegRow} (h : calWritten a = false) : s.calAgain a i row = s := by
  unfold State.calAgain
  rw [h]
  rfl

/-- The host's write of a register whose role is in force, with room for its record; the calendar does not write it. -/
theorem State.regWrite_does {addr a i : Nat} {row : RegRow} {w : Word} (hc : calWritten a = false) (hp : s.place addr = .reg a i row)
    (hr : (s.asHost s.host s.role.burst s.store.audQ s.store.audSeq).writeNeed a i row w ≤ s.role.role) (hq : s.store.audQ.length < 32) :
    ∃ b q n, (portAddr a = none → q = s.store.audQ ∧ n = s.store.audSeq ∧ b = s.role.burst) ∧
      ((s.asHost s.host b q n).applyReg s.role.role a i row w).Stores (s.regWrite addr w) := by
  have hp' : (s.asHost s.host s.role.burst s.store.audQ s.store.audSeq).place addr = .reg a i row := hp
  have e0 : s.updRole (fun r => { r with lastWrite := s.now }) = s.asHost s.host s.role.burst s.store.audQ s.store.audSeq := rfl
  have hroom : 1 ≤ (s.asHost s.host s.role.burst s.store.audQ s.store.audSeq).audRoom := by
    change 1 ≤ 32 - s.store.audQ.length
    omega
  have e1 : (s.asHost s.host s.role.burst s.store.audQ s.store.audSeq).role.role = s.role.role := rfl
  unfold State.regWrite
  rw [e0]
  dsimp only
  rw [hp']
  dsimp only
  rw [e1, if_neg (Nat.not_lt.mpr hr), State.calAgain_none hc]
  unfold State.recorded
  split
  · rename_i pa hpa
    split
    · exact ⟨_, _, _, fun _ => ⟨rfl, rfl, rfl⟩, .refl _⟩
    · rw [State.audited_room hroom]
      refine ⟨_, _, _, fun h => ?_, .refl _⟩
      rw [h] at hpa
      cases hpa
  · refine ⟨_, _, _, fun _ => ⟨rfl, rfl, rfl⟩, ?_⟩
    split
    · split
      · exact .refl _
      · rw [State.audited_room hroom]
        exact State.audit_stores (.refl _)
    · dsimp only
      split
      · rw [State.audited_room hroom]
        exact State.audit_stores (.refl _)
      · exact .refl _

theorem hostDrain_empty : ∀ (n : Nat) {s : State}, s.host.fifo = [] → State.hostDrain n s = s
  | 0, _, _ => rfl
  | n + 1, s, h => by
    unfold State.hostDrain
    rw [h]

theorem hostDrain_one {n : Nat} {e : HEntry} (h2 : s.host.fifo = [e]) (h3 : s.host.late = none) :
    State.hostDrain (n + 1) s = match ({ s with host := { s.host with fifo := [] } } : State).hostEntry e with
      | some t => t.hostDrain n
      | none => s := by
  rw [State.hostDrain, h2]
  dsimp only
  refine (if_neg (by rw [h3]; exact Bool.false_ne_true)).trans ?_
  generalize State.hostEntry _ e = o
  cases o <;> rfl

theorem State.hostPush_idle {e : HEntry} (h1 : s.host.drop = false) (h2 : s.host.fifo = []) (h3 : s.host.late = none) :
    s.hostPush e = match ({ s with host := { s.host with fifo := [] } } : State).hostEntry e with
      | some t => t.hostDrain 15
      | none => { s with host := { s.host with fifo := [e] } } := by
  unfold State.hostPush
  rw [h1, h2]
  simp only [Bool.false_eq_true, if_false]
  rw [if_neg (by decide)]
  unfold State.hostServe State.updHost
  refine (hostDrain_one (s := { s with host := { s.host with fifo := s.host.fifo ++ [e] } }) (n := 15) (e := e) (by change s.host.fifo ++ [e] = [e]; rw [h2]; rfl) h3).trans ?_
  dsimp only
  rw [h2]
  rfl

theorem State.hostPush_does {e : HEntry} (h1 : s.host.drop = false) (h2 : s.host.fifo = []) (h3 : s.host.late = none)
    (he : ({ s with host := { s.host with fifo := [] } } : State).hostEntry e = some t) (hf : t.host.fifo = []) : s.hostPush e = t := by
  rw [State.hostPush_idle h1 h2 h3, he]
  exact hostDrain_empty _ hf

/-- A WRITE of one word of a register: what follows the register's effect. -/
theorem State.hostReg_does {z : State} {addr a i : Nat} {row : RegRow} {w : Word} (e : s = z.asked) (h : s.HostIdle) (ha : addr < 0x2000)
    (hp : s.place addr = .reg a i row) (hs : a ≠ R.SIG_DATA) :
    ∃ p : HostPort, p.fifo = [] ∧ ((({ s.onPort with host := p } : State).regWrite addr w).finish.host.fifo = [] →
      ∃ p', z.hostReg addr w = { (({ s.onPort with host := p } : State).regWrite addr w).finish with host := p' }) := by
  obtain ⟨h1, h2, h3, h4, h5⟩ := h
  have h0 : s.cyc.host = false := by rw [e]; exact State.asked_cyc
  have hb : ∃ p : HostPort, p.fifo = [] ∧ p.late = none ∧ p.hold = none ∧ p.drop = false ∧ z.hostTurn.hostBegin true = { s with host := p } := by
    refine ⟨(z.hostTurn.hostBegin true).host, ?_⟩
    have e' : z.hostTurn.lastSent = s := e.symm
    unfold State.hostBegin
    rw [e']
    exact ⟨h3, h4, h5, rfl, rfl⟩
  obtain ⟨p, p1, p2, p3, p4, p5⟩ := hb
  have hc : ({ s with host := p } : State).hostPush (.write addr false) = { s with host := { p with fifo := [], cur := some (.write addr false) } } := by
    rw [State.hostPush_idle p4 p1 p2]
    exact hostDrain_empty _ rfl
  refine ⟨{ p with fifo := [], cur := some (.write addr false) }, rfl, fun hf => ?_⟩
  unfold State.hostReg State.hostWriteT
  dsimp only
  have hl : z.hostTurn.clk.locked = true := by
    rw [← h1, e]
    unfold State.asked
    rw [State.lastSent_same.2.1]
  rw [hl]
  simp only [Bool.not_true, Bool.false_eq_true, if_false]
  rw [p5, hc]
  unfold State.hostWords State.hostWords
  have hw : State.writeWord ({ s with host := { p with fifo := [], cur := some (.write addr false) } } : State) addr w false =
      some (({ s.onPort with host := { p with fifo := [], cur := some (.write addr false) } } : State).regWrite addr w).finish := by
    unfold State.writeWord
    rw [State.hostCycle_same (s := { s with host := { p with fifo := [], cur := some (.write addr false) } }) h0]
    have hpast : ¬addrPast ≤ addr := by unfold addrPast; omega
    have hp2 : ∀ q : HostPort, ({ s.onPort with host := q } : State).place addr = .reg a i row := fun _ => hp
    have e2 : State.onPort ({ s with host := { p with fifo := [], cur := some (.write addr false) } } : State) =
      { s.onPort with host := { p with fifo := [], cur := some (.write addr false) } } := rfl
    rw [e2]
    have h2' : s.onPort.clk.ready = true := h2
    dsimp only
    rw [h2', p3]
    simp only [Bool.not_true, Bool.false_eq_true, if_false, Bool.false_and, hpast]
    rw [hp2]
    simp only
    rw [if_neg (fun h => hs h.1)]
  have he : State.hostEntry ({ s with host := { p with fifo := [], cur := some (.write addr false) } } : State) (.word w false) =
      some ((({ s.onPort with host := { p with fifo := [], cur := some (.write addr false) } } : State).regWrite addr w).finish.updHost
        fun h => { h with cur := h.cur.map fun _ => .write (nextAddr addr) false }) := by
    unfold State.hostEntry
    simp only [hw, Option.map_some, Bool.false_eq_true, if_false]
  have hx := State.hostPush_does (s := { s with host := { p with fifo := [], cur := some (.write addr false) } }) p4 rfl p2 he hf
  rw [hx]
  exact ⟨_, rfl⟩

/-- A command that writes one register, given in `z`: `s` is the machine as the port finds it. -/
theorem hostWr_does {z : State} {dt addr a i : Nat} {row : RegRow} {w : Word} (e : s = (z.elapse dt).asked) (h : s.HostIdle) (ha : addr < 0x2000)
    (hc : calWritten a = false) (hp : s.place addr = .reg a i row) (hs : a ≠ R.SIG_DATA)
    (hr : ∀ p, (s.onPort.asHost p s.role.burst s.store.audQ s.store.audSeq).writeNeed a i row w ≤ s.role.role) (hq : s.store.audQ.length < 32)
    (hh : ∀ p b q n, p.fifo = [] → ((s.onPort.asHost p b q n).applyReg s.role.role a i row w).host.fifo = []) :
    ∃ p p' b q n t, p.fifo = [] ∧ (portAddr a = none → q = s.store.audQ ∧ n = s.store.audSeq ∧ b = s.role.burst) ∧
      hostWr dt addr w z = .next t ∧
      State.Stores { (s.onPort.asHost p b q n).applyReg s.role.role a i row w with host := p' } t := by
  obtain ⟨p, p1, p2⟩ := State.hostReg_does (w := w) e h ha hp hs
  obtain ⟨b, q, n, k1, k2⟩ := State.regWrite_does (s := { s.onPort with host := p }) (w := w) (addr := addr) hc hp (hr p) hq
  have k3 := k2.trans (State.finish_stores _)
  have k4 : ((({ s.onPort with host := p } : State).regWrite addr w).finish).host.fifo = [] := by
    rw [k3.host]
    exact hh p b q n p1
  obtain ⟨p', e'⟩ := p2 k4
  refine ⟨p, p', b, q, n, _, p1, k1, ?_, (k3.withHost p').trans (State.finish_stores _)⟩
  unfold hostWr
  rw [e']
  rfl

/-! ### The roles a write needs -/

theorem topRole_mono {p q : FieldRow → Bool} (h : ∀ f, p f = true → q f = true) : ∀ l : List FieldRow, topRole p l ≤ topRole q l
  | [] => Nat.le_refl _
  | f :: r => by
    have k := topRole_mono h r
    simp only [topRole]
    cases hp : p f
    · cases q f
      · exact k
      · exact k.trans (Nat.le_max_right ..)
    · rw [h f hp]
      exact Nat.max_le.mpr ⟨Nat.le_max_left .., k.trans (Nat.le_max_right ..)⟩

/-- A field that a write can reach. -/
def FieldRow.written (f : FieldRow) : Bool := f.acc == .rw || f.acc == .wo || f.acc == .w1c

theorem plainRole_le {row : RegRow} {v w : Word} : plainRole row v w ≤ topRole FieldRow.written row.fields := by
  refine topRole_mono (fun f hf => ?_) _
  unfold FieldRow.written
  cases e : f.acc <;> simp [e] at hf ⊢

/-- `y` is `s` with a word of the host under way: beside the host port only the times of the roles, the audit queue and what the cycle has seen differ. -/
structure State.Called (s y : State) (a : Nat) : Prop where
  ex : ∃ p b q n, y = s.onPort.asHost p b q n ∧ (portAddr a = none → q = s.store.audQ ∧ n = s.store.audSeq ∧ b = s.role.burst)

/-- The host port replaced. -/
def State.withHost (s : State) (p : HostPort) : State := { s with host := p }

@[simp] theorem State.withHost_mast {p : HostPort} {m : Fin 16} : (s.withHost p).mast m = s.mast m := rfl
@[simp] theorem State.withHost_rd {p : HostPort} {k : Nat} : (s.withHost p).rd k = s.rd k := rfl
@[simp] theorem State.withHost_sig {p : HostPort} {k : Nat} : (s.withHost p).sig k = s.sig k := rfl
@[simp] theorem State.withHost_ctx {p : HostPort} {c : Fin 64} : (s.withHost p).ctx c = s.ctx c := rfl
@[simp] theorem State.withHost_fc {p : HostPort} : (s.withHost p).fc = s.fc := rfl

/-- A write of a command register. -/
theorem host_special {z : State} {dt addr a i n : Nat} {row : RegRow} {w : Word} {eff : State → State} (e : s = (z.elapse dt).asked)
    (h : s.TakesWrites n) (ha : addr < 0x2000) (hc : calWritten a = false)
    (hp : s.place addr = .reg a i row) (hs : a ≠ R.SIG_DATA) (hn : ∀ q : State, s.Called q a → q.writeNeed a i row w ≤ n)
    (he : ∀ q : State, q.special a i w = some (eff q)) (hh : ∀ q : State, (eff q).host.fifo = q.host.fifo) :
    ∃ y t p, hostWr dt addr w z = .next t ∧ s.Called y a ∧ State.Stores ((eff y).withHost p) t := by
  have e2 : ∀ (q : State) r, q.applyReg r a i row w = eff q := fun q r => by
    unfold State.applyReg
    rw [he]
  obtain ⟨p, p', b, q, k, t, h1, h2, h3, h4⟩ := hostWr_does (dt := dt) (row := row) (w := w) e h.idle ha hc hp hs
    (fun p => (hn _ ⟨p, _, _, _, rfl, fun _ => ⟨rfl, rfl, rfl⟩⟩).trans h.role) h.room fun p b q k hp => by
    rw [e2, hh]
    exact hp
  rw [e2] at h4
  exact ⟨_, t, p', h3, ⟨p, b, q, k, rfl, h2⟩, h4⟩

/-- A write of a register that is stored. -/
theorem host_stored {z : State} {dt addr a i n : Nat} {row : RegRow} {w : Word} (e : s = (z.elapse dt).asked)
    (h : s.TakesWrites n) (ha : addr < 0x2000) (hc : calWritten a = false)
    (hp : s.place addr = .reg a i row) (hs : a ≠ R.SIG_DATA) (hn : ∀ q : State, s.Called q a → q.writeNeed a i row w ≤ n)
    (hh : ∀ (q : State) r, (q.applyReg r a i row w).host.fifo = q.host.fifo) :
    ∃ y t p, hostWr dt addr w z = .next t ∧ s.Called y a ∧ State.Stores ((y.applyReg s.role.role a i row w).withHost p) t := by
  obtain ⟨p, p', b, q, k, t, h1, h2, h3, h4⟩ := hostWr_does (dt := dt) (row := row) (w := w) e h.idle ha hc hp hs
    (fun p => (hn _ ⟨p, _, _, _, rfl, fun _ => ⟨rfl, rfl, rfl⟩⟩).trans h.role) h.room fun p b q k hp => by
    rw [hh]
    exact hp
  exact ⟨_, t, p', h3, ⟨p, b, q, k, rfl, h2⟩, h4⟩

variable {z : State} {a : Nat}

theorem State.Called.masts (h : s.Called z a) : z.masts = s.masts := by obtain ⟨p, b, q, n, rfl, -⟩ := h.ex; rfl
theorem State.Called.mast (h : s.Called z a) (m : Fin 16) : z.mast m = s.mast m := by unfold State.mast; rw [h.masts]
theorem State.Called.regs (h : s.Called z a) : z.regs = s.regs := by obtain ⟨p, b, q, n, rfl, -⟩ := h.ex; rfl
theorem State.Called.variant (h : s.Called z a) : z.variant = s.variant := by obtain ⟨p, b, q, n, rfl, -⟩ := h.ex; rfl
theorem State.Called.rd (h : s.Called z a) (k : Nat) : z.rd k = s.rd k := by unfold State.rd; rw [h.regs, h.variant]
theorem State.Called.now (h : s.Called z a) : z.now = s.now := by obtain ⟨p, b, q, n, rfl, -⟩ := h.ex; rfl
theorem State.Called.fc (h : s.Called z a) : z.fc = s.fc := by obtain ⟨p, b, q, n, rfl, -⟩ := h.ex; rfl
theorem State.Called.deferred (h : s.Called z a) : z.deferred = s.deferred := by obtain ⟨p, b, q, n, rfl, -⟩ := h.ex; rfl
theorem State.Called.eng (h : s.Called z a) : z.eng = s.eng := by obtain ⟨p, b, q, n, rfl, -⟩ := h.ex; rfl
theorem State.Called.sigs (h : s.Called z a) : z.sigs = s.sigs := by obtain ⟨p, b, q, n, rfl, -⟩ := h.ex; rfl
theorem State.Called.clk (h : s.Called z a) : z.clk = s.clk := by obtain ⟨p, b, q, n, rfl, -⟩ := h.ex; rfl
theorem State.Called.role (h : s.Called z a) : z.role.role = s.role.role := by obtain ⟨p, b, q, n, rfl, -⟩ := h.ex; rfl
theorem State.Called.eq (h : s.Called z a) : ∃ p b q n, z = s.onPort.asHost p b q n := by obtain ⟨p, b, q, n, e, -⟩ := h.ex; exact ⟨p, b, q, n, e⟩

/-! ### Places -/

theorem rowAt_plain {a i : Nat} {r : RegRow} (h : a ≠ R.SNS_CFG) : rowAt a i r = r := by
  unfold rowAt
  rw [if_neg fun k => h k.1]

/-- Where the address of a device register leads. -/
theorem State.place_dev {addr : Nat} {row : RegRow} (h : addr / 256 < 16) (h5 : addr / 256 ≠ 5) (hr : regRow addr = some row)
    (ha : s.regAbsent addr (s.regIdx addr) = false) : s.place addr = .reg addr (s.regIdx addr) (rowAt addr (s.regIdx addr) row) := by
  unfold State.place
  dsimp only
  rw [if_neg (by omega), if_neg (fun k => h5 k.1), hr]
  dsimp only
  rw [ha]
  rfl

/-- The same of the ring's window. -/
theorem State.place_ring {addr : Nat} {row : RegRow} (h : addr / 256 = 5) (hv : s.variant.ring = true) (hr : regRow addr = some row)
    (ha : s.regAbsent addr (s.regIdx addr) = false) : s.place addr = .reg addr (s.regIdx addr) row := by
  unfold State.place
  dsimp only
  rw [if_neg (by omega), if_neg (fun k => by rw [hv] at k; exact absurd k.2 (by decide)), hr]
  dsimp only
  rw [ha, rowAt_plain (by intro e; subst e; exact absurd h (by decide))]
  rfl

/-- Where the address of a mast register leads. -/
theorem State.place_mast {a : Nat} {m : Fin 16} {row : RegRow} (h : a / 256 = 16) (hm : s.hasMast m = true) (hr : regRow a = some row) :
    s.place (mastAddr a m) = .reg a m row := by
  unfold State.place mastAddr
  have e1 : (a + 256 * m.val) / 256 = 16 + m.val := by omega
  have e2 : 0x1000 + (a + 256 * m.val) % 256 = a := by omega
  dsimp only
  rw [e1, if_pos (by omega)]
  have e3 : 16 + m.val - 16 = m.val := by omega
  rw [e3, hm, e2, hr]
  rfl

end Sys2Proof.Machine
end

