-- ==== Sys2Proof/Laws/Watch.lean ====
section
/-! SUPPORT. Laws/Watch.lean: what a write of a signal does beside the signal: the watches it fires (R238) and the start of the crow's nest (R264). -/

namespace Sys2Proof.Machine

variable {s t z : State}

/-- The machine without its registers, its contexts, the crow's nest's start and what the present cycle has seen. -/
def State.unwatched (s : State) : State :=
  { s with regs := [], eng.ctxs := Vector.replicate 64 {}, eng.trcRun := false, eng.trcTrig := false, cyc := {} }

/-- From `s` to `t` at most contexts have been triggered and the crow's nest started. -/
structure State.Watched (s t : State) : Prop where
  rest : t.unwatched = s.unwatched
  regs : ∀ key, key % 0x2000 ≠ R.CTX_STAT → t.rd key = s.rd key
  ctx : ∀ c, (t.ctx c).core = (s.ctx c).core
  awake : ∀ c, (s.ctx c).st ≠ .waiting → (t.ctx c).st = (s.ctx c).st ∧ (t.ctx c).act = (s.ctx c).act

theorem State.Watched.refl (s : State) : s.Watched s := ⟨rfl, fun _ _ => rfl, fun _ => rfl, fun _ _ => ⟨rfl, rfl⟩⟩

theorem State.Watched.masts (h : s.Watched t) : t.masts = s.masts := by have e := congrArg State.masts h.rest; exact e
theorem State.Watched.sigs (h : s.Watched t) : t.sigs = s.sigs := by have e := congrArg State.sigs h.rest; exact e
theorem State.Watched.sig (h : s.Watched t) (id : Nat) : t.sig id = s.sig id := by unfold State.sig; rw [h.sigs]
theorem State.Watched.fc (h : s.Watched t) : t.fc = s.fc := by have e := congrArg State.fc h.rest; exact e
theorem State.Watched.variant (h : s.Watched t) : t.variant = s.variant := by have e := congrArg State.variant h.rest; exact e
theorem State.Watched.now (h : s.Watched t) : t.now = s.now := by have e := congrArg State.now h.rest; exact e
theorem State.Watched.mem (h : s.Watched t) : t.mem = s.mem := by have e := congrArg State.mem h.rest; exact e
theorem State.Watched.ring (h : s.Watched t) : t.ring = s.ring := by have e := congrArg State.ring h.rest; exact e
theorem State.Watched.store (h : s.Watched t) : t.store = s.store := by have e := congrArg State.store h.rest; exact e
theorem State.Watched.gpio (h : s.Watched t) : t.gpio = s.gpio := by have e := congrArg State.gpio h.rest; exact e
theorem State.Watched.trcCount (h : s.Watched t) : t.eng.trcCount = s.eng.trcCount := by
  have e := congrArg (fun u : State => u.eng.trcCount) h.rest; exact e
theorem State.Watched.mast (h : s.Watched t) (m : Fin 16) : t.mast m = s.mast m := by unfold State.mast; rw [h.masts]

theorem State.Watched.trans {a b c : State} (h : a.Watched b) (k : b.Watched c) : a.Watched c :=
  ⟨k.rest.trans h.rest, fun key hk => (k.regs key hk).trans (h.regs key hk), fun x => (k.ctx x).trans (h.ctx x), fun x hx => by
    have h1 := h.awake x hx
    have h2 := k.awake x (by rw [h1.1]; exact hx)
    exact ⟨h2.1.trans h1.1, h2.2.trans h1.2⟩⟩

theorem State.Watched.wr (h : z.Watched s) {k : Nat} {w : Word} (hk : k % 0x2000 = R.CTX_STAT) : z.Watched (s.wr k w) :=
  ⟨h.rest, fun key hkey => by
    rw [← h.regs key hkey]
    have : key ≠ k := fun e => hkey (by rw [e]; exact hk)
    exact rd_wr_other this, h.ctx, h.awake⟩

theorem State.Watched.setFld (h : z.Watched s) {f : Fld} {i v : Nat} (hk : f.addr % 0x2000 = R.CTX_STAT) : z.Watched (s.setFld f i v) := by
  have h1 : z.Watched (s.wr (keyI f.addr i) (setBitsOf (s.rd (keyI f.addr i)) f.hi f.lo v)) := h.wr (by unfold keyI; omega)
  exact ⟨h1.rest, h1.regs, h1.ctx, h1.awake⟩

theorem State.Watched.updC (h : z.Watched s) {c : Fin 64} {f : Ctx → Ctx} (hf : (f (s.ctx c)).core = (s.ctx c).core)
    (ha : (s.ctx c).st ≠ .waiting → (f (s.ctx c)).st = (s.ctx c).st ∧ (f (s.ctx c)).act = (s.ctx c).act) : z.Watched (s.updC c f) := by
  refine ⟨h.rest, h.regs, fun d => ?_, fun d hd => ?_⟩
  · by_cases e : d = c
    · subst e; rw [State.updC_same, hf, h.ctx]
    · rw [State.updC_other e, h.ctx]
  · have h1 := h.awake d hd
    by_cases e : d = c
    · subst e
      rw [State.updC_same]
      have h2 := ha (by rw [h1.1]; exact hd)
      exact ⟨h2.1.trans h1.1, h2.2.trans h1.2⟩
    · rw [State.updC_other e]; exact h1

theorem State.trigger_watched (h : z.Watched s) {cn kind a b : Nat} : z.Watched (s.trigger cn kind a b) := by
  unfold State.trigger
  split
  · rename_i hcn
    dsimp only
    split
    · exact h
    · split
      · exact h
      · exact h.setFld rfl
      · rename_i hst
        exact h.updC rfl fun hw => absurd hst hw
      · refine State.Watched.updC ?_ rfl fun _ => ⟨rfl, rfl⟩
        split
        · exact h.setFld rfl
        · exact h
  · exact h

theorem fireWatches_watched {id : Nat} {ch : Bool} : ∀ {l : List (Nat × Bool)} {s : State}, z.Watched s → z.Watched (fireWatches s id ch l)
  | [], _, h => h
  | (_, _) :: r, s, h => by
    unfold fireWatches
    split
    · exact fireWatches_watched (State.trigger_watched h)
    · exact fireWatches_watched h

theorem State.trcWatch_watched (h : z.Watched s) {id : Nat} : z.Watched (s.trcWatch id) := by
  unfold State.trcWatch
  split
  · exact ⟨h.rest, h.regs, h.ctx, h.awake⟩
  · exact h

/-- A write of a signal is the value, and the watches of it. -/
theorem State.putSig_watched {id : Nat} {w : Word} : State.Watched { s with sigs := spSet (sigReset id) s.sigs id w } (s.putSig id w) :=
  State.trcWatch_watched (fireWatches_watched (State.Watched.refl _))

/-- The signal takes the value, and every other keeps its own. -/
theorem State.putSig_same {id : Nat} {w : Word} (h : spWf sigReset s.sigs = true) : (s.putSig id w).sig id = w := by
  rw [State.putSig_watched.sig]
  exact spGet_spSet_same (d := sigReset) h

theorem State.putSig_other {id j : Nat} {w : Word} (h : j ≠ id) : (s.putSig id w).sig j = s.sig j := by
  rw [State.putSig_watched.sig]
  exact spGet_spSet_other h

theorem State.putSig_wf {id : Nat} {w : Word} (h : spWf sigReset s.sigs = true) : spWf sigReset (s.putSig id w).sigs = true := by
  rw [State.putSig_watched.sigs]
  exact spSet_wf (d := sigReset) h

end Sys2Proof.Machine
end

