-- ==== Sys2Proof/Laws/Only.lean ====
section
/-! SUPPORT. Laws/Only.lean: how the work of one mast is shown to be its own: the relation OnlyMast of Safety.lean, operation by operation. -/

namespace Sys2Proof.Machine

variable {s t z : State} {m : Fin 16}

theorem OnlyMast.refl (m : Fin 16) (s : State) : OnlyMast m s s := ⟨rfl, fun _ _ _ => rfl, fun _ _ _ => rfl⟩

theorem OnlyMast.trans {a b c : State} (h : OnlyMast m a b) (k : OnlyMast m b c) : OnlyMast m a c :=
  ⟨k.outside.trans h.outside, fun key h1 h2 => (k.regs key h1 h2).trans (h.regs key h1 h2), fun id h1 h2 => (k.sigs id h1 h2).trans (h.sigs id h1 h2)⟩

/-- What only the store does is within a mast's work. -/
theorem OnlyMast.stores (h : OnlyMast m z s) (k : s.Stores t) : OnlyMast m z t := by
  refine h.trans ⟨?_, fun key _ h2 => k.regs key fun e => h2 (by rw [e]; decide), fun id _ _ => k.sig id⟩
  unfold State.outside
  rw [k.rest, k.masts, k.deferred, k.eng, k.mem]

/-- A change of a mast that is the mast's own, or that leaves it apart. -/
theorem OnlyMast.updN (h : OnlyMast m z s) {n : Fin 16} {f : Mast → Mast} (hf : n = m ∨ (f (s.mast n)).apart = (s.mast n).apart) :
    OnlyMast m z (s.updM n f) := by
  refine ⟨?_, h.regs, h.sigs⟩
  rw [← h.outside]
  have e : ((s.updM n f).masts.map Mast.apart).set m {} = (s.masts.map Mast.apart).set m {} := by
    change ((s.masts.set n (f s.masts[n])).map Mast.apart).set m {} = _
    ext i hi
    simp only [Vector.getElem_set, Vector.getElem_map]
    split
    · rfl
    · rename_i hm
      split
      · rename_i hn
        rcases hf with hf | hf
        · rw [hf] at hn
          exact absurd hn hm
        · subst hn
          exact hf
      · rfl
  unfold State.outside
  rw [e]
  rfl

/-- The mast's own data. -/
theorem OnlyMast.updM (h : OnlyMast m z s) {f : Mast → Mast} : OnlyMast m z (s.updM m f) := h.updN (.inl rfl)

theorem OnlyMast.updG (h : OnlyMast m z s) {g : Fin 8} {f : BusGroup → BusGroup} : OnlyMast m z (s.updG g f) := ⟨h.outside, h.regs, h.sigs⟩

theorem OnlyMast.updPwm (h : OnlyMast m z s) {f : Pwm → Pwm} : OnlyMast m z (s.updPwm m f) := h.updM
theorem OnlyMast.updSense (h : OnlyMast m z s) {f : Sense → Sense} : OnlyMast m z (s.updSense m f) := h.updM
theorem OnlyMast.updCom (h : OnlyMast m z s) {f : Com → Com} : OnlyMast m z (s.updCom m f) := h.updM
theorem OnlyMast.updSeq (h : OnlyMast m z s) {f : Seq → Seq} : OnlyMast m z (s.updSeq m f) := h.updM
theorem OnlyMast.updHal (h : OnlyMast m z s) {f : Hal → Hal} : OnlyMast m z (s.updHal m f) := h.updM
theorem OnlyMast.updCmd (h : OnlyMast m z s) {f : CmdPin → CmdPin} : OnlyMast m z (s.updCmd m f) := h.updM
theorem OnlyMast.updShr (h : OnlyMast m z s) {f : Shroud → Shroud} : OnlyMast m z (s.updShr m f) := h.updM

theorem OnlyMast.wr (h : OnlyMast m z s) {k : Nat} {w : Word} (hk : ofMast m k = true) : OnlyMast m z (s.wr k w) :=
  ⟨h.outside, fun key h1 h2 => by
    have e : key ≠ k := fun e => by rw [e, hk] at h1; cases h1
    rw [State.rd_wr_other e]
    exact h.regs key h1 h2, h.sigs⟩

theorem ofMast_keyI {a : Nat} (h : a / 256 = 16) : ofMast m (keyI a m) = true := by
  unfold ofMast keyI
  have h1 : (a + 0x2000 * m.val) / 0x2000 = m.val := by omega
  have h2 : (a + 0x2000 * m.val) % 0x2000 / 256 = 16 := by omega
  rw [h1, h2]
  simp

theorem OnlyMast.wrI (h : OnlyMast m z s) {a : Nat} {w : Word} (ha : a / 256 = 16) : OnlyMast m z (s.wr (keyI a m) w) := h.wr (ofMast_keyI ha)

/-- What the present cycle has seen. -/
theorem OnlyMast.cyc (h : OnlyMast m z s) {c : Cyc} : OnlyMast m z { s with cyc := c } := ⟨h.outside, h.regs, h.sigs⟩

theorem OnlyMast.setFld (h : OnlyMast m z s) {f : Fld} {v : Nat} (ha : f.addr / 256 = 16) : OnlyMast m z (s.setFld f m v) := (h.wrI ha).cyc

theorem OnlyMast.bump (h : OnlyMast m z s) {f : Fld} {n : Nat} (ha : f.addr / 256 = 16) : OnlyMast m z (s.bump f m n) := (h.wrI ha).cyc

theorem OnlyMast.wrStatus (h : OnlyMast m z s) {k : Nat} {w : Word} (hk : k % 0x2000 ∈ statusRegs) : OnlyMast m z (s.wr k w) :=
  ⟨h.outside, fun key h1 h2 => by
    have e : key ≠ k := fun e => h2 (by rw [e]; exact hk)
    rw [State.rd_wr_other e]
    exact h.regs key h1 h2, h.sigs⟩

theorem OnlyMast.setStatus (h : OnlyMast m z s) {f : Fld} {i v : Nat} (ha : f.addr % 0x2000 ∈ statusRegs) : OnlyMast m z (s.setFld f i v) :=
  (h.wrStatus (by unfold keyI; rwa [Nat.add_mul_mod_self_left])).cyc

theorem OnlyMast.bumpStatus (h : OnlyMast m z s) {f : Fld} {i n : Nat} (ha : f.addr % 0x2000 ∈ statusRegs) : OnlyMast m z (s.bump f i n) :=
  (h.wrStatus (by unfold keyI; rwa [Nat.add_mul_mod_self_left])).cyc

theorem OnlyMast.orStatus (h : OnlyMast m z s) {k : Nat} {w : Word} (hk : k % 0x2000 ∈ statusRegs) : OnlyMast m z (s.orFresh k w) :=
  (h.wrStatus hk).cyc

theorem OnlyMast.fc (h : OnlyMast m z s) (f : Fc → Fc) : OnlyMast m z (s.updFc f) := ⟨h.outside, h.regs, h.sigs⟩

theorem OnlyMast.deferred (h : OnlyMast m z s) {l : List Deferred}
    (hl : l.filter (fun d => decide (d.key / 0x2000 ≠ m.val)) = s.deferred.filter fun d => decide (d.key / 0x2000 ≠ m.val)) :
    OnlyMast m z { s with deferred := l } :=
  ⟨by rw [← h.outside]; unfold State.outside; rw [← hl]; rfl, h.regs, h.sigs⟩

theorem OnlyMast.raise (h : OnlyMast m z s) {src detail : Nat} {q : Option Nat} {k : Bool} : OnlyMast m z (s.raise src detail q k) := by
  unfold State.raise
  split
  · exact ⟨h.outside, h.regs, h.sigs⟩
  · exact h

theorem OnlyMast.raiseM (h : OnlyMast m z s) {n : Fin 16} {k detail : Nat} {b : Bool} : OnlyMast m z (s.raiseM n k detail b) := h.raise

/-- Watches fired and a crow's nest started. -/
theorem OnlyMast.watched (h : OnlyMast m z s) (k : s.Watched t) : OnlyMast m z t := by
  refine h.trans ⟨?_, fun key _ h2 => k.regs key fun e => h2 (by rw [e]; decide), fun id _ _ => k.sig id⟩
  have e1 : t.eng.ctxs.map Ctx.core = s.eng.ctxs.map Ctx.core := by
    ext i hi
    simpa [State.ctx] using k.ctx ⟨i, hi⟩
  have e2 : t.eng.core = s.eng.core := by
    have e := congrArg (fun u : State => { u.eng with ctxs := s.eng.ctxs.map Ctx.core, trcFull := false, trcCount := 0 }) k.rest
    unfold Eng.core
    rw [e1]
    exact e
  have e4 : t.deferred = s.deferred := by have e := congrArg State.deferred k.rest; exact e
  have f (d : List Deferred) (x : Vector Mast 16) (y : Eng) (q : MemPort) := congrArg (fun u : State =>
    ({ u with regs := [], store := {}, cyc := {}, sigs := [], fc := {}, masts := x, deferred := d, bgs := Vector.replicate 8 {}, eng := y, mem := q } : State)) k.rest
  unfold State.outside
  rw [k.masts, e2, k.mem, e4]
  exact f _ _ _ _

theorem OnlyMast.trigger (h : OnlyMast m z s) {c kind a b : Nat} : OnlyMast m z (s.trigger c kind a b) :=
  h.watched (State.trigger_watched (.refl s))

theorem OnlyMast.when (h : OnlyMast m z s) {c : Bool} {f : State → State} (hf : ∀ t, OnlyMast m z t → OnlyMast m z (f t)) : OnlyMast m z (s.when c f) := by
  unfold State.when
  split
  · exact hf s h
  · exact h

theorem OnlyMast.ite {c : Prop} [Decidable c] (h : OnlyMast m z s) (k : OnlyMast m z t) : OnlyMast m z (if c then s else t) := by
  split <;> assumption

theorem OnlyMast.foldl {α : Type} {l : List α} {f : State → α → State} (h : OnlyMast m z s)
    (hf : ∀ t x, OnlyMast m z t → OnlyMast m z (f t x)) : OnlyMast m z (l.foldl f s) := by
  induction l generalizing s with
  | nil => exact h
  | cons x r ih => exact ih (hf s x h)

/-- A signal of the trace buffer. -/
theorem OnlyMast.putTrace (h : OnlyMast m z s) {id : Nat} {w : Word} (hi : traceSig id = true) : OnlyMast m z (s.putSig id w) := by
  have h1 : OnlyMast m z { s with sigs := spSet (sigReset id) s.sigs id w } := by
    refine ⟨h.outside, h.regs, fun j h1 h2 => ?_⟩
    have e : j ≠ id := fun e => by rw [e, hi] at h2; cases h2
    have e2 : ({ s with sigs := spSet (sigReset id) s.sigs id w } : State).sig j = s.sig j := by
      unfold State.sig
      exact spGet_spSet_other e
    rw [e2]
    exact h.sigs j h1 h2
  exact h1.watched State.putSig_watched

/-- A signal of the mast's block. -/
theorem OnlyMast.putSig (h : OnlyMast m z s) {id : Nat} {w : Word} (hi : sigOfMast m id = true) : OnlyMast m z (s.putSig id w) := by
  unfold State.putSig
  dsimp only
  have h1 : OnlyMast m z { s with sigs := spSet (sigReset id) s.sigs id w } := by
    refine ⟨h.outside, h.regs, fun j h1 h2 => ?_⟩
    have e : j ≠ id := fun e => by rw [e, hi] at h1; cases h1
    have e2 : ({ s with sigs := spSet (sigReset id) s.sigs id w } : State).sig j = s.sig j := by
      unfold State.sig
      exact spGet_spSet_other e
    rw [e2]
    exact h.sigs j h1 h2
  exact h1.watched State.putSig_watched

theorem OnlyMast.putM (h : OnlyMast m z s) {o : Nat} {w : Word} (ho : o < 0x800) : OnlyMast m z (s.putM m o w) :=
  h.putSig (by unfold sigOfMast sigM; simp; omega)

/-- The offsets of a list of a mast's signals lie in its block. -/
def ofsFit (l : List (Nat × Word)) : Bool := l.all fun x => decide (x.1 < 0x800)

@[simp] theorem ofsFit_nil : ofsFit [] = true := rfl
@[simp] theorem ofsFit_cons {x : Nat × Word} {l : List (Nat × Word)} : ofsFit (x :: l) = (decide (x.1 < 0x800) && ofsFit l) := rfl
@[simp] theorem ofsFit_append {l k : List (Nat × Word)} : ofsFit (l ++ k) = (ofsFit l && ofsFit k) := List.all_append
@[simp] theorem ofsFit_ite {c : Prop} [Decidable c] {l k : List (Nat × Word)} : ofsFit (if c then l else k) = if c then ofsFit l else ofsFit k := by
  split <;> rfl
@[simp] theorem State.dutySigs_fit {t k : Nat} {x : Option Word} : ofsFit (s.dutySigs m t k x) = true := by unfold State.dutySigs; simp
@[simp] theorem State.halOut_fit : ofsFit (s.halOut m) = true := by unfold State.halOut; simp

theorem OnlyMast.putMs {l : List (Nat × Word)} (h : OnlyMast m z s) (hl : ofsFit l = true) : OnlyMast m z (s.putMs m l) := by
  induction l generalizing s with
  | nil => exact h
  | cons x r ih =>
    simp only [ofsFit_cons, Bool.and_eq_true, decide_eq_true_eq] at hl
    exact ih (h.putM hl.1) hl.2

/-! ### Reading it -/

theorem OnlyMast.apart (h : OnlyMast m s t) {n : Fin 16} (hn : n ≠ m) : (t.mast n).apart = (s.mast n).apart := by
  have e := congrArg State.masts h.outside
  have e2 : ((t.masts.map Mast.apart).set m {})[n] = ((s.masts.map Mast.apart).set m {})[n] := congrArg (fun v : Vector Mast 16 => v[n]) e
  have hv : m.val ≠ n.val := fun k => hn (Fin.ext k.symm)
  simp only [Vector.getElem_set, Fin.getElem_fin, if_neg hv, Vector.getElem_map] at e2
  exact e2

end Sys2Proof.Machine
end

