-- ==== Sys2Proof/Laws/OnlyMast.lean ====
section
/-! SUPPORT. Laws/OnlyMast.lean: the operations of one mast work on that mast alone (OnlyMast of Safety.lean). -/

set_option linter.unusedTactic false
set_option linter.unreachableTactic false
set_option linter.unusedVariables false

namespace Sys2Proof.Machine

theorem State.applyDeferred_only {z s : State} {m : Fin 16} {b : Nat} (h : OnlyMast m z s) : OnlyMast m z (State.applyDeferred s m b) := by
  unfold State.applyDeferred
  refine h.deferred ?_
  rw [List.filter_filter]
  congr 1
  funext d
  by_cases e : d.key / 0x2000 = m.val <;> simp [e]

theorem State.commitSet_only {z s : State} {m : Fin 16} {set : PwmSet} {tag : Option Nat} {sheet : Option Nat} {at_ : Nat} {rank : Nat} (h : OnlyMast m z s) :
    OnlyMast m z (State.commitSet s m set tag sheet at_ rank) := by
  unfold State.commitSet
  try extract_lets
  repeat' (first | with_reducible assumption | with_reducible refine OnlyMast.ite ?_ ?_ | with_reducible refine OnlyMast.updPwm ?_
                 | with_reducible refine OnlyMast.when ?_ ?_ | with_reducible refine OnlyMast.setFld ?_ (by decide)
                 | with_reducible refine OnlyMast.foldl ?_ ?_ | intro _ _ | intro _ | extract_lets | split | extract_lets | dsimp only)

theorem State.reload_only {z s : State} {m : Fin 16} {b : Nat} (h : OnlyMast m z s) : OnlyMast m z (State.reload s m b) := by
  unfold State.reload
  extract_lets p e n set act0 act low sheet s1 s2
  have h_s1 : OnlyMast m z s1 := by
    repeat' (first | with_reducible assumption | with_reducible refine OnlyMast.ite ?_ ?_ | with_reducible refine OnlyMast.updPwm ?_
                   | with_reducible refine OnlyMast.when ?_ ?_ | with_reducible refine OnlyMast.setFld ?_ (by decide)
                   | with_reducible refine OnlyMast.raiseM ?_ | with_reducible refine OnlyMast.bump ?_ (by decide)
                   | with_reducible refine OnlyMast.foldl ?_ ?_ | intro _ _ | intro _ | extract_lets | split | dsimp only)
  clear_value s1
  have h_s2 : OnlyMast m z s2 := by
    repeat' (first | with_reducible assumption | with_reducible refine OnlyMast.ite ?_ ?_ | with_reducible refine OnlyMast.updPwm ?_
                   | with_reducible refine OnlyMast.when ?_ ?_ | with_reducible refine OnlyMast.setFld ?_ (by decide)
                   | with_reducible refine OnlyMast.raiseM ?_ | with_reducible refine OnlyMast.bump ?_ (by decide)
                   | with_reducible refine OnlyMast.foldl ?_ ?_ | intro _ _ | intro _ | extract_lets | split | dsimp only)
  clear_value s2
  repeat' (first | with_reducible assumption | with_reducible refine OnlyMast.ite ?_ ?_ | with_reducible refine OnlyMast.updPwm ?_
                 | with_reducible refine OnlyMast.when ?_ ?_ | with_reducible refine OnlyMast.setFld ?_ (by decide)
                 | with_reducible refine OnlyMast.raiseM ?_ | with_reducible refine OnlyMast.bump ?_ (by decide)
                 | with_reducible refine OnlyMast.foldl ?_ ?_ | intro _ _ | intro _ | extract_lets | split | dsimp only)

theorem State.gateMark_only {z s : State} {m : Fin 16} (h : OnlyMast m z s) : OnlyMast m z (State.gateMark s m) := by
  unfold State.gateMark
  try extract_lets
  repeat' (first | with_reducible assumption | with_reducible refine OnlyMast.ite ?_ ?_ | with_reducible refine OnlyMast.updPwm ?_
                 | with_reducible refine OnlyMast.foldl ?_ ?_ | intro _ _ | intro _ | extract_lets | split | dsimp only)

theorem State.refreshSafe_only {z s : State} {m : Fin 16} (h : OnlyMast m z s) : OnlyMast m z (State.refreshSafe s m) := by
  unfold State.refreshSafe
  try extract_lets
  repeat' (first | with_reducible assumption | with_reducible refine OnlyMast.ite ?_ ?_ | with_reducible refine OnlyMast.updShr ?_
                 | with_reducible refine State.gateMark_only ?_ | with_reducible refine OnlyMast.foldl ?_ ?_ | intro _ _ | intro _ | extract_lets
                 | split | dsimp only)

theorem State.leaveSafe_only {z s : State} {m : Fin 16} (h : OnlyMast m z s) : OnlyMast m z (State.leaveSafe s m) := by
  unfold State.leaveSafe
  try extract_lets
  repeat' (first | with_reducible assumption | with_reducible refine OnlyMast.ite ?_ ?_ | with_reducible refine OnlyMast.updShr ?_
                 | with_reducible refine State.gateMark_only ?_ | with_reducible refine OnlyMast.foldl ?_ ?_ | intro _ _ | intro _ | extract_lets
                 | split | dsimp only)

theorem State.setOut_only {z s : State} {m : Fin 16} {en : Bool} {low : Bool} (h : OnlyMast m z s) : OnlyMast m z (State.setOut s m en low) := by
  unfold State.setOut
  try extract_lets
  repeat' (first | with_reducible assumption | with_reducible refine OnlyMast.ite ?_ ?_ | with_reducible refine OnlyMast.updSeq ?_
                 | with_reducible refine State.gateMark_only ?_ | with_reducible refine OnlyMast.foldl ?_ ?_ | intro _ _ | intro _ | extract_lets
                 | split | dsimp only)

theorem State.setSheet_only {z s : State} {m : Fin 16} {mask : Nat} (h : OnlyMast m z s) : OnlyMast m z (State.setSheet s m mask) := by
  unfold State.setSheet
  try extract_lets
  repeat' (first | with_reducible assumption | with_reducible refine OnlyMast.ite ?_ ?_ | with_reducible refine OnlyMast.updPwm ?_
                 | with_reducible refine State.gateMark_only ?_ | with_reducible refine OnlyMast.foldl ?_ ?_ | intro _ _ | intro _ | extract_lets
                 | split | dsimp only)

theorem State.anchorStep_only {z s : State} {m : Fin 16} {b : Nat} (h : OnlyMast m z s) : OnlyMast m z (State.anchorStep s m b).1 := by
  unfold State.anchorStep
  try extract_lets
  repeat' (first | with_reducible assumption | with_reducible refine OnlyMast.ite ?_ ?_ | with_reducible refine OnlyMast.updPwm ?_
                 | with_reducible refine OnlyMast.foldl ?_ ?_ | intro _ _ | intro _ | extract_lets | split | dsimp only)

theorem State.startRun_only {z s : State} {m : Fin 16} (h : OnlyMast m z s) :
    OnlyMast m z (State.startRun s m) := by
  unfold State.startRun
  try extract_lets
  repeat' (first | with_reducible assumption | with_reducible refine OnlyMast.ite ?_ ?_ | with_reducible refine OnlyMast.updPwm ?_
                 | with_reducible refine OnlyMast.when ?_ ?_ | with_reducible refine OnlyMast.setFld ?_ (by decide)
                 | with_reducible refine OnlyMast.foldl ?_ ?_ | intro _ _ | intro _ | extract_lets | split | extract_lets | dsimp only)

theorem State.startS_only {z s : State} {m : Fin 16} {t : Nat} (h : OnlyMast m z s) : OnlyMast m z (State.startS s m t) := by
  unfold State.startS
  try extract_lets
  repeat' (first | with_reducible assumption | with_reducible refine OnlyMast.ite ?_ ?_ | with_reducible refine OnlyMast.updSense ?_
                 | with_reducible refine OnlyMast.setFld ?_ (by decide) | with_reducible refine OnlyMast.foldl ?_ ?_ | intro _ _ | intro _
                 | extract_lets | split | dsimp only)

theorem State.startOfs_only {z s : State} {m : Fin 16} {t : Nat} (h : OnlyMast m z s) : OnlyMast m z (State.startOfs s m t) := by
  unfold State.startOfs
  try extract_lets
  repeat' (first | with_reducible assumption | with_reducible refine OnlyMast.ite ?_ ?_ | with_reducible refine OnlyMast.updSense ?_
                 | with_reducible refine OnlyMast.foldl ?_ ?_ | intro _ _ | intro _ | extract_lets | split | dsimp only)

theorem State.startP_only {z s : State} {m : Fin 16} {t : Nat} (h : OnlyMast m z s) : OnlyMast m z (State.startP s m t) := by
  unfold State.startP
  try extract_lets
  repeat' (first | with_reducible assumption | with_reducible refine OnlyMast.ite ?_ ?_ | with_reducible refine OnlyMast.setFld ?_ (by decide)
                 | with_reducible refine OnlyMast.updSense ?_ | with_reducible refine OnlyMast.foldl ?_ ?_ | intro _ _ | intro _ | extract_lets
                 | split | dsimp only)

theorem State.auxtFire_only {z s : State} {m : Fin 16} {n : Nat} (h : OnlyMast m z s) : OnlyMast m z (State.auxtFire s m n) := by
  unfold State.auxtFire
  try extract_lets
  repeat' (first | with_reducible assumption | with_reducible refine OnlyMast.ite ?_ ?_ | with_reducible refine OnlyMast.updPwm ?_
                 | with_reducible refine State.startOfs_only ?_ | with_reducible refine OnlyMast.when ?_ ?_
                 | with_reducible refine State.startS_only ?_ | with_reducible refine State.startP_only ?_
                 | with_reducible refine OnlyMast.foldl ?_ ?_ | intro _ _ | intro _ | extract_lets | split | dsimp only)

theorem State.ofsLook_only {z s : State} {m : Fin 16} (h : OnlyMast m z s) :
    OnlyMast m z (State.ofsLook s m) := by
  unfold State.ofsLook
  try extract_lets
  repeat' (first | with_reducible assumption | with_reducible refine OnlyMast.ite ?_ ?_ | with_reducible refine OnlyMast.updSense ?_
                 | with_reducible refine OnlyMast.raiseM ?_ | with_reducible refine OnlyMast.foldl ?_ ?_ | intro _ _ | intro _ | extract_lets
                 | split | extract_lets | dsimp only)

theorem State.trackOfs_only {z s : State} {m : Fin 16} {code : Int} {tc : Nat} (h : OnlyMast m z s) :
    OnlyMast m z (State.trackOfs s m code tc) := by
  unfold State.trackOfs
  try extract_lets
  repeat' (first | with_reducible assumption | with_reducible refine OnlyMast.ite ?_ ?_ | with_reducible refine OnlyMast.updSense ?_
                 | with_reducible refine State.ofsLook_only ?_ | with_reducible refine OnlyMast.foldl ?_ ?_ | intro _ _ | intro _ | extract_lets
                 | split | extract_lets | dsimp only)

theorem State.offsetSample_only {z s : State} {m : Fin 16} {code : ℤ} (h : OnlyMast m z s) : OnlyMast m z (State.offsetSample s m code) := by
  unfold State.offsetSample
  try extract_lets
  repeat' (first | with_reducible assumption | with_reducible refine OnlyMast.ite ?_ ?_ | with_reducible refine OnlyMast.setFld ?_ (by decide)
                 | with_reducible refine OnlyMast.updSense ?_ | with_reducible refine OnlyMast.when ?_ ?_ | with_reducible refine OnlyMast.raiseM ?_
                 | with_reducible refine State.trackOfs_only ?_ | with_reducible refine OnlyMast.foldl ?_ ?_ | intro _ _ | intro _ | extract_lets
                 | split | dsimp only)

theorem State.doneS_only {z s : State} {m : Fin 16} {c : ConvS} {raw : ℤ} (h : OnlyMast m z s) : OnlyMast m z (State.doneS s m c raw) := by
  unfold State.doneS
  try extract_lets
  repeat' (first | with_reducible assumption | with_reducible refine OnlyMast.ite ?_ ?_ | with_reducible refine OnlyMast.updSense ?_
                 | with_reducible refine State.offsetSample_only ?_ | with_reducible refine OnlyMast.when ?_ ?_
                 | with_reducible refine OnlyMast.setFld ?_ (by decide) | with_reducible refine State.trackOfs_only ?_
                 | with_reducible refine OnlyMast.foldl ?_ ?_ | intro _ _ | intro _ | extract_lets | split | dsimp only)

theorem State.doneP_only {z s : State} {m : Fin 16} {c : ConvP} {raw : Nat} (h : OnlyMast m z s) : OnlyMast m z (State.doneP s m c raw) := by
  unfold State.doneP
  try extract_lets
  repeat' (first | with_reducible assumption | with_reducible refine OnlyMast.ite ?_ ?_ | with_reducible refine OnlyMast.updSense ?_
                 | with_reducible refine OnlyMast.foldl ?_ ?_ | intro _ _ | intro _ | extract_lets | split | dsimp only)

theorem State.raiseInl_only {z s : State} {m : Fin 16} {c : Bool} (h : OnlyMast m z s) : OnlyMast m z (State.raiseInl s m c) := by
  unfold State.raiseInl
  try extract_lets
  repeat' (first | with_reducible assumption | with_reducible refine OnlyMast.ite ?_ ?_ | with_reducible refine OnlyMast.when ?_ ?_
                 | with_reducible refine OnlyMast.raiseM ?_ | with_reducible refine OnlyMast.foldl ?_ ?_ | intro _ _ | intro _ | extract_lets | split
                 | dsimp only)

theorem State.raiseSh_only {z s : State} {m : Fin 16} {c : Bool} (h : OnlyMast m z s) : OnlyMast m z (State.raiseSh s m c) := by
  unfold State.raiseSh
  try extract_lets
  repeat' (first | with_reducible assumption | with_reducible refine OnlyMast.ite ?_ ?_ | with_reducible refine OnlyMast.when ?_ ?_
                 | with_reducible refine OnlyMast.raiseM ?_ | with_reducible refine OnlyMast.foldl ?_ ?_ | intro _ _ | intro _ | extract_lets | split
                 | dsimp only)

theorem State.refCheck_only {z s : State} {m : Fin 16} {raw : Option Nat} (h : OnlyMast m z s) : OnlyMast m z (State.refCheck s m raw) := by
  unfold State.refCheck
  try extract_lets
  repeat' (first | with_reducible assumption | with_reducible refine OnlyMast.ite ?_ ?_ | with_reducible refine OnlyMast.updSense ?_
                 | with_reducible refine State.raiseInl_only ?_ | with_reducible refine OnlyMast.foldl ?_ ?_ | intro _ _ | intro _ | extract_lets
                 | split | dsimp only)

theorem State.inlOffsets_only {z s : State} {m : Fin 16} {c : Cap} (h : OnlyMast m z s) : OnlyMast m z (State.inlOffsets s m c) := by
  unfold State.inlOffsets
  try extract_lets
  repeat' (first | with_reducible assumption | with_reducible refine OnlyMast.ite ?_ ?_ | with_reducible refine OnlyMast.updSense ?_
                 | with_reducible refine OnlyMast.setFld ?_ (by decide) | with_reducible refine State.raiseInl_only ?_
                 | with_reducible refine OnlyMast.foldl ?_ ?_ | intro _ _ | intro _ | extract_lets | split | dsimp only)

theorem State.xchkAdd_only {z s : State} {m : Fin 16} {both : Bool} {sh : List Word} {ia : Word} {ib : Word} (h : OnlyMast m z s) : OnlyMast m z
  (State.xchkAdd s m both sh ia ib) := by
  unfold State.xchkAdd
  try extract_lets
  repeat' (first | with_reducible assumption | with_reducible refine OnlyMast.ite ?_ ?_ | with_reducible refine OnlyMast.updSense ?_
                 | with_reducible refine OnlyMast.foldl ?_ ?_ | intro _ _ | intro _ | extract_lets | split | dsimp only)

theorem State.pathLook_only {z s : State} {m : Fin 16} {t : Nat} (h : OnlyMast m z s) :
    OnlyMast m z (State.pathLook s m t) := by
  unfold State.pathLook
  try extract_lets
  repeat' (first | with_reducible assumption | with_reducible refine OnlyMast.ite ?_ ?_ | with_reducible refine OnlyMast.updSense ?_
                 | with_reducible refine OnlyMast.foldl ?_ ?_ | intro _ _ | intro _ | extract_lets | split | extract_lets | dsimp only)

theorem State.setRuns_only {z s : State} {m : Fin 16} {c : Cap} {shOk : Bool} {iOk : Bool} {inlBad : Bool} (h : OnlyMast m z s) :
    OnlyMast m z (State.setRuns s m c shOk iOk inlBad) := by
  unfold State.setRuns
  extract_lets x inv held row3 bad iv dev s1 s2 s3 s4
  have h_s1 : OnlyMast m z s1 := by
    repeat' (first | with_reducible assumption | with_reducible refine OnlyMast.ite ?_ ?_ | with_reducible refine OnlyMast.updSense ?_
                   | with_reducible refine State.raiseSh_only ?_ | with_reducible refine State.raiseInl_only ?_
                   | with_reducible refine OnlyMast.foldl ?_ ?_ | intro _ _ | intro _ | extract_lets | split | extract_lets | dsimp only)
  clear_value s1
  have h_s2 : OnlyMast m z s2 := by
    repeat' (first | with_reducible assumption | with_reducible refine OnlyMast.ite ?_ ?_ | with_reducible refine OnlyMast.updSense ?_
                   | with_reducible refine State.raiseSh_only ?_ | with_reducible refine State.raiseInl_only ?_
                   | with_reducible refine OnlyMast.foldl ?_ ?_ | intro _ _ | intro _ | extract_lets | split | extract_lets | dsimp only)
  clear_value s2
  have h_s3 : OnlyMast m z s3 := by
    repeat' (first | with_reducible assumption | with_reducible refine OnlyMast.ite ?_ ?_ | with_reducible refine OnlyMast.updSense ?_
                   | with_reducible refine State.raiseSh_only ?_ | with_reducible refine State.raiseInl_only ?_
                   | with_reducible refine OnlyMast.foldl ?_ ?_ | intro _ _ | intro _ | extract_lets | split | extract_lets | dsimp only)
  clear_value s3
  have h_s4 : OnlyMast m z s4 := by
    repeat' (first | with_reducible assumption | with_reducible refine OnlyMast.ite ?_ ?_ | with_reducible refine OnlyMast.updSense ?_
                   | with_reducible refine State.raiseSh_only ?_ | with_reducible refine State.raiseInl_only ?_
                   | with_reducible refine OnlyMast.foldl ?_ ?_ | intro _ _ | intro _ | extract_lets | split | extract_lets | dsimp only)
  clear_value s4
  repeat' (first | with_reducible assumption | with_reducible refine OnlyMast.ite ?_ ?_ | with_reducible refine OnlyMast.updSense ?_
                 | with_reducible refine State.raiseSh_only ?_ | with_reducible refine State.raiseInl_only ?_
                 | with_reducible refine OnlyMast.foldl ?_ ?_ | intro _ _ | intro _ | extract_lets | split | extract_lets | dsimp only)

theorem State.writeSet_only {z s : State} {m : Fin 16} {c : Cap} (h : OnlyMast m z s) :
    OnlyMast m z (State.writeSet s m c).1 := by
  unfold State.writeSet
  extract_lets x why shOk s0 refOk vOk ra rb inlBad inlValid iOk i1 i2 ia ib sh ph cur dp vbus s1 s2 inv s3 s4
  have h_s0 : OnlyMast m z s0 := by
    repeat' (first | with_reducible assumption | with_reducible refine OnlyMast.ite ?_ ?_ | with_reducible refine State.refCheck_only ?_
                   | with_reducible refine OnlyMast.when ?_ ?_ | with_reducible refine OnlyMast.setFld ?_ (by decide)
                   | with_reducible refine State.inlOffsets_only ?_ | with_reducible refine State.xchkAdd_only ?_
                   | with_reducible refine State.setRuns_only ?_ | with_reducible refine OnlyMast.putMs ?_ (by simp)
                   | with_reducible refine OnlyMast.updSense ?_ | with_reducible refine OnlyMast.foldl ?_ ?_ | intro _ _ | intro _ | extract_lets
                   | split | extract_lets | dsimp only)
  clear_value s0
  have h_s1 : OnlyMast m z s1 := by
    repeat' (first | with_reducible assumption | with_reducible refine OnlyMast.ite ?_ ?_ | with_reducible refine State.refCheck_only ?_
                   | with_reducible refine OnlyMast.when ?_ ?_ | with_reducible refine OnlyMast.setFld ?_ (by decide)
                   | with_reducible refine State.inlOffsets_only ?_ | with_reducible refine State.xchkAdd_only ?_
                   | with_reducible refine State.setRuns_only ?_ | with_reducible refine OnlyMast.putMs ?_ (by simp)
                   | with_reducible refine OnlyMast.updSense ?_ | with_reducible refine OnlyMast.foldl ?_ ?_ | intro _ _ | intro _ | extract_lets
                   | split | extract_lets | dsimp only)
  clear_value s1
  have h_s2 : OnlyMast m z s2 := by
    repeat' (first | with_reducible assumption | with_reducible refine OnlyMast.ite ?_ ?_ | with_reducible refine State.refCheck_only ?_
                   | with_reducible refine OnlyMast.when ?_ ?_ | with_reducible refine OnlyMast.setFld ?_ (by decide)
                   | with_reducible refine State.inlOffsets_only ?_ | with_reducible refine State.xchkAdd_only ?_
                   | with_reducible refine State.setRuns_only ?_ | with_reducible refine OnlyMast.putMs ?_ (by simp)
                   | with_reducible refine OnlyMast.updSense ?_ | with_reducible refine OnlyMast.foldl ?_ ?_ | intro _ _ | intro _ | extract_lets
                   | split | extract_lets | dsimp only)
  clear_value s2
  have h_s3 : OnlyMast m z s3 := by
    repeat' (first | with_reducible assumption | with_reducible refine OnlyMast.ite ?_ ?_ | with_reducible refine State.refCheck_only ?_
                   | with_reducible refine OnlyMast.when ?_ ?_ | with_reducible refine OnlyMast.setFld ?_ (by decide)
                   | with_reducible refine State.inlOffsets_only ?_ | with_reducible refine State.xchkAdd_only ?_
                   | with_reducible refine State.setRuns_only ?_ | with_reducible refine OnlyMast.putMs ?_ (by simp)
                   | with_reducible refine OnlyMast.updSense ?_ | with_reducible refine OnlyMast.foldl ?_ ?_ | intro _ _ | intro _ | extract_lets
                   | split | extract_lets | dsimp only)
  clear_value s3
  have h_s4 : OnlyMast m z s4 := by
    repeat' (first | with_reducible assumption | with_reducible refine OnlyMast.ite ?_ ?_ | with_reducible refine State.refCheck_only ?_
                   | with_reducible refine OnlyMast.when ?_ ?_ | with_reducible refine OnlyMast.setFld ?_ (by decide)
                   | with_reducible refine State.inlOffsets_only ?_ | with_reducible refine State.xchkAdd_only ?_
                   | with_reducible refine State.setRuns_only ?_ | with_reducible refine OnlyMast.putMs ?_ (by simp)
                   | with_reducible refine OnlyMast.updSense ?_ | with_reducible refine OnlyMast.foldl ?_ ?_ | intro _ _ | intro _ | extract_lets
                   | split | extract_lets | dsimp only)
  clear_value s4
  repeat' (first | with_reducible assumption | with_reducible refine OnlyMast.ite ?_ ?_ | with_reducible refine State.refCheck_only ?_
                 | with_reducible refine OnlyMast.when ?_ ?_ | with_reducible refine OnlyMast.setFld ?_ (by decide)
                 | with_reducible refine State.inlOffsets_only ?_ | with_reducible refine State.xchkAdd_only ?_
                 | with_reducible refine State.setRuns_only ?_ | with_reducible refine OnlyMast.putMs ?_ (by simp)
                 | with_reducible refine OnlyMast.updSense ?_ | with_reducible refine OnlyMast.foldl ?_ ?_ | intro _ _ | intro _ | extract_lets
                 | split | extract_lets | dsimp only)

theorem State.loopTrigger_only {z s : State} {m : Fin 16} {k : Nat} (h : OnlyMast m z s) : OnlyMast m z (State.loopTrigger s m k) := by
  unfold State.loopTrigger
  try extract_lets
  repeat' (first | with_reducible assumption | with_reducible refine OnlyMast.ite ?_ ?_ | with_reducible refine OnlyMast.updPwm ?_
                 | with_reducible refine OnlyMast.when ?_ ?_ | with_reducible refine OnlyMast.trigger ?_ | with_reducible refine OnlyMast.foldl ?_ ?_
                 | intro _ _ | intro _ | extract_lets | split | dsimp only)

theorem State.dropValid_only {z s : State} {m : Fin 16} (h : OnlyMast m z s) : OnlyMast m z (State.dropValid s m) := by
  unfold State.dropValid
  try extract_lets
  repeat' (first | with_reducible assumption | with_reducible refine OnlyMast.ite ?_ ?_ | with_reducible refine OnlyMast.putMs ?_ (by simp)
                 | with_reducible refine OnlyMast.foldl ?_ ?_ | intro _ _ | intro _ | extract_lets | split | dsimp only)

theorem State.spoilShunt_only {z s : State} {m : Fin 16} (h : OnlyMast m z s) : OnlyMast m z (State.spoilShunt s m) := by
  unfold State.spoilShunt
  try extract_lets
  repeat' (first | with_reducible assumption | with_reducible refine OnlyMast.ite ?_ ?_ | with_reducible refine OnlyMast.updSense ?_
                 | with_reducible refine OnlyMast.foldl ?_ ?_ | intro _ _ | intro _ | extract_lets | split | dsimp only)

theorem State.xchkStart_only {z s : State} {m : Fin 16} (h : OnlyMast m z s) : OnlyMast m z (State.xchkStart s m) := by
  unfold State.xchkStart
  try extract_lets
  repeat' (first | with_reducible assumption | with_reducible refine OnlyMast.ite ?_ ?_ | with_reducible refine OnlyMast.updSense ?_
                 | with_reducible refine OnlyMast.foldl ?_ ?_ | intro _ _ | intro _ | extract_lets | split | dsimp only)

theorem State.xchkEnd_only {z s : State} {m : Fin 16} (h : OnlyMast m z s) : OnlyMast m z (State.xchkEnd s m) := by
  unfold State.xchkEnd
  try extract_lets
  repeat' (first | with_reducible assumption | with_reducible refine OnlyMast.ite ?_ ?_ | with_reducible refine OnlyMast.updSense ?_
                 | with_reducible refine OnlyMast.putM ?_ (by decide) | with_reducible refine OnlyMast.setFld ?_ (by decide)
                 | with_reducible refine OnlyMast.wrI ?_ (by decide) | with_reducible refine OnlyMast.raiseM ?_
                 | with_reducible refine OnlyMast.foldl ?_ ?_ | intro _ _ | intro _ | extract_lets | split | dsimp only)

theorem State.comFlag_only {z s : State} {m : Fin 16} {f : Fld} (h : OnlyMast m z s) (hf : f.addr / 256 = 16) : OnlyMast m z (State.comFlag s m f) :=
  h.setFld hf

theorem State.comCfgErr_only {z s : State} {m : Fin 16} (h : OnlyMast m z s) : OnlyMast m z (State.comCfgErr s m) := by
  unfold State.comCfgErr
  try extract_lets
  repeat' (first | with_reducible assumption | with_reducible refine OnlyMast.ite ?_ ?_ | with_reducible refine OnlyMast.setFld ?_ (by decide)
                 | with_reducible refine OnlyMast.foldl ?_ ?_ | intro _ _ | intro _ | extract_lets | split | dsimp only)

theorem State.applyStep_only {z s : State} {m : Fin 16} {code : Nat} {t : Nat} (h : OnlyMast m z s) :
    OnlyMast m z (State.applyStep s m code t) := by
  unfold State.applyStep
  try extract_lets
  repeat' (first | with_reducible assumption | with_reducible refine OnlyMast.ite ?_ ?_ | with_reducible refine State.setSheet_only ?_
                 | with_reducible refine OnlyMast.updCom ?_ | with_reducible refine OnlyMast.updPwm ?_ | with_reducible refine OnlyMast.foldl ?_ ?_
                 | intro _ _ | intro _ | extract_lets | split | extract_lets | dsimp only)

theorem State.hardStep_only {z s : State} {m : Fin 16} {code : Nat} {t : Nat} (h : OnlyMast m z s) : OnlyMast m z (State.hardStep s m code t) := by
  unfold State.hardStep
  try extract_lets
  repeat' (first | with_reducible assumption | with_reducible refine OnlyMast.ite ?_ ?_ | with_reducible refine OnlyMast.when ?_ ?_
                 | with_reducible refine State.applyStep_only ?_ | with_reducible refine State.comFlag_only ?_ (by decide)
                 | with_reducible refine OnlyMast.foldl ?_ ?_ | intro _ _ | intro _ | extract_lets | split | dsimp only)

theorem State.stepEvent_only {z s : State} {m : Fin 16} {code : Nat} {t : Nat} (h : OnlyMast m z s) :
    OnlyMast m z (State.stepEvent s m code t) := by
  unfold State.stepEvent
  try extract_lets
  repeat' (first | with_reducible assumption | with_reducible refine OnlyMast.ite ?_ ?_ | with_reducible refine State.comCfgErr_only ?_
                 | with_reducible refine OnlyMast.updCom ?_ | with_reducible refine State.hardStep_only ?_
                 | with_reducible refine OnlyMast.updPwm ?_ | with_reducible refine State.spoilShunt_only ?_
                 | with_reducible refine OnlyMast.foldl ?_ ?_ | intro _ _ | intro _ | extract_lets | split | extract_lets | dsimp only)

theorem State.luffEnd_only {z s : State} {m : Fin 16} {t : Nat} (h : OnlyMast m z s) : OnlyMast m z (State.luffEnd s m t) := by
  unfold State.luffEnd
  try extract_lets
  repeat' (first | with_reducible assumption | with_reducible refine OnlyMast.ite ?_ ?_ | with_reducible refine State.applyStep_only ?_
                 | with_reducible refine OnlyMast.foldl ?_ ?_ | intro _ _ | intro _ | extract_lets | split | dsimp only)

theorem State.takeStep_only {z s : State} {m : Fin 16} {code : Nat} {b : Nat} {tLen : Nat} (h : OnlyMast m z s) : OnlyMast m z (State.takeStep s m code b
  tLen) := by
  unfold State.takeStep
  try extract_lets
  repeat' (first | with_reducible assumption | with_reducible refine OnlyMast.ite ?_ ?_ | with_reducible refine OnlyMast.updCom ?_
                 | with_reducible refine State.setSheet_only ?_ | with_reducible refine State.hardStep_only ?_
                 | with_reducible refine OnlyMast.foldl ?_ ?_ | intro _ _ | intro _ | extract_lets | split | dsimp only)

theorem State.stepBoundary_only {z s : State} {m : Fin 16} {b tLen : Nat} (h : OnlyMast m z s) : OnlyMast m z (State.stepBoundary s m b tLen) := by
  unfold State.stepBoundary
  extract_lets s1 pend ripe s2
  have h1 : OnlyMast m z s1 := by
    show OnlyMast m z (match (s.mast m).com.luff with | some l => if l.n ≤ l.i then s.luffEnd m b else s | none => s)
    split
    · exact OnlyMast.ite (State.luffEnd_only h) h
    · exact h
  have h2 : OnlyMast m z s2 := h1.updPwm
  clear_value s2
  split
  · exact h2.updCom
  · exact State.takeStep_only (OnlyMast.ite (State.comFlag_only (State.luffEnd_only h2) (by decide)) h2)

theorem State.holdMask_only {z s : State} {m : Fin 16} {b : Nat} (h : OnlyMast m z s) : OnlyMast m z (State.holdMask s m b) := by
  unfold State.holdMask
  try extract_lets
  repeat' (first | with_reducible assumption | with_reducible refine OnlyMast.ite ?_ ?_ | with_reducible refine State.applyStep_only ?_
                 | with_reducible refine OnlyMast.foldl ?_ ?_ | intro _ _ | intro _ | extract_lets | split | dsimp only)

theorem State.measure_only {z s : State} {m : Fin 16} {e : Word} {t : Nat} (h : OnlyMast m z s) : OnlyMast m z (State.measure s m e t) := by
  unfold State.measure
  try extract_lets
  repeat' (first | with_reducible assumption | with_reducible refine OnlyMast.ite ?_ ?_ | with_reducible refine OnlyMast.updCom ?_
                 | with_reducible refine OnlyMast.when ?_ ?_ | with_reducible refine State.comFlag_only ?_ (by decide)
                 | with_reducible refine OnlyMast.foldl ?_ ?_ | intro _ _ | intro _ | extract_lets | split | dsimp only)

theorem State.propagate_only {z s : State} {m : Fin 16} {b : Nat} (h : OnlyMast m z s) :
    OnlyMast m z (State.propagate s m b) := by
  unfold State.propagate
  try extract_lets
  repeat' (first | with_reducible assumption | with_reducible refine OnlyMast.ite ?_ ?_ | with_reducible refine OnlyMast.updCom ?_
                 | with_reducible refine OnlyMast.foldl ?_ ?_ | intro _ _ | intro _ | extract_lets | split | extract_lets | dsimp only)

theorem State.setEst_only {z s : State} {m : Fin 16} {e : Est} (h : OnlyMast m z s) :
    OnlyMast m z (State.setEst s m e) := by
  unfold State.setEst
  try extract_lets
  repeat' (first | with_reducible assumption | with_reducible refine OnlyMast.ite ?_ ?_ | with_reducible refine OnlyMast.updCom ?_
                 | with_reducible refine OnlyMast.foldl ?_ ?_ | intro _ _ | intro _ | extract_lets | split | extract_lets | dsimp only)

theorem State.estLost_only {z s : State} {m : Fin 16} (h : OnlyMast m z s) : OnlyMast m z (State.estLost s m) := by
  unfold State.estLost
  try extract_lets
  repeat' (first | with_reducible assumption | with_reducible refine OnlyMast.ite ?_ ?_ | with_reducible refine OnlyMast.raiseM ?_
                 | with_reducible refine State.setEst_only ?_ | with_reducible refine OnlyMast.foldl ?_ ?_ | intro _ _ | intro _ | extract_lets
                 | split | dsimp only)

theorem State.estOff_only {z s : State} {m : Fin 16} (h : OnlyMast m z s) : OnlyMast m z (State.estOff s m) := by
  unfold State.estOff
  try extract_lets
  repeat' (first | with_reducible assumption | with_reducible refine OnlyMast.ite ?_ ?_ | with_reducible refine OnlyMast.updCom ?_
                 | with_reducible refine OnlyMast.foldl ?_ ?_ | intro _ _ | intro _ | extract_lets | split | dsimp only)

theorem State.estMove_only {z s : State} {m : Fin 16} (h : OnlyMast m z s) : OnlyMast m z (State.estMove s m) := by
  unfold State.estMove
  try extract_lets
  repeat' (first | with_reducible assumption | with_reducible refine OnlyMast.ite ?_ ?_ | with_reducible refine State.setEst_only ?_
                 | with_reducible refine OnlyMast.foldl ?_ ?_ | intro _ _ | intro _ | extract_lets | split | dsimp only)

theorem State.preset_only {z s : State} {m : Fin 16} {th : Word} {om : Word} {t : Nat} (h : OnlyMast m z s) : OnlyMast m z (State.preset s m th om t) :=
  by
  unfold State.preset
  try extract_lets
  repeat' (first | with_reducible assumption | with_reducible refine OnlyMast.ite ?_ ?_ | with_reducible refine OnlyMast.updCom ?_
                 | with_reducible refine State.setEst_only ?_ | with_reducible refine OnlyMast.foldl ?_ ?_ | intro _ _ | intro _ | extract_lets
                 | split | dsimp only)

theorem State.sensorFault_only {z s : State} {m : Fin 16} (h : OnlyMast m z s) : OnlyMast m z (State.sensorFault s m) := by
  unfold State.sensorFault
  try extract_lets
  repeat' (first | with_reducible assumption | with_reducible refine OnlyMast.ite ?_ ?_ | with_reducible refine OnlyMast.raiseM ?_
                 | with_reducible refine OnlyMast.updCom ?_ | with_reducible refine OnlyMast.foldl ?_ ?_ | intro _ _ | intro _ | extract_lets | split
                 | dsimp only)

theorem State.sensorMeasure_only {z s : State} {m : Fin 16} {src : Nat} {ang : Word} {t : Nat} (h : OnlyMast m z s) : OnlyMast m z (State.sensorMeasure s
  m src ang t) := by
  unfold State.sensorMeasure
  try extract_lets
  repeat' (first | with_reducible assumption | with_reducible refine OnlyMast.ite ?_ ?_ | with_reducible refine State.measure_only ?_
                 | with_reducible refine OnlyMast.foldl ?_ ?_ | intro _ _ | intro _ | extract_lets | split | dsimp only)

theorem State.refreshDrive_only {z s : State} {m : Fin 16} {t : Nat} (h : OnlyMast m z s) : OnlyMast m z (State.refreshDrive s m t) := by
  unfold State.refreshDrive
  try extract_lets
  repeat' (first | with_reducible assumption | with_reducible refine OnlyMast.ite ?_ ?_ | with_reducible refine OnlyMast.updCom ?_
                 | with_reducible refine State.stepEvent_only ?_ | with_reducible refine OnlyMast.foldl ?_ ?_ | intro _ _ | intro _ | extract_lets
                 | split | dsimp only)

theorem State.enterStepDrive_only {z s : State} {m : Fin 16} {at_ : Nat} (h : OnlyMast m z s) :
    OnlyMast m z (State.enterStepDrive s m at_) := by
  unfold State.enterStepDrive
  try extract_lets
  repeat' (first | with_reducible assumption | with_reducible refine OnlyMast.ite ?_ ?_ | with_reducible refine OnlyMast.updCom ?_
                 | with_reducible refine OnlyMast.foldl ?_ ?_ | intro _ _ | intro _ | extract_lets | split | extract_lets | dsimp only)

theorem State.advCheck_only {z s : State} {m : Fin 16} (h : OnlyMast m z s) :
    OnlyMast m z (State.advCheck s m) := by
  unfold State.advCheck
  extract_lets t a n s0
  have h_s0 : OnlyMast m z s0 := by
    repeat' (first | with_reducible assumption | with_reducible refine OnlyMast.ite ?_ ?_ | with_reducible refine OnlyMast.updCom ?_
                   | with_reducible refine State.enterStepDrive_only ?_ | with_reducible refine State.stepEvent_only ?_
                   | with_reducible refine OnlyMast.foldl ?_ ?_ | intro _ _ | intro _ | extract_lets | split | extract_lets | dsimp only)
  clear_value s0
  repeat' (first | with_reducible assumption | with_reducible refine OnlyMast.ite ?_ ?_ | with_reducible refine OnlyMast.updCom ?_
                 | with_reducible refine State.enterStepDrive_only ?_ | with_reducible refine State.stepEvent_only ?_
                 | with_reducible refine OnlyMast.foldl ?_ ?_ | intro _ _ | intro _ | extract_lets | split | extract_lets | dsimp only)

theorem State.hallError_only {z s : State} {m : Fin 16} (h : OnlyMast m z s) : OnlyMast m z (State.hallError s m) := by
  unfold State.hallError
  try extract_lets
  repeat' (first | with_reducible assumption | with_reducible refine OnlyMast.ite ?_ ?_ | with_reducible refine OnlyMast.updCom ?_
                 | with_reducible refine State.comFlag_only ?_ (by decide) | with_reducible refine OnlyMast.when ?_ ?_
                 | with_reducible refine State.sensorFault_only ?_ | with_reducible refine OnlyMast.foldl ?_ ?_ | intro _ _ | intro _ | extract_lets
                 | split | dsimp only)

theorem State.hallAccept_only {z s : State} {m : Fin 16} (h : OnlyMast m z s) : OnlyMast m z (State.hallAccept s m) := by
  unfold State.hallAccept
  try extract_lets
  repeat' (first | with_reducible assumption | with_reducible refine OnlyMast.ite ?_ ?_ | with_reducible refine OnlyMast.updCom ?_
                 | with_reducible refine State.hallError_only ?_ | with_reducible refine State.stepEvent_only ?_
                 | with_reducible refine State.sensorMeasure_only ?_ | with_reducible refine OnlyMast.foldl ?_ ?_ | intro _ _ | intro _
                 | extract_lets | split | dsimp only)

theorem State.hallStop_only {z s : State} {m : Fin 16} (h : OnlyMast m z s) : OnlyMast m z (State.hallStop s m) := by
  unfold State.hallStop
  try extract_lets
  repeat' (first | with_reducible assumption | with_reducible refine OnlyMast.ite ?_ ?_ | with_reducible refine OnlyMast.updCom ?_
                 | with_reducible refine OnlyMast.foldl ?_ ?_ | intro _ _ | intro _ | extract_lets | split | dsimp only)

theorem State.quadError_only {z s : State} {m : Fin 16} (h : OnlyMast m z s) : OnlyMast m z (State.quadError s m) := by
  unfold State.quadError
  try extract_lets
  repeat' (first | with_reducible assumption | with_reducible refine OnlyMast.ite ?_ ?_ | with_reducible refine OnlyMast.updCom ?_
                 | with_reducible refine State.comFlag_only ?_ (by decide) | with_reducible refine OnlyMast.when ?_ ?_
                 | with_reducible refine State.sensorFault_only ?_ | with_reducible refine OnlyMast.foldl ?_ ?_ | intro _ _ | intro _ | extract_lets
                 | split | dsimp only)

theorem State.quadMove_only {z s : State} {m : Fin 16} {pos : Nat} {t : Nat} (h : OnlyMast m z s) :
    OnlyMast m z (State.quadMove s m pos t) := by
  unfold State.quadMove
  try extract_lets
  repeat' (first | with_reducible assumption | with_reducible refine OnlyMast.ite ?_ ?_ | with_reducible refine OnlyMast.updCom ?_
                 | with_reducible refine OnlyMast.foldl ?_ ?_ | intro _ _ | intro _ | extract_lets | split | extract_lets | dsimp only)

theorem State.quadAccept_only {z s : State} {m : Fin 16} (h : OnlyMast m z s) :
    OnlyMast m z (State.quadAccept s m) := by
  unfold State.quadAccept
  extract_lets h c cpr s1
  have h_s1 : OnlyMast m z s1 := by
    repeat' (first | with_reducible assumption | with_reducible refine OnlyMast.ite ?_ ?_ | with_reducible refine OnlyMast.updCom ?_
                   | with_reducible refine State.quadMove_only ?_ | with_reducible refine State.quadError_only ?_
                   | with_reducible refine OnlyMast.foldl ?_ ?_ | intro _ _ | intro _ | extract_lets | split | extract_lets | dsimp only)
  clear_value s1
  repeat' (first | with_reducible assumption | with_reducible refine OnlyMast.ite ?_ ?_ | with_reducible refine OnlyMast.updCom ?_
                 | with_reducible refine State.quadMove_only ?_ | with_reducible refine State.quadError_only ?_
                 | with_reducible refine OnlyMast.foldl ?_ ?_ | intro _ _ | intro _ | extract_lets | split | extract_lets | dsimp only)

theorem State.quadIndexed_only {z s : State} {m : Fin 16} (h : OnlyMast m z s) :
    OnlyMast m z (State.quadIndexed s m) := by
  unfold State.quadIndexed
  extract_lets p cpr pos off t s1
  have h_s1 : OnlyMast m z s1 := by
    repeat' (first | with_reducible assumption | with_reducible refine OnlyMast.ite ?_ ?_ | with_reducible refine OnlyMast.updCom ?_
                   | with_reducible refine State.quadMove_only ?_ | with_reducible refine OnlyMast.when ?_ ?_
                   | with_reducible refine State.quadError_only ?_ | with_reducible refine OnlyMast.foldl ?_ ?_ | intro _ _ | intro _ | extract_lets
                   | split | extract_lets | dsimp only)
  clear_value s1
  repeat' (first | with_reducible assumption | with_reducible refine OnlyMast.ite ?_ ?_ | with_reducible refine OnlyMast.updCom ?_
                 | with_reducible refine State.quadMove_only ?_ | with_reducible refine OnlyMast.when ?_ ?_
                 | with_reducible refine State.quadError_only ?_ | with_reducible refine OnlyMast.foldl ?_ ?_ | intro _ _ | intro _ | extract_lets
                 | split | extract_lets | dsimp only)

theorem State.quadMeasure_only {z s : State} {m : Fin 16} {ts : Nat} (h : OnlyMast m z s) :
    OnlyMast m z (State.quadMeasure s m ts) := by
  unfold State.quadMeasure
  extract_lets cpr pos s1
  have h_s1 : OnlyMast m z s1 := by
    repeat' (first | with_reducible assumption | with_reducible refine OnlyMast.ite ?_ ?_ | with_reducible refine OnlyMast.updCom ?_
                   | with_reducible refine State.sensorMeasure_only ?_ | with_reducible refine OnlyMast.foldl ?_ ?_ | intro _ _ | intro _
                   | extract_lets | split | extract_lets | dsimp only)
  clear_value s1
  repeat' (first | with_reducible assumption | with_reducible refine OnlyMast.ite ?_ ?_ | with_reducible refine OnlyMast.updCom ?_
                 | with_reducible refine State.sensorMeasure_only ?_ | with_reducible refine OnlyMast.foldl ?_ ?_ | intro _ _ | intro _
                 | extract_lets | split | extract_lets | dsimp only)

theorem State.zcAccept_only {z s : State} {m : Fin 16} {age : Nat} (h : OnlyMast m z s) : OnlyMast m z (State.zcAccept s m age) := by
  unfold State.zcAccept
  extract_lets tz c n e good s1 s2 c2
  have h_s1 : OnlyMast m z s1 := by
    repeat' (first | with_reducible assumption | with_reducible refine OnlyMast.ite ?_ ?_ | with_reducible refine OnlyMast.updCom ?_
                   | with_reducible refine State.measure_only ?_ | with_reducible refine OnlyMast.foldl ?_ ?_ | intro _ _ | intro _ | extract_lets
                   | split | dsimp only)
  clear_value s1
  have h_s2 : OnlyMast m z s2 := by
    repeat' (first | with_reducible assumption | with_reducible refine OnlyMast.ite ?_ ?_ | with_reducible refine OnlyMast.updCom ?_
                   | with_reducible refine State.measure_only ?_ | with_reducible refine OnlyMast.foldl ?_ ?_ | intro _ _ | intro _ | extract_lets
                   | split | dsimp only)
  clear_value s2
  repeat' (first | with_reducible assumption | with_reducible refine OnlyMast.ite ?_ ?_ | with_reducible refine OnlyMast.updCom ?_
                 | with_reducible refine State.measure_only ?_ | with_reducible refine OnlyMast.foldl ?_ ?_ | intro _ _ | intro _ | extract_lets
                 | split | dsimp only)

theorem State.zcStep_only {z s : State} {m : Fin 16} (h : OnlyMast m z s) : OnlyMast m z (State.zcStep s m) := by
  unfold State.zcStep
  try extract_lets
  repeat' (first | with_reducible assumption | with_reducible refine OnlyMast.ite ?_ ?_ | with_reducible refine OnlyMast.updCom ?_
                 | with_reducible refine State.stepEvent_only ?_ | with_reducible refine OnlyMast.foldl ?_ ?_ | intro _ _ | intro _ | extract_lets
                 | split | dsimp only)

theorem State.zcForce_only {z s : State} {m : Fin 16} (h : OnlyMast m z s) : OnlyMast m z (State.zcForce s m) := by
  unfold State.zcForce
  extract_lets c t s1 s2
  have h_s1 : OnlyMast m z s1 := by
    repeat' (first | with_reducible assumption | with_reducible refine OnlyMast.ite ?_ ?_ | with_reducible refine OnlyMast.updCom ?_
                   | with_reducible refine State.comFlag_only ?_ (by decide) | with_reducible refine State.stepEvent_only ?_
                   | with_reducible refine OnlyMast.when ?_ ?_ | with_reducible refine State.estLost_only ?_
                   | with_reducible refine OnlyMast.foldl ?_ ?_ | intro _ _ | intro _ | extract_lets | split | dsimp only)
  clear_value s1
  have h_s2 : OnlyMast m z s2 := by
    repeat' (first | with_reducible assumption | with_reducible refine OnlyMast.ite ?_ ?_ | with_reducible refine OnlyMast.updCom ?_
                   | with_reducible refine State.comFlag_only ?_ (by decide) | with_reducible refine State.stepEvent_only ?_
                   | with_reducible refine OnlyMast.when ?_ ?_ | with_reducible refine State.estLost_only ?_
                   | with_reducible refine OnlyMast.foldl ?_ ?_ | intro _ _ | intro _ | extract_lets | split | dsimp only)
  clear_value s2
  repeat' (first | with_reducible assumption | with_reducible refine OnlyMast.ite ?_ ?_ | with_reducible refine OnlyMast.updCom ?_
                 | with_reducible refine State.comFlag_only ?_ (by decide) | with_reducible refine State.stepEvent_only ?_
                 | with_reducible refine OnlyMast.when ?_ ?_ | with_reducible refine State.estLost_only ?_
                 | with_reducible refine OnlyMast.foldl ?_ ?_ | intro _ _ | intro _ | extract_lets | split | dsimp only)

theorem State.convFlags_only {z s : State} {m : Fin 16} {sat : Bool} (h : OnlyMast m z s) :
    OnlyMast m z (State.convFlags s m sat) := by
  unfold State.convFlags
  extract_lets s1
  have h_s1 : OnlyMast m z s1 := by
    repeat' (first | with_reducible assumption | with_reducible refine OnlyMast.ite ?_ ?_ | with_reducible refine OnlyMast.updCom ?_
                   | with_reducible refine OnlyMast.when ?_ ?_ | with_reducible refine State.comFlag_only ?_ (by decide)
                   | with_reducible refine OnlyMast.foldl ?_ ?_ | intro _ _ | intro _ | extract_lets | split | extract_lets | dsimp only)
  clear_value s1
  repeat' (first | with_reducible assumption | with_reducible refine OnlyMast.ite ?_ ?_ | with_reducible refine OnlyMast.updCom ?_
                 | with_reducible refine OnlyMast.when ?_ ?_ | with_reducible refine State.comFlag_only ?_ (by decide)
                 | with_reducible refine OnlyMast.foldl ?_ ?_ | intro _ _ | intro _ | extract_lets | split | extract_lets | dsimp only)

theorem ofMast_at {m : Fin 16} {k : Nat} (h : ∃ a, a / 256 = 16 ∧ k = keyI a m) : ofMast m k = true := by
  obtain ⟨a, h1, rfl⟩ := h
  exact ofMast_keyI h1

theorem State.stagePut_only {z s : State} {m : Fin 16} {key : Nat} {w : Word} (hk : ofMast m key = true) (h : OnlyMast m z s) :
    OnlyMast m z (State.stagePut s m key w) := by
  unfold State.stagePut
  exact OnlyMast.ite (h.wr hk) (OnlyMast.ite h.updCom (h.wr hk))

theorem State.restage_only {z s : State} {m : Fin 16} {rank : Nat} (h : OnlyMast m z s) : OnlyMast m z (State.restage s m rank) := by
  unfold State.restage
  exact h.updPwm

theorem State.reduty_only {z s : State} {m : Fin 16} (h : OnlyMast m z s) :
    OnlyMast m z (State.reduty s m) := by
  unfold State.reduty
  extract_lets f src s1
  have h1 : OnlyMast m z s1 := h.cyc
  have hl : ∀ k ∈ ((s1.cyc.stage.filter fun e => e.duty.isSome && stageKey m e.key).map (·.key)).eraseDups, ofMast m k = true := by
    intro k hk
    obtain ⟨e, he, rfl⟩ := List.mem_map.mp (List.mem_eraseDups.mp hk)
    have := (Bool.and_eq_true _ _ ▸ (List.mem_filter.mp he).2).2
    unfold stageKey at this
    unfold ofMast
    simpa using this
  clear_value s1
  generalize ((s1.cyc.stage.filter fun e => e.duty.isSome && stageKey m e.key).map (·.key)).eraseDups = l at hl ⊢
  generalize s1.cyc.stage = st
  induction l generalizing s1 with
  | nil => exact h1
  | cons k r ih =>
    refine ih _ ?_ fun j hj => hl j (List.mem_cons_of_mem _ hj)
    dsimp only
    split
    · exact State.stagePut_only (hl k List.mem_cons_self) h1
    · exact h1

theorem State.stageWr_only {z s : State} {m : Fin 16} {rank : Nat} {key : Nat} {w : Word} {duty : Option Word} (hk : ofMast m key = true)
    (h : OnlyMast m z s) : OnlyMast m z (State.stageWr s m rank key w duty) := by
  unfold State.stageWr
  extract_lets src s1 s2
  refine State.restage_only (OnlyMast.when ?_ fun _ k => State.reduty_only k)
  show OnlyMast m z (match stageTop s1.cyc.stage key 10 with | some e => s1.stagePut m key e.word | none => s1)
  have h1 : OnlyMast m z s1 := h.cyc
  split
  · exact State.stagePut_only hk h1
  · exact h1

theorem State.stageKind_only {z s : State} {m : Fin 16} {rank : Nat} {vec : Bool} (h : OnlyMast m z s) : OnlyMast m z (State.stageKind s m rank vec) :=
  State.stageWr_only (ofMast_keyI (by decide)) h

theorem State.commitAt_only {z s : State} {m : Fin 16} {tag : Option Nat} {sheet : Option Nat} {t : Nat} {rank : Nat} (h : OnlyMast m z s) :
    OnlyMast m z (State.commitAt s m tag sheet t rank) := by
  unfold State.commitAt
  extract_lets v x vec soft s1
  have h_s1 : OnlyMast m z s1 := by
    repeat' (first | with_reducible assumption | with_reducible refine OnlyMast.ite ?_ ?_ | with_reducible refine OnlyMast.when ?_ ?_
                   | with_reducible refine State.convFlags_only ?_ | with_reducible refine OnlyMast.setFld ?_ (by decide)
                   | with_reducible refine State.commitSet_only ?_ | with_reducible refine OnlyMast.foldl ?_ ?_ | intro _ _ | intro _ | extract_lets
                   | split | extract_lets | dsimp only)
  clear_value s1
  repeat' (first | with_reducible assumption | with_reducible refine OnlyMast.ite ?_ ?_ | with_reducible refine OnlyMast.when ?_ ?_
                 | with_reducible refine State.convFlags_only ?_ | with_reducible refine OnlyMast.setFld ?_ (by decide)
                 | with_reducible refine State.commitSet_only ?_ | with_reducible refine OnlyMast.foldl ?_ ?_ | intro _ _ | intro _ | extract_lets
                 | split | extract_lets | dsimp only)

theorem State.badWindow_only {z s : State} {m : Fin 16} (h : OnlyMast m z s) : OnlyMast m z (State.badWindow s m) := by
  unfold State.badWindow
  try extract_lets
  repeat' (first | with_reducible assumption | with_reducible refine OnlyMast.ite ?_ ?_ | with_reducible refine OnlyMast.updCom ?_
                 | with_reducible refine State.comFlag_only ?_ (by decide) | with_reducible refine OnlyMast.when ?_ ?_
                 | with_reducible refine State.estLost_only ?_ | with_reducible refine OnlyMast.foldl ?_ ?_ | intro _ _ | intro _ | extract_lets
                 | split | dsimp only)

theorem State.goodWindow_only {z s : State} {m : Fin 16} {e : Word} (h : OnlyMast m z s) : OnlyMast m z (State.goodWindow s m e) := by
  unfold State.goodWindow
  try extract_lets
  repeat' (first | with_reducible assumption | with_reducible refine OnlyMast.ite ?_ ?_ | with_reducible refine OnlyMast.updCom ?_
                 | with_reducible refine State.measure_only ?_ | with_reducible refine OnlyMast.foldl ?_ ?_ | intro _ _ | intro _ | extract_lets
                 | split | dsimp only)

theorem State.polSettled_only {z s : State} {m : Fin 16} (h : OnlyMast m z s) : OnlyMast m z (State.polSettled s m) := by
  unfold State.polSettled
  try extract_lets
  repeat' (first | with_reducible assumption | with_reducible refine OnlyMast.ite ?_ ?_ | with_reducible refine OnlyMast.updCom ?_
                 | with_reducible refine OnlyMast.foldl ?_ ?_ | intro _ _ | intro _ | extract_lets | split | dsimp only)

theorem State.winEnd_only {z s : State} {m : Fin 16} (h : OnlyMast m z s) : OnlyMast m z (State.winEnd s m) := by
  unfold State.winEnd
  try extract_lets
  repeat' (first | with_reducible assumption | with_reducible refine OnlyMast.ite ?_ ?_ | with_reducible refine OnlyMast.updCom ?_
                 | with_reducible refine State.polSettled_only ?_ | with_reducible refine State.goodWindow_only ?_
                 | with_reducible refine State.badWindow_only ?_ | with_reducible refine OnlyMast.foldl ?_ ?_ | intro _ _ | intro _ | extract_lets
                 | split | dsimp only)

theorem State.correlate_only {z s : State} {m : Fin 16} {c : Cap} {iOk : Bool} {th : Word} (h : OnlyMast m z s) : OnlyMast m z (State.correlate s m c
  iOk th) := by
  unfold State.correlate
  try extract_lets
  repeat' (first | with_reducible assumption | with_reducible refine OnlyMast.ite ?_ ?_ | with_reducible refine OnlyMast.updCom ?_
                 | with_reducible refine OnlyMast.foldl ?_ ?_ | intro _ _ | intro _ | extract_lets | split | dsimp only)

theorem State.polNext_only {z s : State} {m : Fin 16} (h : OnlyMast m z s) : OnlyMast m z (State.polNext s m) := by
  unfold State.polNext
  try extract_lets
  repeat' (first | with_reducible assumption | with_reducible refine OnlyMast.ite ?_ ?_ | with_reducible refine OnlyMast.updCom ?_
                 | with_reducible refine State.setEst_only ?_ | with_reducible refine State.estLost_only ?_
                 | with_reducible refine OnlyMast.foldl ?_ ?_ | intro _ _ | intro _ | extract_lets | split | dsimp only)

theorem State.observe_only {z s : State} {m : Fin 16} {tLen : Nat} {th : Word} (h : OnlyMast m z s) : OnlyMast m z (State.observe s m tLen th) := by
  unfold State.observe
  try extract_lets
  repeat' (first | with_reducible assumption | with_reducible refine OnlyMast.ite ?_ ?_ | with_reducible refine OnlyMast.updCom ?_
                 | with_reducible refine OnlyMast.foldl ?_ ?_ | intro _ _ | intro _ | extract_lets | split | dsimp only)

theorem State.highMeasure_only {z s : State} {m : Fin 16} {t : Nat} (h : OnlyMast m z s) : OnlyMast m z (State.highMeasure s m t) := by
  unfold State.highMeasure
  try extract_lets
  repeat' (first | with_reducible assumption | with_reducible refine OnlyMast.ite ?_ ?_ | with_reducible refine State.measure_only ?_
                 | with_reducible refine OnlyMast.updCom ?_ | with_reducible refine OnlyMast.when ?_ ?_ | with_reducible refine State.estLost_only ?_
                 | with_reducible refine OnlyMast.foldl ?_ ?_ | intro _ _ | intro _ | extract_lets | split | dsimp only)

theorem State.takeEpsSw_only {z s : State} {m : Fin 16} (h : OnlyMast m z s) : OnlyMast m z (State.takeEpsSw s m) := by
  unfold State.takeEpsSw
  try extract_lets
  repeat' (first | with_reducible assumption | with_reducible refine OnlyMast.ite ?_ ?_ | with_reducible refine OnlyMast.updCom ?_
                 | with_reducible refine State.polSettled_only ?_ | with_reducible refine State.badWindow_only ?_
                 | with_reducible refine State.goodWindow_only ?_ | with_reducible refine OnlyMast.foldl ?_ ?_ | intro _ _ | intro _ | extract_lets
                 | split | dsimp only)

theorem State.writeVectors_only {z s : State} {m : Fin 16} {c : Cap} {th : Word} (h : OnlyMast m z s) : OnlyMast m z (State.writeVectors s m c th) :=
  by
  unfold State.writeVectors
  try extract_lets
  repeat' (first | with_reducible assumption | with_reducible refine OnlyMast.ite ?_ ?_ | with_reducible refine OnlyMast.putMs ?_ (by simp)
                 | with_reducible refine OnlyMast.foldl ?_ ?_ | intro _ _ | intro _ | extract_lets | split | dsimp only)

theorem State.writeEst_only {z s : State} {m : Fin 16} {c : Cap} (h : OnlyMast m z s) : OnlyMast m z (State.writeEst s m c) := by
  unfold State.writeEst
  try extract_lets
  repeat' (first | with_reducible assumption | with_reducible refine OnlyMast.ite ?_ ?_ | with_reducible refine OnlyMast.putMs ?_ (by simp)
                 | with_reducible refine OnlyMast.foldl ?_ ?_ | intro _ _ | intro _ | extract_lets | split | dsimp only)

theorem State.comRelease_only {z s : State} {m : Fin 16} {c : Cap} {iOk : Bool} (h : OnlyMast m z s) : OnlyMast m z (State.comRelease s m c iOk) := by
  unfold State.comRelease
  extract_lets ts th s1 s2 s3 s4 s5
  have h_s1 : OnlyMast m z s1 := by
    repeat' (first | with_reducible assumption | with_reducible refine OnlyMast.ite ?_ ?_ | with_reducible refine State.writeVectors_only ?_
                   | with_reducible refine State.observe_only ?_ | with_reducible refine State.quadMeasure_only ?_
                   | with_reducible refine State.takeEpsSw_only ?_ | with_reducible refine OnlyMast.when ?_ ?_
                   | with_reducible refine State.correlate_only ?_ | with_reducible refine State.estMove_only ?_
                   | with_reducible refine State.highMeasure_only ?_ | with_reducible refine State.writeEst_only ?_
                   | with_reducible refine OnlyMast.foldl ?_ ?_ | intro _ _ | intro _ | extract_lets | split | dsimp only)
  clear_value s1
  have h_s2 : OnlyMast m z s2 := by
    repeat' (first | with_reducible assumption | with_reducible refine OnlyMast.ite ?_ ?_ | with_reducible refine State.writeVectors_only ?_
                   | with_reducible refine State.observe_only ?_ | with_reducible refine State.quadMeasure_only ?_
                   | with_reducible refine State.takeEpsSw_only ?_ | with_reducible refine OnlyMast.when ?_ ?_
                   | with_reducible refine State.correlate_only ?_ | with_reducible refine State.estMove_only ?_
                   | with_reducible refine State.highMeasure_only ?_ | with_reducible refine State.writeEst_only ?_
                   | with_reducible refine OnlyMast.foldl ?_ ?_ | intro _ _ | intro _ | extract_lets | split | dsimp only)
  clear_value s2
  have h_s3 : OnlyMast m z s3 := by
    repeat' (first | with_reducible assumption | with_reducible refine OnlyMast.ite ?_ ?_ | with_reducible refine State.writeVectors_only ?_
                   | with_reducible refine State.observe_only ?_ | with_reducible refine State.quadMeasure_only ?_
                   | with_reducible refine State.takeEpsSw_only ?_ | with_reducible refine OnlyMast.when ?_ ?_
                   | with_reducible refine State.correlate_only ?_ | with_reducible refine State.estMove_only ?_
                   | with_reducible refine State.highMeasure_only ?_ | with_reducible refine State.writeEst_only ?_
                   | with_reducible refine OnlyMast.foldl ?_ ?_ | intro _ _ | intro _ | extract_lets | split | dsimp only)
  clear_value s3
  have h_s4 : OnlyMast m z s4 := by
    repeat' (first | with_reducible assumption | with_reducible refine OnlyMast.ite ?_ ?_ | with_reducible refine State.writeVectors_only ?_
                   | with_reducible refine State.observe_only ?_ | with_reducible refine State.quadMeasure_only ?_
                   | with_reducible refine State.takeEpsSw_only ?_ | with_reducible refine OnlyMast.when ?_ ?_
                   | with_reducible refine State.correlate_only ?_ | with_reducible refine State.estMove_only ?_
                   | with_reducible refine State.highMeasure_only ?_ | with_reducible refine State.writeEst_only ?_
                   | with_reducible refine OnlyMast.foldl ?_ ?_ | intro _ _ | intro _ | extract_lets | split | dsimp only)
  clear_value s4
  have h_s5 : OnlyMast m z s5 := by
    repeat' (first | with_reducible assumption | with_reducible refine OnlyMast.ite ?_ ?_ | with_reducible refine State.writeVectors_only ?_
                   | with_reducible refine State.observe_only ?_ | with_reducible refine State.quadMeasure_only ?_
                   | with_reducible refine State.takeEpsSw_only ?_ | with_reducible refine OnlyMast.when ?_ ?_
                   | with_reducible refine State.correlate_only ?_ | with_reducible refine State.estMove_only ?_
                   | with_reducible refine State.highMeasure_only ?_ | with_reducible refine State.writeEst_only ?_
                   | with_reducible refine OnlyMast.foldl ?_ ?_ | intro _ _ | intro _ | extract_lets | split | dsimp only)
  clear_value s5
  repeat' (first | with_reducible assumption | with_reducible refine OnlyMast.ite ?_ ?_ | with_reducible refine State.writeVectors_only ?_
                 | with_reducible refine State.observe_only ?_ | with_reducible refine State.quadMeasure_only ?_
                 | with_reducible refine State.takeEpsSw_only ?_ | with_reducible refine OnlyMast.when ?_ ?_
                 | with_reducible refine State.correlate_only ?_ | with_reducible refine State.estMove_only ?_
                 | with_reducible refine State.highMeasure_only ?_ | with_reducible refine State.writeEst_only ?_
                 | with_reducible refine OnlyMast.foldl ?_ ?_ | intro _ _ | intro _ | extract_lets | split | dsimp only)

theorem State.tableDir_only {z s : State} {m : Fin 16} (h : OnlyMast m z s) : OnlyMast m z (State.tableDir s m) := by
  unfold State.tableDir
  try extract_lets
  repeat' (first | with_reducible assumption | with_reducible refine OnlyMast.ite ?_ ?_ | with_reducible refine OnlyMast.updCom ?_
                 | with_reducible refine OnlyMast.foldl ?_ ?_ | intro _ _ | intro _ | extract_lets | split | dsimp only)

theorem State.halSpeed_only {z s : State} {m : Fin 16} {dt : Word} (h : OnlyMast m z s) : OnlyMast m z (State.halSpeed s m dt) := by
  unfold State.halSpeed
  try extract_lets
  repeat' (first | with_reducible assumption | with_reducible refine OnlyMast.ite ?_ ?_ | with_reducible refine OnlyMast.updHal ?_
                 | with_reducible refine OnlyMast.foldl ?_ ?_ | intro _ _ | intro _ | extract_lets | split | dsimp only)

theorem State.halTorque_only {z s : State} {m : Fin 16} (h : OnlyMast m z s) : OnlyMast m z (State.halTorque s m) := by
  unfold State.halTorque
  try extract_lets
  repeat' (first | with_reducible assumption | with_reducible refine OnlyMast.ite ?_ ?_ | with_reducible refine OnlyMast.updHal ?_
                 | with_reducible refine OnlyMast.foldl ?_ ?_ | intro _ _ | intro _ | extract_lets | split | dsimp only)

theorem State.halFreeze_only {z s : State} {m : Fin 16} {zero : Bool} (h : OnlyMast m z s) : OnlyMast m z (State.halFreeze s m zero) := by
  unfold State.halFreeze
  try extract_lets
  repeat' (first | with_reducible assumption | with_reducible refine OnlyMast.ite ?_ ?_ | with_reducible refine OnlyMast.updHal ?_
                 | with_reducible refine OnlyMast.foldl ?_ ?_ | intro _ _ | intro _ | extract_lets | split | dsimp only)

theorem State.stall_only {z s : State} {m : Fin 16} (h : OnlyMast m z s) : OnlyMast m z (State.stall s m) := by
  unfold State.stall
  try extract_lets
  repeat' (first | with_reducible assumption | with_reducible refine OnlyMast.ite ?_ ?_ | with_reducible refine OnlyMast.updHal ?_
                 | with_reducible refine State.tableDir_only ?_ | with_reducible refine OnlyMast.setFld ?_ (by decide)
                 | with_reducible refine OnlyMast.raiseM ?_ | with_reducible refine OnlyMast.foldl ?_ ?_ | intro _ _ | intro _ | extract_lets | split
                 | dsimp only)

theorem State.jamHoldEnd_only {z s : State} {m : Fin 16} (h : OnlyMast m z s) : OnlyMast m z (State.jamHoldEnd s m) := by
  unfold State.jamHoldEnd
  try extract_lets
  repeat' (first | with_reducible assumption | with_reducible refine OnlyMast.ite ?_ ?_ | with_reducible refine OnlyMast.updHal ?_
                 | with_reducible refine OnlyMast.foldl ?_ ?_ | intro _ _ | intro _ | extract_lets | split | dsimp only)

theorem State.cmdTake_only {z s : State} {m : Fin 16} {v : Word} {freq : Word} (h : OnlyMast m z s) : OnlyMast m z (State.cmdTake s m v freq) := by
  unfold State.cmdTake
  try extract_lets
  repeat' (first | with_reducible assumption | with_reducible refine OnlyMast.ite ?_ ?_ | with_reducible refine OnlyMast.updCmd ?_
                 | with_reducible refine OnlyMast.foldl ?_ ?_ | intro _ _ | intro _ | extract_lets | split | dsimp only)

theorem State.cmdRelease_only {z s : State} {m : Fin 16} {vOk : Bool} (h : OnlyMast m z s) : OnlyMast m z (State.cmdRelease s m vOk) := by
  unfold State.cmdRelease
  extract_lets s1 c raw v0 v s2 s3
  have h_s1 : OnlyMast m z s1 := by
    repeat' (first | with_reducible assumption | with_reducible refine OnlyMast.ite ?_ ?_ | with_reducible refine State.cmdTake_only ?_
                   | with_reducible refine OnlyMast.updCmd ?_ | with_reducible refine OnlyMast.putMs ?_ (by simp)
                   | with_reducible refine OnlyMast.putM ?_ (by decide) | with_reducible refine OnlyMast.foldl ?_ ?_ | intro _ _ | intro _
                   | extract_lets | split | dsimp only)
  clear_value s1
  have h_s2 : OnlyMast m z s2 := by
    repeat' (first | with_reducible assumption | with_reducible refine OnlyMast.ite ?_ ?_ | with_reducible refine State.cmdTake_only ?_
                   | with_reducible refine OnlyMast.updCmd ?_ | with_reducible refine OnlyMast.putMs ?_ (by simp)
                   | with_reducible refine OnlyMast.putM ?_ (by decide) | with_reducible refine OnlyMast.foldl ?_ ?_ | intro _ _ | intro _
                   | extract_lets | split | dsimp only)
  clear_value s2
  have h_s3 : OnlyMast m z s3 := by
    repeat' (first | with_reducible assumption | with_reducible refine OnlyMast.ite ?_ ?_ | with_reducible refine State.cmdTake_only ?_
                   | with_reducible refine OnlyMast.updCmd ?_ | with_reducible refine OnlyMast.putMs ?_ (by simp)
                   | with_reducible refine OnlyMast.putM ?_ (by decide) | with_reducible refine OnlyMast.foldl ?_ ?_ | intro _ _ | intro _
                   | extract_lets | split | dsimp only)
  clear_value s3
  repeat' (first | with_reducible assumption | with_reducible refine OnlyMast.ite ?_ ?_ | with_reducible refine State.cmdTake_only ?_
                 | with_reducible refine OnlyMast.updCmd ?_ | with_reducible refine OnlyMast.putMs ?_ (by simp)
                 | with_reducible refine OnlyMast.putM ?_ (by decide) | with_reducible refine OnlyMast.foldl ?_ ?_ | intro _ _ | intro _
                 | extract_lets | split | dsimp only)

theorem State.cmdEdge_only {z s0 : State} {m : Fin 16} {rising : Bool} (h : OnlyMast m z s0) :
    OnlyMast m z (State.cmdEdge s0 m rising) := by
  unfold State.cmdEdge
  extract_lets t c sl s s1
  have hs : OnlyMast m z s := OnlyMast.when h.updCmd fun _ k => k.orStatus (by decide)
  clear_value s
  have h1 : OnlyMast m z s1 := by
    show OnlyMast m z (match c.riseAt with | none => s | some r => _)
    split
    · exact hs
    · exact State.cmdTake_only hs
  exact OnlyMast.ite hs (OnlyMast.ite hs.updCmd h1.updCmd)

theorem State.halRelease_only {z s : State} {m : Fin 16} {tLen : Nat} (h : OnlyMast m z s) :
    OnlyMast m z (State.halRelease s m tLen) := by
  unfold State.halRelease
  dsimp only
  repeat' (first | with_reducible assumption | with_reducible refine OnlyMast.ite ?_ ?_ | with_reducible refine OnlyMast.when ?_ ?_
                 | with_reducible refine OnlyMast.raise ?_ | with_reducible refine OnlyMast.updHal ?_
                 | with_reducible refine State.halTorque_only ?_ | with_reducible refine State.halSpeed_only ?_
                 | with_reducible refine State.tableDir_only ?_ | with_reducible refine OnlyMast.putMs ?_ (by simp)
                 | with_reducible refine OnlyMast.foldl ?_ ?_ | intro _ _ | intro _ | extract_lets | split | extract_lets | dsimp only)

theorem State.seqFlag_only {z s : State} {m : Fin 16} {f : Fld} (h : OnlyMast m z s) (hf : f.addr / 256 = 16) : OnlyMast m z (State.seqFlag s m f) :=
  h.setFld hf

theorem State.refuse_only {z s : State} {m : Fin 16} {why : Nat} {start : Bool} (h : OnlyMast m z s) : OnlyMast m z (State.refuse s m why start) := by
  unfold State.refuse
  try extract_lets
  repeat' (first | with_reducible assumption | with_reducible refine OnlyMast.ite ?_ ?_ | with_reducible refine OnlyMast.when ?_ ?_
                 | with_reducible refine OnlyMast.updSeq ?_ | with_reducible refine State.seqFlag_only ?_ (by decide)
                 | with_reducible refine OnlyMast.foldl ?_ ?_ | intro _ _ | intro _ | extract_lets | split | dsimp only)

theorem State.seqOuts_only {z s : State} {m : Fin 16} {t : Nat} (h : OnlyMast m z s) : OnlyMast m z (State.seqOuts s m t) := by
  unfold State.seqOuts
  try extract_lets
  repeat' (first | with_reducible assumption | with_reducible refine OnlyMast.ite ?_ ?_ | with_reducible refine State.setOut_only ?_
                 | with_reducible refine State.estOff_only ?_ | with_reducible refine State.stepEvent_only ?_
                 | with_reducible refine OnlyMast.foldl ?_ ?_ | intro _ _ | intro _ | extract_lets | split | dsimp only)

theorem State.enterSeq_only {z s : State} {m : Fin 16} {st : SeqSt} {t : Nat} (h : OnlyMast m z s) :
    OnlyMast m z (State.enterSeq s m st t) := by
  unfold State.enterSeq
  dsimp only
  repeat' (first | with_reducible assumption | with_reducible refine OnlyMast.ite ?_ ?_ | with_reducible refine OnlyMast.updSeq ?_
                 | with_reducible refine State.halFreeze_only ?_ | with_reducible refine OnlyMast.updHal ?_
                 | with_reducible refine State.seqOuts_only ?_ | with_reducible refine State.refreshSafe_only ?_
                 | with_reducible refine OnlyMast.putMs ?_ (by simp) | with_reducible refine OnlyMast.foldl ?_ ?_ | intro _ _ | intro _
                 | extract_lets | split | extract_lets | dsimp only)

theorem State.beginListen_only {z s : State} {m : Fin 16} {n : Nat} {again : Bool} {t : Nat} (h : OnlyMast m z s) : OnlyMast m z (State.beginListen s m n
  again t) := by
  unfold State.beginListen
  try extract_lets
  repeat' (first | with_reducible assumption | with_reducible refine OnlyMast.ite ?_ ?_ | with_reducible refine State.enterSeq_only ?_
                 | with_reducible refine OnlyMast.updSeq ?_ | with_reducible refine OnlyMast.foldl ?_ ?_ | intro _ _ | intro _ | extract_lets | split
                 | dsimp only)

theorem State.listenSet_only {z s : State} {m : Fin 16} {c : Cap} {vOk : Bool} (h : OnlyMast m z s) : OnlyMast m z (State.listenSet s m c vOk) := by
  unfold State.listenSet
  try extract_lets
  repeat' (first | with_reducible assumption | with_reducible refine OnlyMast.ite ?_ ?_ | with_reducible refine OnlyMast.updSeq ?_
                 | with_reducible refine OnlyMast.putMs ?_ (by simp) | with_reducible refine OnlyMast.foldl ?_ ?_ | intro _ _ | intro _
                 | extract_lets | split | dsimp only)

theorem State.standstill_only {z s : State} {m : Fin 16} {t : Nat} (h : OnlyMast m z s) : OnlyMast m z (State.standstill s m t) := by
  unfold State.standstill
  try extract_lets
  repeat' (first | with_reducible assumption | with_reducible refine OnlyMast.ite ?_ ?_ | with_reducible refine State.enterSeq_only ?_
                 | with_reducible refine OnlyMast.updCom ?_ | with_reducible refine State.applyStep_only ?_
                 | with_reducible refine State.comCfgErr_only ?_ | with_reducible refine State.refuse_only ?_
                 | with_reducible refine State.setEst_only ?_ | with_reducible refine OnlyMast.foldl ?_ ?_ | intro _ _ | intro _ | extract_lets
                 | split | dsimp only)

theorem State.beginBrake_only {z s : State} {m : Fin 16} {p : Purpose} {t : Nat} (h : OnlyMast m z s) : OnlyMast m z (State.beginBrake s m p t) := by
  unfold State.beginBrake
  try extract_lets
  repeat' (first | with_reducible assumption | with_reducible refine OnlyMast.ite ?_ ?_ | with_reducible refine OnlyMast.raiseM ?_
                 | with_reducible refine State.enterSeq_only ?_ | with_reducible refine OnlyMast.updSeq ?_
                 | with_reducible refine OnlyMast.foldl ?_ ?_ | intro _ _ | intro _ | extract_lets | split | dsimp only)

theorem State.pulseEnd_only {z s : State} {m : Fin 16} {t : Nat} (h : OnlyMast m z s) : OnlyMast m z (State.pulseEnd s m t) := by
  unfold State.pulseEnd
  try extract_lets
  repeat' (first | with_reducible assumption | with_reducible refine OnlyMast.ite ?_ ?_ | with_reducible refine State.seqOuts_only ?_
                 | with_reducible refine OnlyMast.updSeq ?_ | with_reducible refine OnlyMast.foldl ?_ ?_ | intro _ _ | intro _ | extract_lets | split
                 | dsimp only)

theorem State.pauseEnd_only {z s : State} {m : Fin 16} {t : Nat} (h : OnlyMast m z s) : OnlyMast m z (State.pauseEnd s m t) := by
  unfold State.pauseEnd
  try extract_lets
  repeat' (first | with_reducible assumption | with_reducible refine OnlyMast.ite ?_ ?_ | with_reducible refine State.seqOuts_only ?_
                 | with_reducible refine OnlyMast.updSeq ?_ | with_reducible refine OnlyMast.foldl ?_ ?_ | intro _ _ | intro _ | extract_lets | split
                 | dsimp only)

theorem State.beginSync_only {z s : State} {m : Fin 16} {t : Nat} (h : OnlyMast m z s) :
    OnlyMast m z (State.beginSync s m t) := by
  unfold State.beginSync
  try extract_lets
  repeat' (first | with_reducible assumption | with_reducible refine OnlyMast.ite ?_ ?_ | with_reducible refine State.comCfgErr_only ?_
                 | with_reducible refine State.refuse_only ?_ | with_reducible refine State.enterSeq_only ?_
                 | with_reducible refine State.preset_only ?_ | with_reducible refine OnlyMast.when ?_ ?_ | with_reducible refine OnlyMast.updCom ?_
                 | with_reducible refine OnlyMast.updHal ?_ | with_reducible refine State.tableDir_only ?_
                 | with_reducible refine OnlyMast.foldl ?_ ?_ | intro _ _ | intro _ | extract_lets | split | extract_lets | dsimp only)

theorem State.syncSet_only {z s : State} {m : Fin 16} {c : Cap} (h : OnlyMast m z s) :
    OnlyMast m z (State.syncSet s m c) := by
  unfold State.syncSet
  try extract_lets
  repeat' (first | with_reducible assumption | with_reducible refine OnlyMast.ite ?_ ?_ | with_reducible refine OnlyMast.putMs ?_ (by simp)
                 | with_reducible refine OnlyMast.updCom ?_ | with_reducible refine OnlyMast.when ?_ ?_
                 | with_reducible refine State.comFlag_only ?_ (by decide) | with_reducible refine OnlyMast.updPwm ?_
                 | with_reducible refine OnlyMast.foldl ?_ ?_ | intro _ _ | intro _ | extract_lets | split | extract_lets | dsimp only)

theorem State.forcedAngle_only {z s : State} {m : Fin 16} {b : Nat} {tLen : Nat} (h : OnlyMast m z s) : OnlyMast m z (State.forcedAngle s m b tLen) := by
  unfold State.forcedAngle
  try extract_lets
  repeat' (first | with_reducible assumption | with_reducible refine OnlyMast.ite ?_ ?_ | with_reducible refine OnlyMast.updCom ?_
                 | with_reducible refine State.stepEvent_only ?_ | with_reducible refine OnlyMast.foldl ?_ ?_ | intro _ _ | intro _ | extract_lets
                 | split | dsimp only)

theorem State.countStart_only {z s : State} {m : Fin 16} (h : OnlyMast m z s) : OnlyMast m z (State.countStart s m) := by
  unfold State.countStart
  try extract_lets
  repeat' (first | with_reducible assumption | with_reducible refine OnlyMast.ite ?_ ?_ | with_reducible refine OnlyMast.putM ?_ (by decide)
                 | with_reducible refine OnlyMast.updCom ?_ | with_reducible refine OnlyMast.updSeq ?_ | with_reducible refine OnlyMast.foldl ?_ ?_
                 | intro _ _ | intro _ | extract_lets | split | dsimp only)

theorem State.beginStopping_only {z s : State} {m : Fin 16} {mode : Nat} {fault : Bool} {t : Nat} (h : OnlyMast m z s) : OnlyMast m z (State.beginStopping
  s m mode fault t) := by
  unfold State.beginStopping
  try extract_lets
  repeat' (first | with_reducible assumption | with_reducible refine OnlyMast.ite ?_ ?_ | with_reducible refine State.enterSeq_only ?_
                 | with_reducible refine OnlyMast.updSeq ?_ | with_reducible refine OnlyMast.foldl ?_ ?_ | intro _ _ | intro _ | extract_lets | split
                 | dsimp only)

theorem State.actStart_only {z s : State} {m : Fin 16} {t : Nat} (h : OnlyMast m z s) : OnlyMast m z (State.actStart s m t) := by
  unfold State.actStart
  try extract_lets
  repeat' (first | with_reducible assumption | with_reducible refine OnlyMast.ite ?_ ?_ | with_reducible refine State.countStart_only ?_
                 | with_reducible refine OnlyMast.when ?_ ?_ | with_reducible refine State.refuse_only ?_
                 | with_reducible refine State.comCfgErr_only ?_ | with_reducible refine State.beginListen_only ?_
                 | with_reducible refine OnlyMast.updSeq ?_ | with_reducible refine State.enterSeq_only ?_
                 | with_reducible refine OnlyMast.foldl ?_ ?_ | intro _ _ | intro _ | extract_lets | split | dsimp only)

theorem State.actStop_only {z s : State} {m : Fin 16} {mode : Nat} {t : Nat} (h : OnlyMast m z s) : OnlyMast m z (State.actStop s m mode t) := by
  unfold State.actStop
  try extract_lets
  repeat' (first | with_reducible assumption | with_reducible refine OnlyMast.ite ?_ ?_ | with_reducible refine State.enterSeq_only ?_
                 | with_reducible refine OnlyMast.updSeq ?_ | with_reducible refine State.beginBrake_only ?_
                 | with_reducible refine State.beginStopping_only ?_ | with_reducible refine OnlyMast.foldl ?_ ?_ | intro _ _ | intro _
                 | extract_lets | split | dsimp only)

theorem State.actClear_only {z s : State} {m : Fin 16} {t : Nat} (h : OnlyMast m z s) : OnlyMast m z (State.actClear s m t) := by
  unfold State.actClear
  try extract_lets
  repeat' (first | with_reducible assumption | with_reducible refine OnlyMast.ite ?_ ?_ | with_reducible refine State.seqFlag_only ?_ (by decide)
                 | with_reducible refine State.enterSeq_only ?_ | with_reducible refine OnlyMast.foldl ?_ ?_ | intro _ _ | intro _ | extract_lets
                 | split | dsimp only)

theorem State.actReq_only {z s : State} {m : Fin 16} {r : SeqReq} {t : Nat} (h : OnlyMast m z s) : OnlyMast m z (State.actReq s m r t) := by
  unfold State.actReq
  try extract_lets
  repeat' (first | with_reducible assumption | with_reducible refine OnlyMast.ite ?_ ?_ | with_reducible refine State.actStart_only ?_
                 | with_reducible refine State.actStop_only ?_ | with_reducible refine State.actClear_only ?_
                 | with_reducible refine OnlyMast.foldl ?_ ?_ | intro _ _ | intro _ | extract_lets | split | dsimp only)

theorem State.seqRequest_only {z s : State} {m : Fin 16} {r : SeqReq} (h : OnlyMast m z s) : OnlyMast m z (State.seqRequest s m r) := by
  unfold State.seqRequest
  try extract_lets
  repeat' (first | with_reducible assumption | with_reducible refine OnlyMast.ite ?_ ?_ | with_reducible refine State.seqFlag_only ?_ (by decide)
                 | with_reducible refine State.refuse_only ?_ | with_reducible refine OnlyMast.when ?_ ?_ | with_reducible refine OnlyMast.updSeq ?_
                 | with_reducible refine State.actReq_only ?_ | with_reducible refine OnlyMast.foldl ?_ ?_ | intro _ _ | intro _ | extract_lets
                 | split | dsimp only)

theorem State.actRamp_only {z s : State} {m : Fin 16} {t : Nat} (h : OnlyMast m z s) : OnlyMast m z (State.actRamp s m t) := by
  unfold State.actRamp
  try extract_lets
  repeat' (first | with_reducible assumption | with_reducible refine OnlyMast.ite ?_ ?_ | with_reducible refine State.beginStopping_only ?_
                 | with_reducible refine OnlyMast.updSeq ?_ | with_reducible refine State.enterSeq_only ?_
                 | with_reducible refine OnlyMast.foldl ?_ ?_ | intro _ _ | intro _ | extract_lets | split | dsimp only)

theorem State.stopTmo_only {z s : State} {m : Fin 16} (h : OnlyMast m z s) : OnlyMast m z (State.stopTmo s m) := by
  unfold State.stopTmo
  try extract_lets
  repeat' (first | with_reducible assumption | with_reducible refine OnlyMast.ite ?_ ?_ | with_reducible refine OnlyMast.updSeq ?_
                 | with_reducible refine State.seqFlag_only ?_ (by decide) | with_reducible refine OnlyMast.foldl ?_ ?_ | intro _ _ | intro _
                 | extract_lets | split | dsimp only)

theorem State.seqMove_only {z s : State} {m : Fin 16} {t : Nat} (h : OnlyMast m z s) : OnlyMast m z (State.seqMove s m t) := by
  unfold State.seqMove
  try extract_lets
  repeat' (first | with_reducible assumption | with_reducible refine OnlyMast.ite ?_ ?_ | with_reducible refine State.beginListen_only ?_
                 | with_reducible refine State.enterSeq_only ?_ | with_reducible refine State.refuse_only ?_
                 | with_reducible refine State.beginSync_only ?_ | with_reducible refine State.standstill_only ?_
                 | with_reducible refine State.beginBrake_only ?_ | with_reducible refine OnlyMast.foldl ?_ ?_ | intro _ _ | intro _ | extract_lets
                 | split | dsimp only)

theorem State.brakeBoundary_only {z s : State} {m : Fin 16} {t : Nat} (h : OnlyMast m z s) : OnlyMast m z (State.brakeBoundary s m t) := by
  unfold State.brakeBoundary
  try extract_lets
  repeat' (first | with_reducible assumption | with_reducible refine OnlyMast.ite ?_ ?_ | with_reducible refine State.pulseEnd_only ?_
                 | with_reducible refine State.pauseEnd_only ?_ | with_reducible refine OnlyMast.foldl ?_ ?_ | intro _ _ | intro _ | extract_lets
                 | split | dsimp only)

theorem State.seqBoundary_only {z s : State} {m : Fin 16} {t : Nat} (h : OnlyMast m z s) : OnlyMast m z (State.seqBoundary s m t) := by
  unfold State.seqBoundary
  extract_lets s0 q s1 s2 s3 moved s4 s5
  have h_s0 : OnlyMast m z s0 := by
    repeat' (first | with_reducible assumption | with_reducible refine OnlyMast.ite ?_ ?_ | with_reducible refine State.brakeBoundary_only ?_
                   | with_reducible refine OnlyMast.updSeq ?_ | with_reducible refine State.enterSeq_only ?_
                   | with_reducible refine State.actRamp_only ?_ | with_reducible refine State.actReq_only ?_
                   | with_reducible refine State.seqMove_only ?_ | with_reducible refine OnlyMast.foldl ?_ ?_ | intro _ _ | intro _ | extract_lets
                   | split | dsimp only)
  clear_value s0
  have h_s1 : OnlyMast m z s1 := by
    repeat' (first | with_reducible assumption | with_reducible refine OnlyMast.ite ?_ ?_ | with_reducible refine State.brakeBoundary_only ?_
                   | with_reducible refine OnlyMast.updSeq ?_ | with_reducible refine State.enterSeq_only ?_
                   | with_reducible refine State.actRamp_only ?_ | with_reducible refine State.actReq_only ?_
                   | with_reducible refine State.seqMove_only ?_ | with_reducible refine OnlyMast.foldl ?_ ?_ | intro _ _ | intro _ | extract_lets
                   | split | dsimp only)
  clear_value s1
  have h_s2 : OnlyMast m z s2 := by
    repeat' (first | with_reducible assumption | with_reducible refine OnlyMast.ite ?_ ?_ | with_reducible refine State.brakeBoundary_only ?_
                   | with_reducible refine OnlyMast.updSeq ?_ | with_reducible refine State.enterSeq_only ?_
                   | with_reducible refine State.actRamp_only ?_ | with_reducible refine State.actReq_only ?_
                   | with_reducible refine State.seqMove_only ?_ | with_reducible refine OnlyMast.foldl ?_ ?_ | intro _ _ | intro _ | extract_lets
                   | split | dsimp only)
  clear_value s2
  have h_s3 : OnlyMast m z s3 := by
    repeat' (first | with_reducible assumption | with_reducible refine OnlyMast.ite ?_ ?_ | with_reducible refine State.brakeBoundary_only ?_
                   | with_reducible refine OnlyMast.updSeq ?_ | with_reducible refine State.enterSeq_only ?_
                   | with_reducible refine State.actRamp_only ?_ | with_reducible refine State.actReq_only ?_
                   | with_reducible refine State.seqMove_only ?_ | with_reducible refine OnlyMast.foldl ?_ ?_ | intro _ _ | intro _ | extract_lets
                   | split | dsimp only)
  clear_value s3
  have h_s4 : OnlyMast m z s4 := by
    repeat' (first | with_reducible assumption | with_reducible refine OnlyMast.ite ?_ ?_ | with_reducible refine State.brakeBoundary_only ?_
                   | with_reducible refine OnlyMast.updSeq ?_ | with_reducible refine State.enterSeq_only ?_
                   | with_reducible refine State.actRamp_only ?_ | with_reducible refine State.actReq_only ?_
                   | with_reducible refine State.seqMove_only ?_ | with_reducible refine OnlyMast.foldl ?_ ?_ | intro _ _ | intro _ | extract_lets
                   | split | dsimp only)
  clear_value s4
  have h_s5 : OnlyMast m z s5 := by
    repeat' (first | with_reducible assumption | with_reducible refine OnlyMast.ite ?_ ?_ | with_reducible refine State.brakeBoundary_only ?_
                   | with_reducible refine OnlyMast.updSeq ?_ | with_reducible refine State.enterSeq_only ?_
                   | with_reducible refine State.actRamp_only ?_ | with_reducible refine State.actReq_only ?_
                   | with_reducible refine State.seqMove_only ?_ | with_reducible refine OnlyMast.foldl ?_ ?_ | intro _ _ | intro _ | extract_lets
                   | split | dsimp only)
  clear_value s5
  repeat' (first | with_reducible assumption | with_reducible refine OnlyMast.ite ?_ ?_ | with_reducible refine State.brakeBoundary_only ?_
                 | with_reducible refine OnlyMast.updSeq ?_ | with_reducible refine State.enterSeq_only ?_
                 | with_reducible refine State.actRamp_only ?_ | with_reducible refine State.actReq_only ?_
                 | with_reducible refine State.seqMove_only ?_ | with_reducible refine OnlyMast.foldl ?_ ?_ | intro _ _ | intro _ | extract_lets
                 | split | dsimp only)

theorem State.seqRelease_only {z s : State} {m : Fin 16} {c : Cap} {vOk : Bool} (h : OnlyMast m z s) :
    OnlyMast m z (State.seqRelease s m c vOk) := by
  unfold State.seqRelease
  try extract_lets
  repeat' (first | with_reducible assumption | with_reducible refine OnlyMast.ite ?_ ?_ | with_reducible refine State.listenSet_only ?_
                 | with_reducible refine State.syncSet_only ?_ | with_reducible refine OnlyMast.updSeq ?_
                 | with_reducible refine OnlyMast.putMs ?_ (by simp) | with_reducible refine OnlyMast.foldl ?_ ?_ | intro _ _ | intro _
                 | extract_lets | split | extract_lets | dsimp only)

/-- The notes of the gates are apart from a mast. -/
theorem State.gateMarkN_only {z s : State} {m n : Fin 16} (h : OnlyMast m z s) : OnlyMast m z (s.gateMark n) := by
  unfold State.gateMark
  split
  · exact h
  · exact h.updN (.inr rfl)

theorem State.refreshSafeN_only {z s : State} {m n : Fin 16} (h : OnlyMast m z s) : OnlyMast m z (s.refreshSafe n) := by
  unfold State.refreshSafe
  try extract_lets
  repeat' (first | with_reducible assumption | with_reducible refine OnlyMast.ite ?_ ?_ | with_reducible refine State.gateMarkN_only ?_
                 | refine OnlyMast.updN ?_ (.inr rfl) | extract_lets | split | dsimp only)

theorem State.setChop_only {z s : State} {m n : Fin 16} {on : Bool} (h : OnlyMast m z s) : OnlyMast m z (State.setChop s n on) := by
  unfold State.setChop
  dsimp only
  split
  · exact h
  · exact (State.gateMarkN_only h).updN (.inr rfl)

theorem State.applyChop_only {z s : State} {m : Fin 16} {g : Fin 8} (h : OnlyMast m z s) : OnlyMast m z (State.applyChop s g) := by
  unfold State.applyChop
  exact OnlyMast.foldl h fun _ _ k => State.setChop_only k

theorem State.chopFail_only {z s : State} {m n : Fin 16} {g : Option (Fin 8)} (h : OnlyMast m z s) : OnlyMast m z (State.chopFail s g n) := by
  unfold State.chopFail
  dsimp only
  have h1 : OnlyMast m z (((s.updShr n fun h => { h with chopFailed := true }).setChop n false).raiseM n MS.CHOPPER_FAIL 0) := by
    refine OnlyMast.raise (State.setChop_only ?_)
    exact h.updN (.inr rfl)
  split
  · exact h1
  · exact h1.updG

theorem State.chopCheck_only {z s : State} {m : Fin 16} {g : Fin 8} {v : Word} (h : OnlyMast m z s) : OnlyMast m z (State.chopCheck s g v) := by
  unfold State.chopCheck
  dsimp only
  split
  · exact h
  · split
    · split
      · exact OnlyMast.ite (State.chopFail_only h.updG) h.updG
      · exact h
    · exact h

theorem State.chopSwitch_only {z s : State} {m : Fin 16} {g : Fin 8} {v : Word} (h : OnlyMast m z s) : OnlyMast m z (State.chopSwitch s g v) := by
  unfold State.chopSwitch
  exact State.applyChop_only h.updG

theorem State.raiseBus_only {z s : State} {m : Fin 16} {l : List (Fin 16)} {k detail : Nat} {b : Bool} (h : OnlyMast m z s) :
    OnlyMast m z (State.raiseBus s l k detail b) := by
  unfold State.raiseBus
  exact OnlyMast.foldl h fun _ _ k => k.raise

theorem State.refreshGroup_only {z s : State} {m : Fin 16} {g : Fin 8} (h : OnlyMast m z s) : OnlyMast m z (State.refreshGroup s g) := by
  unfold State.refreshGroup
  exact OnlyMast.foldl h fun _ _ k => State.refreshSafeN_only k

theorem State.enterBg_only {z s : State} {m : Fin 16} {g : Fin 8} {st : BgSt} (h : OnlyMast m z s) : OnlyMast m z (State.enterBg s g st) := by
  unfold State.enterBg
  exact State.refreshGroup_only h.updG

theorem State.evalGroup_only {z s : State} {m : Fin 16} {g : Fin 8} (h : OnlyMast m z s) : OnlyMast m z (State.evalGroup s g) := by
  unfold State.evalGroup
  extract_lets b v n1 nu o1 o2 uv s1 s2 s3 ms s4 s5
  have h2 : OnlyMast m z s2 := State.chopCheck_only h.updG
  have h3 : OnlyMast m z s3 := OnlyMast.ite (State.enterBg_only h2) h2
  have h4 : OnlyMast m z s4 := OnlyMast.ite (State.raiseBus_only h3) (OnlyMast.ite (State.raiseBus_only h3) h3)
  exact OnlyMast.ite h (State.chopSwitch_only (OnlyMast.when h4 fun _ k => State.raiseBus_only k))

theorem State.recover_only {z s : State} {m : Fin 16} {g : Fin 8} (h : OnlyMast m z s) : OnlyMast m z (State.recover s g) := State.enterBg_only h

theorem State.chopUnseen_only {z s : State} {m : Fin 16} {g : Fin 8} (h : OnlyMast m z s) : OnlyMast m z (State.chopUnseen s g) := by
  unfold State.chopUnseen
  exact OnlyMast.ite h.updG h

theorem State.groupStopped_only {z s : State} {m n : Fin 16} (h : OnlyMast m z s) : OnlyMast m z (State.groupStopped s n) := by
  unfold State.groupStopped
  split
  · exact h
  · exact State.applyChop_only (State.chopUnseen_only h)

theorem State.regenRelease_only {z s : State} {m : Fin 16} (h : OnlyMast m z s) : OnlyMast m z (State.regenRelease s m) := by
  unfold State.regenRelease
  try extract_lets
  repeat' (first | with_reducible assumption | with_reducible refine OnlyMast.ite ?_ ?_ | with_reducible refine OnlyMast.putM ?_ (by decide)
                 | with_reducible refine OnlyMast.foldl ?_ ?_ | intro _ _ | intro _ | extract_lets | split | dsimp only)

theorem State.busRelease_only {z s : State} {m n : Fin 16} {v : Bool} (h : OnlyMast m z s) : OnlyMast m z (State.busRelease s n v) := by
  unfold State.busRelease
  split
  · exact h
  · exact OnlyMast.ite (State.evalGroup_only h) h

theorem State.noteLatch_only {z s : State} {m : Fin 16} {code : Nat} (h : OnlyMast m z s) : OnlyMast m z (State.noteLatch s m code) := by
  unfold State.noteLatch
  try extract_lets
  repeat' (first | with_reducible assumption | with_reducible refine OnlyMast.ite ?_ ?_ | with_reducible refine OnlyMast.updShr ?_
                 | with_reducible refine OnlyMast.foldl ?_ ?_ | intro _ _ | intro _ | extract_lets | split | dsimp only)

theorem State.setLatch_only {z s : State} {m : Fin 16} {code : Nat} (h : OnlyMast m z s) : OnlyMast m z (State.setLatch s m code) := by
  unfold State.setLatch
  try extract_lets
  repeat' (first | with_reducible assumption | with_reducible refine OnlyMast.ite ?_ ?_ | with_reducible refine State.gateMark_only ?_
                 | with_reducible refine State.noteLatch_only ?_ | with_reducible refine OnlyMast.updShr ?_
                 | with_reducible refine State.refreshSafe_only ?_ | with_reducible refine OnlyMast.raiseM ?_
                 | with_reducible refine OnlyMast.bump ?_ (by decide) | with_reducible refine OnlyMast.when ?_ ?_
                 | with_reducible refine State.chopFail_only ?_ | with_reducible refine OnlyMast.foldl ?_ ?_ | intro _ _ | intro _ | extract_lets
                 | split | dsimp only)

theorem State.cutRef_only {z s : State} {m : Fin 16} {bit : Nat} (h : OnlyMast m z s) : OnlyMast m z (State.cutRef s m bit) := by
  unfold State.cutRef
  try extract_lets
  repeat' (first | with_reducible assumption | with_reducible refine OnlyMast.ite ?_ ?_ | with_reducible refine OnlyMast.updShr ?_
                 | with_reducible refine OnlyMast.when ?_ ?_ | with_reducible refine State.setLatch_only ?_
                 | with_reducible refine OnlyMast.bump ?_ (by decide) | with_reducible refine OnlyMast.setFld ?_ (by decide)
                 | with_reducible refine OnlyMast.updSense ?_ | with_reducible refine OnlyMast.foldl ?_ ?_ | intro _ _ | intro _ | extract_lets
                 | split | dsimp only)

theorem State.cbcLatch_only {z s : State} {m : Fin 16} (h : OnlyMast m z s) : OnlyMast m z (State.cbcLatch s m) := by
  unfold State.cbcLatch
  extract_lets by_ s1 s2
  have h_s1 : OnlyMast m z s1 := by
    repeat' (first | with_reducible assumption | with_reducible refine OnlyMast.ite ?_ ?_ | with_reducible refine OnlyMast.updShr ?_
                   | with_reducible refine OnlyMast.when ?_ ?_ | with_reducible refine State.setLatch_only ?_
                   | with_reducible refine OnlyMast.foldl ?_ ?_ | intro _ _ | intro _ | extract_lets | split | dsimp only)
  clear_value s1
  have h_s2 : OnlyMast m z s2 := by
    repeat' (first | with_reducible assumption | with_reducible refine OnlyMast.ite ?_ ?_ | with_reducible refine OnlyMast.updShr ?_
                   | with_reducible refine OnlyMast.when ?_ ?_ | with_reducible refine State.setLatch_only ?_
                   | with_reducible refine OnlyMast.foldl ?_ ?_ | intro _ _ | intro _ | extract_lets | split | dsimp only)
  clear_value s2
  repeat' (first | with_reducible assumption | with_reducible refine OnlyMast.ite ?_ ?_ | with_reducible refine OnlyMast.updShr ?_
                 | with_reducible refine OnlyMast.when ?_ ?_ | with_reducible refine State.setLatch_only ?_
                 | with_reducible refine OnlyMast.foldl ?_ ?_ | intro _ _ | intro _ | extract_lets | split | dsimp only)

theorem State.compAct_only {z s : State} {m : Fin 16} {bit : Nat} {cbc : Bool} (h : OnlyMast m z s) : OnlyMast m z (State.compAct s m bit cbc) := by
  unfold State.compAct
  try extract_lets
  repeat' (first | with_reducible assumption | with_reducible refine OnlyMast.ite ?_ ?_ | with_reducible refine State.cutRef_only ?_
                 | with_reducible refine State.setLatch_only ?_ | with_reducible refine OnlyMast.foldl ?_ ?_ | intro _ _ | intro _ | extract_lets
                 | split | dsimp only)

theorem State.shroudLook_only {z s : State} {m : Fin 16} (h : OnlyMast m z s) : OnlyMast m z (State.shroudLook s m) := by
  unfold State.shroudLook
  extract_lets h_1 oc tb s1 s2
  have h_s1 : OnlyMast m z s1 := by
    repeat' (first | with_reducible assumption | with_reducible refine OnlyMast.ite ?_ ?_ | with_reducible refine OnlyMast.when ?_ ?_
                   | with_reducible refine State.compAct_only ?_ | with_reducible refine State.setLatch_only ?_
                   | with_reducible refine OnlyMast.foldl ?_ ?_ | intro _ _ | intro _ | extract_lets | split | dsimp only)
  clear_value s1
  have h_s2 : OnlyMast m z s2 := by
    repeat' (first | with_reducible assumption | with_reducible refine OnlyMast.ite ?_ ?_ | with_reducible refine OnlyMast.when ?_ ?_
                   | with_reducible refine State.compAct_only ?_ | with_reducible refine State.setLatch_only ?_
                   | with_reducible refine OnlyMast.foldl ?_ ?_ | intro _ _ | intro _ | extract_lets | split | dsimp only)
  clear_value s2
  repeat' (first | with_reducible assumption | with_reducible refine OnlyMast.ite ?_ ?_ | with_reducible refine OnlyMast.when ?_ ?_
                 | with_reducible refine State.compAct_only ?_ | with_reducible refine State.setLatch_only ?_
                 | with_reducible refine OnlyMast.foldl ?_ ?_ | intro _ _ | intro _ | extract_lets | split | dsimp only)

theorem State.cutEnd_only {z s : State} {m : Fin 16} (h : OnlyMast m z s) : OnlyMast m z (State.cutEnd s m) := by
  unfold State.cutEnd
  try extract_lets
  repeat' (first | with_reducible assumption | with_reducible refine OnlyMast.ite ?_ ?_ | with_reducible refine State.cbcLatch_only ?_
                 | with_reducible refine OnlyMast.updShr ?_ | with_reducible refine OnlyMast.foldl ?_ ?_ | intro _ _ | intro _ | extract_lets | split
                 | dsimp only)

theorem State.shroudClear_only {z s : State} {m : Fin 16} (h : OnlyMast m z s) : OnlyMast m z (State.shroudClear s m) := by
  unfold State.shroudClear
  try extract_lets
  repeat' (first | with_reducible assumption | with_reducible refine OnlyMast.ite ?_ ?_ | with_reducible refine OnlyMast.updShr ?_
                 | with_reducible refine State.gateMark_only ?_ | with_reducible refine OnlyMast.when ?_ ?_
                 | with_reducible refine State.refreshSafe_only ?_ | with_reducible refine OnlyMast.setFld ?_ (by decide)
                 | with_reducible refine OnlyMast.foldl ?_ ?_ | intro _ _ | intro _ | extract_lets | split | dsimp only)

theorem State.shroudTest_only {z s : State} {m : Fin 16} (h : OnlyMast m z s) : OnlyMast m z (State.shroudTest s m) := by
  unfold State.shroudTest
  try extract_lets
  repeat' (first | with_reducible assumption | with_reducible refine OnlyMast.ite ?_ ?_ | with_reducible refine OnlyMast.setFld ?_ (by decide)
                 | with_reducible refine OnlyMast.updShr ?_ | with_reducible refine OnlyMast.foldl ?_ ?_ | intro _ _ | intro _ | extract_lets | split
                 | dsimp only)

theorem State.caseFlags_only {z s : State} {m : Fin 16} {l : List CaseFlag} (h : OnlyMast m z s) : OnlyMast m z (State.caseFlags s m l) := by
  unfold State.caseFlags
  extract_lets s1 s2
  have h_s1 : OnlyMast m z s1 := by
    repeat' (first | with_reducible assumption | with_reducible refine OnlyMast.ite ?_ ?_ | with_reducible refine OnlyMast.when ?_ ?_
                   | with_reducible refine OnlyMast.setFld ?_ (by decide) | with_reducible refine OnlyMast.foldl ?_ ?_ | intro _ _ | intro _
                   | extract_lets | split | dsimp only)
  clear_value s1
  have h_s2 : OnlyMast m z s2 := by
    repeat' (first | with_reducible assumption | with_reducible refine OnlyMast.ite ?_ ?_ | with_reducible refine OnlyMast.when ?_ ?_
                   | with_reducible refine OnlyMast.setFld ?_ (by decide) | with_reducible refine OnlyMast.foldl ?_ ?_ | intro _ _ | intro _
                   | extract_lets | split | dsimp only)
  clear_value s2
  repeat' (first | with_reducible assumption | with_reducible refine OnlyMast.ite ?_ ?_ | with_reducible refine OnlyMast.when ?_ ?_
                 | with_reducible refine OnlyMast.setFld ?_ (by decide) | with_reducible refine OnlyMast.foldl ?_ ?_ | intro _ _ | intro _
                 | extract_lets | split | dsimp only)

theorem State.planPeriod_only {z s : State} {m : Fin 16} {b : Nat} {tLen : Nat} {inl : Bool} {ch : Option (ℤ × ℤ)} (h : OnlyMast m z s) : OnlyMast m z
  (State.planPeriod s m b tLen inl ch).1 := by
  unfold State.planPeriod
  try extract_lets
  repeat' (first | with_reducible assumption | with_reducible refine OnlyMast.ite ?_ ?_ | with_reducible refine State.caseFlags_only ?_
                 | with_reducible refine OnlyMast.updPwm ?_ | with_reducible refine OnlyMast.foldl ?_ ?_ | intro _ _ | intro _ | extract_lets | split
                 | dsimp only)

theorem State.rampRelease_only {z s : State} {m : Fin 16} (h : OnlyMast m z s) :
    OnlyMast m z (State.rampRelease s m) := by
  unfold State.rampRelease
  try extract_lets
  repeat' (first | with_reducible assumption | with_reducible refine OnlyMast.ite ?_ ?_ | with_reducible refine OnlyMast.updSeq ?_
                 | with_reducible refine OnlyMast.foldl ?_ ?_ | intro _ _ | intro _ | extract_lets | split | extract_lets | dsimp only)

theorem State.release_only {z s : State} {m : Fin 16} {c : Cap} (h : OnlyMast m z s) :
    OnlyMast m z (State.release s m c) := by
  unfold State.release
  try extract_lets
  repeat' (first | with_reducible assumption | with_reducible refine OnlyMast.ite ?_ ?_ | with_reducible refine State.writeSet_only ?_
                 | with_reducible refine State.comRelease_only ?_ | with_reducible refine State.seqRelease_only ?_
                 | with_reducible refine State.cmdRelease_only ?_ | with_reducible refine State.regenRelease_only ?_
                 | with_reducible refine State.halRelease_only ?_ | with_reducible refine State.rampRelease_only ?_
                 | with_reducible refine State.busRelease_only ?_ | with_reducible refine State.loopTrigger_only ?_
                 | with_reducible refine OnlyMast.foldl ?_ ?_ | intro _ _ | intro _ | extract_lets | split | extract_lets | dsimp only)

theorem State.noteZ_only {z s : State} {m : Fin 16} (h : OnlyMast m z s) :
    OnlyMast m z (State.noteZ s m) := by
  unfold State.noteZ
  try extract_lets
  repeat' (first | with_reducible assumption | with_reducible refine OnlyMast.ite ?_ ?_ | with_reducible refine OnlyMast.when ?_ ?_
                 | with_reducible refine OnlyMast.updCom ?_ | with_reducible refine OnlyMast.foldl ?_ ?_ | intro _ _ | intro _ | extract_lets
                 | split | extract_lets | dsimp only)

theorem State.closePeriod_only {z s : State} {m : Fin 16} {b : Nat} (h : OnlyMast m z s) :
    OnlyMast m z (State.closePeriod s m b) := by
  unfold State.closePeriod
  try extract_lets
  repeat' (first | with_reducible assumption | with_reducible refine OnlyMast.ite ?_ ?_ | with_reducible refine OnlyMast.when ?_ ?_
                 | with_reducible refine State.noteZ_only ?_ | with_reducible refine State.gateMark_only ?_ | with_reducible refine OnlyMast.updM ?_
                 | with_reducible refine State.applyDeferred_only ?_ | with_reducible refine State.ofsLook_only ?_
                 | with_reducible refine OnlyMast.updSense ?_ | with_reducible refine OnlyMast.foldl ?_ ?_ | intro _ _ | intro _ | extract_lets
                 | split | extract_lets | dsimp only)

/-- The writes that wait for the mast's boundaries are dropped. -/
theorem OnlyMast.dropDeferred {z s : State} {m : Fin 16} (h : OnlyMast m z s) :
    OnlyMast m z { s with deferred := s.deferred.filter fun d => decide (d.key / 0x2000 ≠ m.val) } :=
  h.deferred (by simp only [List.filter_filter, Bool.and_self])

theorem State.stopAt_only {z s : State} {m : Fin 16} {b : Nat} (h : OnlyMast m z s) :
    OnlyMast m z (State.stopAt s m b) := by
  unfold State.stopAt
  extract_lets p last chop s1 s2 s3 s4 s5 s6 s7
  have h_s1 : OnlyMast m z s1 := by
    repeat' (first | with_reducible assumption | (with_reducible refine OnlyMast.dropDeferred ?_) | with_reducible refine OnlyMast.ite ?_ ?_ | with_reducible refine OnlyMast.updPwm ?_
                   | with_reducible refine OnlyMast.updSense ?_ | with_reducible refine State.dropValid_only ?_
                   | with_reducible refine State.hardStep_only ?_ | with_reducible refine State.luffEnd_only ?_
                   | with_reducible refine State.propagate_only ?_ | with_reducible refine State.seqBoundary_only ?_
                   | with_reducible refine OnlyMast.updSeq ?_ | with_reducible refine State.cutEnd_only ?_
                   | with_reducible refine State.leaveSafe_only ?_ | with_reducible refine State.groupStopped_only ?_
                   | with_reducible refine OnlyMast.putMs ?_ (by simp) | with_reducible refine OnlyMast.foldl ?_ ?_ | intro _ _ | intro _
                   | extract_lets | split | extract_lets | dsimp only)
  clear_value s1
  have h_s2 : OnlyMast m z s2 := by
    repeat' (first | with_reducible assumption | (with_reducible refine OnlyMast.dropDeferred ?_) | with_reducible refine OnlyMast.ite ?_ ?_ | with_reducible refine OnlyMast.updPwm ?_
                   | with_reducible refine OnlyMast.updSense ?_ | with_reducible refine State.dropValid_only ?_
                   | with_reducible refine State.hardStep_only ?_ | with_reducible refine State.luffEnd_only ?_
                   | with_reducible refine State.propagate_only ?_ | with_reducible refine State.seqBoundary_only ?_
                   | with_reducible refine OnlyMast.updSeq ?_ | with_reducible refine State.cutEnd_only ?_
                   | with_reducible refine State.leaveSafe_only ?_ | with_reducible refine State.groupStopped_only ?_
                   | with_reducible refine OnlyMast.putMs ?_ (by simp) | with_reducible refine OnlyMast.foldl ?_ ?_ | intro _ _ | intro _
                   | extract_lets | split | extract_lets | dsimp only)
  clear_value s2
  have h_s3 : OnlyMast m z s3 := by
    repeat' (first | with_reducible assumption | (with_reducible refine OnlyMast.dropDeferred ?_) | with_reducible refine OnlyMast.ite ?_ ?_ | with_reducible refine OnlyMast.updPwm ?_
                   | with_reducible refine OnlyMast.updSense ?_ | with_reducible refine State.dropValid_only ?_
                   | with_reducible refine State.hardStep_only ?_ | with_reducible refine State.luffEnd_only ?_
                   | with_reducible refine State.propagate_only ?_ | with_reducible refine State.seqBoundary_only ?_
                   | with_reducible refine OnlyMast.updSeq ?_ | with_reducible refine State.cutEnd_only ?_
                   | with_reducible refine State.leaveSafe_only ?_ | with_reducible refine State.groupStopped_only ?_
                   | with_reducible refine OnlyMast.putMs ?_ (by simp) | with_reducible refine OnlyMast.foldl ?_ ?_ | intro _ _ | intro _
                   | extract_lets | split | extract_lets | dsimp only)
  clear_value s3
  have h_s4 : OnlyMast m z s4 := by
    clear_value last
    dsimp only [s4]
    repeat' (first | with_reducible assumption | (with_reducible refine OnlyMast.dropDeferred ?_) | with_reducible refine OnlyMast.ite ?_ ?_ | with_reducible refine OnlyMast.updPwm ?_
                   | with_reducible refine OnlyMast.updSense ?_ | with_reducible refine State.dropValid_only ?_
                   | with_reducible refine State.hardStep_only ?_ | with_reducible refine State.luffEnd_only ?_
                   | with_reducible refine State.propagate_only ?_ | with_reducible refine State.seqBoundary_only ?_
                   | with_reducible refine OnlyMast.updSeq ?_ | with_reducible refine State.cutEnd_only ?_
                   | with_reducible refine State.leaveSafe_only ?_ | with_reducible refine State.groupStopped_only ?_
                   | with_reducible refine OnlyMast.putMs ?_ (by simp) | with_reducible refine OnlyMast.foldl ?_ ?_ | intro _ _ | intro _
                   | extract_lets | split | extract_lets | dsimp only)
  clear_value s4
  have h_s5 : OnlyMast m z s5 := by
    repeat' (first | with_reducible assumption | (with_reducible refine OnlyMast.dropDeferred ?_) | with_reducible refine OnlyMast.ite ?_ ?_ | with_reducible refine OnlyMast.updPwm ?_
                   | with_reducible refine OnlyMast.updSense ?_ | with_reducible refine State.dropValid_only ?_
                   | with_reducible refine State.hardStep_only ?_ | with_reducible refine State.luffEnd_only ?_
                   | with_reducible refine State.propagate_only ?_ | with_reducible refine State.seqBoundary_only ?_
                   | with_reducible refine OnlyMast.updSeq ?_ | with_reducible refine State.cutEnd_only ?_
                   | with_reducible refine State.leaveSafe_only ?_ | with_reducible refine State.groupStopped_only ?_
                   | with_reducible refine OnlyMast.putMs ?_ (by simp) | with_reducible refine OnlyMast.foldl ?_ ?_ | intro _ _ | intro _
                   | extract_lets | split | extract_lets | dsimp only)
  clear_value s5
  have h_s6 : OnlyMast m z s6 := by
    repeat' (first | with_reducible assumption | (with_reducible refine OnlyMast.dropDeferred ?_) | with_reducible refine OnlyMast.ite ?_ ?_ | with_reducible refine OnlyMast.updPwm ?_
                   | with_reducible refine OnlyMast.updSense ?_ | with_reducible refine State.dropValid_only ?_
                   | with_reducible refine State.hardStep_only ?_ | with_reducible refine State.luffEnd_only ?_
                   | with_reducible refine State.propagate_only ?_ | with_reducible refine State.seqBoundary_only ?_
                   | with_reducible refine OnlyMast.updSeq ?_ | with_reducible refine State.cutEnd_only ?_
                   | with_reducible refine State.leaveSafe_only ?_ | with_reducible refine State.groupStopped_only ?_
                   | with_reducible refine OnlyMast.putMs ?_ (by simp) | with_reducible refine OnlyMast.foldl ?_ ?_ | intro _ _ | intro _
                   | extract_lets | split | extract_lets | dsimp only)
  clear_value s6
  have h_s7 : OnlyMast m z s7 := by
    repeat' (first | with_reducible assumption | (with_reducible refine OnlyMast.dropDeferred ?_) | with_reducible refine OnlyMast.ite ?_ ?_ | with_reducible refine OnlyMast.updPwm ?_
                   | with_reducible refine OnlyMast.updSense ?_ | with_reducible refine State.dropValid_only ?_
                   | with_reducible refine State.hardStep_only ?_ | with_reducible refine State.luffEnd_only ?_
                   | with_reducible refine State.propagate_only ?_ | with_reducible refine State.seqBoundary_only ?_
                   | with_reducible refine OnlyMast.updSeq ?_ | with_reducible refine State.cutEnd_only ?_
                   | with_reducible refine State.leaveSafe_only ?_ | with_reducible refine State.groupStopped_only ?_
                   | with_reducible refine OnlyMast.putMs ?_ (by simp) | with_reducible refine OnlyMast.foldl ?_ ?_ | intro _ _ | intro _
                   | extract_lets | split | extract_lets | dsimp only)
  clear_value s7
  repeat' (first | with_reducible assumption | (with_reducible refine OnlyMast.dropDeferred ?_) | with_reducible refine OnlyMast.ite ?_ ?_ | with_reducible refine OnlyMast.updPwm ?_
                 | with_reducible refine OnlyMast.updSense ?_ | with_reducible refine State.dropValid_only ?_
                 | with_reducible refine State.hardStep_only ?_ | with_reducible refine State.luffEnd_only ?_
                 | with_reducible refine State.propagate_only ?_ | with_reducible refine State.seqBoundary_only ?_
                 | with_reducible refine OnlyMast.updSeq ?_ | with_reducible refine State.cutEnd_only ?_
                 | with_reducible refine State.leaveSafe_only ?_ | with_reducible refine State.groupStopped_only ?_
                 | with_reducible refine OnlyMast.putMs ?_ (by simp) | with_reducible refine OnlyMast.foldl ?_ ?_ | intro _ _ | intro _
                 | extract_lets | split | extract_lets | dsimp only)

theorem State.polarityCmp_only {z s : State} {m : Fin 16} {b : Nat} {tLen : Nat} (h : OnlyMast m z s) :
    OnlyMast m z (State.polarityCmp s m b tLen) := by
  unfold State.polarityCmp
  try extract_lets
  repeat' (first | with_reducible assumption | with_reducible refine OnlyMast.ite ?_ ?_ | with_reducible refine OnlyMast.updPwm ?_
                 | with_reducible refine OnlyMast.updCom ?_ | with_reducible refine OnlyMast.when ?_ ?_
                 | with_reducible refine State.comFlag_only ?_ (by decide) | with_reducible refine OnlyMast.foldl ?_ ?_ | intro _ _ | intro _
                 | extract_lets | split | extract_lets | dsimp only)

theorem State.beginPeriod_only {z s : State} {m : Fin 16} {b : Nat} {tLen : Nat} {path : Bool × Nat} {chg : Bool} (h : OnlyMast m z s) :
    OnlyMast m z (State.beginPeriod s m b tLen path chg) := by
  unfold State.beginPeriod
  extract_lets k ch pl s1 chop s2 s3 s4 d chips cap s5 s6
  have h_s1 : OnlyMast m z s1 := by
    repeat' (first | with_reducible assumption | with_reducible refine OnlyMast.ite ?_ ?_ | with_reducible refine State.planPeriod_only ?_
                   | with_reducible refine OnlyMast.updPwm ?_ | with_reducible refine State.cutEnd_only ?_
                   | with_reducible refine OnlyMast.updShr ?_ | with_reducible refine OnlyMast.updSense ?_
                   | with_reducible refine OnlyMast.updCom ?_ | with_reducible refine OnlyMast.putMs ?_ (by simp)
                   | with_reducible refine OnlyMast.foldl ?_ ?_ | intro _ _ | intro _ | extract_lets | split | extract_lets | dsimp only)
  clear_value s1
  have h_s2 : OnlyMast m z s2 := by
    repeat' (first | with_reducible assumption | with_reducible refine OnlyMast.ite ?_ ?_ | with_reducible refine State.planPeriod_only ?_
                   | with_reducible refine OnlyMast.updPwm ?_ | with_reducible refine State.cutEnd_only ?_
                   | with_reducible refine OnlyMast.updShr ?_ | with_reducible refine OnlyMast.updSense ?_
                   | with_reducible refine OnlyMast.updCom ?_ | with_reducible refine OnlyMast.putMs ?_ (by simp)
                   | with_reducible refine OnlyMast.foldl ?_ ?_ | intro _ _ | intro _ | extract_lets | split | extract_lets | dsimp only)
  clear_value s2
  have h_s3 : OnlyMast m z s3 := by
    repeat' (first | with_reducible assumption | with_reducible refine OnlyMast.ite ?_ ?_ | with_reducible refine State.planPeriod_only ?_
                   | with_reducible refine OnlyMast.updPwm ?_ | with_reducible refine State.cutEnd_only ?_
                   | with_reducible refine OnlyMast.updShr ?_ | with_reducible refine OnlyMast.updSense ?_
                   | with_reducible refine OnlyMast.updCom ?_ | with_reducible refine OnlyMast.putMs ?_ (by simp)
                   | with_reducible refine OnlyMast.foldl ?_ ?_ | intro _ _ | intro _ | extract_lets | split | extract_lets | dsimp only)
  clear_value s3
  have h_s4 : OnlyMast m z s4 := by
    repeat' (first | with_reducible assumption | with_reducible refine OnlyMast.ite ?_ ?_ | with_reducible refine State.planPeriod_only ?_
                   | with_reducible refine OnlyMast.updPwm ?_ | with_reducible refine State.cutEnd_only ?_
                   | with_reducible refine OnlyMast.updShr ?_ | with_reducible refine OnlyMast.updSense ?_
                   | with_reducible refine OnlyMast.updCom ?_ | with_reducible refine OnlyMast.putMs ?_ (by simp)
                   | with_reducible refine OnlyMast.foldl ?_ ?_ | intro _ _ | intro _ | extract_lets | split | extract_lets | dsimp only)
  clear_value s4
  have h_s5 : OnlyMast m z s5 := by
    repeat' (first | with_reducible assumption | with_reducible refine OnlyMast.ite ?_ ?_ | with_reducible refine State.planPeriod_only ?_
                   | with_reducible refine OnlyMast.updPwm ?_ | with_reducible refine State.cutEnd_only ?_
                   | with_reducible refine OnlyMast.updShr ?_ | with_reducible refine OnlyMast.updSense ?_
                   | with_reducible refine OnlyMast.updCom ?_ | with_reducible refine OnlyMast.putMs ?_ (by simp)
                   | with_reducible refine OnlyMast.foldl ?_ ?_ | intro _ _ | intro _ | extract_lets | split | extract_lets | dsimp only)
  clear_value s5
  have h_s6 : OnlyMast m z s6 := by
    repeat' (first | with_reducible assumption | with_reducible refine OnlyMast.ite ?_ ?_ | with_reducible refine State.planPeriod_only ?_
                   | with_reducible refine OnlyMast.updPwm ?_ | with_reducible refine State.cutEnd_only ?_
                   | with_reducible refine OnlyMast.updShr ?_ | with_reducible refine OnlyMast.updSense ?_
                   | with_reducible refine OnlyMast.updCom ?_ | with_reducible refine OnlyMast.putMs ?_ (by simp)
                   | with_reducible refine OnlyMast.foldl ?_ ?_ | intro _ _ | intro _ | extract_lets | split | extract_lets | dsimp only)
  clear_value s6
  repeat' (first | with_reducible assumption | with_reducible refine OnlyMast.ite ?_ ?_ | with_reducible refine State.planPeriod_only ?_
                 | with_reducible refine OnlyMast.updPwm ?_ | with_reducible refine State.cutEnd_only ?_ | with_reducible refine OnlyMast.updShr ?_
                 | with_reducible refine OnlyMast.updSense ?_ | with_reducible refine OnlyMast.updCom ?_
                 | with_reducible refine OnlyMast.putMs ?_ (by simp) | with_reducible refine OnlyMast.foldl ?_ ?_ | intro _ _ | intro _
                 | extract_lets | split | extract_lets | dsimp only)

theorem State.nextPeriod_only {z s : State} {m : Fin 16} {b : Nat} {path : Bool × Nat} (h : OnlyMast m z s) :
    OnlyMast m z (State.nextPeriod s m b path) := by
  unfold State.nextPeriod
  extract_lets chg s2 a tLen s3 s4
  have h_s2 : OnlyMast m z s2 := by
    repeat' (first | with_reducible assumption | with_reducible refine OnlyMast.ite ?_ ?_ | with_reducible refine State.reload_only ?_
                   | with_reducible refine State.leaveSafe_only ?_ | with_reducible refine State.propagate_only ?_
                   | with_reducible refine State.seqBoundary_only ?_ | with_reducible refine State.anchorStep_only ?_
                   | with_reducible refine State.polarityCmp_only ?_ | with_reducible refine State.forcedAngle_only ?_
                   | with_reducible refine State.refreshDrive_only ?_ | with_reducible refine State.stepBoundary_only ?_
                   | with_reducible refine State.holdMask_only ?_ | with_reducible refine State.beginPeriod_only ?_
                   | with_reducible refine OnlyMast.foldl ?_ ?_ | intro _ _ | intro _ | extract_lets | split | extract_lets | dsimp only)
  clear_value s2
  have h_s3 : OnlyMast m z s3 := by
    repeat' (first | with_reducible assumption | with_reducible refine OnlyMast.ite ?_ ?_ | with_reducible refine State.reload_only ?_
                   | with_reducible refine State.leaveSafe_only ?_ | with_reducible refine State.propagate_only ?_
                   | with_reducible refine State.seqBoundary_only ?_ | with_reducible refine State.anchorStep_only ?_
                   | with_reducible refine State.polarityCmp_only ?_ | with_reducible refine State.forcedAngle_only ?_
                   | with_reducible refine State.refreshDrive_only ?_ | with_reducible refine State.stepBoundary_only ?_
                   | with_reducible refine State.holdMask_only ?_ | with_reducible refine State.beginPeriod_only ?_
                   | with_reducible refine OnlyMast.foldl ?_ ?_ | intro _ _ | intro _ | extract_lets | split | extract_lets | dsimp only)
  clear_value s3
  have h_s4 : OnlyMast m z s4 := by
    repeat' (first | with_reducible assumption | with_reducible refine OnlyMast.ite ?_ ?_ | with_reducible refine State.reload_only ?_
                   | with_reducible refine State.leaveSafe_only ?_ | with_reducible refine State.propagate_only ?_
                   | with_reducible refine State.seqBoundary_only ?_ | with_reducible refine State.anchorStep_only ?_
                   | with_reducible refine State.polarityCmp_only ?_ | with_reducible refine State.forcedAngle_only ?_
                   | with_reducible refine State.refreshDrive_only ?_ | with_reducible refine State.stepBoundary_only ?_
                   | with_reducible refine State.holdMask_only ?_ | with_reducible refine State.beginPeriod_only ?_
                   | with_reducible refine OnlyMast.foldl ?_ ?_ | intro _ _ | intro _ | extract_lets | split | extract_lets | dsimp only)
  clear_value s4
  repeat' (first | with_reducible assumption | with_reducible refine OnlyMast.ite ?_ ?_ | with_reducible refine State.reload_only ?_
                 | with_reducible refine State.leaveSafe_only ?_ | with_reducible refine State.propagate_only ?_
                 | with_reducible refine State.seqBoundary_only ?_ | with_reducible refine State.anchorStep_only ?_
                 | with_reducible refine State.polarityCmp_only ?_ | with_reducible refine State.forcedAngle_only ?_
                 | with_reducible refine State.refreshDrive_only ?_ | with_reducible refine State.stepBoundary_only ?_
                 | with_reducible refine State.holdMask_only ?_ | with_reducible refine State.beginPeriod_only ?_
                 | with_reducible refine OnlyMast.foldl ?_ ?_ | intro _ _ | intro _ | extract_lets | split | extract_lets | dsimp only)

theorem State.boundary_only {z s : State} {m : Fin 16} (h : OnlyMast m z s) :
    OnlyMast m z (State.boundary s m) := by
  unfold State.boundary
  try extract_lets
  repeat' (first | with_reducible assumption | with_reducible refine OnlyMast.ite ?_ ?_ | with_reducible refine State.release_only ?_
                 | with_reducible refine State.closePeriod_only ?_ | with_reducible refine State.stopAt_only ?_
                 | with_reducible refine State.nextPeriod_only ?_ | with_reducible refine OnlyMast.when ?_ ?_
                 | with_reducible refine OnlyMast.trigger ?_ | with_reducible refine State.shroudLook_only ?_
                 | with_reducible refine OnlyMast.foldl ?_ ?_ | intro _ _ | intro _ | extract_lets | split | extract_lets | dsimp only)

theorem State.comFollows_only {z s : State} {m : Fin 16} {old : Word} {nw : Word} (h : OnlyMast m z s) : OnlyMast m z (State.comFollows s m old nw) :=
  by
  unfold State.comFollows
  try extract_lets
  repeat' (first | with_reducible assumption | with_reducible refine OnlyMast.ite ?_ ?_ | with_reducible refine State.setEst_only ?_
                 | with_reducible refine State.refreshDrive_only ?_ | with_reducible refine OnlyMast.foldl ?_ ?_ | intro _ _ | intro _ | extract_lets
                 | split | dsimp only)

theorem State.stepWrite_only {z s : State} {m : Fin 16} {w : Word} (h : OnlyMast m z s) : OnlyMast m z (State.stepWrite s m w) := by
  unfold State.stepWrite
  try extract_lets
  repeat' (first | with_reducible assumption | with_reducible refine OnlyMast.ite ?_ ?_ | with_reducible refine State.stepEvent_only ?_
                 | with_reducible refine State.comCfgErr_only ?_ | with_reducible refine OnlyMast.foldl ?_ ?_ | intro _ _ | intro _ | extract_lets
                 | split | dsimp only)

theorem State.ocWritten_only {z s : State} {m : Fin 16} {old : Word} (h : OnlyMast m z s) :
    OnlyMast m z (State.ocWritten s m old) := by
  unfold State.ocWritten
  try extract_lets
  repeat' (first | with_reducible assumption | with_reducible refine OnlyMast.ite ?_ ?_ | with_reducible refine OnlyMast.updShr ?_
                 | with_reducible refine OnlyMast.foldl ?_ ?_ | intro _ _ | intro _ | extract_lets | split | extract_lets | dsimp only)

theorem State.afterMast_only {z s : State} {m : Fin 16} {a : Nat} {w : Word} {old : Word} {nw : Word} (h : OnlyMast m z s) :
    OnlyMast m z (State.afterMast s m a w old nw) := by
  unfold State.afterMast
  try extract_lets
  repeat' (first | with_reducible assumption | with_reducible refine OnlyMast.ite ?_ ?_ | with_reducible refine State.stageKind_only ?_
                 | with_reducible refine OnlyMast.when ?_ ?_ | with_reducible refine State.startRun_only ?_
                 | with_reducible refine State.release_only ?_ | with_reducible refine OnlyMast.updPwm ?_
                 | with_reducible refine OnlyMast.updSense ?_ | with_reducible refine OnlyMast.updCom ?_ | with_reducible refine State.noteZ_only ?_
                 | with_reducible refine State.comFollows_only ?_ | with_reducible refine State.stepWrite_only ?_
                 | with_reducible refine OnlyMast.updCmd ?_ | with_reducible refine State.ocWritten_only ?_
                 | with_reducible refine State.shroudLook_only ?_ | with_reducible refine State.refreshSafe_only ?_
                 | with_reducible refine OnlyMast.foldl ?_ ?_ | intro _ _ | intro _ | extract_lets | split | extract_lets | dsimp only)

theorem State.pwmCommitW_only {z s : State} {m : Fin 16} {w : Word} (h : OnlyMast m z s) : OnlyMast m z (State.pwmCommitW s m w) := by
  unfold State.pwmCommitW
  try extract_lets
  repeat' (first | with_reducible assumption | with_reducible refine OnlyMast.ite ?_ ?_ | with_reducible refine State.commitAt_only ?_
                 | with_reducible refine OnlyMast.foldl ?_ ?_ | intro _ _ | intro _ | extract_lets | split | dsimp only)

theorem State.seqCmdW_only {z s : State} {m : Fin 16} {w : Word} (h : OnlyMast m z s) : OnlyMast m z (State.seqCmdW s m w) := by
  unfold State.seqCmdW
  try extract_lets
  repeat' (first | with_reducible assumption | with_reducible refine OnlyMast.ite ?_ ?_ | with_reducible refine State.seqRequest_only ?_
                 | with_reducible refine OnlyMast.setFld ?_ (by decide) | with_reducible refine OnlyMast.foldl ?_ ?_ | intro _ _ | intro _
                 | extract_lets | split | dsimp only)

theorem State.shrCmdW_only {z s : State} {m : Fin 16} {w : Word} (h : OnlyMast m z s) : OnlyMast m z (State.shrCmdW s m w) := by
  unfold State.shrCmdW
  try extract_lets
  repeat' (first | with_reducible assumption | with_reducible refine OnlyMast.ite ?_ ?_ | with_reducible refine OnlyMast.when ?_ ?_
                 | with_reducible refine State.shroudClear_only ?_ | with_reducible refine State.shroudTest_only ?_
                 | with_reducible refine OnlyMast.foldl ?_ ?_ | intro _ _ | intro _ | extract_lets | split | dsimp only)

theorem State.defer_only {z s : State} {m : Fin 16} {a : Nat} {old nw : Word} (h : OnlyMast m z s) (ha : a < 0x2000) : OnlyMast m z (s.defer a m old
  nw) := by
  unfold State.defer
  refine OnlyMast.ite (h.deferred ?_) h
  have e : keyI a m.val / 0x2000 = m.val := by unfold keyI; omega
  rw [List.filter_append, List.filter_cons_of_neg (by simp [e]), List.filter_nil, List.append_nil]

theorem State.adcSDone_only {z s : State} {m : Fin 16} {code : BitVec 14} (h : OnlyMast m z s) : OnlyMast m z (State.adcSDone s m code) := by
  unfold State.adcSDone
  try extract_lets
  repeat' (first | with_reducible assumption | with_reducible refine OnlyMast.ite ?_ ?_ | with_reducible refine State.doneS_only ?_
                 | with_reducible refine OnlyMast.foldl ?_ ?_ | intro _ _ | intro _ | extract_lets | split | dsimp only)

theorem State.adcSBegin_only {z s : State} {m : Fin 16} (h : OnlyMast m z s) : OnlyMast m z (State.adcSBegin s m) := by
  unfold State.adcSBegin
  try extract_lets
  repeat' (first | with_reducible assumption | with_reducible refine OnlyMast.ite ?_ ?_ | with_reducible refine OnlyMast.updSense ?_
                 | with_reducible refine OnlyMast.foldl ?_ ?_ | intro _ _ | intro _ | extract_lets | split | dsimp only)

theorem State.adcPDone_only {z s : State} {m : Fin 16} {code : BitVec 12} (h : OnlyMast m z s) : OnlyMast m z (State.adcPDone s m code) := by
  unfold State.adcPDone
  try extract_lets
  repeat' (first | with_reducible assumption | with_reducible refine OnlyMast.ite ?_ ?_ | with_reducible refine State.doneP_only ?_
                 | with_reducible refine OnlyMast.foldl ?_ ?_ | intro _ _ | intro _ | extract_lets | split | dsimp only)

theorem State.adcPBegin_only {z s : State} {m : Fin 16} (h : OnlyMast m z s) : OnlyMast m z (State.adcPBegin s m) := by
  unfold State.adcPBegin
  try extract_lets
  repeat' (first | with_reducible assumption | with_reducible refine OnlyMast.ite ?_ ?_ | with_reducible refine OnlyMast.updSense ?_
                 | with_reducible refine OnlyMast.foldl ?_ ?_ | intro _ _ | intro _ | extract_lets | split | dsimp only)

theorem State.releaseNext_only {z s : State} {m : Fin 16} (h : OnlyMast m z s) : OnlyMast m z (State.releaseNext s m) := by
  unfold State.releaseNext
  try extract_lets
  repeat' (first | with_reducible assumption | with_reducible refine OnlyMast.ite ?_ ?_ | with_reducible refine State.release_only ?_
                 | with_reducible refine OnlyMast.foldl ?_ ?_ | intro _ _ | intro _ | extract_lets | split | dsimp only)

theorem State.recoveryOn_only {z s : State} {m : Fin 16} (h : OnlyMast m z s) : OnlyMast m z (State.recoveryOn s m) := by
  unfold State.recoveryOn
  try extract_lets
  repeat' (first | with_reducible assumption | with_reducible refine OnlyMast.ite ?_ ?_ | with_reducible refine OnlyMast.updSense ?_
                 | with_reducible refine OnlyMast.foldl ?_ ?_ | intro _ _ | intro _ | extract_lets | split | dsimp only)

theorem State.recoveryOff_only {z s : State} {m : Fin 16} (h : OnlyMast m z s) : OnlyMast m z (State.recoveryOff s m) := by
  unfold State.recoveryOff
  try extract_lets
  repeat' (first | with_reducible assumption | with_reducible refine OnlyMast.ite ?_ ?_ | with_reducible refine OnlyMast.updSense ?_
                 | with_reducible refine OnlyMast.foldl ?_ ?_ | intro _ _ | intro _ | extract_lets | split | dsimp only)

theorem State.hallIllegalAct_only {z s : State} {m : Fin 16} (h : OnlyMast m z s) : OnlyMast m z (State.hallIllegalAct s m) := by
  unfold State.hallIllegalAct
  try extract_lets
  repeat' (first | with_reducible assumption | with_reducible refine OnlyMast.ite ?_ ?_ | with_reducible refine OnlyMast.updCom ?_
                 | with_reducible refine State.sensorFault_only ?_ | with_reducible refine OnlyMast.foldl ?_ ?_ | intro _ _ | intro _ | extract_lets
                 | split | dsimp only)

theorem State.cmdLost_only {z s : State} {m : Fin 16} (h : OnlyMast m z s) : OnlyMast m z (State.cmdLost s m) := by
  unfold State.cmdLost
  extract_lets s1 v s2 s3
  have h_s1 : OnlyMast m z s1 := by
    repeat' (first | with_reducible assumption | with_reducible refine OnlyMast.ite ?_ ?_ | with_reducible refine OnlyMast.raiseM ?_
                   | with_reducible refine OnlyMast.updCmd ?_ | with_reducible refine OnlyMast.putMs ?_ (by simp)
                   | with_reducible refine OnlyMast.when ?_ ?_ | with_reducible refine OnlyMast.putM ?_ (by decide)
                   | with_reducible refine State.seqRequest_only ?_ | with_reducible refine OnlyMast.foldl ?_ ?_ | intro _ _ | intro _ | extract_lets
                   | split | dsimp only)
  clear_value s1
  have h_s2 : OnlyMast m z s2 := by
    repeat' (first | with_reducible assumption | with_reducible refine OnlyMast.ite ?_ ?_ | with_reducible refine OnlyMast.raiseM ?_
                   | with_reducible refine OnlyMast.updCmd ?_ | with_reducible refine OnlyMast.putMs ?_ (by simp)
                   | with_reducible refine OnlyMast.when ?_ ?_ | with_reducible refine OnlyMast.putM ?_ (by decide)
                   | with_reducible refine State.seqRequest_only ?_ | with_reducible refine OnlyMast.foldl ?_ ?_ | intro _ _ | intro _ | extract_lets
                   | split | dsimp only)
  clear_value s2
  have h_s3 : OnlyMast m z s3 := by
    repeat' (first | with_reducible assumption | with_reducible refine OnlyMast.ite ?_ ?_ | with_reducible refine OnlyMast.raiseM ?_
                   | with_reducible refine OnlyMast.updCmd ?_ | with_reducible refine OnlyMast.putMs ?_ (by simp)
                   | with_reducible refine OnlyMast.when ?_ ?_ | with_reducible refine OnlyMast.putM ?_ (by decide)
                   | with_reducible refine State.seqRequest_only ?_ | with_reducible refine OnlyMast.foldl ?_ ?_ | intro _ _ | intro _ | extract_lets
                   | split | dsimp only)
  clear_value s3
  repeat' (first | with_reducible assumption | with_reducible refine OnlyMast.ite ?_ ?_ | with_reducible refine OnlyMast.raiseM ?_
                 | with_reducible refine OnlyMast.updCmd ?_ | with_reducible refine OnlyMast.putMs ?_ (by simp)
                 | with_reducible refine OnlyMast.when ?_ ?_ | with_reducible refine OnlyMast.putM ?_ (by decide)
                 | with_reducible refine State.seqRequest_only ?_ | with_reducible refine OnlyMast.foldl ?_ ?_ | intro _ _ | intro _ | extract_lets
                 | split | dsimp only)

theorem State.jamCleared_only {z s : State} {m : Fin 16} (h : OnlyMast m z s) : OnlyMast m z (State.jamCleared s m) := by
  unfold State.jamCleared
  try extract_lets
  repeat' (first | with_reducible assumption | with_reducible refine OnlyMast.ite ?_ ?_ | with_reducible refine OnlyMast.updHal ?_
                 | with_reducible refine OnlyMast.foldl ?_ ?_ | intro _ _ | intro _ | extract_lets | split | dsimp only)

theorem State.dwellEnd_only {z s : State} {m : Fin 16} (h : OnlyMast m z s) : OnlyMast m z (State.dwellEnd s m) := by
  unfold State.dwellEnd
  try extract_lets
  repeat' (first | with_reducible assumption | with_reducible refine OnlyMast.ite ?_ ?_ | with_reducible refine OnlyMast.updHal ?_
                 | with_reducible refine OnlyMast.foldl ?_ ?_ | intro _ _ | intro _ | extract_lets | split | dsimp only)

theorem State.tripPin_only {z s : State} {m : Fin 16} {low : Bool} (h : OnlyMast m z s) : OnlyMast m z (State.tripPin s m low) := by
  unfold State.tripPin
  try extract_lets
  repeat' (first | with_reducible assumption | with_reducible refine OnlyMast.ite ?_ ?_ | with_reducible refine State.shroudLook_only ?_
                 | with_reducible refine OnlyMast.updShr ?_ | with_reducible refine OnlyMast.foldl ?_ ?_ | intro _ _ | intro _ | extract_lets | split
                 | dsimp only)

theorem State.testDone_only {z s : State} {m : Fin 16} {pass : Bool} (h : OnlyMast m z s) : OnlyMast m z (State.testDone s m pass) := by
  unfold State.testDone
  try extract_lets
  repeat' (first | with_reducible assumption | with_reducible refine OnlyMast.ite ?_ ?_ | with_reducible refine OnlyMast.when ?_ ?_
                 | with_reducible refine OnlyMast.updShr ?_ | with_reducible refine OnlyMast.setFld ?_ (by decide)
                 | with_reducible refine OnlyMast.foldl ?_ ?_ | intro _ _ | intro _ | extract_lets | split | dsimp only)

theorem State.alignEnd_only {z s : State} {m : Fin 16} (h : OnlyMast m z s) : OnlyMast m z (State.alignEnd s m) := by
  unfold State.alignEnd
  try extract_lets
  repeat' (first | with_reducible assumption | with_reducible refine OnlyMast.ite ?_ ?_ | with_reducible refine OnlyMast.updSeq ?_
                 | with_reducible refine OnlyMast.foldl ?_ ?_ | intro _ _ | intro _ | extract_lets | split | dsimp only)

theorem State.ampMoves_only {z s : State} {m : Fin 16} {amp : Int} (h : OnlyMast m z s) :
    OnlyMast m z (State.ampMoves s m amp) := by
  unfold State.ampMoves
  try extract_lets
  repeat' (first | with_reducible assumption | with_reducible refine OnlyMast.ite ?_ ?_ | with_reducible refine OnlyMast.updShr ?_
                 | with_reducible refine State.shroudLook_only ?_ | with_reducible refine OnlyMast.foldl ?_ ?_ | intro _ _ | intro _ | extract_lets
                 | split | extract_lets | dsimp only)

theorem State.seqFault_only {z s : State} {m : Fin 16} (h : OnlyMast m z s) :
    OnlyMast m z (State.seqFault s m) := by
  unfold State.seqFault
  try extract_lets
  repeat' (first | with_reducible assumption | with_reducible refine OnlyMast.ite ?_ ?_ | with_reducible refine OnlyMast.updSeq ?_
                 | with_reducible refine State.enterSeq_only ?_ | with_reducible refine OnlyMast.foldl ?_ ?_ | intro _ _ | intro _ | extract_lets
                 | split | extract_lets | dsimp only)

theorem State.seqRamp_only {z s : State} {m : Fin 16} (h : OnlyMast m z s) :
    OnlyMast m z (State.seqRamp s m) := by
  unfold State.seqRamp
  try extract_lets
  repeat' (first | with_reducible assumption | with_reducible refine OnlyMast.ite ?_ ?_ | with_reducible refine OnlyMast.updSeq ?_
                 | with_reducible refine State.actRamp_only ?_ | with_reducible refine OnlyMast.foldl ?_ ?_ | intro _ _ | intro _ | extract_lets
                 | split | extract_lets | dsimp only)

theorem State.seqTurn_only {z s : State} {m : Fin 16} (h : OnlyMast m z s) :
    OnlyMast m z (State.seqTurn s m) := by
  unfold State.seqTurn
  try extract_lets
  repeat' (first | with_reducible assumption | with_reducible refine OnlyMast.ite ?_ ?_ | with_reducible refine State.actReq_only ?_
                 | with_reducible refine OnlyMast.updSeq ?_ | with_reducible refine OnlyMast.foldl ?_ ?_ | intro _ _ | intro _ | extract_lets
                 | split | extract_lets | dsimp only)

end Sys2Proof.Machine
end

