-- ==== Sys2Proof/Laws/Event.lean ====
section
/-! SUPPORT. Laws/Event.lean: what an event row does where its condition holds, and what the end of the command leaves of it. -/

namespace Sys2Proof.Machine

variable {s t z : State} {m : Fin 16} {dt : Nat} {due : State → Bool} {act : State → State}

/-- The end of any command. -/
theorem done_stores (s : State) : ∃ t, done s = .next t ∧ s.Stores t := ⟨_, rfl, s.finish_stores⟩

/-- An event whose condition holds takes place. -/
theorem event_due (e : s = z.elapse dt) (h : due s = true) : ∃ t, event dt due act z = .next t ∧ (act s).Stores t := by
  subst e
  unfold event State.when
  rw [h]
  exact done_stores _

/-- An event whose condition does not hold does not. -/
theorem event_not (e : s = z.elapse dt) (h : due s = false) : ∃ t, event dt due act z = .next t ∧ s.Stores t := by
  subst e
  unfold event State.when
  rw [h]
  exact done_stores _

/-- An event that works on one mast. -/
theorem event_only (e : s = z.elapse dt) (ha : ∀ z s, OnlyMast m z s → OnlyMast m z (act s)) (h : event dt due act z = .next t) : OnlyMast m s t := by
  subst e
  cases h
  exact (OnlyMast.when (.refl m _) fun _ k => ha _ _ k).stores (State.finish_stores _)

theorem State.Stores.only (h : s.Stores t) (k : OnlyMast m z s) : OnlyMast m z t := k.stores h

end Sys2Proof.Machine
end

