-- ==== Sys2Proof/Laws/Pace.lean ====
section
/-! SUPPORT. Laws/Pace.lean: what moves a mast's period and its sample sets: nothing but the rows that say so. -/

namespace Sys2Proof.Machine

variable {s t z : State}

/-- A mast's period and the place of its sample sets. -/
def Mast.pace (x : Mast) : Bool × Nat × Nat × Nat × Nat × Nat × Option Cap × Bool :=
  (x.pwm.counting, x.pwm.bPrev, x.pwm.bNext, x.pwm.k, x.pwm.fired, x.pwm.tLen, x.sense.capOld, x.sense.released)

/-- From `s` to `t` no mast's period or sets have moved. -/
structure Paced (s t : State) : Prop where
  all : ∀ n, (t.mast n).pace = (s.mast n).pace

theorem Paced.refl (s : State) : Paced s s := ⟨fun _ => rfl⟩

theorem Paced.trans {a b c : State} (h : Paced a b) (k : Paced b c) : Paced a c := ⟨fun n => (k.all n).trans (h.all n)⟩

/-- The masts have not changed. -/
theorem Paced.same (h : Paced z s) (e : t.masts = s.masts) : Paced z t := ⟨fun n => by
  unfold State.mast
  rw [e]
  exact h.all n⟩

theorem Paced.updM (h : Paced z s) {m : Fin 16} {f : Mast → Mast} (hf : ∀ x, (f x).pace = x.pace) : Paced z (s.updM m f) := ⟨fun n => by
  by_cases e : n = m
  · subst e
    rw [State.updM_same, hf]
    exact h.all n
  · rw [State.updM_other e]
    exact h.all n⟩

theorem Paced.updPwm (h : Paced z s) {m : Fin 16} {f : Pwm → Pwm}
    (hf : ∀ p, (f p).counting = p.counting ∧ (f p).bPrev = p.bPrev ∧ (f p).bNext = p.bNext ∧ (f p).k = p.k ∧ (f p).fired = p.fired ∧ (f p).tLen = p.tLen) :
    Paced z (s.updPwm m f) :=
  h.updM fun x => by
    obtain ⟨a1, a2, a3, a4, a5, a6⟩ := hf x.pwm
    unfold Mast.pace
    dsimp only
    rw [a1, a2, a3, a4, a5, a6]

theorem Paced.updSense (h : Paced z s) {m : Fin 16} {f : Sense → Sense} (hf : ∀ x, (f x).capOld = x.capOld ∧ (f x).released = x.released) :
    Paced z (s.updSense m f) :=
  h.updM fun x => by
    obtain ⟨a1, a2⟩ := hf x.sense
    unfold Mast.pace
    dsimp only
    rw [a1, a2]

theorem Paced.updCom (h : Paced z s) {m : Fin 16} {f : Com → Com} : Paced z (s.updCom m f) := h.updM fun _ => rfl
theorem Paced.updSeq (h : Paced z s) {m : Fin 16} {f : Seq → Seq} : Paced z (s.updSeq m f) := h.updM fun _ => rfl
theorem Paced.updHal (h : Paced z s) {m : Fin 16} {f : Hal → Hal} : Paced z (s.updHal m f) := h.updM fun _ => rfl
theorem Paced.updCmd (h : Paced z s) {m : Fin 16} {f : CmdPin → CmdPin} : Paced z (s.updCmd m f) := h.updM fun _ => rfl
theorem Paced.updShr (h : Paced z s) {m : Fin 16} {f : Shroud → Shroud} : Paced z (s.updShr m f) := h.updM fun _ => rfl
theorem Paced.updG (h : Paced z s) {g : Fin 8} {f : BusGroup → BusGroup} : Paced z (s.updG g f) := h.same rfl
theorem Paced.wr (h : Paced z s) {k : Nat} {w : Word} : Paced z (s.wr k w) := h.same rfl
theorem Paced.setFld (h : Paced z s) {f : Fld} {i v : Nat} : Paced z (s.setFld f i v) := h.same rfl
theorem Paced.bump (h : Paced z s) {f : Fld} {i n : Nat} : Paced z (s.bump f i n) := h.same rfl
theorem Paced.fc (h : Paced z s) (f : Fc → Fc) : Paced z (s.updFc f) := h.same rfl
theorem Paced.raise (h : Paced z s) {src detail : Nat} {q : Option Nat} {k : Bool} : Paced z (s.raise src detail q k) := by
  unfold State.raise
  split
  · exact h.same rfl
  · exact h
theorem Paced.raiseM (h : Paced z s) {m : Fin 16} {k detail : Nat} {b : Bool} : Paced z (s.raiseM m k detail b) := h.raise
theorem Paced.trigger (h : Paced z s) {c kind a b : Nat} : Paced z (s.trigger c kind a b) := h.same (State.trigger_watched (.refl s)).masts

theorem Paced.putSig (h : Paced z s) {id : Nat} {w : Word} : Paced z (s.putSig id w) := by
  unfold State.putSig
  dsimp only
  refine Paced.same (s := { s with sigs := spSet (sigReset id) s.sigs id w }) (h.same rfl) ?_
  exact State.putSig_watched.masts

theorem Paced.putM (h : Paced z s) {m : Fin 16} {o : Nat} {w : Word} : Paced z (s.putM m o w) := h.putSig

theorem Paced.putMs {m : Fin 16} {l : List (Nat × Word)} (h : Paced z s) : Paced z (s.putMs m l) := by
  induction l generalizing s with
  | nil => exact h
  | cons x r ih => exact ih h.putM

theorem Paced.when (h : Paced z s) {c : Bool} {f : State → State} (hf : ∀ t, Paced z t → Paced z (f t)) : Paced z (s.when c f) := by
  unfold State.when
  split
  · exact hf s h
  · exact h

theorem Paced.ite {c : Prop} [Decidable c] (h : Paced z s) (k : Paced z t) : Paced z (if c then s else t) := by
  split <;> assumption

theorem Paced.foldl {α : Type} {l : List α} {f : State → α → State} (h : Paced z s) (hf : ∀ t x, Paced z t → Paced z (f t x)) : Paced z (l.foldl f s) := by
  induction l generalizing s with
  | nil => exact h
  | cons x r ih => exact ih (hf s x h)

end Sys2Proof.Machine
end

