-- ==== Sys2Proof/Laws/PaceMast.lean ====
section
/-! SUPPORT. Laws/PaceMast.lean: the operations of a mast that move no period and no sample set (Paced of Laws/Pace.lean). -/

set_option linter.unusedTactic false
set_option linter.unreachableTactic false
set_option linter.unusedVariables false

namespace Sys2Proof.Machine

theorem State.applyDeferred_paced {z s : State} {m : Fin 16} {b : Nat} (h : Paced z s) : Paced z (State.applyDeferred s m b) := h.same rfl

theorem State.reload_paced {z s : State} {m : Fin 16} {b : Nat} (h : Paced z s) : Paced z (State.reload s m b) := by
  unfold State.reload
  extract_lets p e n set act0 act low sheet s1 s2
  have h_s1 : Paced z s1 := by
    repeat' (first | with_reducible assumption | with_reducible refine Paced.ite ?_ ?_
                   | refine Paced.updPwm ?_ (fun _ => ⟨rfl, rfl, rfl, rfl, rfl, rfl⟩) | with_reducible refine Paced.when ?_ ?_
                   | with_reducible refine Paced.setFld ?_ | with_reducible refine Paced.raiseM ?_ | with_reducible refine Paced.bump ?_
                   | with_reducible refine Paced.foldl ?_ ?_ | intro _ _ | intro _ | extract_lets | split | dsimp only)
  clear_value s1
  have h_s2 : Paced z s2 := by
    repeat' (first | with_reducible assumption | with_reducible refine Paced.ite ?_ ?_
                   | refine Paced.updPwm ?_ (fun _ => ⟨rfl, rfl, rfl, rfl, rfl, rfl⟩) | with_reducible refine Paced.when ?_ ?_
                   | with_reducible refine Paced.setFld ?_ | with_reducible refine Paced.raiseM ?_ | with_reducible refine Paced.bump ?_
                   | with_reducible refine Paced.foldl ?_ ?_ | intro _ _ | intro _ | extract_lets | split | dsimp only)
  clear_value s2
  repeat' (first | with_reducible assumption | with_reducible refine Paced.ite ?_ ?_
                 | refine Paced.updPwm ?_ (fun _ => ⟨rfl, rfl, rfl, rfl, rfl, rfl⟩) | with_reducible refine Paced.when ?_ ?_
                 | with_reducible refine Paced.setFld ?_ | with_reducible refine Paced.raiseM ?_ | with_reducible refine Paced.bump ?_
                 | with_reducible refine Paced.foldl ?_ ?_ | intro _ _ | intro _ | extract_lets | split | dsimp only)

theorem State.gateMark_paced {z s : State} {m : Fin 16} (h : Paced z s) : Paced z (State.gateMark s m) := by
  unfold State.gateMark
  try extract_lets
  repeat' (first | with_reducible assumption | with_reducible refine Paced.ite ?_ ?_
                 | refine Paced.updPwm ?_ (fun _ => ⟨rfl, rfl, rfl, rfl, rfl, rfl⟩) | with_reducible refine Paced.foldl ?_ ?_ | intro _ _ | intro _
                 | extract_lets | split | dsimp only)

theorem State.refreshSafe_paced {z s : State} {m : Fin 16} (h : Paced z s) : Paced z (State.refreshSafe s m) := by
  unfold State.refreshSafe
  try extract_lets
  repeat' (first | with_reducible assumption | with_reducible refine Paced.ite ?_ ?_ | with_reducible refine Paced.updShr ?_
                 | with_reducible refine State.gateMark_paced ?_ | with_reducible refine Paced.foldl ?_ ?_ | intro _ _ | intro _ | extract_lets
                 | split | dsimp only)

theorem State.leaveSafe_paced {z s : State} {m : Fin 16} (h : Paced z s) : Paced z (State.leaveSafe s m) := by
  unfold State.leaveSafe
  try extract_lets
  repeat' (first | with_reducible assumption | with_reducible refine Paced.ite ?_ ?_ | with_reducible refine Paced.updShr ?_
                 | with_reducible refine State.gateMark_paced ?_ | with_reducible refine Paced.foldl ?_ ?_ | intro _ _ | intro _ | extract_lets
                 | split | dsimp only)

theorem State.setOut_paced {z s : State} {m : Fin 16} {en : Bool} {low : Bool} (h : Paced z s) : Paced z (State.setOut s m en low) := by
  unfold State.setOut
  try extract_lets
  repeat' (first | with_reducible assumption | with_reducible refine Paced.ite ?_ ?_ | with_reducible refine Paced.updSeq ?_
                 | with_reducible refine State.gateMark_paced ?_ | with_reducible refine Paced.foldl ?_ ?_ | intro _ _ | intro _ | extract_lets
                 | split | dsimp only)

theorem State.setSheet_paced {z s : State} {m : Fin 16} {mask : Nat} (h : Paced z s) : Paced z (State.setSheet s m mask) := by
  unfold State.setSheet
  try extract_lets
  repeat' (first | with_reducible assumption | with_reducible refine Paced.ite ?_ ?_
                 | refine Paced.updPwm ?_ (fun _ => ⟨rfl, rfl, rfl, rfl, rfl, rfl⟩) | with_reducible refine State.gateMark_paced ?_
                 | with_reducible refine Paced.foldl ?_ ?_ | intro _ _ | intro _ | extract_lets | split | dsimp only)

theorem State.anchorStep_paced {z s : State} {m : Fin 16} {b : Nat} (h : Paced z s) : Paced z (State.anchorStep s m b).1 := by
  unfold State.anchorStep
  try extract_lets
  repeat' (first | with_reducible assumption | with_reducible refine Paced.ite ?_ ?_
                 | refine Paced.updPwm ?_ (fun _ => ⟨rfl, rfl, rfl, rfl, rfl, rfl⟩) | with_reducible refine Paced.foldl ?_ ?_ | intro _ _ | intro _
                 | extract_lets | split | dsimp only)

theorem State.raiseInl_paced {z s : State} {m : Fin 16} {c : Bool} (h : Paced z s) : Paced z (State.raiseInl s m c) := by
  unfold State.raiseInl
  try extract_lets
  repeat' (first | with_reducible assumption | with_reducible refine Paced.ite ?_ ?_ | with_reducible refine Paced.when ?_ ?_
                 | with_reducible refine Paced.raiseM ?_ | with_reducible refine Paced.foldl ?_ ?_ | intro _ _ | intro _ | extract_lets | split
                 | dsimp only)

theorem State.raiseSh_paced {z s : State} {m : Fin 16} {c : Bool} (h : Paced z s) : Paced z (State.raiseSh s m c) := by
  unfold State.raiseSh
  try extract_lets
  repeat' (first | with_reducible assumption | with_reducible refine Paced.ite ?_ ?_ | with_reducible refine Paced.when ?_ ?_
                 | with_reducible refine Paced.raiseM ?_ | with_reducible refine Paced.foldl ?_ ?_ | intro _ _ | intro _ | extract_lets | split
                 | dsimp only)

theorem State.refCheck_paced {z s : State} {m : Fin 16} {raw : Option Nat} (h : Paced z s) : Paced z (State.refCheck s m raw) := by
  unfold State.refCheck
  try extract_lets
  repeat' (first | with_reducible assumption | with_reducible refine Paced.ite ?_ ?_ | refine Paced.updSense ?_ (fun _ => ⟨rfl, rfl⟩)
                 | refine Paced.updSense ?_ (fun _ => by dsimp only; split <;> exact ⟨rfl, rfl⟩) | with_reducible refine State.raiseInl_paced ?_
                 | with_reducible refine Paced.foldl ?_ ?_ | intro _ _ | intro _ | extract_lets | split | dsimp only)

theorem State.inlOffsets_paced {z s : State} {m : Fin 16} {c : Cap} (h : Paced z s) : Paced z (State.inlOffsets s m c) := by
  unfold State.inlOffsets
  try extract_lets
  repeat' (first | with_reducible assumption | with_reducible refine Paced.ite ?_ ?_ | refine Paced.updSense ?_ (fun _ => ⟨rfl, rfl⟩)
                 | refine Paced.updSense ?_ (fun _ => by dsimp only; split <;> exact ⟨rfl, rfl⟩) | with_reducible refine Paced.setFld ?_
                 | with_reducible refine State.raiseInl_paced ?_ | with_reducible refine Paced.foldl ?_ ?_ | intro _ _ | intro _ | extract_lets
                 | split | dsimp only)

theorem State.xchkAdd_paced {z s : State} {m : Fin 16} {both : Bool} {sh : List Word} {ia : Word} {ib : Word} (h : Paced z s) : Paced z (State.xchkAdd
  s m both sh ia ib) := by
  unfold State.xchkAdd
  try extract_lets
  repeat' (first | with_reducible assumption | with_reducible refine Paced.ite ?_ ?_ | refine Paced.updSense ?_ (fun _ => ⟨rfl, rfl⟩)
                 | refine Paced.updSense ?_ (fun _ => by dsimp only; split <;> exact ⟨rfl, rfl⟩) | with_reducible refine Paced.foldl ?_ ?_
                 | intro _ _ | intro _ | extract_lets | split | dsimp only)

theorem State.ofsLook_paced {z s : State} {m : Fin 16} (h : Paced z s) :
    Paced z (State.ofsLook s m) := by
  unfold State.ofsLook
  try extract_lets
  repeat' (first | with_reducible assumption | with_reducible refine Paced.ite ?_ ?_ | refine Paced.updSense ?_ (fun _ => ⟨rfl, rfl⟩)
                 | with_reducible refine Paced.raiseM ?_ | with_reducible refine Paced.foldl ?_ ?_ | intro _ _ | intro _ | extract_lets | split
                 | extract_lets | dsimp only)

theorem State.pathLook_paced {z s : State} {m : Fin 16} {t : Nat} (h : Paced z s) :
    Paced z (State.pathLook s m t) := by
  unfold State.pathLook
  try extract_lets
  repeat' (first | with_reducible assumption | with_reducible refine Paced.ite ?_ ?_ | refine Paced.updSense ?_ (fun _ => ⟨rfl, rfl⟩)
                 | with_reducible refine Paced.foldl ?_ ?_ | intro _ _ | intro _ | extract_lets | split | extract_lets | dsimp only)

theorem State.setRuns_paced {z s : State} {m : Fin 16} {c : Cap} {shOk : Bool} {iOk : Bool} {inlBad : Bool} (h : Paced z s) :
    Paced z (State.setRuns s m c shOk iOk inlBad) := by
  unfold State.setRuns
  extract_lets x inv held row3 bad iv dev s1 s2 s3 s4
  have h_s1 : Paced z s1 := by
    repeat' (first | with_reducible assumption | with_reducible refine Paced.ite ?_ ?_ | refine Paced.updSense ?_ (fun _ => ⟨rfl, rfl⟩)
                   | with_reducible refine State.raiseSh_paced ?_ | with_reducible refine State.raiseInl_paced ?_
                   | with_reducible refine Paced.foldl ?_ ?_ | intro _ _ | intro _ | extract_lets | split | extract_lets | dsimp only)
  clear_value s1
  have h_s2 : Paced z s2 := by
    repeat' (first | with_reducible assumption | with_reducible refine Paced.ite ?_ ?_ | refine Paced.updSense ?_ (fun _ => ⟨rfl, rfl⟩)
                   | with_reducible refine State.raiseSh_paced ?_ | with_reducible refine State.raiseInl_paced ?_
                   | with_reducible refine Paced.foldl ?_ ?_ | intro _ _ | intro _ | extract_lets | split | extract_lets | dsimp only)
  clear_value s2
  have h_s3 : Paced z s3 := by
    repeat' (first | with_reducible assumption | with_reducible refine Paced.ite ?_ ?_ | refine Paced.updSense ?_ (fun _ => ⟨rfl, rfl⟩)
                   | with_reducible refine State.raiseSh_paced ?_ | with_reducible refine State.raiseInl_paced ?_
                   | with_reducible refine Paced.foldl ?_ ?_ | intro _ _ | intro _ | extract_lets | split | extract_lets | dsimp only)
  clear_value s3
  have h_s4 : Paced z s4 := by
    repeat' (first | with_reducible assumption | with_reducible refine Paced.ite ?_ ?_ | refine Paced.updSense ?_ (fun _ => ⟨rfl, rfl⟩)
                   | with_reducible refine State.raiseSh_paced ?_ | with_reducible refine State.raiseInl_paced ?_
                   | with_reducible refine Paced.foldl ?_ ?_ | intro _ _ | intro _ | extract_lets | split | extract_lets | dsimp only)
  clear_value s4
  repeat' (first | with_reducible assumption | with_reducible refine Paced.ite ?_ ?_ | refine Paced.updSense ?_ (fun _ => ⟨rfl, rfl⟩)
                 | with_reducible refine State.raiseSh_paced ?_ | with_reducible refine State.raiseInl_paced ?_
                 | with_reducible refine Paced.foldl ?_ ?_ | intro _ _ | intro _ | extract_lets | split | extract_lets | dsimp only)

theorem State.loopTrigger_paced {z s : State} {m : Fin 16} {k : Nat} (h : Paced z s) : Paced z (State.loopTrigger s m k) := by
  unfold State.loopTrigger
  try extract_lets
  repeat' (first | with_reducible assumption | with_reducible refine Paced.ite ?_ ?_
                 | refine Paced.updPwm ?_ (fun _ => ⟨rfl, rfl, rfl, rfl, rfl, rfl⟩) | with_reducible refine Paced.when ?_ ?_
                 | with_reducible refine Paced.trigger ?_ | with_reducible refine Paced.foldl ?_ ?_ | intro _ _ | intro _ | extract_lets | split
                 | dsimp only)

theorem State.dropValid_paced {z s : State} {m : Fin 16} (h : Paced z s) : Paced z (State.dropValid s m) := by
  unfold State.dropValid
  try extract_lets
  repeat' (first | with_reducible assumption | with_reducible refine Paced.ite ?_ ?_ | with_reducible refine Paced.putMs ?_
                 | with_reducible refine Paced.foldl ?_ ?_ | intro _ _ | intro _ | extract_lets | split | dsimp only)

theorem State.spoilShunt_paced {z s : State} {m : Fin 16} (h : Paced z s) : Paced z (State.spoilShunt s m) := by
  unfold State.spoilShunt
  try extract_lets
  repeat' (first | with_reducible assumption | with_reducible refine Paced.ite ?_ ?_ | refine Paced.updSense ?_ (fun _ => ⟨rfl, rfl⟩)
                 | refine Paced.updSense ?_ (fun _ => by dsimp only; split <;> exact ⟨rfl, rfl⟩) | with_reducible refine Paced.foldl ?_ ?_
                 | intro _ _ | intro _ | extract_lets | split | dsimp only)

theorem State.comFlag_paced {z s : State} {m : Fin 16} {f : Fld} (h : Paced z s) : Paced z (State.comFlag s m f) := by
  unfold State.comFlag
  try extract_lets
  repeat' (first | with_reducible assumption | with_reducible refine Paced.ite ?_ ?_ | with_reducible refine Paced.setFld ?_
                 | with_reducible refine Paced.foldl ?_ ?_ | intro _ _ | intro _ | extract_lets | split | dsimp only)

theorem State.comCfgErr_paced {z s : State} {m : Fin 16} (h : Paced z s) : Paced z (State.comCfgErr s m) := by
  unfold State.comCfgErr
  try extract_lets
  repeat' (first | with_reducible assumption | with_reducible refine Paced.ite ?_ ?_ | with_reducible refine Paced.setFld ?_
                 | with_reducible refine Paced.foldl ?_ ?_ | intro _ _ | intro _ | extract_lets | split | dsimp only)

theorem State.applyStep_paced {z s : State} {m : Fin 16} {code : Nat} {t : Nat} (h : Paced z s) :
    Paced z (State.applyStep s m code t) := by
  unfold State.applyStep
  try extract_lets
  repeat' (first | with_reducible assumption | with_reducible refine Paced.ite ?_ ?_ | with_reducible refine State.setSheet_paced ?_
                 | with_reducible refine Paced.updCom ?_ | refine Paced.updPwm ?_ (fun _ => ⟨rfl, rfl, rfl, rfl, rfl, rfl⟩)
                 | with_reducible refine Paced.foldl ?_ ?_ | intro _ _ | intro _ | extract_lets | split | extract_lets | dsimp only)

theorem State.hardStep_paced {z s : State} {m : Fin 16} {code : Nat} {t : Nat} (h : Paced z s) : Paced z (State.hardStep s m code t) := by
  unfold State.hardStep
  try extract_lets
  repeat' (first | with_reducible assumption | with_reducible refine Paced.ite ?_ ?_ | with_reducible refine Paced.when ?_ ?_
                 | with_reducible refine State.applyStep_paced ?_ | with_reducible refine State.comFlag_paced ?_
                 | with_reducible refine Paced.foldl ?_ ?_ | intro _ _ | intro _ | extract_lets | split | dsimp only)

theorem State.stepEvent_paced {z s : State} {m : Fin 16} {code : Nat} {t : Nat} (h : Paced z s) :
    Paced z (State.stepEvent s m code t) := by
  unfold State.stepEvent
  try extract_lets
  repeat' (first | with_reducible assumption | with_reducible refine Paced.ite ?_ ?_ | with_reducible refine State.comCfgErr_paced ?_
                 | with_reducible refine Paced.updCom ?_ | with_reducible refine State.hardStep_paced ?_
                 | refine Paced.updPwm ?_ (fun _ => ⟨rfl, rfl, rfl, rfl, rfl, rfl⟩) | with_reducible refine State.spoilShunt_paced ?_
                 | with_reducible refine Paced.foldl ?_ ?_ | intro _ _ | intro _ | extract_lets | split | extract_lets | dsimp only)

theorem State.luffEnd_paced {z s : State} {m : Fin 16} {t : Nat} (h : Paced z s) : Paced z (State.luffEnd s m t) := by
  unfold State.luffEnd
  try extract_lets
  repeat' (first | with_reducible assumption | with_reducible refine Paced.ite ?_ ?_ | with_reducible refine State.applyStep_paced ?_
                 | with_reducible refine Paced.foldl ?_ ?_ | intro _ _ | intro _ | extract_lets | split | dsimp only)

theorem State.takeStep_paced {z s : State} {m : Fin 16} {code : Nat} {b : Nat} {tLen : Nat} (h : Paced z s) : Paced z (State.takeStep s m code b tLen) := by
  unfold State.takeStep
  try extract_lets
  repeat' (first | with_reducible assumption | with_reducible refine Paced.ite ?_ ?_ | with_reducible refine Paced.updCom ?_
                 | with_reducible refine State.setSheet_paced ?_ | with_reducible refine State.hardStep_paced ?_
                 | with_reducible refine Paced.foldl ?_ ?_ | intro _ _ | intro _ | extract_lets | split | dsimp only)

theorem State.stepBoundary_paced {z s : State} {m : Fin 16} {b tLen : Nat} (h : Paced z s) : Paced z (State.stepBoundary s m b tLen) := by
  unfold State.stepBoundary
  extract_lets s1 pend ripe s2
  have h1 : Paced z s1 := by
    show Paced z (match (s.mast m).com.luff with | some l => if l.n ≤ l.i then s.luffEnd m b else s | none => s)
    split
    · exact Paced.ite (State.luffEnd_paced h) h
    · exact h
  have h2 : Paced z s2 := h1.updPwm (fun _ => ⟨rfl, rfl, rfl, rfl, rfl, rfl⟩)
  clear_value s2
  split
  · exact h2.updCom
  · exact State.takeStep_paced (Paced.ite (State.comFlag_paced (State.luffEnd_paced h2)) h2)

theorem State.holdMask_paced {z s : State} {m : Fin 16} {b : Nat} (h : Paced z s) : Paced z (State.holdMask s m b) := by
  unfold State.holdMask
  try extract_lets
  repeat' (first | with_reducible assumption | with_reducible refine Paced.ite ?_ ?_ | with_reducible refine State.applyStep_paced ?_
                 | with_reducible refine Paced.foldl ?_ ?_ | intro _ _ | intro _ | extract_lets | split | dsimp only)

theorem State.measure_paced {z s : State} {m : Fin 16} {e : Word} {t : Nat} (h : Paced z s) : Paced z (State.measure s m e t) := by
  unfold State.measure
  try extract_lets
  repeat' (first | with_reducible assumption | with_reducible refine Paced.ite ?_ ?_ | with_reducible refine Paced.updCom ?_
                 | with_reducible refine Paced.when ?_ ?_ | with_reducible refine State.comFlag_paced ?_ | with_reducible refine Paced.foldl ?_ ?_
                 | intro _ _ | intro _ | extract_lets | split | dsimp only)

theorem State.propagate_paced {z s : State} {m : Fin 16} {b : Nat} (h : Paced z s) :
    Paced z (State.propagate s m b) := by
  unfold State.propagate
  try extract_lets
  repeat' (first | with_reducible assumption | with_reducible refine Paced.ite ?_ ?_ | with_reducible refine Paced.updCom ?_
                 | with_reducible refine Paced.foldl ?_ ?_ | intro _ _ | intro _ | extract_lets | split | extract_lets | dsimp only)

theorem State.setEst_paced {z s : State} {m : Fin 16} {e : Est} (h : Paced z s) :
    Paced z (State.setEst s m e) := by
  unfold State.setEst
  try extract_lets
  repeat' (first | with_reducible assumption | with_reducible refine Paced.ite ?_ ?_ | with_reducible refine Paced.updCom ?_
                 | with_reducible refine Paced.foldl ?_ ?_ | intro _ _ | intro _ | extract_lets | split | extract_lets | dsimp only)

theorem State.estLost_paced {z s : State} {m : Fin 16} (h : Paced z s) : Paced z (State.estLost s m) := by
  unfold State.estLost
  try extract_lets
  repeat' (first | with_reducible assumption | with_reducible refine Paced.ite ?_ ?_ | with_reducible refine Paced.raiseM ?_
                 | with_reducible refine State.setEst_paced ?_ | with_reducible refine Paced.foldl ?_ ?_ | intro _ _ | intro _ | extract_lets | split
                 | dsimp only)

theorem State.estOff_paced {z s : State} {m : Fin 16} (h : Paced z s) : Paced z (State.estOff s m) := by
  unfold State.estOff
  try extract_lets
  repeat' (first | with_reducible assumption | with_reducible refine Paced.ite ?_ ?_ | with_reducible refine Paced.updCom ?_
                 | with_reducible refine Paced.foldl ?_ ?_ | intro _ _ | intro _ | extract_lets | split | dsimp only)

theorem State.estMove_paced {z s : State} {m : Fin 16} (h : Paced z s) : Paced z (State.estMove s m) := by
  unfold State.estMove
  try extract_lets
  repeat' (first | with_reducible assumption | with_reducible refine Paced.ite ?_ ?_ | with_reducible refine State.setEst_paced ?_
                 | with_reducible refine Paced.foldl ?_ ?_ | intro _ _ | intro _ | extract_lets | split | dsimp only)

theorem State.preset_paced {z s : State} {m : Fin 16} {th : Word} {om : Word} {t : Nat} (h : Paced z s) : Paced z (State.preset s m th om t) := by
  unfold State.preset
  try extract_lets
  repeat' (first | with_reducible assumption | with_reducible refine Paced.ite ?_ ?_ | with_reducible refine Paced.updCom ?_
                 | with_reducible refine State.setEst_paced ?_ | with_reducible refine Paced.foldl ?_ ?_ | intro _ _ | intro _ | extract_lets | split
                 | dsimp only)

theorem State.sensorMeasure_paced {z s : State} {m : Fin 16} {src : Nat} {ang : Word} {t : Nat} (h : Paced z s) : Paced z (State.sensorMeasure s m src ang
  t) := by
  unfold State.sensorMeasure
  try extract_lets
  repeat' (first | with_reducible assumption | with_reducible refine Paced.ite ?_ ?_ | with_reducible refine State.measure_paced ?_
                 | with_reducible refine Paced.foldl ?_ ?_ | intro _ _ | intro _ | extract_lets | split | dsimp only)

theorem State.refreshDrive_paced {z s : State} {m : Fin 16} {t : Nat} (h : Paced z s) : Paced z (State.refreshDrive s m t) := by
  unfold State.refreshDrive
  try extract_lets
  repeat' (first | with_reducible assumption | with_reducible refine Paced.ite ?_ ?_ | with_reducible refine Paced.updCom ?_
                 | with_reducible refine State.stepEvent_paced ?_ | with_reducible refine Paced.foldl ?_ ?_ | intro _ _ | intro _ | extract_lets
                 | split | dsimp only)

theorem State.quadMove_paced {z s : State} {m : Fin 16} {pos : Nat} {t : Nat} (h : Paced z s) :
    Paced z (State.quadMove s m pos t) := by
  unfold State.quadMove
  try extract_lets
  repeat' (first | with_reducible assumption | with_reducible refine Paced.ite ?_ ?_ | with_reducible refine Paced.updCom ?_
                 | with_reducible refine Paced.foldl ?_ ?_ | intro _ _ | intro _ | extract_lets | split | extract_lets | dsimp only)

theorem State.quadMeasure_paced {z s : State} {m : Fin 16} {ts : Nat} (h : Paced z s) :
    Paced z (State.quadMeasure s m ts) := by
  unfold State.quadMeasure
  extract_lets cpr pos s1
  have h_s1 : Paced z s1 := by
    repeat' (first | with_reducible assumption | with_reducible refine Paced.ite ?_ ?_ | with_reducible refine Paced.updCom ?_
                   | with_reducible refine State.sensorMeasure_paced ?_ | with_reducible refine Paced.foldl ?_ ?_ | intro _ _ | intro _
                   | extract_lets | split | extract_lets | dsimp only)
  clear_value s1
  repeat' (first | with_reducible assumption | with_reducible refine Paced.ite ?_ ?_ | with_reducible refine Paced.updCom ?_
                 | with_reducible refine State.sensorMeasure_paced ?_ | with_reducible refine Paced.foldl ?_ ?_ | intro _ _ | intro _ | extract_lets
                 | split | extract_lets | dsimp only)

theorem State.badWindow_paced {z s : State} {m : Fin 16} (h : Paced z s) : Paced z (State.badWindow s m) := by
  unfold State.badWindow
  try extract_lets
  repeat' (first | with_reducible assumption | with_reducible refine Paced.ite ?_ ?_ | with_reducible refine Paced.updCom ?_
                 | with_reducible refine State.comFlag_paced ?_ | with_reducible refine Paced.when ?_ ?_
                 | with_reducible refine State.estLost_paced ?_ | with_reducible refine Paced.foldl ?_ ?_ | intro _ _ | intro _ | extract_lets
                 | split | dsimp only)

theorem State.goodWindow_paced {z s : State} {m : Fin 16} {e : Word} (h : Paced z s) : Paced z (State.goodWindow s m e) := by
  unfold State.goodWindow
  try extract_lets
  repeat' (first | with_reducible assumption | with_reducible refine Paced.ite ?_ ?_ | with_reducible refine Paced.updCom ?_
                 | with_reducible refine State.measure_paced ?_ | with_reducible refine Paced.foldl ?_ ?_ | intro _ _ | intro _ | extract_lets
                 | split | dsimp only)

theorem State.polSettled_paced {z s : State} {m : Fin 16} (h : Paced z s) : Paced z (State.polSettled s m) := by
  unfold State.polSettled
  try extract_lets
  repeat' (first | with_reducible assumption | with_reducible refine Paced.ite ?_ ?_ | with_reducible refine Paced.updCom ?_
                 | with_reducible refine Paced.foldl ?_ ?_ | intro _ _ | intro _ | extract_lets | split | dsimp only)

theorem State.correlate_paced {z s : State} {m : Fin 16} {c : Cap} {iOk : Bool} {th : Word} (h : Paced z s) : Paced z (State.correlate s m c iOk th)
  := by
  unfold State.correlate
  try extract_lets
  repeat' (first | with_reducible assumption | with_reducible refine Paced.ite ?_ ?_ | with_reducible refine Paced.updCom ?_
                 | with_reducible refine Paced.foldl ?_ ?_ | intro _ _ | intro _ | extract_lets | split | dsimp only)

theorem State.observe_paced {z s : State} {m : Fin 16} {tLen : Nat} {th : Word} (h : Paced z s) : Paced z (State.observe s m tLen th) := by
  unfold State.observe
  try extract_lets
  repeat' (first | with_reducible assumption | with_reducible refine Paced.ite ?_ ?_ | with_reducible refine Paced.updCom ?_
                 | with_reducible refine Paced.foldl ?_ ?_ | intro _ _ | intro _ | extract_lets | split | dsimp only)

theorem State.highMeasure_paced {z s : State} {m : Fin 16} {t : Nat} (h : Paced z s) : Paced z (State.highMeasure s m t) := by
  unfold State.highMeasure
  try extract_lets
  repeat' (first | with_reducible assumption | with_reducible refine Paced.ite ?_ ?_ | with_reducible refine State.measure_paced ?_
                 | with_reducible refine Paced.updCom ?_ | with_reducible refine Paced.when ?_ ?_ | with_reducible refine State.estLost_paced ?_
                 | with_reducible refine Paced.foldl ?_ ?_ | intro _ _ | intro _ | extract_lets | split | dsimp only)

theorem State.takeEpsSw_paced {z s : State} {m : Fin 16} (h : Paced z s) : Paced z (State.takeEpsSw s m) := by
  unfold State.takeEpsSw
  try extract_lets
  repeat' (first | with_reducible assumption | with_reducible refine Paced.ite ?_ ?_ | with_reducible refine Paced.updCom ?_
                 | with_reducible refine State.polSettled_paced ?_ | with_reducible refine State.badWindow_paced ?_
                 | with_reducible refine State.goodWindow_paced ?_ | with_reducible refine Paced.foldl ?_ ?_ | intro _ _ | intro _ | extract_lets
                 | split | dsimp only)

theorem State.writeVectors_paced {z s : State} {m : Fin 16} {c : Cap} {th : Word} (h : Paced z s) : Paced z (State.writeVectors s m c th) := by
  unfold State.writeVectors
  try extract_lets
  repeat' (first | with_reducible assumption | with_reducible refine Paced.ite ?_ ?_ | with_reducible refine Paced.putMs ?_
                 | with_reducible refine Paced.foldl ?_ ?_ | intro _ _ | intro _ | extract_lets | split | dsimp only)

theorem State.writeEst_paced {z s : State} {m : Fin 16} {c : Cap} (h : Paced z s) : Paced z (State.writeEst s m c) := by
  unfold State.writeEst
  try extract_lets
  repeat' (first | with_reducible assumption | with_reducible refine Paced.ite ?_ ?_ | with_reducible refine Paced.putMs ?_
                 | with_reducible refine Paced.foldl ?_ ?_ | intro _ _ | intro _ | extract_lets | split | dsimp only)

theorem State.comRelease_paced {z s : State} {m : Fin 16} {c : Cap} {iOk : Bool} (h : Paced z s) : Paced z (State.comRelease s m c iOk) := by
  unfold State.comRelease
  extract_lets ts th s1 s2 s3 s4 s5
  have h_s1 : Paced z s1 := by
    repeat' (first | with_reducible assumption | with_reducible refine Paced.ite ?_ ?_ | with_reducible refine State.writeVectors_paced ?_
                   | with_reducible refine State.observe_paced ?_ | with_reducible refine State.quadMeasure_paced ?_
                   | with_reducible refine State.takeEpsSw_paced ?_ | with_reducible refine Paced.when ?_ ?_
                   | with_reducible refine State.correlate_paced ?_ | with_reducible refine State.estMove_paced ?_
                   | with_reducible refine State.highMeasure_paced ?_ | with_reducible refine State.writeEst_paced ?_
                   | with_reducible refine Paced.foldl ?_ ?_ | intro _ _ | intro _ | extract_lets | split | dsimp only)
  clear_value s1
  have h_s2 : Paced z s2 := by
    repeat' (first | with_reducible assumption | with_reducible refine Paced.ite ?_ ?_ | with_reducible refine State.writeVectors_paced ?_
                   | with_reducible refine State.observe_paced ?_ | with_reducible refine State.quadMeasure_paced ?_
                   | with_reducible refine State.takeEpsSw_paced ?_ | with_reducible refine Paced.when ?_ ?_
                   | with_reducible refine State.correlate_paced ?_ | with_reducible refine State.estMove_paced ?_
                   | with_reducible refine State.highMeasure_paced ?_ | with_reducible refine State.writeEst_paced ?_
                   | with_reducible refine Paced.foldl ?_ ?_ | intro _ _ | intro _ | extract_lets | split | dsimp only)
  clear_value s2
  have h_s3 : Paced z s3 := by
    repeat' (first | with_reducible assumption | with_reducible refine Paced.ite ?_ ?_ | with_reducible refine State.writeVectors_paced ?_
                   | with_reducible refine State.observe_paced ?_ | with_reducible refine State.quadMeasure_paced ?_
                   | with_reducible refine State.takeEpsSw_paced ?_ | with_reducible refine Paced.when ?_ ?_
                   | with_reducible refine State.correlate_paced ?_ | with_reducible refine State.estMove_paced ?_
                   | with_reducible refine State.highMeasure_paced ?_ | with_reducible refine State.writeEst_paced ?_
                   | with_reducible refine Paced.foldl ?_ ?_ | intro _ _ | intro _ | extract_lets | split | dsimp only)
  clear_value s3
  have h_s4 : Paced z s4 := by
    repeat' (first | with_reducible assumption | with_reducible refine Paced.ite ?_ ?_ | with_reducible refine State.writeVectors_paced ?_
                   | with_reducible refine State.observe_paced ?_ | with_reducible refine State.quadMeasure_paced ?_
                   | with_reducible refine State.takeEpsSw_paced ?_ | with_reducible refine Paced.when ?_ ?_
                   | with_reducible refine State.correlate_paced ?_ | with_reducible refine State.estMove_paced ?_
                   | with_reducible refine State.highMeasure_paced ?_ | with_reducible refine State.writeEst_paced ?_
                   | with_reducible refine Paced.foldl ?_ ?_ | intro _ _ | intro _ | extract_lets | split | dsimp only)
  clear_value s4
  have h_s5 : Paced z s5 := by
    repeat' (first | with_reducible assumption | with_reducible refine Paced.ite ?_ ?_ | with_reducible refine State.writeVectors_paced ?_
                   | with_reducible refine State.observe_paced ?_ | with_reducible refine State.quadMeasure_paced ?_
                   | with_reducible refine State.takeEpsSw_paced ?_ | with_reducible refine Paced.when ?_ ?_
                   | with_reducible refine State.correlate_paced ?_ | with_reducible refine State.estMove_paced ?_
                   | with_reducible refine State.highMeasure_paced ?_ | with_reducible refine State.writeEst_paced ?_
                   | with_reducible refine Paced.foldl ?_ ?_ | intro _ _ | intro _ | extract_lets | split | dsimp only)
  clear_value s5
  repeat' (first | with_reducible assumption | with_reducible refine Paced.ite ?_ ?_ | with_reducible refine State.writeVectors_paced ?_
                 | with_reducible refine State.observe_paced ?_ | with_reducible refine State.quadMeasure_paced ?_
                 | with_reducible refine State.takeEpsSw_paced ?_ | with_reducible refine Paced.when ?_ ?_
                 | with_reducible refine State.correlate_paced ?_ | with_reducible refine State.estMove_paced ?_
                 | with_reducible refine State.highMeasure_paced ?_ | with_reducible refine State.writeEst_paced ?_
                 | with_reducible refine Paced.foldl ?_ ?_ | intro _ _ | intro _ | extract_lets | split | dsimp only)

theorem State.tableDir_paced {z s : State} {m : Fin 16} (h : Paced z s) : Paced z (State.tableDir s m) := by
  unfold State.tableDir
  try extract_lets
  repeat' (first | with_reducible assumption | with_reducible refine Paced.ite ?_ ?_ | with_reducible refine Paced.updCom ?_
                 | with_reducible refine Paced.foldl ?_ ?_ | intro _ _ | intro _ | extract_lets | split | dsimp only)

theorem State.halSpeed_paced {z s : State} {m : Fin 16} {dt : Word} (h : Paced z s) : Paced z (State.halSpeed s m dt) := by
  unfold State.halSpeed
  try extract_lets
  repeat' (first | with_reducible assumption | with_reducible refine Paced.ite ?_ ?_ | with_reducible refine Paced.updHal ?_
                 | with_reducible refine Paced.foldl ?_ ?_ | intro _ _ | intro _ | extract_lets | split | dsimp only)

theorem State.halTorque_paced {z s : State} {m : Fin 16} (h : Paced z s) : Paced z (State.halTorque s m) := by
  unfold State.halTorque
  try extract_lets
  repeat' (first | with_reducible assumption | with_reducible refine Paced.ite ?_ ?_ | with_reducible refine Paced.updHal ?_
                 | with_reducible refine Paced.foldl ?_ ?_ | intro _ _ | intro _ | extract_lets | split | dsimp only)

theorem State.halFreeze_paced {z s : State} {m : Fin 16} {zero : Bool} (h : Paced z s) : Paced z (State.halFreeze s m zero) := by
  unfold State.halFreeze
  try extract_lets
  repeat' (first | with_reducible assumption | with_reducible refine Paced.ite ?_ ?_ | with_reducible refine Paced.updHal ?_
                 | with_reducible refine Paced.foldl ?_ ?_ | intro _ _ | intro _ | extract_lets | split | dsimp only)

theorem State.cmdTake_paced {z s : State} {m : Fin 16} {v : Word} {freq : Word} (h : Paced z s) : Paced z (State.cmdTake s m v freq) := by
  unfold State.cmdTake
  try extract_lets
  repeat' (first | with_reducible assumption | with_reducible refine Paced.ite ?_ ?_ | with_reducible refine Paced.updCmd ?_
                 | with_reducible refine Paced.foldl ?_ ?_ | intro _ _ | intro _ | extract_lets | split | dsimp only)

theorem State.cmdRelease_paced {z s : State} {m : Fin 16} {vOk : Bool} (h : Paced z s) : Paced z (State.cmdRelease s m vOk) := by
  unfold State.cmdRelease
  extract_lets s1 c raw v0 v s2 s3
  have h_s1 : Paced z s1 := by
    repeat' (first | with_reducible assumption | with_reducible refine Paced.ite ?_ ?_ | with_reducible refine State.cmdTake_paced ?_
                   | with_reducible refine Paced.updCmd ?_ | with_reducible refine Paced.putMs ?_ | with_reducible refine Paced.putM ?_
                   | with_reducible refine Paced.foldl ?_ ?_ | intro _ _ | intro _ | extract_lets | split | dsimp only)
  clear_value s1
  have h_s2 : Paced z s2 := by
    repeat' (first | with_reducible assumption | with_reducible refine Paced.ite ?_ ?_ | with_reducible refine State.cmdTake_paced ?_
                   | with_reducible refine Paced.updCmd ?_ | with_reducible refine Paced.putMs ?_ | with_reducible refine Paced.putM ?_
                   | with_reducible refine Paced.foldl ?_ ?_ | intro _ _ | intro _ | extract_lets | split | dsimp only)
  clear_value s2
  have h_s3 : Paced z s3 := by
    repeat' (first | with_reducible assumption | with_reducible refine Paced.ite ?_ ?_ | with_reducible refine State.cmdTake_paced ?_
                   | with_reducible refine Paced.updCmd ?_ | with_reducible refine Paced.putMs ?_ | with_reducible refine Paced.putM ?_
                   | with_reducible refine Paced.foldl ?_ ?_ | intro _ _ | intro _ | extract_lets | split | dsimp only)
  clear_value s3
  repeat' (first | with_reducible assumption | with_reducible refine Paced.ite ?_ ?_ | with_reducible refine State.cmdTake_paced ?_
                 | with_reducible refine Paced.updCmd ?_ | with_reducible refine Paced.putMs ?_ | with_reducible refine Paced.putM ?_
                 | with_reducible refine Paced.foldl ?_ ?_ | intro _ _ | intro _ | extract_lets | split | dsimp only)

theorem State.halRelease_paced {z s : State} {m : Fin 16} {tLen : Nat} (h : Paced z s) : Paced z (State.halRelease s m tLen) := by
  unfold State.halRelease
  try extract_lets
  repeat' (first | with_reducible assumption | with_reducible refine Paced.ite ?_ ?_ | with_reducible refine Paced.when ?_ ?_
                 | with_reducible refine Paced.raise ?_ | with_reducible refine Paced.updHal ?_ | with_reducible refine State.tableDir_paced ?_
                 | with_reducible refine State.halTorque_paced ?_ | with_reducible refine State.halSpeed_paced ?_
                 | with_reducible refine Paced.putMs ?_ | with_reducible refine Paced.foldl ?_ ?_ | intro _ _ | intro _ | extract_lets | split
                 | dsimp only)

theorem State.seqFlag_paced {z s : State} {m : Fin 16} {f : Fld} (h : Paced z s) : Paced z (State.seqFlag s m f) := by
  unfold State.seqFlag
  try extract_lets
  repeat' (first | with_reducible assumption | with_reducible refine Paced.ite ?_ ?_ | with_reducible refine Paced.setFld ?_
                 | with_reducible refine Paced.foldl ?_ ?_ | intro _ _ | intro _ | extract_lets | split | dsimp only)

theorem State.refuse_paced {z s : State} {m : Fin 16} {why : Nat} {start : Bool} (h : Paced z s) : Paced z (State.refuse s m why start) := by
  unfold State.refuse
  try extract_lets
  repeat' (first | with_reducible assumption | with_reducible refine Paced.ite ?_ ?_ | with_reducible refine Paced.when ?_ ?_
                 | with_reducible refine Paced.updSeq ?_ | with_reducible refine State.seqFlag_paced ?_ | with_reducible refine Paced.foldl ?_ ?_
                 | intro _ _ | intro _ | extract_lets | split | dsimp only)

theorem State.seqOuts_paced {z s : State} {m : Fin 16} {t : Nat} (h : Paced z s) : Paced z (State.seqOuts s m t) := by
  unfold State.seqOuts
  try extract_lets
  repeat' (first | with_reducible assumption | with_reducible refine Paced.ite ?_ ?_ | with_reducible refine State.setOut_paced ?_
                 | with_reducible refine State.estOff_paced ?_ | with_reducible refine State.stepEvent_paced ?_
                 | with_reducible refine Paced.foldl ?_ ?_ | intro _ _ | intro _ | extract_lets | split | dsimp only)

theorem State.enterSeq_paced {z s : State} {m : Fin 16} {st : SeqSt} {t : Nat} (h : Paced z s) :
    Paced z (State.enterSeq s m st t) := by
  unfold State.enterSeq
  extract_lets old k s1 s2 starts s3 s4 s5
  have h_s1 : Paced z s1 := by
    repeat' (first | with_reducible assumption | with_reducible refine Paced.ite ?_ ?_ | with_reducible refine Paced.updSeq ?_
                   | with_reducible refine State.halFreeze_paced ?_ | with_reducible refine Paced.updHal ?_
                   | with_reducible refine State.seqOuts_paced ?_ | with_reducible refine State.refreshSafe_paced ?_
                   | with_reducible refine Paced.putMs ?_ | with_reducible refine Paced.foldl ?_ ?_ | intro _ _ | intro _ | extract_lets | split
                   | extract_lets | dsimp only)
  clear_value s1
  have h_s2 : Paced z s2 := by
    repeat' (first | with_reducible assumption | with_reducible refine Paced.ite ?_ ?_ | with_reducible refine Paced.updSeq ?_
                   | with_reducible refine State.halFreeze_paced ?_ | with_reducible refine Paced.updHal ?_
                   | with_reducible refine State.seqOuts_paced ?_ | with_reducible refine State.refreshSafe_paced ?_
                   | with_reducible refine Paced.putMs ?_ | with_reducible refine Paced.foldl ?_ ?_ | intro _ _ | intro _ | extract_lets | split
                   | extract_lets | dsimp only)
  clear_value s2
  have h_s3 : Paced z s3 := by
    repeat' (first | with_reducible assumption | with_reducible refine Paced.ite ?_ ?_ | with_reducible refine Paced.updSeq ?_
                   | with_reducible refine State.halFreeze_paced ?_ | with_reducible refine Paced.updHal ?_
                   | with_reducible refine State.seqOuts_paced ?_ | with_reducible refine State.refreshSafe_paced ?_
                   | with_reducible refine Paced.putMs ?_ | with_reducible refine Paced.foldl ?_ ?_ | intro _ _ | intro _ | extract_lets | split
                   | extract_lets | dsimp only)
  clear_value s3
  have h_s4 : Paced z s4 := by
    repeat' (first | with_reducible assumption | with_reducible refine Paced.ite ?_ ?_ | with_reducible refine Paced.updSeq ?_
                   | with_reducible refine State.halFreeze_paced ?_ | with_reducible refine Paced.updHal ?_
                   | with_reducible refine State.seqOuts_paced ?_ | with_reducible refine State.refreshSafe_paced ?_
                   | with_reducible refine Paced.putMs ?_ | with_reducible refine Paced.foldl ?_ ?_ | intro _ _ | intro _ | extract_lets | split
                   | extract_lets | dsimp only)
  clear_value s4
  have h_s5 : Paced z s5 := by
    repeat' (first | with_reducible assumption | with_reducible refine Paced.ite ?_ ?_ | with_reducible refine Paced.updSeq ?_
                   | with_reducible refine State.halFreeze_paced ?_ | with_reducible refine Paced.updHal ?_
                   | with_reducible refine State.seqOuts_paced ?_ | with_reducible refine State.refreshSafe_paced ?_
                   | with_reducible refine Paced.putMs ?_ | with_reducible refine Paced.foldl ?_ ?_ | intro _ _ | intro _ | extract_lets | split
                   | extract_lets | dsimp only)
  clear_value s5
  repeat' (first | with_reducible assumption | with_reducible refine Paced.ite ?_ ?_ | with_reducible refine Paced.updSeq ?_
                 | with_reducible refine State.halFreeze_paced ?_ | with_reducible refine Paced.updHal ?_
                 | with_reducible refine State.seqOuts_paced ?_ | with_reducible refine State.refreshSafe_paced ?_
                 | with_reducible refine Paced.putMs ?_ | with_reducible refine Paced.foldl ?_ ?_ | intro _ _ | intro _ | extract_lets | split
                 | extract_lets | dsimp only)

theorem State.beginListen_paced {z s : State} {m : Fin 16} {n : Nat} {again : Bool} {t : Nat} (h : Paced z s) : Paced z (State.beginListen s m n again t)
  := by
  unfold State.beginListen
  try extract_lets
  repeat' (first | with_reducible assumption | with_reducible refine Paced.ite ?_ ?_ | with_reducible refine State.enterSeq_paced ?_
                 | with_reducible refine Paced.updSeq ?_ | with_reducible refine Paced.foldl ?_ ?_ | intro _ _ | intro _ | extract_lets | split
                 | dsimp only)

theorem State.listenSet_paced {z s : State} {m : Fin 16} {c : Cap} {vOk : Bool} (h : Paced z s) : Paced z (State.listenSet s m c vOk) := by
  unfold State.listenSet
  try extract_lets
  repeat' (first | with_reducible assumption | with_reducible refine Paced.ite ?_ ?_ | with_reducible refine Paced.updSeq ?_
                 | with_reducible refine Paced.putMs ?_ | with_reducible refine Paced.foldl ?_ ?_ | intro _ _ | intro _ | extract_lets | split
                 | dsimp only)

theorem State.standstill_paced {z s : State} {m : Fin 16} {t : Nat} (h : Paced z s) : Paced z (State.standstill s m t) := by
  unfold State.standstill
  try extract_lets
  repeat' (first | with_reducible assumption | with_reducible refine Paced.ite ?_ ?_ | with_reducible refine State.enterSeq_paced ?_
                 | with_reducible refine Paced.updCom ?_ | with_reducible refine State.applyStep_paced ?_
                 | with_reducible refine State.comCfgErr_paced ?_ | with_reducible refine State.refuse_paced ?_
                 | with_reducible refine State.setEst_paced ?_ | with_reducible refine Paced.foldl ?_ ?_ | intro _ _ | intro _ | extract_lets | split
                 | dsimp only)

theorem State.beginBrake_paced {z s : State} {m : Fin 16} {p : Purpose} {t : Nat} (h : Paced z s) : Paced z (State.beginBrake s m p t) := by
  unfold State.beginBrake
  try extract_lets
  repeat' (first | with_reducible assumption | with_reducible refine Paced.ite ?_ ?_ | with_reducible refine Paced.raiseM ?_
                 | with_reducible refine State.enterSeq_paced ?_ | with_reducible refine Paced.updSeq ?_ | with_reducible refine Paced.foldl ?_ ?_
                 | intro _ _ | intro _ | extract_lets | split | dsimp only)

theorem State.pulseEnd_paced {z s : State} {m : Fin 16} {t : Nat} (h : Paced z s) : Paced z (State.pulseEnd s m t) := by
  unfold State.pulseEnd
  try extract_lets
  repeat' (first | with_reducible assumption | with_reducible refine Paced.ite ?_ ?_ | with_reducible refine State.seqOuts_paced ?_
                 | with_reducible refine Paced.updSeq ?_ | with_reducible refine Paced.foldl ?_ ?_ | intro _ _ | intro _ | extract_lets | split
                 | dsimp only)

theorem State.pauseEnd_paced {z s : State} {m : Fin 16} {t : Nat} (h : Paced z s) : Paced z (State.pauseEnd s m t) := by
  unfold State.pauseEnd
  try extract_lets
  repeat' (first | with_reducible assumption | with_reducible refine Paced.ite ?_ ?_ | with_reducible refine State.seqOuts_paced ?_
                 | with_reducible refine Paced.updSeq ?_ | with_reducible refine Paced.foldl ?_ ?_ | intro _ _ | intro _ | extract_lets | split
                 | dsimp only)

theorem State.beginSync_paced {z s : State} {m : Fin 16} {t : Nat} (h : Paced z s) :
    Paced z (State.beginSync s m t) := by
  unfold State.beginSync
  try extract_lets
  repeat' (first | with_reducible assumption | with_reducible refine Paced.ite ?_ ?_ | with_reducible refine State.comCfgErr_paced ?_
                 | with_reducible refine State.refuse_paced ?_ | with_reducible refine State.enterSeq_paced ?_
                 | with_reducible refine State.preset_paced ?_ | with_reducible refine Paced.when ?_ ?_ | with_reducible refine Paced.updCom ?_
                 | with_reducible refine Paced.updHal ?_ | with_reducible refine State.tableDir_paced ?_ | with_reducible refine Paced.foldl ?_ ?_
                 | intro _ _ | intro _ | extract_lets | split | extract_lets | dsimp only)

theorem State.syncSet_paced {z s : State} {m : Fin 16} {c : Cap} (h : Paced z s) :
    Paced z (State.syncSet s m c) := by
  unfold State.syncSet
  try extract_lets
  repeat' (first | with_reducible assumption | with_reducible refine Paced.ite ?_ ?_ | with_reducible refine Paced.putMs ?_
                 | with_reducible refine Paced.updCom ?_ | with_reducible refine Paced.when ?_ ?_ | with_reducible refine State.comFlag_paced ?_
                 | refine Paced.updPwm ?_ (fun _ => ⟨rfl, rfl, rfl, rfl, rfl, rfl⟩) | with_reducible refine Paced.foldl ?_ ?_ | intro _ _ | intro _
                 | extract_lets | split | extract_lets | dsimp only)

theorem State.forcedAngle_paced {z s : State} {m : Fin 16} {b : Nat} {tLen : Nat} (h : Paced z s) : Paced z (State.forcedAngle s m b tLen) := by
  unfold State.forcedAngle
  try extract_lets
  repeat' (first | with_reducible assumption | with_reducible refine Paced.ite ?_ ?_ | with_reducible refine Paced.updCom ?_
                 | with_reducible refine State.stepEvent_paced ?_ | with_reducible refine Paced.foldl ?_ ?_ | intro _ _ | intro _ | extract_lets
                 | split | dsimp only)

theorem State.countStart_paced {z s : State} {m : Fin 16} (h : Paced z s) : Paced z (State.countStart s m) := by
  unfold State.countStart
  try extract_lets
  repeat' (first | with_reducible assumption | with_reducible refine Paced.ite ?_ ?_ | with_reducible refine Paced.putM ?_
                 | with_reducible refine Paced.updCom ?_ | with_reducible refine Paced.updSeq ?_ | with_reducible refine Paced.foldl ?_ ?_
                 | intro _ _ | intro _ | extract_lets | split | dsimp only)

theorem State.beginStopping_paced {z s : State} {m : Fin 16} {mode : Nat} {fault : Bool} {t : Nat} (h : Paced z s) : Paced z (State.beginStopping s m mode
  fault t) := by
  unfold State.beginStopping
  try extract_lets
  repeat' (first | with_reducible assumption | with_reducible refine Paced.ite ?_ ?_ | with_reducible refine State.enterSeq_paced ?_
                 | with_reducible refine Paced.updSeq ?_ | with_reducible refine Paced.foldl ?_ ?_ | intro _ _ | intro _ | extract_lets | split
                 | dsimp only)

theorem State.actStart_paced {z s : State} {m : Fin 16} {t : Nat} (h : Paced z s) : Paced z (State.actStart s m t) := by
  unfold State.actStart
  try extract_lets
  repeat' (first | with_reducible assumption | with_reducible refine Paced.ite ?_ ?_ | with_reducible refine State.countStart_paced ?_
                 | with_reducible refine Paced.when ?_ ?_ | with_reducible refine State.refuse_paced ?_
                 | with_reducible refine State.comCfgErr_paced ?_ | with_reducible refine State.beginListen_paced ?_
                 | with_reducible refine Paced.updSeq ?_ | with_reducible refine State.enterSeq_paced ?_ | with_reducible refine Paced.foldl ?_ ?_
                 | intro _ _ | intro _ | extract_lets | split | dsimp only)

theorem State.actStop_paced {z s : State} {m : Fin 16} {mode : Nat} {t : Nat} (h : Paced z s) : Paced z (State.actStop s m mode t) := by
  unfold State.actStop
  try extract_lets
  repeat' (first | with_reducible assumption | with_reducible refine Paced.ite ?_ ?_ | with_reducible refine State.enterSeq_paced ?_
                 | with_reducible refine Paced.updSeq ?_ | with_reducible refine State.beginBrake_paced ?_
                 | with_reducible refine State.beginStopping_paced ?_ | with_reducible refine Paced.foldl ?_ ?_ | intro _ _ | intro _ | extract_lets
                 | split | dsimp only)

theorem State.actClear_paced {z s : State} {m : Fin 16} {t : Nat} (h : Paced z s) : Paced z (State.actClear s m t) := by
  unfold State.actClear
  try extract_lets
  repeat' (first | with_reducible assumption | with_reducible refine Paced.ite ?_ ?_ | with_reducible refine State.seqFlag_paced ?_
                 | with_reducible refine State.enterSeq_paced ?_ | with_reducible refine Paced.foldl ?_ ?_ | intro _ _ | intro _ | extract_lets
                 | split | dsimp only)

theorem State.actReq_paced {z s : State} {m : Fin 16} {r : SeqReq} {t : Nat} (h : Paced z s) : Paced z (State.actReq s m r t) := by
  unfold State.actReq
  try extract_lets
  repeat' (first | with_reducible assumption | with_reducible refine Paced.ite ?_ ?_ | with_reducible refine State.actStart_paced ?_
                 | with_reducible refine State.actStop_paced ?_ | with_reducible refine State.actClear_paced ?_
                 | with_reducible refine Paced.foldl ?_ ?_ | intro _ _ | intro _ | extract_lets | split | dsimp only)

theorem State.actRamp_paced {z s : State} {m : Fin 16} {t : Nat} (h : Paced z s) : Paced z (State.actRamp s m t) := by
  unfold State.actRamp
  try extract_lets
  repeat' (first | with_reducible assumption | with_reducible refine Paced.ite ?_ ?_ | with_reducible refine State.beginStopping_paced ?_
                 | with_reducible refine Paced.updSeq ?_ | with_reducible refine State.enterSeq_paced ?_ | with_reducible refine Paced.foldl ?_ ?_
                 | intro _ _ | intro _ | extract_lets | split | dsimp only)

theorem State.seqMove_paced {z s : State} {m : Fin 16} {t : Nat} (h : Paced z s) : Paced z (State.seqMove s m t) := by
  unfold State.seqMove
  try extract_lets
  repeat' (first | with_reducible assumption | with_reducible refine Paced.ite ?_ ?_ | with_reducible refine State.beginListen_paced ?_
                 | with_reducible refine State.enterSeq_paced ?_ | with_reducible refine State.refuse_paced ?_
                 | with_reducible refine State.beginSync_paced ?_ | with_reducible refine State.standstill_paced ?_
                 | with_reducible refine State.beginBrake_paced ?_ | with_reducible refine Paced.foldl ?_ ?_ | intro _ _ | intro _ | extract_lets
                 | split | dsimp only)

theorem State.brakeBoundary_paced {z s : State} {m : Fin 16} {t : Nat} (h : Paced z s) : Paced z (State.brakeBoundary s m t) := by
  unfold State.brakeBoundary
  try extract_lets
  repeat' (first | with_reducible assumption | with_reducible refine Paced.ite ?_ ?_ | with_reducible refine State.pulseEnd_paced ?_
                 | with_reducible refine State.pauseEnd_paced ?_ | with_reducible refine Paced.foldl ?_ ?_ | intro _ _ | intro _ | extract_lets
                 | split | dsimp only)

theorem State.seqBoundary_paced {z s : State} {m : Fin 16} {t : Nat} (h : Paced z s) : Paced z (State.seqBoundary s m t) := by
  unfold State.seqBoundary
  extract_lets s0 q s1 s2 s3 moved s4 s5
  have h_s0 : Paced z s0 := by
    repeat' (first | with_reducible assumption | with_reducible refine Paced.ite ?_ ?_ | with_reducible refine State.brakeBoundary_paced ?_
                   | with_reducible refine Paced.updSeq ?_ | with_reducible refine State.enterSeq_paced ?_
                   | with_reducible refine State.actRamp_paced ?_ | with_reducible refine State.actReq_paced ?_
                   | with_reducible refine State.seqMove_paced ?_ | with_reducible refine Paced.foldl ?_ ?_ | intro _ _ | intro _ | extract_lets
                   | split | dsimp only)
  clear_value s0
  have h_s1 : Paced z s1 := by
    repeat' (first | with_reducible assumption | with_reducible refine Paced.ite ?_ ?_ | with_reducible refine State.brakeBoundary_paced ?_
                   | with_reducible refine Paced.updSeq ?_ | with_reducible refine State.enterSeq_paced ?_
                   | with_reducible refine State.actRamp_paced ?_ | with_reducible refine State.actReq_paced ?_
                   | with_reducible refine State.seqMove_paced ?_ | with_reducible refine Paced.foldl ?_ ?_ | intro _ _ | intro _ | extract_lets
                   | split | dsimp only)
  clear_value s1
  have h_s2 : Paced z s2 := by
    repeat' (first | with_reducible assumption | with_reducible refine Paced.ite ?_ ?_ | with_reducible refine State.brakeBoundary_paced ?_
                   | with_reducible refine Paced.updSeq ?_ | with_reducible refine State.enterSeq_paced ?_
                   | with_reducible refine State.actRamp_paced ?_ | with_reducible refine State.actReq_paced ?_
                   | with_reducible refine State.seqMove_paced ?_ | with_reducible refine Paced.foldl ?_ ?_ | intro _ _ | intro _ | extract_lets
                   | split | dsimp only)
  clear_value s2
  have h_s3 : Paced z s3 := by
    repeat' (first | with_reducible assumption | with_reducible refine Paced.ite ?_ ?_ | with_reducible refine State.brakeBoundary_paced ?_
                   | with_reducible refine Paced.updSeq ?_ | with_reducible refine State.enterSeq_paced ?_
                   | with_reducible refine State.actRamp_paced ?_ | with_reducible refine State.actReq_paced ?_
                   | with_reducible refine State.seqMove_paced ?_ | with_reducible refine Paced.foldl ?_ ?_ | intro _ _ | intro _ | extract_lets
                   | split | dsimp only)
  clear_value s3
  have h_s4 : Paced z s4 := by
    repeat' (first | with_reducible assumption | with_reducible refine Paced.ite ?_ ?_ | with_reducible refine State.brakeBoundary_paced ?_
                   | with_reducible refine Paced.updSeq ?_ | with_reducible refine State.enterSeq_paced ?_
                   | with_reducible refine State.actRamp_paced ?_ | with_reducible refine State.actReq_paced ?_
                   | with_reducible refine State.seqMove_paced ?_ | with_reducible refine Paced.foldl ?_ ?_ | intro _ _ | intro _ | extract_lets
                   | split | dsimp only)
  clear_value s4
  have h_s5 : Paced z s5 := by
    repeat' (first | with_reducible assumption | with_reducible refine Paced.ite ?_ ?_ | with_reducible refine State.brakeBoundary_paced ?_
                   | with_reducible refine Paced.updSeq ?_ | with_reducible refine State.enterSeq_paced ?_
                   | with_reducible refine State.actRamp_paced ?_ | with_reducible refine State.actReq_paced ?_
                   | with_reducible refine State.seqMove_paced ?_ | with_reducible refine Paced.foldl ?_ ?_ | intro _ _ | intro _ | extract_lets
                   | split | dsimp only)
  clear_value s5
  repeat' (first | with_reducible assumption | with_reducible refine Paced.ite ?_ ?_ | with_reducible refine State.brakeBoundary_paced ?_
                 | with_reducible refine Paced.updSeq ?_ | with_reducible refine State.enterSeq_paced ?_
                 | with_reducible refine State.actRamp_paced ?_ | with_reducible refine State.actReq_paced ?_
                 | with_reducible refine State.seqMove_paced ?_ | with_reducible refine Paced.foldl ?_ ?_ | intro _ _ | intro _ | extract_lets
                 | split | dsimp only)

theorem State.seqRelease_paced {z s : State} {m : Fin 16} {c : Cap} {vOk : Bool} (h : Paced z s) :
    Paced z (State.seqRelease s m c vOk) := by
  unfold State.seqRelease
  try extract_lets
  repeat' (first | with_reducible assumption | with_reducible refine Paced.ite ?_ ?_ | with_reducible refine State.listenSet_paced ?_
                 | with_reducible refine State.syncSet_paced ?_ | with_reducible refine Paced.updSeq ?_ | with_reducible refine Paced.putMs ?_
                 | with_reducible refine Paced.foldl ?_ ?_ | intro _ _ | intro _ | extract_lets | split | extract_lets | dsimp only)

theorem State.setChop_paced {z s : State} {m : Fin 16} {on : Bool} (h : Paced z s) :
    Paced z (State.setChop s m on) := by
  unfold State.setChop
  try extract_lets
  repeat' (first | with_reducible assumption | with_reducible refine Paced.ite ?_ ?_ | with_reducible refine State.gateMark_paced ?_
                 | with_reducible refine Paced.updShr ?_ | with_reducible refine Paced.foldl ?_ ?_ | intro _ _ | intro _ | extract_lets | split
                 | extract_lets | dsimp only)

theorem State.applyChop_paced {z s : State} {g : Fin 8} (h : Paced z s) : Paced z (State.applyChop s g) := by
  unfold State.applyChop
  exact Paced.foldl h fun _ _ k => State.setChop_paced k

theorem State.chopFail_paced {z s : State} {n : Fin 16} {g : Option (Fin 8)} (h : Paced z s) : Paced z (State.chopFail s g n) := by
  unfold State.chopFail
  dsimp only
  have h1 : Paced z (((s.updShr n fun h => { h with chopFailed := true }).setChop n false).raiseM n MS.CHOPPER_FAIL 0) := by
    refine Paced.raise (State.setChop_paced ?_)
    exact h.updShr
  split
  · exact h1
  · exact h1.updG

theorem State.chopCheck_paced {z s : State} {g : Fin 8} {v : Word} (h : Paced z s) : Paced z (State.chopCheck s g v) := by
  unfold State.chopCheck
  dsimp only
  split
  · exact h
  · split
    · split
      · exact Paced.ite (State.chopFail_paced h.updG) h.updG
      · exact h
    · exact h

theorem State.chopSwitch_paced {z s : State} {g : Fin 8} {v : Word} (h : Paced z s) : Paced z (State.chopSwitch s g v) := by
  unfold State.chopSwitch
  exact State.applyChop_paced h.updG

theorem State.raiseBus_paced {z s : State} {l : List (Fin 16)} {k detail : Nat} {b : Bool} (h : Paced z s) :
    Paced z (State.raiseBus s l k detail b) := by
  unfold State.raiseBus
  exact Paced.foldl h fun _ _ k => k.raise

theorem State.refreshGroup_paced {z s : State} {g : Fin 8} (h : Paced z s) :
    Paced z (State.refreshGroup s g) := by
  unfold State.refreshGroup
  try extract_lets
  repeat' (first | with_reducible assumption | with_reducible refine Paced.ite ?_ ?_ | with_reducible refine State.refreshSafe_paced ?_
                 | with_reducible refine Paced.foldl ?_ ?_ | intro _ _ | intro _ | extract_lets | split | extract_lets | dsimp only)

theorem State.enterBg_paced {z s : State} {g : Fin 8} {st : BgSt} (h : Paced z s) : Paced z (State.enterBg s g st) := by
  unfold State.enterBg
  exact State.refreshGroup_paced h.updG

theorem State.evalGroup_paced {z s : State} {g : Fin 8} (h : Paced z s) : Paced z (State.evalGroup s g) := by
  unfold State.evalGroup
  extract_lets b v n1 nu o1 o2 uv s1 s2 s3 ms s4 s5
  have h2 : Paced z s2 := State.chopCheck_paced h.updG
  have h3 : Paced z s3 := Paced.ite (State.enterBg_paced h2) h2
  have h4 : Paced z s4 := Paced.ite (State.raiseBus_paced h3) (Paced.ite (State.raiseBus_paced h3) h3)
  exact Paced.ite h (State.chopSwitch_paced (Paced.when h4 fun _ k => State.raiseBus_paced k))

theorem State.chopUnseen_paced {z s : State} {g : Fin 8} (h : Paced z s) :
    Paced z (State.chopUnseen s g) := by
  unfold State.chopUnseen
  try extract_lets
  repeat' (first | with_reducible assumption | with_reducible refine Paced.ite ?_ ?_ | with_reducible refine Paced.updG ?_
                 | with_reducible refine Paced.foldl ?_ ?_ | intro _ _ | intro _ | extract_lets | split | extract_lets | dsimp only)

theorem State.groupStopped_paced {z s : State} {m : Fin 16} (h : Paced z s) :
    Paced z (State.groupStopped s m) := by
  unfold State.groupStopped
  try extract_lets
  repeat' (first | with_reducible assumption | with_reducible refine Paced.ite ?_ ?_ | with_reducible refine State.chopUnseen_paced ?_
                 | with_reducible refine State.applyChop_paced ?_ | with_reducible refine Paced.foldl ?_ ?_ | intro _ _ | intro _ | extract_lets
                 | split | extract_lets | dsimp only)

theorem State.regenRelease_paced {z s : State} {m : Fin 16} (h : Paced z s) : Paced z (State.regenRelease s m) := by
  unfold State.regenRelease
  try extract_lets
  repeat' (first | with_reducible assumption | with_reducible refine Paced.ite ?_ ?_ | with_reducible refine Paced.putM ?_
                 | with_reducible refine Paced.foldl ?_ ?_ | intro _ _ | intro _ | extract_lets | split | dsimp only)

theorem State.busRelease_paced {z s : State} {n : Fin 16} {v : Bool} (h : Paced z s) : Paced z (State.busRelease s n v) := by
  unfold State.busRelease
  split
  · exact h
  · exact Paced.ite (State.evalGroup_paced h) h

theorem State.noteLatch_paced {z s : State} {m : Fin 16} {code : Nat} (h : Paced z s) : Paced z (State.noteLatch s m code) := by
  unfold State.noteLatch
  try extract_lets
  repeat' (first | with_reducible assumption | with_reducible refine Paced.ite ?_ ?_ | with_reducible refine Paced.updShr ?_
                 | with_reducible refine Paced.foldl ?_ ?_ | intro _ _ | intro _ | extract_lets | split | dsimp only)

theorem State.setLatch_paced {z s : State} {m : Fin 16} {code : Nat} (h : Paced z s) : Paced z (State.setLatch s m code) := by
  unfold State.setLatch
  try extract_lets
  repeat' (first | with_reducible assumption | with_reducible refine Paced.ite ?_ ?_ | with_reducible refine State.gateMark_paced ?_
                 | with_reducible refine State.noteLatch_paced ?_ | with_reducible refine Paced.updShr ?_
                 | with_reducible refine State.refreshSafe_paced ?_ | with_reducible refine Paced.raiseM ?_ | with_reducible refine Paced.bump ?_
                 | with_reducible refine Paced.when ?_ ?_ | with_reducible refine State.chopFail_paced ?_ | with_reducible refine Paced.foldl ?_ ?_
                 | intro _ _ | intro _ | extract_lets | split | dsimp only)

theorem State.cutRef_paced {z s : State} {m : Fin 16} {bit : Nat} (h : Paced z s) : Paced z (State.cutRef s m bit) := by
  unfold State.cutRef
  try extract_lets
  repeat' (first | with_reducible assumption | with_reducible refine Paced.ite ?_ ?_ | with_reducible refine Paced.updShr ?_
                 | with_reducible refine Paced.when ?_ ?_ | with_reducible refine State.setLatch_paced ?_ | with_reducible refine Paced.bump ?_
                 | with_reducible refine Paced.setFld ?_ | refine Paced.updSense ?_ (fun _ => ⟨rfl, rfl⟩)
                 | refine Paced.updSense ?_ (fun _ => by dsimp only; split <;> exact ⟨rfl, rfl⟩) | with_reducible refine Paced.foldl ?_ ?_
                 | intro _ _ | intro _ | extract_lets | split | dsimp only)

theorem State.cbcLatch_paced {z s : State} {m : Fin 16} (h : Paced z s) : Paced z (State.cbcLatch s m) := by
  unfold State.cbcLatch
  extract_lets by_ s1 s2
  have h_s1 : Paced z s1 := by
    repeat' (first | with_reducible assumption | with_reducible refine Paced.ite ?_ ?_ | with_reducible refine Paced.updShr ?_
                   | with_reducible refine Paced.when ?_ ?_ | with_reducible refine State.setLatch_paced ?_ | with_reducible refine Paced.foldl ?_ ?_
                   | intro _ _ | intro _ | extract_lets | split | dsimp only)
  clear_value s1
  have h_s2 : Paced z s2 := by
    repeat' (first | with_reducible assumption | with_reducible refine Paced.ite ?_ ?_ | with_reducible refine Paced.updShr ?_
                   | with_reducible refine Paced.when ?_ ?_ | with_reducible refine State.setLatch_paced ?_ | with_reducible refine Paced.foldl ?_ ?_
                   | intro _ _ | intro _ | extract_lets | split | dsimp only)
  clear_value s2
  repeat' (first | with_reducible assumption | with_reducible refine Paced.ite ?_ ?_ | with_reducible refine Paced.updShr ?_
                 | with_reducible refine Paced.when ?_ ?_ | with_reducible refine State.setLatch_paced ?_ | with_reducible refine Paced.foldl ?_ ?_
                 | intro _ _ | intro _ | extract_lets | split | dsimp only)

theorem State.compAct_paced {z s : State} {m : Fin 16} {bit : Nat} {cbc : Bool} (h : Paced z s) : Paced z (State.compAct s m bit cbc) := by
  unfold State.compAct
  try extract_lets
  repeat' (first | with_reducible assumption | with_reducible refine Paced.ite ?_ ?_ | with_reducible refine State.cutRef_paced ?_
                 | with_reducible refine State.setLatch_paced ?_ | with_reducible refine Paced.foldl ?_ ?_ | intro _ _ | intro _ | extract_lets
                 | split | dsimp only)

theorem State.shroudLook_paced {z s : State} {m : Fin 16} (h : Paced z s) : Paced z (State.shroudLook s m) := by
  unfold State.shroudLook
  extract_lets h_1 oc tb s1 s2
  have h_s1 : Paced z s1 := by
    repeat' (first | with_reducible assumption | with_reducible refine Paced.ite ?_ ?_ | with_reducible refine Paced.when ?_ ?_
                   | with_reducible refine State.compAct_paced ?_ | with_reducible refine State.setLatch_paced ?_
                   | with_reducible refine Paced.foldl ?_ ?_ | intro _ _ | intro _ | extract_lets | split | dsimp only)
  clear_value s1
  have h_s2 : Paced z s2 := by
    repeat' (first | with_reducible assumption | with_reducible refine Paced.ite ?_ ?_ | with_reducible refine Paced.when ?_ ?_
                   | with_reducible refine State.compAct_paced ?_ | with_reducible refine State.setLatch_paced ?_
                   | with_reducible refine Paced.foldl ?_ ?_ | intro _ _ | intro _ | extract_lets | split | dsimp only)
  clear_value s2
  repeat' (first | with_reducible assumption | with_reducible refine Paced.ite ?_ ?_ | with_reducible refine Paced.when ?_ ?_
                 | with_reducible refine State.compAct_paced ?_ | with_reducible refine State.setLatch_paced ?_
                 | with_reducible refine Paced.foldl ?_ ?_ | intro _ _ | intro _ | extract_lets | split | dsimp only)

theorem State.cutEnd_paced {z s : State} {m : Fin 16} (h : Paced z s) : Paced z (State.cutEnd s m) := by
  unfold State.cutEnd
  try extract_lets
  repeat' (first | with_reducible assumption | with_reducible refine Paced.ite ?_ ?_ | with_reducible refine State.cbcLatch_paced ?_
                 | with_reducible refine Paced.updShr ?_ | with_reducible refine Paced.foldl ?_ ?_ | intro _ _ | intro _ | extract_lets | split
                 | dsimp only)

theorem State.caseFlags_paced {z s : State} {m : Fin 16} {l : List CaseFlag} (h : Paced z s) : Paced z (State.caseFlags s m l) := by
  unfold State.caseFlags
  extract_lets s1 s2
  have h_s1 : Paced z s1 := by
    repeat' (first | with_reducible assumption | with_reducible refine Paced.ite ?_ ?_ | with_reducible refine Paced.when ?_ ?_
                   | with_reducible refine Paced.setFld ?_ | with_reducible refine Paced.foldl ?_ ?_ | intro _ _ | intro _ | extract_lets | split
                   | dsimp only)
  clear_value s1
  have h_s2 : Paced z s2 := by
    repeat' (first | with_reducible assumption | with_reducible refine Paced.ite ?_ ?_ | with_reducible refine Paced.when ?_ ?_
                   | with_reducible refine Paced.setFld ?_ | with_reducible refine Paced.foldl ?_ ?_ | intro _ _ | intro _ | extract_lets | split
                   | dsimp only)
  clear_value s2
  repeat' (first | with_reducible assumption | with_reducible refine Paced.ite ?_ ?_ | with_reducible refine Paced.when ?_ ?_
                 | with_reducible refine Paced.setFld ?_ | with_reducible refine Paced.foldl ?_ ?_ | intro _ _ | intro _ | extract_lets | split
                 | dsimp only)

theorem State.planPeriod_paced {z s : State} {m : Fin 16} {b : Nat} {tLen : Nat} {inl : Bool} {ch : Option (ℤ × ℤ)} (h : Paced z s) : Paced z
  (State.planPeriod s m b tLen inl ch).1 := by
  unfold State.planPeriod
  try extract_lets
  repeat' (first | with_reducible assumption | with_reducible refine Paced.ite ?_ ?_ | with_reducible refine State.caseFlags_paced ?_
                 | refine Paced.updPwm ?_ (fun _ => ⟨rfl, rfl, rfl, rfl, rfl, rfl⟩) | with_reducible refine Paced.foldl ?_ ?_ | intro _ _ | intro _
                 | extract_lets | split | dsimp only)

theorem State.polarityCmp_paced {z s : State} {m : Fin 16} {b : Nat} {tLen : Nat} (h : Paced z s) :
    Paced z (State.polarityCmp s m b tLen) := by
  unfold State.polarityCmp
  try extract_lets
  repeat' (first | with_reducible assumption | with_reducible refine Paced.ite ?_ ?_
                 | refine Paced.updPwm ?_ (fun _ => ⟨rfl, rfl, rfl, rfl, rfl, rfl⟩) | with_reducible refine Paced.updCom ?_
                 | with_reducible refine Paced.when ?_ ?_ | with_reducible refine State.comFlag_paced ?_ | with_reducible refine Paced.foldl ?_ ?_
                 | intro _ _ | intro _ | extract_lets | split | extract_lets | dsimp only)

end Sys2Proof.Machine
end

