-- ==== Sys2Proof/Laws/Command.lean ====
section
/-! SUPPORT. Laws/Command.lean: the common shapes of a row's effect: an event of the machine or of one mast, and a write of a command register. -/

namespace Sys2Proof.Machine

variable {s t z : State} {m : Fin 16} {dt : Nat} {w : Word} {p : State → Prop}

/-! ### Events -/

/-- An event row whose condition holds, and a property that the end of the command leaves. -/
theorem event_gives {due : State → Bool} {act : State → State} (e : s = z.elapse dt) (h : due s = true)
    (hp : ∀ t, (act s).Stores t → p t) : ∃ t, event dt due act z = .next t ∧ p t := by
  obtain ⟨t, h1, h2⟩ := event_due (act := act) e h
  exact ⟨t, h1, hp t h2⟩

/-- The same of a row without a condition. -/
theorem done_gives (hp : ∀ t, s.Stores t → p t) : ∃ t, done s = .next t ∧ p t := by
  obtain ⟨t, h1, h2⟩ := done_stores s
  exact ⟨t, h1, hp t h2⟩

/-- The same of a row of mast m. -/
theorem event_mastRow {i : Instr} (due : State → Bool) (act : State → State) {p : Mast → Prop} (e : s = z.elapse dt)
    (hd : due s = true) (ha : ∀ z s, OnlyMast m z s → OnlyMast m z (act s))
    (hp : p ((act s).mast m)) (he : exec i z = event dt due act z) : ∃ t, exec i z = .next t ∧ OnlyMast m s t ∧ p (t.mast m) := by
  obtain ⟨t, h1, h2⟩ := event_due (act := act) e hd
  exact ⟨t, he.trans h1, event_only e ha h1, by rw [h2.mast]; exact hp⟩

/-! ### Updates of a mast's unit, read back -/

theorem State.when_reads {c : Bool} {f : State → State} {α : Type} (g : State → α) (h : ∀ s, g (f s) = g s) : g (s.when c f) = g s := by
  unfold State.when
  split
  · exact h s
  · rfl
theorem State.setFld_mast {f : Fld} {i v : Nat} : (s.setFld f i v).mast m = s.mast m := rfl
theorem State.raise_mast {src detail : Nat} {q : Option Nat} {k : Bool} : (s.raise src detail q k).mast m = s.mast m := by
  unfold State.raise
  split <;> rfl
theorem State.raiseM_mast {n : Fin 16} {src detail : Nat} {k : Bool} : (s.raiseM n src detail k).mast m = s.mast m := State.raise_mast

/-! ### Writes of a command register -/

/-- Register `a` exists, and none of its fields needs a role above `n`. -/
def rowRole (a n : Nat) : Bool := match regRow a with | some r => decide (topRole FieldRow.written r.fields ≤ n) | none => false

theorem rowRole_row {a n : Nat} (h : rowRole a n = true) : ∃ row, regRow a = some row ∧ topRole FieldRow.written row.fields ≤ n := by
  unfold rowRole at h
  split at h
  · rename_i r e
    exact ⟨r, e, of_decide_eq_true h⟩
  · cases h

/-- A command register of mast m. -/
theorem mast_command {a n : Nat} {eff : State → State} (e : s = (z.elapse dt).asked) (h : s.TakesWrites n) (hm : s.hasMast m = true)
    (ha : a / 256 = 16) (hc : calWritten a = false) (hr : rowRole a n = true)
    (hn : ∀ (q : State) row, q.writeNeed a m row w = plainRole row (q.regVal a m row) w)
    (he : ∀ q : State, q.special a m w = some (eff q)) (hh : ∀ q : State, (eff q).host.fifo = q.host.fifo) :
    ∃ y t p, hostWr dt (mastAddr a m) w z = .next t ∧ s.Called y a ∧ State.Stores ((eff y).withHost p) t := by
  obtain ⟨row, hr, hn2⟩ := rowRole_row hr
  refine host_special (row := row) (i := m.val) e h (by unfold mastAddr; have := m.isLt; omega) hc (State.place_mast ha hm hr)
    (by intro e; subst e; exact absurd ha (by decide)) (fun q _ => ?_) he hh
  rw [hn]
  exact plainRole_le.trans hn2

/-- A command register of the device. -/
theorem dev_command {a n : Nat} {eff : State → State} (e : s = (z.elapse dt).asked) (h : s.TakesWrites n) (ha : a / 256 < 16)
    (h5 : a / 256 ≠ 5) (hs : a ≠ R.SIG_DATA) (hx : a ≠ R.SNS_CFG) (hc : calWritten a = false)
    (hr : rowRole a n = true) (hab : s.regAbsent a (s.regIdx a) = false)
    (hn : ∀ (q : State) row, q.writeNeed a (s.regIdx a) row w = plainRole row (q.regVal a (s.regIdx a) row) w)
    (he : ∀ q : State, q.special a (s.regIdx a) w = some (eff q)) (hh : ∀ q : State, (eff q).host.fifo = q.host.fifo) :
    ∃ y t p, hostWr dt a w z = .next t ∧ s.Called y a ∧ State.Stores ((eff y).withHost p) t := by
  obtain ⟨row, hr, hn2⟩ := rowRole_row hr
  have hp := State.place_dev ha h5 hr hab
  rw [rowAt_plain hx] at hp
  refine host_special (row := row) (i := s.regIdx a) e h (by omega) hc hp hs (fun q _ => ?_) he hh
  rw [hn]
  exact plainRole_le.trans hn2

/-- A command register of the ring. -/
theorem ring_command {a n : Nat} {eff : State → State} (e : s = (z.elapse dt).asked) (h : s.TakesWrites n) (h5 : a / 256 = 5)
    (hv : s.variant.ring = true) (hc : calWritten a = false)
    (hr : rowRole a n = true) (hab : s.regAbsent a (s.regIdx a) = false)
    (hn : ∀ (q : State) row, q.writeNeed a (s.regIdx a) row w = plainRole row (q.regVal a (s.regIdx a) row) w)
    (he : ∀ q : State, q.special a (s.regIdx a) w = some (eff q)) (hh : ∀ q : State, (eff q).host.fifo = q.host.fifo) :
    ∃ y t p, hostWr dt a w z = .next t ∧ s.Called y a ∧ State.Stores ((eff y).withHost p) t := by
  obtain ⟨row, hr, hn2⟩ := rowRole_row hr
  refine host_special (row := row) (i := s.regIdx a) e h (by omega) hc (State.place_ring h5 hv hr hab)
    (by intro e; subst e; exact absurd h5 (by decide)) (fun q _ => ?_) he hh
  rw [hn]
  exact plainRole_le.trans hn2

end Sys2Proof.Machine
end

