-- ==== Sys2Proof/Laws/Engine.lean ====
section
/-! SUPPORT. Laws/Engine.lean: what the issue of an instruction does to its context and to the rest of the machine. -/

namespace Sys2Proof.Machine

variable {s t : State} {c d : Fin 64} {w l : Word}

/-! ### Registers of a context -/

theorem Ctx.reg_set_same {x : Ctx} {r : Nat} {v : Word} (h : r < 16) :
    ({ x with v := x.v.setIfInBounds r v } : Ctx).reg r = v := by
  unfold Ctx.reg
  simp [Array.getD, h]

theorem Ctx.reg_set_other {x : Ctx} {r k : Nat} {v : Word} (h : k ≠ r) :
    ({ x with v := x.v.setIfInBounds r v } : Ctx).reg k = x.reg k := by
  unfold Ctx.reg
  simp only [Array.getD_eq_getD_getElem?, Vector.toArray_setIfInBounds, Array.getElem?_setIfInBounds_ne h.symm]

theorem iD_lt : iD w < 16 := by
  unfold iD bitsOf
  have := w.isLt
  simp [Nat.shiftRight_eq_div_pow]
  omega

/-- Registers are read through `view`. -/
theorem Ctx.reg_of_view {x y : Ctx} (h : y.view = x.view) (k : Nat) : y.reg k = x.reg k := by
  have e : y.v = x.v := congrArg Prod.fst h
  unfold Ctx.reg
  rw [e]

theorem State.updL_ctx {n : Fin 4} {f : Lane → Lane} : (s.updL n f).ctx d = s.ctx d := rfl

theorem State.updC_congr {f g : Ctx → Ctx} (h : f (s.ctx c) = g (s.ctx c)) : s.updC c f = s.updC c g := by
  unfold State.updC
  unfold State.ctx at h
  rw [h]

theorem State.updC_self {f : Ctx → Ctx} (h : f (s.ctx c) = s.ctx c) : s.updC c f = s := by
  have e : s.eng.ctxs.set c s.eng.ctxs[c] = s.eng.ctxs := by
    apply Vector.ext
    intro i hi
    rw [Vector.getElem_set]
    split
    · rename_i h; subst h; rfl
    · rfl
  unfold State.updC
  unfold State.ctx at h
  rw [h, e]

/-! ### What issue and its end do to the program's view -/

theorem State.offLane_view : ((s.offLane c).ctx d).view = (s.ctx d).view := by
  unfold State.offLane
  split
  · rfl
  · by_cases h : d = c
    · subst h; rw [State.updC_same]; rfl
    · rw [State.updC_other h]; rfl

theorem State.ctxHalts_view : ((s.ctxHalts c).ctx d).view = (s.ctx d).view := by
  unfold State.ctxHalts
  by_cases h : d = c
  · subst h; rw [State.updC_same]; exact State.offLane_view
  · rw [State.updC_other h]; exact State.offLane_view

theorem State.haltNow_view : ((s.haltNow c id).ctx d).view = (s.ctx d).view := by
  unfold State.haltNow
  split
  · exact State.ctxHalts_view
  · change ((s.updC c fun x => { x with haltReq := false }).ctx d).view = _
    by_cases h : d = c
    · subst h; rw [State.updC_same]; rfl
    · rw [State.updC_other h]

theorem State.stepHalt_view : ((s.stepHalt c).ctx d).view = (s.ctx d).view := by
  unfold State.stepHalt
  split
  · exact State.haltNow_view
  · rfl

theorem State.Stores.view (h : s.Stores t) (c : Fin 64) : (t.ctx c).view = (s.ctx c).view := by rw [h.ctx]

theorem State.touch_eng {b p : Nat} : (s.touch b p).eng = s.eng := by
  unfold State.touch
  split
  · rfl
  · split <;> rfl

theorem State.touch_ctx {b p : Nat} : (s.touch b p).ctx d = s.ctx d := by
  unfold State.ctx
  rw [State.touch_eng]

theorem State.touch_now {b p : Nat} : (s.touch b p).now = s.now := by
  unfold State.touch
  split
  · rfl
  · split <;> rfl

theorem State.occupy_other {n : Nat} (h : d ≠ c) : (s.occupy c n).ctx d = s.ctx d := by
  unfold State.occupy
  dsimp only
  split
  · exact Eq.trans State.updL_ctx (State.updC_other h)
  · exact State.updC_other h

theorem State.occupy_ctx {n : Nat} : (s.occupy c n).ctx c = { s.ctx c with nextAt := s.now + 64 * n } := by
  unfold State.occupy
  dsimp only
  split
  · exact Eq.trans State.updL_ctx State.updC_same
  · exact State.updC_same

theorem State.countIssue_other {n : Nat} (h : d ≠ c) : (s.countIssue c n).ctx d = s.ctx d := by
  unfold State.countIssue
  dsimp only
  split
  · exact Eq.trans State.updL_ctx ((State.occupy_other h).trans (State.updC_other h))
  · exact (State.occupy_other h).trans (State.updC_other h)

theorem State.countIssue_ctx {n : Nat} : (s.countIssue c n).ctx c =
    { s.ctx c with pc := (s.ctx c).pc + n, issues := (s.ctx c).issues + 1, qIss := (s.ctx c).qIss + 1, nextAt := s.now + 64 * n,
                   bkSkip := [], haltReq := (s.ctx c).haltReq || (s.ctx c).stepping, stepping := false } := by
  unfold State.countIssue
  dsimp only
  split
  · refine Eq.trans State.updL_ctx ?_
    rw [State.occupy_ctx, State.updC_same]
    rfl
  · rw [State.occupy_ctx, State.updC_same]
    rfl

/-! ### The issue law -/

/-- The state an instruction's effect starts from: the buffers that served are the latest, the issue is counted (R231, R524). -/
def State.issued (s : State) (c : Fin 64) (w : Word) : State :=
  (s.touched w (s.ctx c).bank (s.ctx c).pc).countIssue c (wordsOf w)

@[simp] theorem State.touched_ctx {bank pc : Nat} : (s.touched w bank pc).ctx d = s.ctx d := by
  unfold State.touched State.when
  split
  · rw [State.touch_ctx, State.touch_ctx]
  · rw [State.touch_ctx]

@[simp] theorem State.touched_now {bank pc : Nat} : (s.touched w bank pc).now = s.now := by
  unfold State.touched State.when
  split
  · rw [State.touch_now, State.touch_now]
  · rw [State.touch_now]

theorem State.issued_ctx : (s.issued c w).ctx c =
    { s.ctx c with pc := (s.ctx c).pc + wordsOf w, issues := (s.ctx c).issues + 1, qIss := (s.ctx c).qIss + 1,
                   nextAt := s.now + 64 * wordsOf w,
                   bkSkip := [], haltReq := (s.ctx c).haltReq || (s.ctx c).stepping, stepping := false } := by
  unfold State.issued
  rw [State.countIssue_ctx, State.touched_ctx, State.touched_now]

theorem State.issued_reg {k : Nat} : ((s.issued c w).ctx c).reg k = (s.ctx c).reg k := by rw [State.issued_ctx]; rfl

theorem State.issued_fl : ((s.issued c w).ctx c).fl = (s.ctx c).fl := by rw [State.issued_ctx]

theorem State.issued_other (h : d ≠ c) : (s.issued c w).ctx d = s.ctx d := by
  unfold State.issued
  rw [State.countIssue_other h, State.touched_ctx]

/-- An instruction that a context issues has its effect on the state with the issue counted. -/
theorem State.issue_performs {row : Word → Bool} {body : State → Word → Word → State} (h : s.Issues c w l) (hr : row w = true) :
    s.issue c row body = (body (s.issued c w) w l).stepHalt c := by
  unfold State.issue
  simp only [h.can, h.stays, h.word, hr, h.legal, h.open_, h.second, State.when, State.await, State.touched_now, h.ready, State.perform, State.issued,
    Bool.not_true, Bool.or_false, Bool.false_eq_true, if_false, if_true, Bool.false_and]

theorem instr_issues {z : State} {dt op : Nat} {body : State → Word → Word → State} (e : s = z.elapse dt) (h : s.Issues c w l) (ho : iOp w = op) :
    instr dt c op body z = .next ((body (s.issued c w) w l).stepHalt c).finish := by
  subst e
  unfold instr done
  rw [State.issue_performs h (decide_eq_true ho)]

/-- What the program sees after the instruction is what its effect left. -/
theorem State.after_view : (((s.stepHalt c).finish).ctx d).view = (s.ctx d).view := by
  rw [(s.stepHalt c).finish_stores.view, State.stepHalt_view]

/-! ### Results -/

theorem Ctx.rdyAt_of_view {x y : Ctx} (h : y.view = x.view) (k : Nat) : y.rdyAt k = x.rdyAt k := by
  have e : y.rdy = x.rdy := congrArg (fun p => p.2.2.2) h
  unfold Ctx.rdyAt
  rw [e]

theorem Ctx.wrote_of_view {x y z : Ctx} {k u n : Nat} {r : Word} {f : Flags} (h : z.view = y.view) (hw : Ctx.wrote x y k r u f n) :
    Ctx.wrote x z k r u f n := by
  obtain ⟨h1, h0, h2, h3, h4⟩ := hw
  refine ⟨?_, ?_, fun j hj hk => ?_, ?_, ?_⟩
  · rw [Ctx.reg_of_view h]; exact h1
  · rw [Ctx.rdyAt_of_view h]; exact h0
  · rw [Ctx.reg_of_view h]; exact h2 j hj hk
  · have e := congrArg (fun p => p.2.1) h; exact Eq.trans e h3
  · have e := congrArg (fun p => p.2.2.1) h; exact Eq.trans e h4

theorem Ctx.went_of_view {x y z : Ctx} {p : Nat} {f : Flags} (h : z.view = y.view) (hw : Ctx.went x y f p) : Ctx.went x z f p := by
  obtain ⟨h1, h2, h3⟩ := hw
  refine ⟨?_, ?_, ?_⟩
  · have e := congrArg Prod.fst h; exact Eq.trans e h1
  · have e := congrArg (fun p => p.2.1) h; exact Eq.trans e h2
  · have e := congrArg (fun p => p.2.2.1) h; exact Eq.trans e h3

theorem State.setReg_ctx {k n : Nat} {r : Word} : (s.setReg c k r n).ctx c =
    { s.ctx c with v := (s.ctx c).v.setIfInBounds k r, rdy := (s.ctx c).rdy.setIfInBounds k (s.now + 64 * n) } := State.updC_same

theorem State.setFl_ctx {n : Nat} {f : Flags → Flags} : (s.setFl c n f).ctx c =
    { s.ctx c with fl := f (s.ctx c).fl, flRdy := max (s.ctx c).flRdy (s.now + 64 * n) } := State.updC_same

theorem State.occupy_now {n : Nat} : (s.occupy c n).now = s.now := by
  unfold State.occupy
  dsimp only
  split <;> rfl

theorem State.issued_now : (s.issued c w).now = s.now := by
  unfold State.issued State.countIssue
  dsimp only
  split
  · exact State.occupy_now.trans State.touched_now
  · exact State.occupy_now.trans State.touched_now

theorem Ctx.rdyAt_set {x : Ctx} {r u : Nat} {v : Vector Word 16} (h : r < 16) :
    ({ x with v := v, rdy := x.rdy.setIfInBounds r u } : Ctx).rdyAt r = u := by
  unfold Ctx.rdyAt
  simp [Array.getD, h]

/-- Register k of context c takes a value: what the program sees. -/
theorem State.setReg_wrote {k n : Nat} {r : Word} (hk : k < 16) :
    Ctx.wrote (s.ctx c) (((s.issued c w).setReg c k r n).ctx c) k r (s.now + 64 * n) (s.ctx c).fl (wordsOf w) := by
  rw [State.setReg_ctx, State.issued_ctx, State.issued_now]
  refine ⟨Ctx.reg_set_same hk, Ctx.rdyAt_set hk, fun j _ hj => Ctx.reg_set_other hj, rfl, rfl⟩

/-! ### The frame -/

theorem State.updC_besides {f : Ctx → Ctx} : (s.updC c f).besides c = s.besides c := by
  have e : (s.eng.ctxs.set c (f s.eng.ctxs[c])).set c {} = s.eng.ctxs.set c {} := by
    apply Vector.ext
    intro i hi
    simp only [Vector.getElem_set]
    split <;> rfl
  show ({ s.unstored with eng.ctxs := (s.eng.ctxs.set c (f s.eng.ctxs[c])).set c {}, eng.lanes := Vector.replicate 4 {}, mem.bufs := [] } : State) = _
  rw [e]
  rfl

theorem State.updL_besides {n : Fin 4} {f : Lane → Lane} : (s.updL n f).besides c = s.besides c := rfl

theorem State.touch_besides {b p : Nat} : (s.touch b p).besides c = s.besides c := by
  unfold State.touch
  split
  · rfl
  · split <;> rfl

theorem State.touch_rest {b p : Nat} : (s.touch b p).fc = s.fc ∧ (s.touch b p).regs = s.regs ∧ (s.touch b p).variant = s.variant := by
  unfold State.touch
  split
  · exact ⟨rfl, rfl, rfl⟩
  · split <;> exact ⟨rfl, rfl, rfl⟩

theorem State.touched_besides {b p : Nat} : (s.touched w b p).besides c = s.besides c := by
  unfold State.touched State.when
  split
  · rw [State.touch_besides, State.touch_besides]
  · rw [State.touch_besides]

theorem State.touched_rest {b p : Nat} : (s.touched w b p).fc = s.fc ∧ (s.touched w b p).regs = s.regs ∧ (s.touched w b p).variant = s.variant := by
  unfold State.touched State.when
  have k := State.touch_rest (s := s) (b := b) (p := p)
  split
  · have k2 := State.touch_rest (s := s.touch b p) (b := b) (p := p + 1)
    exact ⟨k2.1.trans k.1, k2.2.1.trans k.2.1, k2.2.2.trans k.2.2⟩
  · exact k

theorem State.occupy_besides {n : Nat} : (s.occupy c n).besides c = s.besides c := by
  unfold State.occupy
  dsimp only
  split
  · rw [State.updL_besides, State.updC_besides]
  · rw [State.updC_besides]

theorem State.occupy_rest {n : Nat} : (s.occupy c n).fc = s.fc ∧ (s.occupy c n).regs = s.regs ∧ (s.occupy c n).variant = s.variant := by
  unfold State.occupy
  dsimp only
  split <;> exact ⟨rfl, rfl, rfl⟩

theorem State.issued_besides : (s.issued c w).besides c = s.besides c := by
  unfold State.issued State.countIssue
  dsimp only
  split
  · rw [State.updL_besides, State.occupy_besides, State.updC_besides, State.touched_besides]
  · rw [State.occupy_besides, State.updC_besides, State.touched_besides]

theorem State.issued_rest : (s.issued c w).fc = s.fc ∧ (s.issued c w).regs = s.regs ∧ (s.issued c w).variant = s.variant := by
  have k := State.touched_rest (s := s) (w := w) (b := (s.ctx c).bank) (p := (s.ctx c).pc)
  unfold State.issued State.countIssue
  dsimp only
  split
  · exact ⟨State.occupy_rest.1.trans k.1, State.occupy_rest.2.1.trans k.2.1, State.occupy_rest.2.2.trans k.2.2⟩
  · exact ⟨State.occupy_rest.1.trans k.1, State.occupy_rest.2.1.trans k.2.1, State.occupy_rest.2.2.trans k.2.2⟩

theorem State.offLane_besides : (s.offLane c).besides c = s.besides c := by
  unfold State.offLane
  split
  · rfl
  · rw [State.updC_besides, State.updL_besides]

theorem State.offLane_rest : (s.offLane c).fc = s.fc ∧ (s.offLane c).regs = s.regs ∧ (s.offLane c).variant = s.variant := by
  unfold State.offLane
  split <;> exact ⟨rfl, rfl, rfl⟩

theorem State.ctxHalts_besides : (s.ctxHalts c).besides c = s.besides c := by
  unfold State.ctxHalts
  rw [State.updC_besides, State.offLane_besides]

theorem State.haltNow_besides : (s.haltNow c id).besides c = s.besides c := by
  unfold State.haltNow
  split
  · exact State.ctxHalts_besides
  · change (s.updC c fun x => { x with haltReq := false }).besides c = _
    exact State.updC_besides

theorem State.stepHalt_besides : (s.stepHalt c).besides c = s.besides c := by
  unfold State.stepHalt
  split
  · exact State.haltNow_besides
  · rfl

theorem State.stepHalt_variant : (s.stepHalt c).variant = s.variant := by
  unfold State.stepHalt State.haltNow State.ctxHalts
  split
  · split
    · exact State.offLane_rest.2.2
    · rfl
  · rfl

/-- The end of a stepped instruction writes at most ENG_STAT (R277). -/
theorem State.stepHalt_rd {key : Nat} (h : key = R.ENG_STAT → s.mayHalt c = true) : (s.stepHalt c).rd key = s.rd key := by
  unfold State.stepHalt
  split
  · unfold State.haltNow
    split
    · unfold State.ctxHalts State.rd
      rw [State.updC_regs, State.updC_variant, State.offLane_rest.2.1, State.offLane_rest.2.2]
    · rename_i hm
      have hk : key ≠ keyI F.ENG_STAT_CFG_ERR.addr 0 := fun e => hm (h e)
      exact State.rd_setFld_other hk
  · rfl

theorem State.besides_of_unstored (h : t.unstored = s.unstored) : t.besides c = s.besides c := by
  unfold State.besides
  rw [h]

theorem State.mayHalt_congr {z : State} (hb : s.besides c = z.besides c) (hr : s.regs = z.regs) (hv : s.variant = z.variant) :
    s.mayHalt d = z.mayHalt d := by
  have e1 : s.masts = z.masts := by have e := congrArg State.masts hb; exact e
  have e2 : s.deferred = z.deferred := by have e := congrArg State.deferred hb; exact e
  unfold State.mayHalt State.loopLive State.mastList State.hasMast State.outputsOn State.mast State.efld State.flag State.fld State.rd
  rw [e1, e2, hr, hv]

/-- What the instruction's effect leaves alone, its end leaves alone. -/
theorem State.after_only {z : State} (hb : s.besides c = z.besides c) (hr : s.regs = z.regs) (hv : s.variant = z.variant) :
    State.onlyCtx z (s.stepHalt c).finish c := by
  have h := (s.stepHalt c).finish_stores
  refine ⟨?_, fun key hk hm => ?_⟩
  · rw [State.besides_of_unstored h.rest, State.stepHalt_besides, hb]
  · rw [h.regs key hk, State.stepHalt_rd fun e => (State.mayHalt_congr hb hr hv).trans (hm e)]
    unfold State.rd
    rw [hr, hv]

/-- An instruction that writes vd and the flags. -/
theorem instr_result {z : State} {dt op lat : Nat} {body : State → Word → Word → State} {r : Word} {f : Flags → Flags}
    (e : s = z.elapse dt) (h : s.Issues c w l) (ho : iOp w = op)
    (hb : body (s.issued c w) w l = (s.issued c w).result c w lat r f) :
    ∃ t, instr dt c op body z = .next t ∧ Ctx.wrote (s.ctx c) (t.ctx c) (iD w) r (s.now + 64 * lat) (f (s.ctx c).fl) (wordsOf w) ∧
      State.onlyCtx s t c := by
  refine ⟨_, instr_issues e h ho, ?_, ?_⟩
  · rw [hb]
    refine Ctx.wrote_of_view State.after_view ?_
    unfold State.result
    rw [State.setFl_ctx]
    obtain ⟨h1, h2, h3, h4, h5⟩ := State.setReg_wrote (c := c) (w := w) (n := lat) (r := r) (k := iD w) iD_lt
    exact ⟨h1, h2, h3, congrArg f h4, h5⟩
  · rw [hb]
    unfold State.result State.setFl State.setReg
    refine State.after_only ?_ ?_ ?_
    · rw [State.updC_besides, State.updC_besides, State.issued_besides]
    · rw [State.updC_regs, State.updC_regs, State.issued_rest.2.1]
    · rw [State.updC_variant, State.updC_variant, State.issued_rest.2.2]

/-- An instruction that writes vd and leaves the flags. -/
theorem instr_move {z : State} {dt op lat : Nat} {body : State → Word → Word → State} {r : Word}
    (e : s = z.elapse dt) (h : s.Issues c w l) (ho : iOp w = op)
    (hb : body (s.issued c w) w l = (s.issued c w).setReg c (iD w) r lat) :
    ∃ t, instr dt c op body z = .next t ∧ Ctx.wrote (s.ctx c) (t.ctx c) (iD w) r (s.now + 64 * lat) (s.ctx c).fl (wordsOf w) ∧
      State.onlyCtx s t c := by
  refine ⟨_, instr_issues e h ho, ?_, ?_⟩
  · rw [hb]
    exact Ctx.wrote_of_view State.after_view (State.setReg_wrote iD_lt)
  · rw [hb]
    unfold State.setReg
    refine State.after_only ?_ ?_ ?_
    · rw [State.updC_besides, State.issued_besides]
    · rw [State.updC_regs, State.issued_rest.2.1]
    · rw [State.updC_variant, State.issued_rest.2.2]

/-- An instruction that changes of its context at most the flags and pc, by an operation on the context alone. -/
theorem issue_goes {z : State} {dt : Nat} {row : Word → Bool} {body : State → Word → Word → State} {f : Flags → Flags} {g : Ctx → Ctx} {p : Nat}
    (e : s = z.elapse dt) (h : s.Issues c w l) (ho : row w = true)
    (hb : body (s.issued c w) w l = (s.issued c w).updC c g)
    (hg : Ctx.went (s.ctx c) (g ((s.issued c w).ctx c)) (f (s.ctx c).fl) p) :
    ∃ t, done ((z.elapse dt).issue c row body) = .next t ∧ Ctx.went (s.ctx c) (t.ctx c) (f (s.ctx c).fl) p ∧
      State.onlyCtx s t c := by
  rw [← e]
  refine ⟨_, by unfold done; rw [State.issue_performs h ho], ?_, ?_⟩
  · rw [hb]
    refine Ctx.went_of_view State.after_view ?_
    rw [State.updC_same]
    exact hg
  · rw [hb]
    refine State.after_only ?_ ?_ ?_
    · rw [State.updC_besides, State.issued_besides]
    · rw [State.updC_regs, State.issued_rest.2.1]
    · rw [State.updC_variant, State.issued_rest.2.2]

/-- An instruction that writes the flags only. -/
theorem instr_flags {z : State} {dt op lat : Nat} {body : State → Word → Word → State} {f : Flags → Flags}
    (e : s = z.elapse dt) (h : s.Issues c w l) (ho : iOp w = op)
    (hb : body (s.issued c w) w l = (s.issued c w).setFl c lat f) :
    ∃ t, instr dt c op body z = .next t ∧ Ctx.went (s.ctx c) (t.ctx c) (f (s.ctx c).fl) ((s.ctx c).pc + wordsOf w) ∧
      State.onlyCtx s t c := by
  refine issue_goes e h (decide_eq_true ho) hb ?_
  rw [State.issued_ctx]
  exact ⟨rfl, rfl, rfl⟩

end Sys2Proof.Machine
end

