-- ==== Sys2Proof/Laws/Keeps.lean ====
section
/-! SUPPORT. Laws/Keeps.lean: what no operation of the machine touches: the queue, the variant, and the canonical form of its memories. -/

namespace Sys2Proof.Machine

/-- From `s` to `t` the queue and the variant stay, time does not run back, and the memories stay canonical. -/
structure Keeps (s t : State) : Prop where
  pending : t.pending = s.pending
  now : s.now ≤ t.now
  variant : t.variant = s.variant
  canonical : s.canonical → t.canonical

theorem Keeps.refl (s : State) : Keeps s s := ⟨rfl, le_refl _, rfl, id⟩

/-- A record update of parts without a memory. -/
theorem Keeps.upd {a t : State} {deferred' masts' bgs' furl' fc' ring' hk' tb' srv' cal' gpio' host' mem' role' clk' tap' cyc' was'} (h : Keeps a t) :
    Keeps a { pending := t.pending, now := t.now, variant := t.variant, regs := t.regs, deferred := deferred', sigs := t.sigs, masts := masts', bgs := bgs', furl := furl', fc := fc', eng := t.eng, ring := ring', hk := hk', tb := tb', srv := srv', cal := cal', gpio := gpio', host := host', mem := mem', role := role', store := t.store, clk := clk', tap := tap', cyc := cyc', was := was' } :=
  ⟨h.1, h.2, h.3, h.4⟩

/-- The same with parts of the engine that are no memory. -/
theorem Keeps.updE {a t : State} {deferred' masts' bgs' furl' fc' ring' hk' tb' srv' cal' gpio' host' mem' role' clk' tap' cyc' was' ectxs elanes epreset eseen etmr etrcRun etrcFull etrcTrig etrcCount etinjN etinjReg ewbuf eroundAt} (h : Keeps a t) :
    Keeps a { pending := t.pending, now := t.now, variant := t.variant, regs := t.regs, deferred := deferred', sigs := t.sigs, masts := masts', bgs := bgs', furl := furl', fc := fc', eng := { ctxs := ectxs, lanes := elanes, prog := t.eng.prog, tab := t.eng.tab, cells := t.eng.cells, preset := epreset, seen := eseen, lastIn := t.eng.lastIn, tmr := etmr, trcRun := etrcRun, trcFull := etrcFull, trcTrig := etrcTrig, trcCount := etrcCount, tinjN := etinjN, tinjReg := etinjReg, wbuf := ewbuf, roundAt := eroundAt }, ring := ring', hk := hk', tb := tb', srv := srv', cal := cal', gpio := gpio', host := host', mem := mem', role := role', store := t.store, clk := clk', tap := tap', cyc := cyc', was := was' } :=
  ⟨h.1, h.2, h.3, h.4⟩

theorem Keeps.ite {a s t : State} {c : Prop} [Decidable c] (h1 : Keeps a s) (h2 : Keeps a t) : Keeps a (if c then s else t) := by
  split <;> assumption

theorem Keeps.iteP {α : Type} {a : State} {c : Prop} [Decidable c] {x y : α} (p : α → State) (h1 : Keeps a (p x)) (h2 : Keeps a (p y)) :
    Keeps a (p (if c then x else y)) := by
  split <;> assumption

theorem Keeps.some {a s : State} (h : Keeps a s) : ∀ t, Option.some s = Option.some t → Keeps a t := by
  intro t e
  cases e
  exact h

theorem Keeps.someIte {a : State} {x y : Option State} {c : Prop} [Decidable c] (h1 : ∀ t, x = Option.some t → Keeps a t)
    (h2 : ∀ t, y = Option.some t → Keeps a t) : ∀ t, (if c then x else y) = Option.some t → Keeps a t := by
  split <;> assumption

theorem Keeps.foldl {a s : State} {α : Type} {l : List α} {f : State → α → State} (h : Keeps a s)
    (hf : ∀ t x, Keeps a t → Keeps a (f t x)) : Keeps a (l.foldl f s) := by
  induction l generalizing s with
  | nil => exact h
  | cons x r ih => exact ih (hf s x h)

theorem State.when_keeps {a s : State} {c : Bool} {f : State → State} (h : Keeps a s) (hf : ∀ t, Keeps a t → Keeps a (f t)) :
    Keeps a (s.when c f) := by
  unfold State.when
  split
  · exact hf s h
  · exact h

theorem State.wr_keeps {a s : State} {k : Nat} {w : Word} (h : Keeps a s) : Keeps a (s.wr k w) :=
  ⟨h.pending, h.now, h.variant, fun c => by
    have k := h.canonical c
    exact ⟨spSet_wf (d := resetWord s.variant) k.1, k.2⟩⟩

/-- The engine's update, its memories canonical after it. -/
theorem State.updEng_keeps {a s : State} {f : Eng → Eng} (h : Keeps a s)
    (hf : ∀ e : Eng, (spWf (fun _ => 0#32) e.prog = true ∧ spWf (fun _ => 0#32) e.tab = true ∧ spWf (fun _ => 0#32) e.cells = true ∧
        spWf (fun _ => 0#32) e.lastIn = true) →
      (spWf (fun _ => 0#32) (f e).prog = true ∧ spWf (fun _ => 0#32) (f e).tab = true ∧ spWf (fun _ => 0#32) (f e).cells = true ∧
        spWf (fun _ => 0#32) (f e).lastIn = true)) : Keeps a (s.updEng f) :=
  ⟨h.pending, h.now, h.variant, fun c => by
    have k := h.canonical c
    have e := hf s.eng ⟨k.2.2.1, k.2.2.2.1, k.2.2.2.2.1, k.2.2.2.2.2.1⟩
    exact ⟨k.1, k.2.1, e.1, e.2.1, e.2.2.1, e.2.2.2, k.2.2.2.2.2.2⟩⟩

/-- The store's update, its memory canonical after it. -/
theorem State.updStore_keeps {a s : State} {f : Store → Store} (h : Keeps a s)
    (hf : ∀ t : Store, spWf (fun _ => stBlank) t.mem = true → spWf (fun _ => stBlank) (f t).mem = true) : Keeps a (s.updStore f) :=
  ⟨h.pending, h.now, h.variant, fun c => by
    have k := h.canonical c
    exact ⟨k.1, k.2.1, k.2.2.1, k.2.2.2.1, k.2.2.2.2.1, k.2.2.2.2.2.1, hf s.store k.2.2.2.2.2.2⟩⟩

end Sys2Proof.Machine
end

