-- ==== Sys2Proof/Laws/KeepsMast.lean ====
section
/-! SUPPORT. Laws/KeepsMast.lean: what the operations of the masts keep: the queue, the variant and the canonical form of the memories. -/

set_option linter.unusedTactic false
set_option linter.unreachableTactic false
set_option linter.unusedVariables false

namespace Sys2Proof.Machine

theorem State.setFld_keeps {z s : State} {f : Fld} {i : Nat} {v : Nat} (h : Keeps z s) :
    Keeps z (State.setFld s f i v) := by
  unfold State.setFld
  try extract_lets
  repeat' (first | with_reducible assumption | with_reducible refine Keeps.ite ?_ ?_ | with_reducible refine State.wr_keeps ?_
                 | with_reducible refine Keeps.upd ?_ | with_reducible refine Keeps.updE ?_ | with_reducible refine Keeps.foldl ?_ ?_ | intro _ _
                 | intro _ | extract_lets | split | extract_lets | dsimp only)

theorem State.bump_keeps {z s : State} {f : Fld} {i : Nat} {n : Nat} (h : Keeps z s) :
    Keeps z (State.bump s f i n) := by
  unfold State.bump
  try extract_lets
  repeat' (first | with_reducible assumption | with_reducible refine Keeps.ite ?_ ?_ | with_reducible refine State.wr_keeps ?_
                 | with_reducible refine Keeps.upd ?_ | with_reducible refine Keeps.updE ?_ | with_reducible refine Keeps.foldl ?_ ?_ | intro _ _
                 | intro _ | extract_lets | split | extract_lets | dsimp only)

theorem State.orFresh_keeps {z s : State} {key : Nat} {w : Word} (h : Keeps z s) : Keeps z (State.orFresh s key w) := by
  unfold State.orFresh
  exact Keeps.upd (State.wr_keeps h)

theorem State.applyDeferred_keeps {z s : State} {m : ℕ} {b : ℕ} (h : Keeps z s) : Keeps z (State.applyDeferred s m b) := by
  unfold State.applyDeferred
  exact Keeps.upd h

theorem State.updM_keeps {z s : State} {m : Fin 16} {f : Mast → Mast} (h : Keeps z s) : Keeps z (State.updM s m f) := by
  unfold State.updM
  exact Keeps.upd h

theorem State.updC_keeps {z s : State} {c : Fin 64} {f : Ctx → Ctx} (h : Keeps z s) : Keeps z (State.updC s c f) := by
  unfold State.updC
  exact Keeps.updE h

theorem State.updL_keeps {z s : State} {n : Fin 4} {f : Lane → Lane} (h : Keeps z s) : Keeps z (State.updL s n f) := by
  unfold State.updL
  exact Keeps.updE h

theorem State.updG_keeps {z s : State} {g : Fin 8} {f : BusGroup → BusGroup} (h : Keeps z s) : Keeps z (State.updG s g f) := by
  unfold State.updG
  exact Keeps.upd h

theorem State.updPwm_keeps {z s : State} {m : Fin 16} {f : Pwm → Pwm} (h : Keeps z s) : Keeps z (State.updPwm s m f) := by
  unfold State.updPwm
  exact State.updM_keeps h

theorem State.updSense_keeps {z s : State} {m : Fin 16} {f : Sense → Sense} (h : Keeps z s) : Keeps z (State.updSense s m f) := by
  unfold State.updSense
  exact State.updM_keeps h

theorem State.updCom_keeps {z s : State} {m : Fin 16} {f : Com → Com} (h : Keeps z s) : Keeps z (State.updCom s m f) := by
  unfold State.updCom
  exact State.updM_keeps h

theorem State.updSeq_keeps {z s : State} {m : Fin 16} {f : Seq → Seq} (h : Keeps z s) : Keeps z (State.updSeq s m f) := by
  unfold State.updSeq
  exact State.updM_keeps h

theorem State.updHal_keeps {z s : State} {m : Fin 16} {f : Hal → Hal} (h : Keeps z s) : Keeps z (State.updHal s m f) := by
  unfold State.updHal
  exact State.updM_keeps h

theorem State.updCmd_keeps {z s : State} {m : Fin 16} {f : CmdPin → CmdPin} (h : Keeps z s) : Keeps z (State.updCmd s m f) := by
  unfold State.updCmd
  exact State.updM_keeps h

theorem State.updShr_keeps {z s : State} {m : Fin 16} {f : Shroud → Shroud} (h : Keeps z s) : Keeps z (State.updShr s m f) := by
  unfold State.updShr
  exact State.updM_keeps h

theorem State.updFc_keeps {z s : State} {f : Fc → Fc} (h : Keeps z s) : Keeps z (State.updFc s f) := by
  unfold State.updFc
  exact Keeps.upd h

theorem State.raise_keeps {z s : State} {src : ℕ} {detail : ℕ} {mast : optParam (Option ℕ) Option.none} {marked : optParam Bool Bool.false} (h : Keeps
  z s) : Keeps z (State.raise s src detail mast marked) := by
  unfold State.raise
  exact Keeps.ite (Keeps.upd h) h

theorem State.raiseM_keeps {z s : State} {m : Fin 16} {k : ℕ} {detail : ℕ} {marked : optParam Bool Bool.false} (h : Keeps z s) : Keeps z (State.raiseM
  s m k detail marked) := by
  unfold State.raiseM
  exact State.raise_keeps h

theorem State.trigger_keeps {z s : State} {cn : ℕ} {kind : ℕ} {a : ℕ} {b : ℕ} (h : Keeps z s) : Keeps z (State.trigger s cn kind a b) := by
  unfold State.trigger
  try extract_lets
  repeat' (first | with_reducible assumption | with_reducible refine Keeps.ite ?_ ?_ | with_reducible refine State.setFld_keeps ?_ | with_reducible
    refine State.updC_keeps ?_ | extract_lets | split | extract_lets | dsimp only)

theorem fireWatches_keeps {z s : State} {id : Nat} {changed : Bool} {l : List (Nat × Bool)} (h : Keeps z s) :
    Keeps z (fireWatches s id changed l) := by
  induction l generalizing s with
  | nil => exact h
  | cons e r ih =>
    unfold fireWatches
    split
    · exact ih (State.trigger_keeps h)
    · exact ih h

theorem State.trcWatch_keeps {z s : State} {id : ℕ} (h : Keeps z s) : Keeps z (State.trcWatch s id) := by
  unfold State.trcWatch
  exact Keeps.ite (Keeps.updE h) h

theorem State.putSig_keeps {z s : State} {id : Nat} {w : Word} (h : Keeps z s) : Keeps z (s.putSig id w) := by
  have h1 : Keeps z { s with sigs := spSet (sigReset id) s.sigs id w } :=
    ⟨h.pending, h.now, h.variant, fun c => by
      have k := h.canonical c
      exact ⟨k.1, spSet_wf (d := sigReset) k.2.1, k.2.2⟩⟩
  exact State.trcWatch_keeps (fireWatches_keeps h1)

theorem State.putM_keeps {z s : State} {m : Fin 16} {o : ℕ} {w : Word} (h : Keeps z s) : Keeps z (State.putM s m o w) := by
  unfold State.putM
  exact State.putSig_keeps h

theorem State.putMs_keeps {z s : State} {m : Fin 16} {l : List (Nat × Word)} (h : Keeps z s) : Keeps z (s.putMs m l) := by
  induction l generalizing s with
  | nil => exact h
  | cons e r ih => exact ih (State.putM_keeps h)

theorem State.commitSet_keeps {z s : State} {m : Fin 16} {set : PwmSet} {tag : Option Nat} {sheet : Option Nat} {at_ : Nat} {rank : Nat} (h : Keeps z s) :
    Keeps z (State.commitSet s m set tag sheet at_ rank) := by
  unfold State.commitSet
  try extract_lets
  repeat' (first | with_reducible assumption | with_reducible refine Keeps.ite ?_ ?_ | with_reducible refine State.updPwm_keeps ?_
                 | with_reducible refine State.when_keeps ?_ ?_ | with_reducible refine State.setFld_keeps ?_
                 | with_reducible refine Keeps.foldl ?_ ?_ | intro _ _ | intro _ | extract_lets | split | extract_lets | dsimp only)

theorem State.reload_keeps {z s : State} {m : Fin 16} {b : ℕ} (h : Keeps z s) : Keeps z (State.reload s m b) := by
  unfold State.reload
  exact State.when_keeps (State.when_keeps (State.updPwm_keeps h) (fun _ => fun h1 => State.setFld_keeps h1)) (fun _ => fun h1 => State.raiseM_keeps
    (State.bump_keeps (State.bump_keeps h1)))

theorem State.gateMark_keeps {z s : State} {m : Fin 16} (h : Keeps z s) :
    Keeps z (State.gateMark s m) := by
  unfold State.gateMark
  try extract_lets
  repeat' (first | with_reducible assumption | with_reducible refine Keeps.ite ?_ ?_ | with_reducible refine State.updPwm_keeps ?_
                 | with_reducible refine Keeps.foldl ?_ ?_ | intro _ _ | intro _ | extract_lets | split | extract_lets | dsimp only)

theorem State.refreshSafe_keeps {z s : State} {m : Fin 16} (h : Keeps z s) :
    Keeps z (State.refreshSafe s m) := by
  unfold State.refreshSafe
  try extract_lets
  repeat' (first | with_reducible assumption | with_reducible refine Keeps.ite ?_ ?_ | with_reducible refine State.gateMark_keeps ?_
                 | with_reducible refine State.updShr_keeps ?_ | with_reducible refine Keeps.foldl ?_ ?_ | intro _ _ | intro _ | extract_lets
                 | split | extract_lets | dsimp only)

theorem State.leaveSafe_keeps {z s : State} {m : Fin 16} (h : Keeps z s) :
    Keeps z (State.leaveSafe s m) := by
  unfold State.leaveSafe
  try extract_lets
  repeat' (first | with_reducible assumption | with_reducible refine Keeps.ite ?_ ?_ | with_reducible refine State.gateMark_keeps ?_
                 | with_reducible refine State.updShr_keeps ?_ | with_reducible refine Keeps.foldl ?_ ?_ | intro _ _ | intro _ | extract_lets
                 | split | extract_lets | dsimp only)

theorem State.setOut_keeps {z s : State} {m : Fin 16} {en : Bool} {low : Bool} (h : Keeps z s) : Keeps z (State.setOut s m en low) := by
  unfold State.setOut
  exact Keeps.ite h (State.updSeq_keeps (State.gateMark_keeps h))

theorem State.setSheet_keeps {z s : State} {m : Fin 16} {mask : ℕ} (h : Keeps z s) : Keeps z (State.setSheet s m mask) := by
  unfold State.setSheet
  exact Keeps.ite h (State.updPwm_keeps (State.gateMark_keeps h))

theorem State.anchorStep_keeps {z s : State} {m : Fin 16} {b : ℕ} (h : Keeps z s) : Keeps z (State.anchorStep s m b).1 := by
  unfold State.anchorStep
  try extract_lets
  repeat' (first | with_reducible assumption | with_reducible refine State.updPwm_keeps ?_ | extract_lets | split | extract_lets | dsimp only)

theorem State.startRun_keeps {z s : State} {m : Fin 16} (h : Keeps z s) :
    Keeps z (State.startRun s m) := by
  unfold State.startRun
  try extract_lets
  repeat' (first | with_reducible assumption | with_reducible refine Keeps.ite ?_ ?_ | with_reducible refine State.updPwm_keeps ?_
                 | with_reducible refine State.when_keeps ?_ ?_ | with_reducible refine State.setFld_keeps ?_
                 | with_reducible refine Keeps.foldl ?_ ?_ | intro _ _ | intro _ | extract_lets | split
                 | (with_reducible refine Keeps.upd ?_; first | with_reducible assumption | with_reducible refine State.updPwm_keeps ?_ | with_reducible refine State.when_keeps ?_ ?_ | with_reducible refine State.setFld_keeps ?_ | with_reducible refine Keeps.ite ?_ ?_ | with_reducible refine Keeps.foldl ?_ ?_ | split)
                 | (with_reducible refine Keeps.updE ?_; first | with_reducible assumption | with_reducible refine State.updPwm_keeps ?_ | with_reducible refine State.when_keeps ?_ ?_ | with_reducible refine State.setFld_keeps ?_ | with_reducible refine Keeps.ite ?_ ?_ | with_reducible refine Keeps.foldl ?_ ?_ | split)
                 | intro _ _ | intro _ | extract_lets | split | extract_lets | dsimp only)

theorem State.startS_keeps {z s : State} {m : Fin 16} {t : ℕ} (h : Keeps z s) : Keeps z (State.startS s m t) := by
  unfold State.startS
  try extract_lets
  repeat' (first | with_reducible assumption | with_reducible refine Keeps.ite ?_ ?_ | with_reducible refine State.updSense_keeps ?_ | with_reducible
    refine State.setFld_keeps ?_ | extract_lets | split | extract_lets | dsimp only)

theorem State.startOfs_keeps {z s : State} {m : Fin 16} {t : ℕ} (h : Keeps z s) : Keeps z (State.startOfs s m t) := by
  unfold State.startOfs
  exact Keeps.ite h (State.updSense_keeps h)

theorem State.startP_keeps {z s : State} {m : Fin 16} {t : ℕ} (h : Keeps z s) : Keeps z (State.startP s m t) := by
  unfold State.startP
  try extract_lets
  repeat' (first | with_reducible assumption | with_reducible refine Keeps.ite ?_ ?_ | with_reducible refine State.setFld_keeps ?_ | with_reducible
    refine State.updSense_keeps ?_ | extract_lets | split | extract_lets | dsimp only)

theorem State.auxtFire_keeps {z s : State} {m : Fin 16} {n : ℕ} (h : Keeps z s) : Keeps z (State.auxtFire s m n) := by
  unfold State.auxtFire
  try extract_lets
  repeat' (first | with_reducible assumption | with_reducible refine Keeps.ite ?_ ?_ | with_reducible refine State.updPwm_keeps ?_ | with_reducible
    refine State.startOfs_keeps ?_ | with_reducible refine State.when_keeps ?_ ?_ | with_reducible refine State.startS_keeps ?_ | with_reducible
    refine State.startP_keeps ?_ | intro _ _ | intro _ | extract_lets | split | extract_lets | dsimp only)

theorem State.ofsLook_keeps {z s : State} {m : Fin 16} (h : Keeps z s) :
    Keeps z (State.ofsLook s m) := by
  unfold State.ofsLook
  try extract_lets
  repeat' (first | with_reducible assumption | with_reducible refine Keeps.ite ?_ ?_ | with_reducible refine State.updSense_keeps ?_
                 | with_reducible refine State.raiseM_keeps ?_ | with_reducible refine Keeps.foldl ?_ ?_ | intro _ _ | intro _ | extract_lets
                 | split | extract_lets | dsimp only)

theorem State.trackOfs_keeps {z s : State} {m : Fin 16} {code : Int} {tc : Nat} (h : Keeps z s) :
    Keeps z (State.trackOfs s m code tc) := by
  unfold State.trackOfs
  try extract_lets
  repeat' (first | with_reducible assumption | with_reducible refine Keeps.ite ?_ ?_ | with_reducible refine State.updSense_keeps ?_
                 | with_reducible refine State.ofsLook_keeps ?_ | with_reducible refine Keeps.foldl ?_ ?_ | intro _ _ | intro _ | extract_lets
                 | split | extract_lets | dsimp only)

theorem State.offsetSample_keeps {z s : State} {m : Fin 16} {code : ℤ} (h : Keeps z s) : Keeps z (State.offsetSample s m code) := by
  unfold State.offsetSample
  exact Keeps.ite h (Keeps.ite (State.when_keeps (State.setFld_keeps (State.updSense_keeps h)) (fun _ => fun h1 => State.raiseM_keeps h1))
    (State.trackOfs_keeps (State.updSense_keeps h)))

theorem State.doneS_keeps {z s : State} {m : Fin 16} {c : ConvS} {raw : ℤ} (h : Keeps z s) : Keeps z (State.doneS s m c raw) := by
  unfold State.doneS
  try extract_lets
  repeat' (first | with_reducible assumption | with_reducible refine Keeps.ite ?_ ?_ | with_reducible refine State.updSense_keeps ?_ | with_reducible
    refine State.offsetSample_keeps ?_ | with_reducible refine State.when_keeps ?_ ?_ | with_reducible refine State.setFld_keeps ?_ | with_reducible
    refine State.trackOfs_keeps ?_ | intro _ _ | intro _ | extract_lets | split | extract_lets | dsimp only)

theorem State.doneP_keeps {z s : State} {m : Fin 16} {c : ConvP} {raw : ℕ} (h : Keeps z s) : Keeps z (State.doneP s m c raw) := by
  unfold State.doneP
  exact State.updSense_keeps h

theorem State.raiseInl_keeps {z s : State} {m : Fin 16} {c : Bool} (h : Keeps z s) : Keeps z (State.raiseInl s m c) := by
  unfold State.raiseInl
  exact State.when_keeps h (fun _ => fun h1 => State.raiseM_keeps h1)

theorem State.raiseSh_keeps {z s : State} {m : Fin 16} {c : Bool} (h : Keeps z s) : Keeps z (State.raiseSh s m c) := by
  unfold State.raiseSh
  exact State.when_keeps h (fun _ => fun h1 => State.raiseM_keeps h1)

theorem State.refCheck_keeps {z s : State} {m : Fin 16} {raw : Option ℕ} (h : Keeps z s) : Keeps z (State.refCheck s m raw) := by
  unfold State.refCheck
  try extract_lets
  repeat' (first | with_reducible assumption | with_reducible refine Keeps.ite ?_ ?_ | with_reducible refine State.updSense_keeps ?_ | with_reducible
    refine State.raiseInl_keeps ?_ | extract_lets | split | extract_lets | dsimp only)

theorem State.inlOffsets_keeps {z s : State} {m : Fin 16} {c : Cap} (h : Keeps z s) : Keeps z (State.inlOffsets s m c) := by
  unfold State.inlOffsets
  try extract_lets
  repeat' (first | with_reducible assumption | with_reducible refine Keeps.ite ?_ ?_ | with_reducible refine State.updSense_keeps ?_ | with_reducible
    refine State.setFld_keeps ?_ | with_reducible refine State.raiseInl_keeps ?_ | extract_lets | split | extract_lets | dsimp only)

theorem State.xchkAdd_keeps {z s : State} {m : Fin 16} {both : Bool} {sh : List Word} {ia : Word} {ib : Word} (h : Keeps z s)  : Keeps z (State.xchkAdd s m both sh ia ib) := by
  unfold State.xchkAdd
  try extract_lets
  repeat' (first | with_reducible assumption | with_reducible refine Keeps.ite ?_ ?_ | with_reducible refine State.updSense_keeps ?_ | with_reducible refine Keeps.foldl ?_ ?_ | intro _ _ | intro _ | extract_lets | split | (with_reducible refine Keeps.upd ?_; first | with_reducible assumption | with_reducible refine State.updSense_keeps ?_ | with_reducible refine Keeps.ite ?_ ?_ | with_reducible refine Keeps.foldl ?_ ?_ | split) | (with_reducible refine Keeps.updE ?_; first | with_reducible assumption | with_reducible refine State.updSense_keeps ?_ | with_reducible refine Keeps.ite ?_ ?_ | with_reducible refine Keeps.foldl ?_ ?_ | split) | extract_lets | dsimp only)

theorem State.pathLook_keeps {z s : State} {m : Fin 16} {t : Nat} (h : Keeps z s) :
    Keeps z (State.pathLook s m t) := by
  unfold State.pathLook
  try extract_lets
  repeat' (first | with_reducible assumption | with_reducible refine Keeps.ite ?_ ?_ | with_reducible refine State.updSense_keeps ?_
                 | with_reducible refine Keeps.foldl ?_ ?_ | intro _ _ | intro _ | extract_lets | split | extract_lets | dsimp only)

theorem State.setRuns_keeps {z s : State} {m : Fin 16} {c : Cap} {shOk : Bool} {iOk : Bool} {inlBad : Bool} (h : Keeps z s) : Keeps z (State.setRuns s
  m c shOk iOk inlBad) := by
  unfold State.setRuns
  exact State.raiseInl_keeps (State.raiseInl_keeps (State.raiseSh_keeps (State.raiseSh_keeps (State.updSense_keeps h))))

theorem State.writeSet_keeps {z s : State} {m : Fin 16} {c : Cap} (h : Keeps z s) :
    Keeps z (State.writeSet s m c).1 := by
  unfold State.writeSet
  extract_lets x why shOk s0 refOk vOk ra rb inlBad inlValid iOk i1 i2 ia ib sh ph cur dp vbus s1 s2 inv s3 s4
  have h_s0 : Keeps z s0 := by
    repeat' (first | with_reducible assumption | with_reducible refine Keeps.ite ?_ ?_ | with_reducible refine State.refCheck_keeps ?_
                   | with_reducible refine State.when_keeps ?_ ?_ | with_reducible refine State.setFld_keeps ?_
                   | with_reducible refine State.inlOffsets_keeps ?_ | with_reducible refine State.xchkAdd_keeps ?_
                   | with_reducible refine State.setRuns_keeps ?_ | with_reducible refine State.putMs_keeps ?_
                   | with_reducible refine State.updSense_keeps ?_ | with_reducible refine State.released_keeps ?_
                   | with_reducible refine Keeps.foldl ?_ ?_ | intro _ _ | intro _ | extract_lets | split | extract_lets | dsimp only)
  clear_value s0
  have h_s1 : Keeps z s1 := by
    repeat' (first | with_reducible assumption | with_reducible refine Keeps.ite ?_ ?_ | with_reducible refine State.refCheck_keeps ?_
                   | with_reducible refine State.when_keeps ?_ ?_ | with_reducible refine State.setFld_keeps ?_
                   | with_reducible refine State.inlOffsets_keeps ?_ | with_reducible refine State.xchkAdd_keeps ?_
                   | with_reducible refine State.setRuns_keeps ?_ | with_reducible refine State.putMs_keeps ?_
                   | with_reducible refine State.updSense_keeps ?_ | with_reducible refine State.released_keeps ?_
                   | with_reducible refine Keeps.foldl ?_ ?_ | intro _ _ | intro _ | extract_lets | split | extract_lets | dsimp only)
  clear_value s1
  have h_s2 : Keeps z s2 := by
    repeat' (first | with_reducible assumption | with_reducible refine Keeps.ite ?_ ?_ | with_reducible refine State.refCheck_keeps ?_
                   | with_reducible refine State.when_keeps ?_ ?_ | with_reducible refine State.setFld_keeps ?_
                   | with_reducible refine State.inlOffsets_keeps ?_ | with_reducible refine State.xchkAdd_keeps ?_
                   | with_reducible refine State.setRuns_keeps ?_ | with_reducible refine State.putMs_keeps ?_
                   | with_reducible refine State.updSense_keeps ?_ | with_reducible refine State.released_keeps ?_
                   | with_reducible refine Keeps.foldl ?_ ?_ | intro _ _ | intro _ | extract_lets | split | extract_lets | dsimp only)
  clear_value s2
  have h_s3 : Keeps z s3 := by
    repeat' (first | with_reducible assumption | with_reducible refine Keeps.ite ?_ ?_ | with_reducible refine State.refCheck_keeps ?_
                   | with_reducible refine State.when_keeps ?_ ?_ | with_reducible refine State.setFld_keeps ?_
                   | with_reducible refine State.inlOffsets_keeps ?_ | with_reducible refine State.xchkAdd_keeps ?_
                   | with_reducible refine State.setRuns_keeps ?_ | with_reducible refine State.putMs_keeps ?_
                   | with_reducible refine State.updSense_keeps ?_ | with_reducible refine State.released_keeps ?_
                   | with_reducible refine Keeps.foldl ?_ ?_ | intro _ _ | intro _ | extract_lets | split | extract_lets | dsimp only)
  clear_value s3
  have h_s4 : Keeps z s4 := by
    repeat' (first | with_reducible assumption | with_reducible refine Keeps.ite ?_ ?_ | with_reducible refine State.refCheck_keeps ?_
                   | with_reducible refine State.when_keeps ?_ ?_ | with_reducible refine State.setFld_keeps ?_
                   | with_reducible refine State.inlOffsets_keeps ?_ | with_reducible refine State.xchkAdd_keeps ?_
                   | with_reducible refine State.setRuns_keeps ?_ | with_reducible refine State.putMs_keeps ?_
                   | with_reducible refine State.updSense_keeps ?_ | with_reducible refine State.released_keeps ?_
                   | with_reducible refine Keeps.foldl ?_ ?_ | intro _ _ | intro _ | extract_lets | split | extract_lets | dsimp only)
  clear_value s4
  repeat' (first | with_reducible assumption | with_reducible refine Keeps.ite ?_ ?_ | with_reducible refine State.refCheck_keeps ?_
                 | with_reducible refine State.when_keeps ?_ ?_ | with_reducible refine State.setFld_keeps ?_
                 | with_reducible refine State.inlOffsets_keeps ?_ | with_reducible refine State.xchkAdd_keeps ?_
                 | with_reducible refine State.setRuns_keeps ?_ | with_reducible refine State.putMs_keeps ?_
                 | with_reducible refine State.updSense_keeps ?_ | with_reducible refine State.released_keeps ?_
                 | with_reducible refine Keeps.foldl ?_ ?_ | intro _ _ | intro _ | extract_lets | split | extract_lets | dsimp only)

theorem State.loopTrigger_keeps {z s : State} {m : Fin 16} {k : ℕ} (h : Keeps z s) : Keeps z (State.loopTrigger s m k) := by
  unfold State.loopTrigger
  exact Keeps.ite (State.updPwm_keeps h) (State.when_keeps (State.updPwm_keeps h) (fun _ => fun h1 => State.trigger_keeps h1))

theorem State.dropValid_keeps {z s : State} {m : Fin 16} (h : Keeps z s) : Keeps z (State.dropValid s m) := by
  unfold State.dropValid
  exact State.putMs_keeps h

theorem State.spoilShunt_keeps {z s : State} {m : Fin 16} (h : Keeps z s) : Keeps z (State.spoilShunt s m) := by
  unfold State.spoilShunt
  exact State.updSense_keeps h

theorem State.xchkStart_keeps {z s : State} {m : Fin 16} (h : Keeps z s) : Keeps z (State.xchkStart s m) := by
  unfold State.xchkStart
  exact State.updSense_keeps h

theorem State.xchkEnd_keeps {z s : State} {m : Fin 16} (h : Keeps z s) :
    Keeps z (State.xchkEnd s m) := by
  unfold State.xchkEnd
  extract_lets x k few within pass refInl s0
  have h_s0 : Keeps z s0 := by
    repeat' (first | with_reducible assumption | with_reducible refine Keeps.ite ?_ ?_ | with_reducible refine State.updSense_keeps ?_
                   | with_reducible refine State.setFld_keeps ?_ | with_reducible refine State.wr_keeps ?_
                   | with_reducible refine State.raiseM_keeps ?_ | with_reducible refine Keeps.foldl ?_ ?_ | intro _ _ | intro _ | extract_lets
                   | split | extract_lets | dsimp only)
  clear_value s0
  repeat' (first | with_reducible assumption | with_reducible refine Keeps.ite ?_ ?_ | with_reducible refine State.updSense_keeps ?_
                 | with_reducible refine State.setFld_keeps ?_ | with_reducible refine State.wr_keeps ?_
                 | with_reducible refine State.raiseM_keeps ?_ | with_reducible refine Keeps.foldl ?_ ?_ | intro _ _ | intro _ | extract_lets
                 | split | extract_lets | dsimp only)

theorem State.comFlag_keeps {z s : State} {m : Fin 16} {f : Fld} (h : Keeps z s) : Keeps z (State.comFlag s m f) := by
  unfold State.comFlag
  exact State.setFld_keeps h

theorem State.comCfgErr_keeps {z s : State} {m : Fin 16} (h : Keeps z s) : Keeps z (State.comCfgErr s m) := by
  unfold State.comCfgErr
  exact State.setFld_keeps h

theorem State.applyStep_keeps {z s : State} {m : Fin 16} {code : Nat} {t : Nat} (h : Keeps z s) :
    Keeps z (State.applyStep s m code t) := by
  unfold State.applyStep
  extract_lets fl s1
  have h_s1 : Keeps z s1 := by
    repeat' (first | with_reducible assumption | with_reducible refine Keeps.ite ?_ ?_ | with_reducible refine State.setSheet_keeps ?_
                   | with_reducible refine State.updCom_keeps ?_ | with_reducible refine State.updPwm_keeps ?_
                   | with_reducible refine Keeps.foldl ?_ ?_ | intro _ _ | intro _ | extract_lets | split
                   | (with_reducible refine Keeps.upd ?_; first | with_reducible assumption | with_reducible refine State.setSheet_keeps ?_ | with_reducible refine State.updCom_keeps ?_ | with_reducible refine State.updPwm_keeps ?_ | with_reducible refine Keeps.ite ?_ ?_ | with_reducible refine Keeps.foldl ?_ ?_ | split)
                   | (with_reducible refine Keeps.updE ?_; first | with_reducible assumption | with_reducible refine State.setSheet_keeps ?_ | with_reducible refine State.updCom_keeps ?_ | with_reducible refine State.updPwm_keeps ?_ | with_reducible refine Keeps.ite ?_ ?_ | with_reducible refine Keeps.foldl ?_ ?_ | split)
                   | intro _ _ | intro _ | extract_lets | split | extract_lets | dsimp only)
  clear_value s1
  repeat' (first | with_reducible assumption | with_reducible refine Keeps.ite ?_ ?_ | with_reducible refine State.setSheet_keeps ?_
                 | with_reducible refine State.updCom_keeps ?_ | with_reducible refine State.updPwm_keeps ?_
                 | with_reducible refine Keeps.foldl ?_ ?_ | intro _ _ | intro _ | extract_lets | split
                 | (with_reducible refine Keeps.upd ?_; first | with_reducible assumption | with_reducible refine State.setSheet_keeps ?_ | with_reducible refine State.updCom_keeps ?_ | with_reducible refine State.updPwm_keeps ?_ | with_reducible refine Keeps.ite ?_ ?_ | with_reducible refine Keeps.foldl ?_ ?_ | split)
                 | (with_reducible refine Keeps.updE ?_; first | with_reducible assumption | with_reducible refine State.setSheet_keeps ?_ | with_reducible refine State.updCom_keeps ?_ | with_reducible refine State.updPwm_keeps ?_ | with_reducible refine Keeps.ite ?_ ?_ | with_reducible refine Keeps.foldl ?_ ?_ | split)
                 | intro _ _ | intro _ | extract_lets | split | extract_lets | dsimp only)

theorem State.hardStep_keeps {z s : State} {m : Fin 16} {code : ℕ} {t : ℕ} (h : Keeps z s) : Keeps z (State.hardStep s m code t) := by
  unfold State.hardStep
  exact State.when_keeps (State.applyStep_keeps h) (fun _ => fun h1 => State.comFlag_keeps h1)

theorem State.stepEvent_keeps {z s : State} {m : Fin 16} {code : Nat} {t : Nat} (h : Keeps z s) :
    Keeps z (State.stepEvent s m code t) := by
  unfold State.stepEvent
  try extract_lets
  repeat' (first | with_reducible assumption | with_reducible refine Keeps.ite ?_ ?_ | with_reducible refine State.comCfgErr_keeps ?_
                 | with_reducible refine State.updCom_keeps ?_ | with_reducible refine State.hardStep_keeps ?_
                 | with_reducible refine State.updPwm_keeps ?_ | with_reducible refine State.spoilShunt_keeps ?_
                 | with_reducible refine Keeps.foldl ?_ ?_ | intro _ _ | intro _ | extract_lets | split | extract_lets | dsimp only)

theorem State.luffEnd_keeps {z s : State} {m : Fin 16} {t : ℕ} (h : Keeps z s) : Keeps z (State.luffEnd s m t) := by
  unfold State.luffEnd
  try extract_lets
  repeat' (first | with_reducible assumption | with_reducible refine State.applyStep_keeps ?_ | extract_lets | split | extract_lets | dsimp only)

theorem State.takeStep_keeps {z s : State} {m : Fin 16} {code : ℕ} {b : ℕ} {tLen : ℕ} (h : Keeps z s) : Keeps z (State.takeStep s m code b tLen) := by
  unfold State.takeStep
  exact Keeps.ite h (Keeps.ite (State.updCom_keeps (State.setSheet_keeps h)) (State.hardStep_keeps h))

theorem State.stepBoundary_keeps {z s : State} {m : Fin 16} {b : ℕ} {tLen : ℕ} (h : Keeps z s)  : Keeps z (State.stepBoundary s m b tLen) := by
  unfold State.stepBoundary
  extract_lets s1 pend ripe s2
  have h_s1 : Keeps z s1 := by
    repeat' (first | with_reducible assumption | with_reducible refine Keeps.ite ?_ ?_ | with_reducible refine State.luffEnd_keeps ?_ | with_reducible refine State.updPwm_keeps ?_ | with_reducible refine State.updCom_keeps ?_ | with_reducible refine State.comFlag_keeps ?_ | with_reducible refine State.takeStep_keeps ?_ | with_reducible refine Keeps.foldl ?_ ?_ | intro _ _ | intro _ | extract_lets | split | (with_reducible refine Keeps.upd ?_; first | with_reducible assumption | with_reducible refine State.luffEnd_keeps ?_ | with_reducible refine State.updPwm_keeps ?_ | with_reducible refine State.updCom_keeps ?_ | with_reducible refine State.comFlag_keeps ?_ | with_reducible refine State.takeStep_keeps ?_ | with_reducible refine Keeps.ite ?_ ?_ | with_reducible refine Keeps.foldl ?_ ?_ | split) | (with_reducible refine Keeps.updE ?_; first | with_reducible assumption | with_reducible refine State.luffEnd_keeps ?_ | with_reducible refine State.updPwm_keeps ?_ | with_reducible refine State.updCom_keeps ?_ | with_reducible refine State.comFlag_keeps ?_ | with_reducible refine State.takeStep_keeps ?_ | with_reducible refine Keeps.ite ?_ ?_ | with_reducible refine Keeps.foldl ?_ ?_ | split) | extract_lets | dsimp only)
  clear_value s1
  have h_s2 : Keeps z s2 := by
    repeat' (first | with_reducible assumption | with_reducible refine Keeps.ite ?_ ?_ | with_reducible refine State.luffEnd_keeps ?_ | with_reducible refine State.updPwm_keeps ?_ | with_reducible refine State.updCom_keeps ?_ | with_reducible refine State.comFlag_keeps ?_ | with_reducible refine State.takeStep_keeps ?_ | with_reducible refine Keeps.foldl ?_ ?_ | intro _ _ | intro _ | extract_lets | split | (with_reducible refine Keeps.upd ?_; first | with_reducible assumption | with_reducible refine State.luffEnd_keeps ?_ | with_reducible refine State.updPwm_keeps ?_ | with_reducible refine State.updCom_keeps ?_ | with_reducible refine State.comFlag_keeps ?_ | with_reducible refine State.takeStep_keeps ?_ | with_reducible refine Keeps.ite ?_ ?_ | with_reducible refine Keeps.foldl ?_ ?_ | split) | (with_reducible refine Keeps.updE ?_; first | with_reducible assumption | with_reducible refine State.luffEnd_keeps ?_ | with_reducible refine State.updPwm_keeps ?_ | with_reducible refine State.updCom_keeps ?_ | with_reducible refine State.comFlag_keeps ?_ | with_reducible refine State.takeStep_keeps ?_ | with_reducible refine Keeps.ite ?_ ?_ | with_reducible refine Keeps.foldl ?_ ?_ | split) | extract_lets | dsimp only)
  clear_value s2
  repeat' (first | with_reducible assumption | with_reducible refine Keeps.ite ?_ ?_ | with_reducible refine State.luffEnd_keeps ?_ | with_reducible refine State.updPwm_keeps ?_ | with_reducible refine State.updCom_keeps ?_ | with_reducible refine State.comFlag_keeps ?_ | with_reducible refine State.takeStep_keeps ?_ | with_reducible refine Keeps.foldl ?_ ?_ | intro _ _ | intro _ | extract_lets | split | (with_reducible refine Keeps.upd ?_; first | with_reducible assumption | with_reducible refine State.luffEnd_keeps ?_ | with_reducible refine State.updPwm_keeps ?_ | with_reducible refine State.updCom_keeps ?_ | with_reducible refine State.comFlag_keeps ?_ | with_reducible refine State.takeStep_keeps ?_ | with_reducible refine Keeps.ite ?_ ?_ | with_reducible refine Keeps.foldl ?_ ?_ | split) | (with_reducible refine Keeps.updE ?_; first | with_reducible assumption | with_reducible refine State.luffEnd_keeps ?_ | with_reducible refine State.updPwm_keeps ?_ | with_reducible refine State.updCom_keeps ?_ | with_reducible refine State.comFlag_keeps ?_ | with_reducible refine State.takeStep_keeps ?_ | with_reducible refine Keeps.ite ?_ ?_ | with_reducible refine Keeps.foldl ?_ ?_ | split) | extract_lets | dsimp only)

theorem State.holdMask_keeps {z s : State} {m : Fin 16} {b : ℕ} (h : Keeps z s) : Keeps z (State.holdMask s m b) := by
  unfold State.holdMask
  exact Keeps.ite h (Keeps.ite h (State.applyStep_keeps h))

theorem State.measure_keeps {z s : State} {m : Fin 16} {e : Word} {t : ℕ} (h : Keeps z s) : Keeps z (State.measure s m e t) := by
  unfold State.measure
  exact State.when_keeps (State.updCom_keeps h) (fun _ => fun h1 => State.comFlag_keeps h1)

theorem State.propagate_keeps {z s : State} {m : Fin 16} {b : Nat} (h : Keeps z s) :
    Keeps z (State.propagate s m b) := by
  unfold State.propagate
  try extract_lets
  repeat' (first | with_reducible assumption | with_reducible refine Keeps.ite ?_ ?_ | with_reducible refine State.updCom_keeps ?_
                 | with_reducible refine Keeps.foldl ?_ ?_ | intro _ _ | intro _ | extract_lets | split | extract_lets | dsimp only)

theorem State.setEst_keeps {z s : State} {m : Fin 16} {e : Est} (h : Keeps z s) :
    Keeps z (State.setEst s m e) := by
  unfold State.setEst
  try extract_lets
  repeat' (first | with_reducible assumption | with_reducible refine Keeps.ite ?_ ?_ | with_reducible refine State.updCom_keeps ?_
                 | with_reducible refine Keeps.foldl ?_ ?_ | intro _ _ | intro _ | extract_lets | split | extract_lets | dsimp only)

theorem State.estLost_keeps {z s : State} {m : Fin 16} (h : Keeps z s) : Keeps z (State.estLost s m) := by
  unfold State.estLost
  exact Keeps.ite h (State.raiseM_keeps (State.setEst_keeps h))

theorem State.estOff_keeps {z s : State} {m : Fin 16} (h : Keeps z s) : Keeps z (State.estOff s m) := by
  unfold State.estOff
  exact State.updCom_keeps h

theorem State.estMove_keeps {z s : State} {m : Fin 16} (h : Keeps z s)  : Keeps z (State.estMove s m) := by
  unfold State.estMove
  try extract_lets
  repeat' (first | with_reducible assumption | with_reducible refine Keeps.ite ?_ ?_ | with_reducible refine State.setEst_keeps ?_ | with_reducible refine Keeps.foldl ?_ ?_ | intro _ _ | intro _ | extract_lets | split | (with_reducible refine Keeps.upd ?_; first | with_reducible assumption | with_reducible refine State.setEst_keeps ?_ | with_reducible refine Keeps.ite ?_ ?_ | with_reducible refine Keeps.foldl ?_ ?_ | split) | (with_reducible refine Keeps.updE ?_; first | with_reducible assumption | with_reducible refine State.setEst_keeps ?_ | with_reducible refine Keeps.ite ?_ ?_ | with_reducible refine Keeps.foldl ?_ ?_ | split) | extract_lets | dsimp only)

theorem State.preset_keeps {z s : State} {m : Fin 16} {th : Word} {om : Word} {t : ℕ} (h : Keeps z s) : Keeps z (State.preset s m th om t) := by
  unfold State.preset
  exact Keeps.ite (Keeps.ite (State.setEst_keeps (State.updCom_keeps h)) (Keeps.ite (State.setEst_keeps (State.updCom_keeps h)) (State.setEst_keeps
    (State.updCom_keeps h)))) (State.updCom_keeps h)

theorem State.sensorFault_keeps {z s : State} {m : Fin 16} (h : Keeps z s) : Keeps z (State.sensorFault s m) := by
  unfold State.sensorFault
  exact State.raiseM_keeps (State.updCom_keeps h)

theorem State.sensorMeasure_keeps {z s : State} {m : Fin 16} {src : ℕ} {ang : Word} {t : ℕ} (h : Keeps z s) : Keeps z (State.sensorMeasure s m src ang
  t) := by
  unfold State.sensorMeasure
  exact Keeps.ite (State.measure_keeps h) h

theorem State.refreshDrive_keeps {z s : State} {m : Fin 16} {t : ℕ} (h : Keeps z s) : Keeps z (State.refreshDrive s m t) := by
  unfold State.refreshDrive
  exact Keeps.ite h (Keeps.ite (State.stepEvent_keeps (State.updCom_keeps h)) (State.updCom_keeps h))

theorem State.enterStepDrive_keeps {z s : State} {m : Fin 16} {at_ : Nat} (h : Keeps z s) :
    Keeps z (State.enterStepDrive s m at_) := by
  unfold State.enterStepDrive
  try extract_lets
  repeat' (first | with_reducible assumption | with_reducible refine Keeps.ite ?_ ?_ | with_reducible refine State.updCom_keeps ?_
                 | with_reducible refine Keeps.foldl ?_ ?_ | intro _ _ | intro _ | extract_lets | split | extract_lets | dsimp only)

theorem State.advCheck_keeps {z s : State} {m : Fin 16} (h : Keeps z s) :
    Keeps z (State.advCheck s m) := by
  unfold State.advCheck
  extract_lets t a n s0
  have h_s0 : Keeps z s0 := by
    repeat' (first | with_reducible assumption | with_reducible refine Keeps.ite ?_ ?_ | with_reducible refine State.updCom_keeps ?_
                   | with_reducible refine State.enterStepDrive_keeps ?_ | with_reducible refine State.stepEvent_keeps ?_
                   | with_reducible refine Keeps.foldl ?_ ?_ | intro _ _ | intro _ | extract_lets | split | extract_lets | dsimp only)
  clear_value s0
  repeat' (first | with_reducible assumption | with_reducible refine Keeps.ite ?_ ?_ | with_reducible refine State.updCom_keeps ?_
                 | with_reducible refine State.enterStepDrive_keeps ?_ | with_reducible refine State.stepEvent_keeps ?_
                 | with_reducible refine Keeps.foldl ?_ ?_ | intro _ _ | intro _ | extract_lets | split | extract_lets | dsimp only)

theorem State.hallError_keeps {z s : State} {m : Fin 16} (h : Keeps z s) : Keeps z (State.hallError s m) := by
  unfold State.hallError
  exact State.when_keeps (State.updCom_keeps (State.comFlag_keeps h)) (fun _ => fun h1 => State.sensorFault_keeps h1)

theorem State.hallAccept_keeps {z s : State} {m : Fin 16} (h : Keeps z s) : Keeps z (State.hallAccept s m) := by
  unfold State.hallAccept
  try extract_lets
  repeat' (first | with_reducible assumption | with_reducible refine Keeps.ite ?_ ?_ | with_reducible refine State.updCom_keeps ?_ | with_reducible
    refine State.hallError_keeps ?_ | with_reducible refine State.stepEvent_keeps ?_ | with_reducible refine State.sensorMeasure_keeps ?_ |
    extract_lets | split | extract_lets | dsimp only)

theorem State.hallStop_keeps {z s : State} {m : Fin 16} (h : Keeps z s) : Keeps z (State.hallStop s m) := by
  unfold State.hallStop
  exact State.updCom_keeps h

theorem State.quadError_keeps {z s : State} {m : Fin 16} (h : Keeps z s) : Keeps z (State.quadError s m) := by
  unfold State.quadError
  exact State.when_keeps (State.updCom_keeps (State.comFlag_keeps h)) (fun _ => fun h1 => State.sensorFault_keeps h1)

theorem State.quadMove_keeps {z s : State} {m : Fin 16} {pos : Nat} {t : Nat} (h : Keeps z s) :
    Keeps z (State.quadMove s m pos t) := by
  unfold State.quadMove
  try extract_lets
  repeat' (first | with_reducible assumption | with_reducible refine Keeps.ite ?_ ?_ | with_reducible refine State.updCom_keeps ?_
                 | with_reducible refine Keeps.foldl ?_ ?_ | intro _ _ | intro _ | extract_lets | split | extract_lets | dsimp only)

theorem State.quadAccept_keeps {z s : State} {m : Fin 16} (h : Keeps z s) :
    Keeps z (State.quadAccept s m) := by
  unfold State.quadAccept
  extract_lets h c cpr s1
  have h_s1 : Keeps z s1 := by
    repeat' (first | with_reducible assumption | with_reducible refine Keeps.ite ?_ ?_ | with_reducible refine State.updCom_keeps ?_
                   | with_reducible refine State.quadMove_keeps ?_ | with_reducible refine State.quadError_keeps ?_
                   | with_reducible refine Keeps.foldl ?_ ?_ | intro _ _ | intro _ | extract_lets | split | extract_lets | dsimp only)
  clear_value s1
  repeat' (first | with_reducible assumption | with_reducible refine Keeps.ite ?_ ?_ | with_reducible refine State.updCom_keeps ?_
                 | with_reducible refine State.quadMove_keeps ?_ | with_reducible refine State.quadError_keeps ?_
                 | with_reducible refine Keeps.foldl ?_ ?_ | intro _ _ | intro _ | extract_lets | split | extract_lets | dsimp only)

theorem State.quadIndexed_keeps {z s : State} {m : Fin 16} (h : Keeps z s) :
    Keeps z (State.quadIndexed s m) := by
  unfold State.quadIndexed
  extract_lets p cpr pos off t s1
  have h_s1 : Keeps z s1 := by
    repeat' (first | with_reducible assumption | with_reducible refine Keeps.ite ?_ ?_ | with_reducible refine State.updCom_keeps ?_
                   | with_reducible refine State.quadMove_keeps ?_ | with_reducible refine State.when_keeps ?_ ?_
                   | with_reducible refine State.quadError_keeps ?_ | with_reducible refine Keeps.foldl ?_ ?_ | intro _ _ | intro _ | extract_lets
                   | split | extract_lets | dsimp only)
  clear_value s1
  repeat' (first | with_reducible assumption | with_reducible refine Keeps.ite ?_ ?_ | with_reducible refine State.updCom_keeps ?_
                 | with_reducible refine State.quadMove_keeps ?_ | with_reducible refine State.when_keeps ?_ ?_
                 | with_reducible refine State.quadError_keeps ?_ | with_reducible refine Keeps.foldl ?_ ?_ | intro _ _ | intro _ | extract_lets
                 | split | extract_lets | dsimp only)

theorem State.quadMeasure_keeps {z s : State} {m : Fin 16} {ts : Nat} (h : Keeps z s) :
    Keeps z (State.quadMeasure s m ts) := by
  unfold State.quadMeasure
  extract_lets cpr pos s1
  have h_s1 : Keeps z s1 := by
    repeat' (first | with_reducible assumption | with_reducible refine Keeps.ite ?_ ?_ | with_reducible refine State.updCom_keeps ?_
                   | with_reducible refine State.sensorMeasure_keeps ?_ | with_reducible refine Keeps.foldl ?_ ?_ | intro _ _ | intro _
                   | extract_lets | split | extract_lets | dsimp only)
  clear_value s1
  repeat' (first | with_reducible assumption | with_reducible refine Keeps.ite ?_ ?_ | with_reducible refine State.updCom_keeps ?_
                 | with_reducible refine State.sensorMeasure_keeps ?_ | with_reducible refine Keeps.foldl ?_ ?_ | intro _ _ | intro _ | extract_lets
                 | split | extract_lets | dsimp only)

theorem State.zcAccept_keeps {z s : State} {m : Fin 16} {age : ℕ} (h : Keeps z s) : Keeps z (State.zcAccept s m age) := by
  unfold State.zcAccept
  exact Keeps.ite (State.updCom_keeps (State.measure_keeps (State.updCom_keeps h))) (State.measure_keeps (State.updCom_keeps h))

theorem State.zcStep_keeps {z s : State} {m : Fin 16} (h : Keeps z s) : Keeps z (State.zcStep s m) := by
  unfold State.zcStep
  exact State.stepEvent_keeps (State.updCom_keeps h)

theorem State.zcForce_keeps {z s : State} {m : Fin 16} (h : Keeps z s) : Keeps z (State.zcForce s m) := by
  unfold State.zcForce
  exact State.when_keeps (State.stepEvent_keeps (State.updCom_keeps (State.comFlag_keeps h))) (fun _ => fun h1 => State.estLost_keeps h1)

theorem State.convFlags_keeps {z s : State} {m : Fin 16} {sat : Bool} (h : Keeps z s) :
    Keeps z (State.convFlags s m sat) := by
  unfold State.convFlags
  extract_lets s1
  have h_s1 : Keeps z s1 := by
    repeat' (first | with_reducible assumption | with_reducible refine Keeps.ite ?_ ?_ | with_reducible refine State.updCom_keeps ?_
                   | with_reducible refine State.when_keeps ?_ ?_ | with_reducible refine State.comFlag_keeps ?_
                   | with_reducible refine Keeps.foldl ?_ ?_ | intro _ _ | intro _ | extract_lets | split | extract_lets | dsimp only)
  clear_value s1
  repeat' (first | with_reducible assumption | with_reducible refine Keeps.ite ?_ ?_ | with_reducible refine State.updCom_keeps ?_
                 | with_reducible refine State.when_keeps ?_ ?_ | with_reducible refine State.comFlag_keeps ?_
                 | with_reducible refine Keeps.foldl ?_ ?_ | intro _ _ | intro _ | extract_lets | split | extract_lets | dsimp only)

theorem State.restage_keeps {z s : State} {m : Fin 16} {rank : Nat} (h : Keeps z s) : Keeps z (State.restage s m rank) := by
  unfold State.restage
  exact State.updPwm_keeps h

theorem State.stagePut_keeps {z s : State} {m : Fin 16} {key : Nat} {w : Word} (h : Keeps z s) :
    Keeps z (State.stagePut s m key w) := by
  unfold State.stagePut
  try extract_lets
  repeat' (first | with_reducible assumption | with_reducible refine Keeps.ite ?_ ?_ | with_reducible refine State.wr_keeps ?_
                 | with_reducible refine State.updCom_keeps ?_ | with_reducible refine Keeps.foldl ?_ ?_ | intro _ _ | intro _ | extract_lets
                 | split | extract_lets | dsimp only)

theorem State.reduty_keeps {z s : State} {m : Fin 16} (h : Keeps z s) :
    Keeps z (State.reduty s m) := by
  unfold State.reduty
  try extract_lets
  repeat' (first | with_reducible assumption | with_reducible refine Keeps.ite ?_ ?_ | with_reducible refine State.stagePut_keeps ?_
                 | with_reducible refine Keeps.foldl ?_ ?_ | intro _ _ | intro _ | extract_lets | split
                 | (with_reducible refine Keeps.upd ?_; first | with_reducible assumption | with_reducible refine State.stagePut_keeps ?_ | with_reducible refine Keeps.ite ?_ ?_ | with_reducible refine Keeps.foldl ?_ ?_ | split)
                 | (with_reducible refine Keeps.updE ?_; first | with_reducible assumption | with_reducible refine State.stagePut_keeps ?_ | with_reducible refine Keeps.ite ?_ ?_ | with_reducible refine Keeps.foldl ?_ ?_ | split)
                 | intro _ _ | intro _ | extract_lets | split | extract_lets | dsimp only)

theorem State.stageWr_keeps {z s : State} {m : Fin 16} {rank : Nat} {key : Nat} {w : Word} {duty : Option Word} (h : Keeps z s) :
    Keeps z (State.stageWr s m rank key w duty) := by
  unfold State.stageWr
  try extract_lets
  repeat' (first | with_reducible assumption | with_reducible refine Keeps.ite ?_ ?_ | with_reducible refine State.stagePut_keeps ?_
                 | with_reducible refine State.when_keeps ?_ ?_ | with_reducible refine State.reduty_keeps ?_
                 | with_reducible refine State.restage_keeps ?_ | with_reducible refine Keeps.foldl ?_ ?_ | intro _ _ | intro _ | extract_lets
                 | split
                 | (with_reducible refine Keeps.upd ?_; first | with_reducible assumption | with_reducible refine State.stagePut_keeps ?_ | with_reducible refine State.when_keeps ?_ ?_ | with_reducible refine State.reduty_keeps ?_ | with_reducible refine State.restage_keeps ?_ | with_reducible refine Keeps.ite ?_ ?_ | with_reducible refine Keeps.foldl ?_ ?_ | split)
                 | (with_reducible refine Keeps.updE ?_; first | with_reducible assumption | with_reducible refine State.stagePut_keeps ?_ | with_reducible refine State.when_keeps ?_ ?_ | with_reducible refine State.reduty_keeps ?_ | with_reducible refine State.restage_keeps ?_ | with_reducible refine Keeps.ite ?_ ?_ | with_reducible refine Keeps.foldl ?_ ?_ | split)
                 | intro _ _ | intro _ | extract_lets | split | extract_lets | dsimp only)

theorem State.stageKind_keeps {z s : State} {m : Fin 16} {rank : Nat} {vec : Bool} (h : Keeps z s) :
    Keeps z (State.stageKind s m rank vec) := by
  unfold State.stageKind
  try extract_lets
  repeat' (first | with_reducible assumption | with_reducible refine Keeps.ite ?_ ?_ | with_reducible refine State.stageWr_keeps ?_
                 | with_reducible refine Keeps.foldl ?_ ?_ | intro _ _ | intro _ | extract_lets | split | extract_lets | dsimp only)

theorem State.commitAt_keeps {z s : State} {m : Fin 16} {tag : Option Nat} {sheet : Option Nat} {t : Nat} {rank : Nat} (h : Keeps z s) :
    Keeps z (State.commitAt s m tag sheet t rank) := by
  unfold State.commitAt
  extract_lets v x vec soft s1
  have h_s1 : Keeps z s1 := by
    repeat' (first | with_reducible assumption | with_reducible refine Keeps.ite ?_ ?_ | with_reducible refine State.when_keeps ?_ ?_
                   | with_reducible refine State.convFlags_keeps ?_ | with_reducible refine State.setFld_keeps ?_
                   | with_reducible refine State.commitSet_keeps ?_ | with_reducible refine Keeps.foldl ?_ ?_ | intro _ _ | intro _ | extract_lets
                   | split | extract_lets | dsimp only)
  clear_value s1
  repeat' (first | with_reducible assumption | with_reducible refine Keeps.ite ?_ ?_ | with_reducible refine State.when_keeps ?_ ?_
                 | with_reducible refine State.convFlags_keeps ?_ | with_reducible refine State.setFld_keeps ?_
                 | with_reducible refine State.commitSet_keeps ?_ | with_reducible refine Keeps.foldl ?_ ?_ | intro _ _ | intro _ | extract_lets
                 | split | extract_lets | dsimp only)

theorem State.badWindow_keeps {z s : State} {m : Fin 16} (h : Keeps z s) : Keeps z (State.badWindow s m) := by
  unfold State.badWindow
  try extract_lets
  repeat' (first | with_reducible assumption | with_reducible refine State.updCom_keeps ?_ | with_reducible refine State.comFlag_keeps ?_ |
    with_reducible refine State.when_keeps ?_ ?_ | with_reducible refine State.estLost_keeps ?_ | intro _ _ | intro _ | extract_lets | split |
    extract_lets | dsimp only)

theorem State.goodWindow_keeps {z s : State} {m : Fin 16} {e : Word} (h : Keeps z s) : Keeps z (State.goodWindow s m e) := by
  unfold State.goodWindow
  try extract_lets
  repeat' (first | with_reducible assumption | with_reducible refine Keeps.ite ?_ ?_ | with_reducible refine State.updCom_keeps ?_ | with_reducible
    refine State.measure_keeps ?_ | extract_lets | split | extract_lets | dsimp only)

theorem State.polSettled_keeps {z s : State} {m : Fin 16} (h : Keeps z s) : Keeps z (State.polSettled s m) := by
  unfold State.polSettled
  exact Keeps.ite (State.updCom_keeps h) h

theorem State.winEnd_keeps {z s : State} {m : Fin 16} (h : Keeps z s) : Keeps z (State.winEnd s m) := by
  unfold State.winEnd
  exact State.polSettled_keeps (Keeps.ite (State.goodWindow_keeps (State.updCom_keeps h)) (State.badWindow_keeps (State.updCom_keeps h)))

theorem State.correlate_keeps {z s : State} {m : Fin 16} {c : Cap} {iOk : Bool} {th : Word} (h : Keeps z s) : Keeps z (State.correlate s m c iOk th)
  := by
  unfold State.correlate
  exact State.updCom_keeps h

theorem State.polNext_keeps {z s : State} {m : Fin 16} (h : Keeps z s) : Keeps z (State.polNext s m) := by
  unfold State.polNext
  try extract_lets
  repeat' (first | with_reducible assumption | with_reducible refine Keeps.ite ?_ ?_ | with_reducible refine State.updCom_keeps ?_ | with_reducible
    refine State.setEst_keeps ?_ | with_reducible refine State.estLost_keeps ?_ | extract_lets | split | extract_lets | dsimp only)

theorem State.observe_keeps {z s : State} {m : Fin 16} {tLen : ℕ} {th : Word} (h : Keeps z s) : Keeps z (State.observe s m tLen th) := by
  unfold State.observe
  exact State.updCom_keeps h

theorem State.highMeasure_keeps {z s : State} {m : Fin 16} {t : ℕ} (h : Keeps z s) : Keeps z (State.highMeasure s m t) := by
  unfold State.highMeasure
  try extract_lets
  repeat' (first | with_reducible assumption | with_reducible refine Keeps.ite ?_ ?_ | with_reducible refine State.measure_keeps ?_ | with_reducible
    refine State.updCom_keeps ?_ | with_reducible refine State.when_keeps ?_ ?_ | with_reducible refine State.estLost_keeps ?_ | intro _ _ | intro _ |
    extract_lets | split | extract_lets | dsimp only)

theorem State.takeEpsSw_keeps {z s : State} {m : Fin 16} (h : Keeps z s)  : Keeps z (State.takeEpsSw s m) := by
  unfold State.takeEpsSw
  try extract_lets
  repeat' (first | with_reducible assumption | with_reducible refine Keeps.ite ?_ ?_ | with_reducible refine State.updCom_keeps ?_ | with_reducible refine State.polSettled_keeps ?_ | with_reducible refine State.badWindow_keeps ?_ | with_reducible refine State.goodWindow_keeps ?_ | with_reducible refine Keeps.foldl ?_ ?_ | intro _ _ | intro _ | extract_lets | split | (with_reducible refine Keeps.upd ?_; first | with_reducible assumption | with_reducible refine State.updCom_keeps ?_ | with_reducible refine State.polSettled_keeps ?_ | with_reducible refine State.badWindow_keeps ?_ | with_reducible refine State.goodWindow_keeps ?_ | with_reducible refine Keeps.ite ?_ ?_ | with_reducible refine Keeps.foldl ?_ ?_ | split) | (with_reducible refine Keeps.updE ?_; first | with_reducible assumption | with_reducible refine State.updCom_keeps ?_ | with_reducible refine State.polSettled_keeps ?_ | with_reducible refine State.badWindow_keeps ?_ | with_reducible refine State.goodWindow_keeps ?_ | with_reducible refine Keeps.ite ?_ ?_ | with_reducible refine Keeps.foldl ?_ ?_ | split) | extract_lets | dsimp only)

theorem State.writeVectors_keeps {z s : State} {m : Fin 16} {c : Cap} {th : Word} (h : Keeps z s) : Keeps z (State.writeVectors s m c th) := by
  unfold State.writeVectors
  exact State.putMs_keeps h

theorem State.writeEst_keeps {z s : State} {m : Fin 16} {c : Cap} (h : Keeps z s) : Keeps z (State.writeEst s m c) := by
  unfold State.writeEst
  exact State.putMs_keeps h

theorem State.comRelease_keeps {z s : State} {m : Fin 16} {c : Cap} {iOk : Bool} (h : Keeps z s) :
    Keeps z (State.comRelease s m c iOk) := by
  unfold State.comRelease
  extract_lets ts th s1 s2 s3 s4 s5
  have h_s1 : Keeps z s1 := by
    repeat' (first | with_reducible assumption | with_reducible refine Keeps.ite ?_ ?_ | with_reducible refine State.writeVectors_keeps ?_
                   | with_reducible refine State.observe_keeps ?_ | with_reducible refine State.quadMeasure_keeps ?_
                   | with_reducible refine State.correlate_keeps ?_ | with_reducible refine State.takeEpsSw_keeps ?_
                   | with_reducible refine State.highMeasure_keeps ?_ | with_reducible refine State.estMove_keeps ?_
                   | with_reducible refine State.writeEst_keeps ?_ | with_reducible refine Keeps.foldl ?_ ?_ | intro _ _ | intro _ | extract_lets
                   | split | extract_lets | dsimp only)
  clear_value s1
  have h_s2 : Keeps z s2 := by
    repeat' (first | with_reducible assumption | with_reducible refine Keeps.ite ?_ ?_ | with_reducible refine State.writeVectors_keeps ?_
                   | with_reducible refine State.observe_keeps ?_ | with_reducible refine State.quadMeasure_keeps ?_
                   | with_reducible refine State.correlate_keeps ?_ | with_reducible refine State.takeEpsSw_keeps ?_
                   | with_reducible refine State.highMeasure_keeps ?_ | with_reducible refine State.estMove_keeps ?_
                   | with_reducible refine State.writeEst_keeps ?_ | with_reducible refine Keeps.foldl ?_ ?_ | intro _ _ | intro _ | extract_lets
                   | split | extract_lets | dsimp only)
  clear_value s2
  have h_s3 : Keeps z s3 := by
    repeat' (first | with_reducible assumption | with_reducible refine Keeps.ite ?_ ?_ | with_reducible refine State.writeVectors_keeps ?_
                   | with_reducible refine State.observe_keeps ?_ | with_reducible refine State.quadMeasure_keeps ?_
                   | with_reducible refine State.correlate_keeps ?_ | with_reducible refine State.takeEpsSw_keeps ?_
                   | with_reducible refine State.highMeasure_keeps ?_ | with_reducible refine State.estMove_keeps ?_
                   | with_reducible refine State.writeEst_keeps ?_ | with_reducible refine Keeps.foldl ?_ ?_ | intro _ _ | intro _ | extract_lets
                   | split | extract_lets | dsimp only)
  clear_value s3
  have h_s4 : Keeps z s4 := by
    repeat' (first | with_reducible assumption | with_reducible refine Keeps.ite ?_ ?_ | with_reducible refine State.writeVectors_keeps ?_
                   | with_reducible refine State.observe_keeps ?_ | with_reducible refine State.quadMeasure_keeps ?_
                   | with_reducible refine State.correlate_keeps ?_ | with_reducible refine State.takeEpsSw_keeps ?_
                   | with_reducible refine State.highMeasure_keeps ?_ | with_reducible refine State.estMove_keeps ?_
                   | with_reducible refine State.writeEst_keeps ?_ | with_reducible refine Keeps.foldl ?_ ?_ | intro _ _ | intro _ | extract_lets
                   | split | extract_lets | dsimp only)
  clear_value s4
  have h_s5 : Keeps z s5 := by
    repeat' (first | with_reducible assumption | with_reducible refine Keeps.ite ?_ ?_ | with_reducible refine State.writeVectors_keeps ?_
                   | with_reducible refine State.observe_keeps ?_ | with_reducible refine State.quadMeasure_keeps ?_
                   | with_reducible refine State.correlate_keeps ?_ | with_reducible refine State.takeEpsSw_keeps ?_
                   | with_reducible refine State.highMeasure_keeps ?_ | with_reducible refine State.estMove_keeps ?_
                   | with_reducible refine State.writeEst_keeps ?_ | with_reducible refine Keeps.foldl ?_ ?_ | intro _ _ | intro _ | extract_lets
                   | split | extract_lets | dsimp only)
  clear_value s5
  repeat' (first | with_reducible assumption | with_reducible refine Keeps.ite ?_ ?_ | with_reducible refine State.writeVectors_keeps ?_
                 | with_reducible refine State.observe_keeps ?_ | with_reducible refine State.quadMeasure_keeps ?_
                 | with_reducible refine State.correlate_keeps ?_ | with_reducible refine State.takeEpsSw_keeps ?_
                 | with_reducible refine State.highMeasure_keeps ?_ | with_reducible refine State.estMove_keeps ?_
                 | with_reducible refine State.writeEst_keeps ?_ | with_reducible refine Keeps.foldl ?_ ?_ | intro _ _ | intro _ | extract_lets
                 | split | extract_lets | dsimp only)

theorem State.tableDir_keeps {z s : State} {m : Fin 16} (h : Keeps z s) : Keeps z (State.tableDir s m) := by
  unfold State.tableDir
  exact Keeps.ite h (State.updCom_keeps h)

theorem State.halSpeed_keeps {z s : State} {m : Fin 16} {dt : Word} (h : Keeps z s)  : Keeps z (State.halSpeed s m dt) := by
  unfold State.halSpeed
  try extract_lets
  repeat' (first | with_reducible assumption | with_reducible refine Keeps.ite ?_ ?_ | with_reducible refine State.updHal_keeps ?_ | with_reducible refine Keeps.foldl ?_ ?_ | intro _ _ | intro _ | extract_lets | split | (with_reducible refine Keeps.upd ?_; first | with_reducible assumption | with_reducible refine State.updHal_keeps ?_ | with_reducible refine Keeps.ite ?_ ?_ | with_reducible refine Keeps.foldl ?_ ?_ | split) | (with_reducible refine Keeps.updE ?_; first | with_reducible assumption | with_reducible refine State.updHal_keeps ?_ | with_reducible refine Keeps.ite ?_ ?_ | with_reducible refine Keeps.foldl ?_ ?_ | split) | extract_lets | dsimp only)

theorem State.halTorque_keeps {z s : State} {m : Fin 16} (h : Keeps z s) : Keeps z (State.halTorque s m) := by
  unfold State.halTorque
  exact State.updHal_keeps h

theorem State.halFreeze_keeps {z s : State} {m : Fin 16} {zero : Bool} (h : Keeps z s) : Keeps z (State.halFreeze s m zero) := by
  unfold State.halFreeze
  exact State.updHal_keeps h

theorem State.stall_keeps {z s : State} {m : Fin 16} (h : Keeps z s) : Keeps z (State.stall s m) := by
  unfold State.stall
  exact Keeps.ite (State.tableDir_keeps (State.setFld_keeps (State.updHal_keeps (State.updHal_keeps h)))) (State.raiseM_keeps (State.updHal_keeps h))

theorem State.jamHoldEnd_keeps {z s : State} {m : Fin 16} (h : Keeps z s) : Keeps z (State.jamHoldEnd s m) := by
  unfold State.jamHoldEnd
  exact State.updHal_keeps h

theorem State.cmdTake_keeps {z s : State} {m : Fin 16} {v : Word} {freq : Word} (h : Keeps z s) : Keeps z (State.cmdTake s m v freq) := by
  unfold State.cmdTake
  exact State.updCmd_keeps h

theorem State.cmdRelease_keeps {z s : State} {m : Fin 16} {vOk : Bool} (h : Keeps z s) : Keeps z (State.cmdRelease s m vOk) := by
  unfold State.cmdRelease
  exact Keeps.ite (State.putM_keeps (State.putMs_keeps (State.updCmd_keeps (Keeps.ite (State.cmdTake_keeps h) h)))) (State.putMs_keeps
    (State.updCmd_keeps (Keeps.ite (State.cmdTake_keeps h) h)))

theorem State.cmdEdge_keeps {z s0 : State} {m : Fin 16} {rising : Bool} (h : Keeps z s0) :
    Keeps z (State.cmdEdge s0 m rising) := by
  unfold State.cmdEdge
  try extract_lets
  repeat' (first | with_reducible assumption | with_reducible refine Keeps.ite ?_ ?_ | with_reducible refine State.updCmd_keeps ?_
                 | with_reducible refine State.when_keeps ?_ ?_ | with_reducible refine State.orFresh_keeps ?_
                 | with_reducible refine State.cmdTake_keeps ?_ | with_reducible refine Keeps.foldl ?_ ?_ | intro _ _ | intro _ | extract_lets
                 | split
                 | (with_reducible refine Keeps.upd ?_; first | with_reducible assumption | with_reducible refine State.updCmd_keeps ?_ | with_reducible refine State.when_keeps ?_ ?_ | with_reducible refine State.orFresh_keeps ?_ | with_reducible refine State.cmdTake_keeps ?_ | with_reducible refine Keeps.ite ?_ ?_ | with_reducible refine Keeps.foldl ?_ ?_ | split)
                 | (with_reducible refine Keeps.updE ?_; first | with_reducible assumption | with_reducible refine State.updCmd_keeps ?_ | with_reducible refine State.when_keeps ?_ ?_ | with_reducible refine State.orFresh_keeps ?_ | with_reducible refine State.cmdTake_keeps ?_ | with_reducible refine Keeps.ite ?_ ?_ | with_reducible refine Keeps.foldl ?_ ?_ | split)
                 | intro _ _ | intro _ | extract_lets | split | extract_lets | dsimp only)

theorem State.halRelease_keeps {z s : State} {m : Fin 16} {tLen : ℕ} (h : Keeps z s) : Keeps z (State.halRelease s m tLen) := by
  unfold State.halRelease
  exact State.putMs_keeps (State.updHal_keeps (Keeps.ite (State.tableDir_keeps (Keeps.ite (State.halTorque_keeps (State.updHal_keeps (State.when_keeps
    h (fun _ => fun h1 => State.raise_keeps h1)))) (State.halSpeed_keeps (State.updHal_keeps (State.when_keeps h (fun _ => fun h1 => State.raise_keeps
    h1)))))) h))

theorem State.seqFlag_keeps {z s : State} {m : Fin 16} {f : Fld} (h : Keeps z s) : Keeps z (State.seqFlag s m f) := by
  unfold State.seqFlag
  exact State.setFld_keeps h

theorem State.refuse_keeps {z s : State} {m : Fin 16} {why : ℕ} {start : Bool} (h : Keeps z s) : Keeps z (State.refuse s m why start) := by
  unfold State.refuse
  exact State.when_keeps (State.updSeq_keeps h) (fun _ => fun h1 => State.seqFlag_keeps h1)

theorem State.seqOuts_keeps {z s : State} {m : Fin 16} {t : ℕ} (h : Keeps z s) : Keeps z (State.seqOuts s m t) := by
  unfold State.seqOuts
  exact Keeps.ite (State.estOff_keeps (State.setOut_keeps h)) (Keeps.ite (State.stepEvent_keeps (State.setOut_keeps h)) (State.setOut_keeps h))

theorem State.enterSeq_keeps {z s : State} {m : Fin 16} {st : SeqSt} {t : Nat} (h : Keeps z s) :
    Keeps z (State.enterSeq s m st t) := by
  unfold State.enterSeq
  extract_lets old k s1 s2 starts s3 s4 s5
  have h_s1 : Keeps z s1 := by
    repeat' (first | with_reducible assumption | with_reducible refine Keeps.ite ?_ ?_ | with_reducible refine State.updSeq_keeps ?_
                   | with_reducible refine State.halFreeze_keeps ?_ | with_reducible refine State.sync_keeps ?_
                   | with_reducible refine State.updHal_keeps ?_ | with_reducible refine State.seqOuts_keeps ?_
                   | with_reducible refine State.refreshSafe_keeps ?_ | with_reducible refine State.putMs_keeps ?_
                   | with_reducible refine Keeps.foldl ?_ ?_ | intro _ _ | intro _ | extract_lets | split | extract_lets | dsimp only)
  clear_value s1
  have h_s2 : Keeps z s2 := by
    repeat' (first | with_reducible assumption | with_reducible refine Keeps.ite ?_ ?_ | with_reducible refine State.updSeq_keeps ?_
                   | with_reducible refine State.halFreeze_keeps ?_ | with_reducible refine State.sync_keeps ?_
                   | with_reducible refine State.updHal_keeps ?_ | with_reducible refine State.seqOuts_keeps ?_
                   | with_reducible refine State.refreshSafe_keeps ?_ | with_reducible refine State.putMs_keeps ?_
                   | with_reducible refine Keeps.foldl ?_ ?_ | intro _ _ | intro _ | extract_lets | split | extract_lets | dsimp only)
  clear_value s2
  have h_s3 : Keeps z s3 := by
    repeat' (first | with_reducible assumption | with_reducible refine Keeps.ite ?_ ?_ | with_reducible refine State.updSeq_keeps ?_
                   | with_reducible refine State.halFreeze_keeps ?_ | with_reducible refine State.sync_keeps ?_
                   | with_reducible refine State.updHal_keeps ?_ | with_reducible refine State.seqOuts_keeps ?_
                   | with_reducible refine State.refreshSafe_keeps ?_ | with_reducible refine State.putMs_keeps ?_
                   | with_reducible refine Keeps.foldl ?_ ?_ | intro _ _ | intro _ | extract_lets | split | extract_lets | dsimp only)
  clear_value s3
  have h_s4 : Keeps z s4 := by
    repeat' (first | with_reducible assumption | with_reducible refine Keeps.ite ?_ ?_ | with_reducible refine State.updSeq_keeps ?_
                   | with_reducible refine State.halFreeze_keeps ?_ | with_reducible refine State.sync_keeps ?_
                   | with_reducible refine State.updHal_keeps ?_ | with_reducible refine State.seqOuts_keeps ?_
                   | with_reducible refine State.refreshSafe_keeps ?_ | with_reducible refine State.putMs_keeps ?_
                   | with_reducible refine Keeps.foldl ?_ ?_ | intro _ _ | intro _ | extract_lets | split | extract_lets | dsimp only)
  clear_value s4
  have h_s5 : Keeps z s5 := by
    repeat' (first | with_reducible assumption | with_reducible refine Keeps.ite ?_ ?_ | with_reducible refine State.updSeq_keeps ?_
                   | with_reducible refine State.halFreeze_keeps ?_ | with_reducible refine State.sync_keeps ?_
                   | with_reducible refine State.updHal_keeps ?_ | with_reducible refine State.seqOuts_keeps ?_
                   | with_reducible refine State.refreshSafe_keeps ?_ | with_reducible refine State.putMs_keeps ?_
                   | with_reducible refine Keeps.foldl ?_ ?_ | intro _ _ | intro _ | extract_lets | split | extract_lets | dsimp only)
  clear_value s5
  repeat' (first | with_reducible assumption | with_reducible refine Keeps.ite ?_ ?_ | with_reducible refine State.updSeq_keeps ?_
                 | with_reducible refine State.halFreeze_keeps ?_ | with_reducible refine State.sync_keeps ?_
                 | with_reducible refine State.updHal_keeps ?_ | with_reducible refine State.seqOuts_keeps ?_
                 | with_reducible refine State.refreshSafe_keeps ?_ | with_reducible refine State.putMs_keeps ?_
                 | with_reducible refine Keeps.foldl ?_ ?_ | intro _ _ | intro _ | extract_lets | split | extract_lets | dsimp only)

theorem State.beginListen_keeps {z s : State} {m : Fin 16} {n : ℕ} {again : Bool} {t : ℕ} (h : Keeps z s) : Keeps z (State.beginListen s m n again t)
  := by
  unfold State.beginListen
  exact State.enterSeq_keeps (State.updSeq_keeps h)

theorem State.listenSet_keeps {z s : State} {m : Fin 16} {c : Cap} {vOk : Bool} (h : Keeps z s) : Keeps z (State.listenSet s m c vOk) := by
  unfold State.listenSet
  exact Keeps.ite h (Keeps.ite (State.updSeq_keeps h) (Keeps.ite (State.updSeq_keeps (State.updSeq_keeps h)) (State.updSeq_keeps (State.putMs_keeps
    (State.updSeq_keeps h)))))

theorem State.standstill_keeps {z s : State} {m : Fin 16} {t : ℕ} (h : Keeps z s) : Keeps z (State.standstill s m t) := by
  unfold State.standstill
  exact Keeps.ite (Keeps.ite (State.applyStep_keeps (State.updCom_keeps (State.enterSeq_keeps h))) (State.comCfgErr_keeps (State.updCom_keeps
    (State.enterSeq_keeps h)))) (Keeps.ite (Keeps.ite (State.enterSeq_keeps (State.refuse_keeps (State.comCfgErr_keeps h))) (State.setEst_keeps
    (State.enterSeq_keeps h))) (State.enterSeq_keeps h))

theorem State.beginBrake_keeps {z s : State} {m : Fin 16} {p : Purpose} {t : ℕ} (h : Keeps z s) : Keeps z (State.beginBrake s m p t) := by
  unfold State.beginBrake
  exact Keeps.ite (State.raiseM_keeps (State.enterSeq_keeps h)) (State.enterSeq_keeps (State.updSeq_keeps h))

theorem State.pulseEnd_keeps {z s : State} {m : Fin 16} {t : ℕ} (h : Keeps z s) : Keeps z (State.pulseEnd s m t) := by
  unfold State.pulseEnd
  exact State.seqOuts_keeps (State.updSeq_keeps h)

theorem State.pauseEnd_keeps {z s : State} {m : Fin 16} {t : ℕ} (h : Keeps z s) : Keeps z (State.pauseEnd s m t) := by
  unfold State.pauseEnd
  exact Keeps.ite (State.seqOuts_keeps (State.updSeq_keeps h)) (State.updSeq_keeps h)

theorem State.beginSync_keeps {z s : State} {m : Fin 16} {t : Nat} (h : Keeps z s) :
    Keeps z (State.beginSync s m t) := by
  unfold State.beginSync
  try extract_lets
  repeat' (first | with_reducible assumption | with_reducible refine Keeps.ite ?_ ?_ | with_reducible refine State.comCfgErr_keeps ?_
                 | with_reducible refine State.refuse_keeps ?_ | with_reducible refine State.enterSeq_keeps ?_
                 | with_reducible refine State.sync_keeps ?_ | with_reducible refine State.preset_keeps ?_
                 | with_reducible refine State.when_keeps ?_ ?_ | with_reducible refine State.updCom_keeps ?_
                 | with_reducible refine State.updHal_keeps ?_ | with_reducible refine State.tableDir_keeps ?_
                 | with_reducible refine Keeps.foldl ?_ ?_ | intro _ _ | intro _ | extract_lets | split | extract_lets | dsimp only)

theorem State.syncSet_keeps {z s : State} {m : Fin 16} {c : Cap} (h : Keeps z s) :
    Keeps z (State.syncSet s m c) := by
  unfold State.syncSet
  try extract_lets
  repeat' (first | with_reducible assumption | with_reducible refine Keeps.ite ?_ ?_ | with_reducible refine State.sync_keeps ?_
                 | with_reducible refine State.putMs_keeps ?_ | with_reducible refine State.updCom_keeps ?_
                 | with_reducible refine State.when_keeps ?_ ?_ | with_reducible refine State.comFlag_keeps ?_
                 | with_reducible refine State.updPwm_keeps ?_ | with_reducible refine Keeps.foldl ?_ ?_ | intro _ _ | intro _ | extract_lets
                 | split | extract_lets | dsimp only)

theorem State.forcedAngle_keeps {z s : State} {m : Fin 16} {b : ℕ} {tLen : ℕ} (h : Keeps z s) : Keeps z (State.forcedAngle s m b tLen) := by
  unfold State.forcedAngle
  exact Keeps.ite (Keeps.ite (State.updCom_keeps h) (State.stepEvent_keeps (State.updCom_keeps (State.updCom_keeps h)))) h

theorem State.countStart_keeps {z s : State} {m : Fin 16} (h : Keeps z s) : Keeps z (State.countStart s m) := by
  unfold State.countStart
  exact State.updCom_keeps (State.updSeq_keeps (State.putM_keeps h))

theorem State.beginStopping_keeps {z s : State} {m : Fin 16} {mode : ℕ} {fault : Bool} {t : ℕ} (h : Keeps z s) : Keeps z (State.beginStopping s m mode
  fault t) := by
  unfold State.beginStopping
  exact State.enterSeq_keeps (State.updSeq_keeps h)

theorem State.actStart_keeps {z s : State} {m : Fin 16} {t : ℕ} (h : Keeps z s)  : Keeps z (State.actStart s m t) := by
  unfold State.actStart
  try extract_lets
  repeat' (first | with_reducible assumption | with_reducible refine Keeps.ite ?_ ?_ | with_reducible refine State.countStart_keeps ?_ | with_reducible refine State.when_keeps ?_ ?_ | with_reducible refine State.refuse_keeps ?_ | with_reducible refine State.comCfgErr_keeps ?_ | with_reducible refine State.beginListen_keeps ?_ | with_reducible refine State.updSeq_keeps ?_ | with_reducible refine State.enterSeq_keeps ?_ | with_reducible refine Keeps.foldl ?_ ?_ | intro _ _ | intro _ | extract_lets | split | (with_reducible refine Keeps.upd ?_; first | with_reducible assumption | with_reducible refine State.countStart_keeps ?_ | with_reducible refine State.when_keeps ?_ ?_ | with_reducible refine State.refuse_keeps ?_ | with_reducible refine State.comCfgErr_keeps ?_ | with_reducible refine State.beginListen_keeps ?_ | with_reducible refine State.updSeq_keeps ?_ | with_reducible refine State.enterSeq_keeps ?_ | with_reducible refine Keeps.ite ?_ ?_ | with_reducible refine Keeps.foldl ?_ ?_ | split) | (with_reducible refine Keeps.updE ?_; first | with_reducible assumption | with_reducible refine State.countStart_keeps ?_ | with_reducible refine State.when_keeps ?_ ?_ | with_reducible refine State.refuse_keeps ?_ | with_reducible refine State.comCfgErr_keeps ?_ | with_reducible refine State.beginListen_keeps ?_ | with_reducible refine State.updSeq_keeps ?_ | with_reducible refine State.enterSeq_keeps ?_ | with_reducible refine Keeps.ite ?_ ?_ | with_reducible refine Keeps.foldl ?_ ?_ | split) | extract_lets | dsimp only)

theorem State.actStop_keeps {z s : State} {m : Fin 16} {mode : ℕ} {t : ℕ} (h : Keeps z s)  : Keeps z (State.actStop s m mode t) := by
  unfold State.actStop
  try extract_lets
  repeat' (first | with_reducible assumption | with_reducible refine Keeps.ite ?_ ?_ | with_reducible refine State.enterSeq_keeps ?_ | with_reducible refine State.updSeq_keeps ?_ | with_reducible refine State.beginBrake_keeps ?_ | with_reducible refine State.beginStopping_keeps ?_ | with_reducible refine Keeps.foldl ?_ ?_ | intro _ _ | intro _ | extract_lets | split | (with_reducible refine Keeps.upd ?_; first | with_reducible assumption | with_reducible refine State.enterSeq_keeps ?_ | with_reducible refine State.updSeq_keeps ?_ | with_reducible refine State.beginBrake_keeps ?_ | with_reducible refine State.beginStopping_keeps ?_ | with_reducible refine Keeps.ite ?_ ?_ | with_reducible refine Keeps.foldl ?_ ?_ | split) | (with_reducible refine Keeps.updE ?_; first | with_reducible assumption | with_reducible refine State.enterSeq_keeps ?_ | with_reducible refine State.updSeq_keeps ?_ | with_reducible refine State.beginBrake_keeps ?_ | with_reducible refine State.beginStopping_keeps ?_ | with_reducible refine Keeps.ite ?_ ?_ | with_reducible refine Keeps.foldl ?_ ?_ | split) | extract_lets | dsimp only)

theorem State.actClear_keeps {z s : State} {m : Fin 16} {t : ℕ} (h : Keeps z s) : Keeps z (State.actClear s m t) := by
  unfold State.actClear
  exact Keeps.ite h (Keeps.ite (State.seqFlag_keeps h) (State.enterSeq_keeps h))

theorem State.actReq_keeps {z s : State} {m : Fin 16} {r : SeqReq} {t : ℕ} (h : Keeps z s) : Keeps z (State.actReq s m r t) := by
  unfold State.actReq
  try extract_lets
  repeat' (first | with_reducible assumption | with_reducible refine State.actStart_keeps ?_ | with_reducible refine State.actStop_keeps ?_ |
    with_reducible refine State.actClear_keeps ?_ | extract_lets | split | extract_lets | dsimp only)

theorem State.seqRequest_keeps {z s : State} {m : Fin 16} {r : SeqReq} (h : Keeps z s) :
    Keeps z (State.seqRequest s m r) := by
  unfold State.seqRequest
  try extract_lets
  repeat' (first | with_reducible assumption | with_reducible refine Keeps.ite ?_ ?_ | with_reducible refine State.seqFlag_keeps ?_
                 | with_reducible refine State.refuse_keeps ?_ | with_reducible refine State.updSeq_keeps ?_
                 | with_reducible refine State.when_keeps ?_ ?_ | with_reducible refine Keeps.foldl ?_ ?_ | intro _ _ | intro _ | extract_lets
                 | split | extract_lets | dsimp only)

theorem State.seqFault_keeps {z s : State} {m : Fin 16} (h : Keeps z s) : Keeps z (State.seqFault s m) := by
  unfold State.seqFault
  exact Keeps.ite h (Keeps.ite (State.updSeq_keeps h) (State.enterSeq_keeps h))

theorem State.actRamp_keeps {z s : State} {m : Fin 16} {t : ℕ} (h : Keeps z s) : Keeps z (State.actRamp s m t) := by
  unfold State.actRamp
  try extract_lets
  repeat' (first | with_reducible assumption | with_reducible refine State.beginStopping_keeps ?_ | with_reducible refine State.updSeq_keeps ?_ |
    with_reducible refine State.enterSeq_keeps ?_ | extract_lets | split | extract_lets | dsimp only)

theorem State.seqRamp_keeps {z s : State} {m : Fin 16} (h : Keeps z s) : Keeps z (State.seqRamp s m) := by
  unfold State.seqRamp
  exact Keeps.ite (State.updSeq_keeps h) (State.actRamp_keeps h)

theorem State.stopTmo_keeps {z s : State} {m : Fin 16} (h : Keeps z s) : Keeps z (State.stopTmo s m) := by
  unfold State.stopTmo
  exact State.updSeq_keeps (State.seqFlag_keeps h)

theorem State.seqMove_keeps {z s : State} {m : Fin 16} {t : ℕ} (h : Keeps z s) : Keeps z (State.seqMove s m t) := by
  unfold State.seqMove
  try extract_lets
  repeat' (first | with_reducible assumption | with_reducible refine State.beginListen_keeps ?_ | with_reducible refine State.enterSeq_keeps ?_ |
    with_reducible refine State.refuse_keeps ?_ | with_reducible refine State.beginSync_keeps ?_ | with_reducible refine State.standstill_keeps ?_ |
    with_reducible refine State.beginBrake_keeps ?_ | extract_lets | split | extract_lets | dsimp only)

theorem State.brakeBoundary_keeps {z s : State} {m : Fin 16} {t : ℕ} (h : Keeps z s) : Keeps z (State.brakeBoundary s m t) := by
  unfold State.brakeBoundary
  exact Keeps.ite (State.pulseEnd_keeps h) (Keeps.ite (State.pauseEnd_keeps h) h)

theorem State.seqBoundary_keeps {z s : State} {m : Fin 16} {t : ℕ} (h : Keeps z s) : Keeps z (State.seqBoundary s m t) := by
  unfold State.seqBoundary
  exact Keeps.ite (State.updSeq_keeps (Keeps.ite (State.enterSeq_keeps (Keeps.ite (Keeps.foldl (Keeps.ite (State.enterSeq_keeps (State.updSeq_keeps
    (State.brakeBoundary_keeps h))) (Keeps.ite (State.actRamp_keeps (State.updSeq_keeps (State.brakeBoundary_keeps h))) (State.updSeq_keeps
    (State.brakeBoundary_keeps h)))) (fun _ => fun _ => fun h2 => State.actReq_keeps h2)) (State.seqMove_keeps (Keeps.foldl (Keeps.ite
    (State.enterSeq_keeps (State.updSeq_keeps (State.brakeBoundary_keeps h))) (Keeps.ite (State.actRamp_keeps (State.updSeq_keeps
    (State.brakeBoundary_keeps h))) (State.updSeq_keeps (State.brakeBoundary_keeps h)))) (fun _ => fun _ => fun h2 => State.actReq_keeps h2)))))
    (Keeps.ite (Keeps.foldl (Keeps.ite (State.enterSeq_keeps (State.updSeq_keeps (State.brakeBoundary_keeps h))) (Keeps.ite (State.actRamp_keeps
    (State.updSeq_keeps (State.brakeBoundary_keeps h))) (State.updSeq_keeps (State.brakeBoundary_keeps h)))) (fun _ => fun _ => fun h2 =>
    State.actReq_keeps h2)) (State.seqMove_keeps (Keeps.foldl (Keeps.ite (State.enterSeq_keeps (State.updSeq_keeps (State.brakeBoundary_keeps h)))
    (Keeps.ite (State.actRamp_keeps (State.updSeq_keeps (State.brakeBoundary_keeps h))) (State.updSeq_keeps (State.brakeBoundary_keeps h)))) (fun _ =>
    fun _ => fun h2 => State.actReq_keeps h2)))))) (Keeps.ite (State.enterSeq_keeps (Keeps.ite (Keeps.foldl (Keeps.ite (State.enterSeq_keeps
    (State.updSeq_keeps (State.brakeBoundary_keeps h))) (Keeps.ite (State.actRamp_keeps (State.updSeq_keeps (State.brakeBoundary_keeps h)))
    (State.updSeq_keeps (State.brakeBoundary_keeps h)))) (fun _ => fun _ => fun h2 => State.actReq_keeps h2)) (State.seqMove_keeps (Keeps.foldl
    (Keeps.ite (State.enterSeq_keeps (State.updSeq_keeps (State.brakeBoundary_keeps h))) (Keeps.ite (State.actRamp_keeps (State.updSeq_keeps
    (State.brakeBoundary_keeps h))) (State.updSeq_keeps (State.brakeBoundary_keeps h)))) (fun _ => fun _ => fun h2 => State.actReq_keeps h2)))))
    (Keeps.ite (Keeps.foldl (Keeps.ite (State.enterSeq_keeps (State.updSeq_keeps (State.brakeBoundary_keeps h))) (Keeps.ite (State.actRamp_keeps
    (State.updSeq_keeps (State.brakeBoundary_keeps h))) (State.updSeq_keeps (State.brakeBoundary_keeps h)))) (fun _ => fun _ => fun h2 =>
    State.actReq_keeps h2)) (State.seqMove_keeps (Keeps.foldl (Keeps.ite (State.enterSeq_keeps (State.updSeq_keeps (State.brakeBoundary_keeps h)))
    (Keeps.ite (State.actRamp_keeps (State.updSeq_keeps (State.brakeBoundary_keeps h))) (State.updSeq_keeps (State.brakeBoundary_keeps h)))) (fun _ =>
    fun _ => fun h2 => State.actReq_keeps h2)))))

theorem State.seqRelease_keeps {z s : State} {m : Fin 16} {c : Cap} {vOk : Bool} (h : Keeps z s) :
    Keeps z (State.seqRelease s m c vOk) := by
  unfold State.seqRelease
  extract_lets s1 q own brkI cut ab e s2
  have h_s1 : Keeps z s1 := by
    repeat' (first | with_reducible assumption | with_reducible refine Keeps.ite ?_ ?_ | with_reducible refine State.listenSet_keeps ?_
                   | with_reducible refine State.syncSet_keeps ?_ | with_reducible refine State.updSeq_keeps ?_
                   | with_reducible refine State.putMs_keeps ?_ | with_reducible refine Keeps.foldl ?_ ?_ | intro _ _ | intro _ | extract_lets
                   | split
                   | (with_reducible refine Keeps.upd ?_; first | with_reducible assumption | with_reducible refine State.listenSet_keeps ?_ | with_reducible refine State.syncSet_keeps ?_ | with_reducible refine State.updSeq_keeps ?_ | with_reducible refine State.putMs_keeps ?_ | with_reducible refine Keeps.ite ?_ ?_ | with_reducible refine Keeps.foldl ?_ ?_ | split)
                   | (with_reducible refine Keeps.updE ?_; first | with_reducible assumption | with_reducible refine State.listenSet_keeps ?_ | with_reducible refine State.syncSet_keeps ?_ | with_reducible refine State.updSeq_keeps ?_ | with_reducible refine State.putMs_keeps ?_ | with_reducible refine Keeps.ite ?_ ?_ | with_reducible refine Keeps.foldl ?_ ?_ | split)
                   | intro _ _ | intro _ | extract_lets | split | extract_lets | dsimp only)
  clear_value s1
  have h_s2 : Keeps z s2 := by
    repeat' (first | with_reducible assumption | with_reducible refine Keeps.ite ?_ ?_ | with_reducible refine State.listenSet_keeps ?_
                   | with_reducible refine State.syncSet_keeps ?_ | with_reducible refine State.updSeq_keeps ?_
                   | with_reducible refine State.putMs_keeps ?_ | with_reducible refine Keeps.foldl ?_ ?_ | intro _ _ | intro _ | extract_lets
                   | split
                   | (with_reducible refine Keeps.upd ?_; first | with_reducible assumption | with_reducible refine State.listenSet_keeps ?_ | with_reducible refine State.syncSet_keeps ?_ | with_reducible refine State.updSeq_keeps ?_ | with_reducible refine State.putMs_keeps ?_ | with_reducible refine Keeps.ite ?_ ?_ | with_reducible refine Keeps.foldl ?_ ?_ | split)
                   | (with_reducible refine Keeps.updE ?_; first | with_reducible assumption | with_reducible refine State.listenSet_keeps ?_ | with_reducible refine State.syncSet_keeps ?_ | with_reducible refine State.updSeq_keeps ?_ | with_reducible refine State.putMs_keeps ?_ | with_reducible refine Keeps.ite ?_ ?_ | with_reducible refine Keeps.foldl ?_ ?_ | split)
                   | intro _ _ | intro _ | extract_lets | split | extract_lets | dsimp only)
  clear_value s2
  repeat' (first | with_reducible assumption | with_reducible refine Keeps.ite ?_ ?_ | with_reducible refine State.listenSet_keeps ?_
                 | with_reducible refine State.syncSet_keeps ?_ | with_reducible refine State.updSeq_keeps ?_
                 | with_reducible refine State.putMs_keeps ?_ | with_reducible refine Keeps.foldl ?_ ?_ | intro _ _ | intro _ | extract_lets | split
                 | (with_reducible refine Keeps.upd ?_; first | with_reducible assumption | with_reducible refine State.listenSet_keeps ?_ | with_reducible refine State.syncSet_keeps ?_ | with_reducible refine State.updSeq_keeps ?_ | with_reducible refine State.putMs_keeps ?_ | with_reducible refine Keeps.ite ?_ ?_ | with_reducible refine Keeps.foldl ?_ ?_ | split)
                 | (with_reducible refine Keeps.updE ?_; first | with_reducible assumption | with_reducible refine State.listenSet_keeps ?_ | with_reducible refine State.syncSet_keeps ?_ | with_reducible refine State.updSeq_keeps ?_ | with_reducible refine State.putMs_keeps ?_ | with_reducible refine Keeps.ite ?_ ?_ | with_reducible refine Keeps.foldl ?_ ?_ | split)
                 | intro _ _ | intro _ | extract_lets | split | extract_lets | dsimp only)

theorem State.seqTurn_keeps {z s : State} {m : Fin 16} (h : Keeps z s) :
    Keeps z (State.seqTurn s m) := by
  unfold State.seqTurn
  try extract_lets
  repeat' (first | with_reducible assumption | with_reducible refine Keeps.ite ?_ ?_ | with_reducible refine State.actReq_keeps ?_
                 | with_reducible refine State.updSeq_keeps ?_ | with_reducible refine Keeps.foldl ?_ ?_ | intro _ _ | intro _ | extract_lets
                 | split | extract_lets | dsimp only)

theorem State.seqCycle_keeps {z s : State} (h : Keeps z s) :
    Keeps z (State.seqCycle s) := by
  unfold State.seqCycle
  try extract_lets
  repeat' (first | with_reducible assumption | with_reducible refine Keeps.ite ?_ ?_ | with_reducible refine State.seqTurn_keeps ?_
                 | with_reducible refine Keeps.foldl ?_ ?_ | intro _ _ | intro _ | extract_lets | split | extract_lets | dsimp only)

end Sys2Proof.Machine
end

