-- ==== Sys2Proof/Laws/KeepsNet.lean ====
section
/-! SUPPORT. Laws/KeepsNet.lean: what protection, the ring, the calendar and the time base keep: the queue, the variant and the canonical form of the memories. -/

set_option linter.unusedTactic false
set_option linter.unreachableTactic false
set_option linter.unusedVariables false

namespace Sys2Proof.Machine

theorem State.setChop_keeps {z s : State} {m : Fin 16} {on : Bool} (h : Keeps z s) : Keeps z (State.setChop s m on) := by
  unfold State.setChop
  exact Keeps.ite h (State.updShr_keeps (State.gateMark_keeps h))

theorem State.applyChop_keeps {z s : State} {g : Fin 8} (h : Keeps z s) : Keeps z (State.applyChop s g) := by
  unfold State.applyChop
  exact Keeps.foldl h (fun _ => fun _ => fun h2 => State.setChop_keeps h2)

theorem State.chopFail_keeps {z s : State} {g : Option (Fin 8)} {m : Fin 16} (h : Keeps z s) : Keeps z (State.chopFail s g m) := by
  unfold State.chopFail
  try extract_lets
  repeat' (first | with_reducible assumption | with_reducible refine State.raiseM_keeps ?_ | with_reducible refine State.setChop_keeps ?_ |
    with_reducible refine State.updShr_keeps ?_ | with_reducible refine State.updG_keeps ?_ | extract_lets | split | extract_lets | dsimp only)

theorem State.chopCheck_keeps {z s : State} {g : Fin 8} {v : Word} (h : Keeps z s) : Keeps z (State.chopCheck s g v) := by
  unfold State.chopCheck
  try extract_lets
  repeat' (first | with_reducible assumption | with_reducible refine Keeps.ite ?_ ?_ | with_reducible refine State.updG_keeps ?_ | with_reducible
    refine State.chopFail_keeps ?_ | extract_lets | split | extract_lets | dsimp only)

theorem State.chopSwitch_keeps {z s : State} {g : Fin 8} {v : Word} (h : Keeps z s) : Keeps z (State.chopSwitch s g v) := by
  unfold State.chopSwitch
  exact State.applyChop_keeps (State.updG_keeps h)

theorem State.raiseBus_keeps {z s : State} {l : List (Fin 16)} {k : ℕ} {detail : ℕ} {marked : Bool} (h : Keeps z s) : Keeps z (State.raiseBus s l k
  detail marked) := by
  unfold State.raiseBus
  exact Keeps.foldl h (fun _ => fun _ => fun h2 => State.raiseM_keeps h2)

theorem State.refreshGroup_keeps {z s : State} {g : Fin 8} (h : Keeps z s) : Keeps z (State.refreshGroup s g) := by
  unfold State.refreshGroup
  exact Keeps.foldl h (fun _ => fun _ => fun h2 => State.refreshSafe_keeps h2)

theorem State.enterBg_keeps {z s : State} {g : Fin 8} {st : BgSt} (h : Keeps z s) : Keeps z (State.enterBg s g st) := by
  unfold State.enterBg
  exact State.refreshGroup_keeps (State.updG_keeps h)

theorem State.evalGroup_keeps {z s : State} {g : Fin 8} (h : Keeps z s) : Keeps z (State.evalGroup s g) := by
  unfold State.evalGroup
  exact Keeps.ite h (State.chopSwitch_keeps (State.when_keeps (Keeps.ite (State.raiseBus_keeps (Keeps.ite (State.enterBg_keeps (State.chopCheck_keeps
    (State.updG_keeps h))) (State.chopCheck_keeps (State.updG_keeps h)))) (Keeps.ite (State.raiseBus_keeps (Keeps.ite (State.enterBg_keeps
    (State.chopCheck_keeps (State.updG_keeps h))) (State.chopCheck_keeps (State.updG_keeps h)))) (Keeps.ite (State.enterBg_keeps
    (State.chopCheck_keeps (State.updG_keeps h))) (State.chopCheck_keeps (State.updG_keeps h))))) (fun _ => fun h1 => State.raiseBus_keeps h1)))

theorem State.recover_keeps {z s : State} {g : Fin 8} (h : Keeps z s) : Keeps z (State.recover s g) := by
  unfold State.recover
  exact State.enterBg_keeps h

theorem State.ackGroup_keeps {z s : State} {g : Fin 8} (h : Keeps z s) : Keeps z (State.ackGroup s g) := by
  unfold State.ackGroup
  exact Keeps.ite h (Keeps.ite (State.recover_keeps h) (State.setFld_keeps h))

theorem State.chopUnseen_keeps {z s : State} {g : Fin 8} (h : Keeps z s) :
    Keeps z (State.chopUnseen s g) := by
  unfold State.chopUnseen
  try extract_lets
  repeat' (first | with_reducible assumption | with_reducible refine Keeps.ite ?_ ?_ | with_reducible refine State.updG_keeps ?_
                 | with_reducible refine Keeps.foldl ?_ ?_ | intro _ _ | intro _ | extract_lets | split | extract_lets | dsimp only)

theorem State.refreshBgEn_keeps {z s : State} {g : Fin 8} (h : Keeps z s) :
    Keeps z (State.refreshBgEn s g) := by
  unfold State.refreshBgEn
  try extract_lets
  repeat' (first | with_reducible assumption | with_reducible refine Keeps.ite ?_ ?_ | with_reducible refine State.updG_keeps ?_
                 | with_reducible refine State.refreshGroup_keeps ?_ | with_reducible refine State.applyChop_keeps ?_
                 | with_reducible refine State.chopUnseen_keeps ?_ | with_reducible refine Keeps.foldl ?_ ?_ | intro _ _ | intro _ | extract_lets
                 | split | extract_lets | dsimp only)

theorem State.groupStopped_keeps {z s : State} {m : Fin 16} (h : Keeps z s) :
    Keeps z (State.groupStopped s m) := by
  unfold State.groupStopped
  try extract_lets
  repeat' (first | with_reducible assumption | with_reducible refine Keeps.ite ?_ ?_ | with_reducible refine State.chopUnseen_keeps ?_
                 | with_reducible refine State.applyChop_keeps ?_ | with_reducible refine Keeps.foldl ?_ ?_ | intro _ _ | intro _ | extract_lets
                 | split | extract_lets | dsimp only)

theorem State.regenRelease_keeps {z s : State} {m : Fin 16} (h : Keeps z s) : Keeps z (State.regenRelease s m) := by
  unfold State.regenRelease
  exact State.putM_keeps h

theorem State.busRelease_keeps {z s : State} {m : Fin 16} {vOk : Bool} (h : Keeps z s)  : Keeps z (State.busRelease s m vOk) := by
  unfold State.busRelease
  try extract_lets
  repeat' (first | with_reducible assumption | with_reducible refine Keeps.ite ?_ ?_ | with_reducible refine State.evalGroup_keeps ?_ | with_reducible refine Keeps.foldl ?_ ?_ | intro _ _ | intro _ | extract_lets | split | (with_reducible refine Keeps.upd ?_; first | with_reducible assumption | with_reducible refine State.evalGroup_keeps ?_ | with_reducible refine Keeps.ite ?_ ?_ | with_reducible refine Keeps.foldl ?_ ?_ | split) | (with_reducible refine Keeps.updE ?_; first | with_reducible assumption | with_reducible refine State.evalGroup_keeps ?_ | with_reducible refine Keeps.ite ?_ ?_ | with_reducible refine Keeps.foldl ?_ ?_ | split) | extract_lets | dsimp only)

theorem State.noteLatch_keeps {z s : State} {m : Fin 16} {code : ℕ} (h : Keeps z s) : Keeps z (State.noteLatch s m code) := by
  unfold State.noteLatch
  exact State.updShr_keeps h

theorem State.setLatch_keeps {z s : State} {m : Fin 16} {code : ℕ} (h : Keeps z s) : Keeps z (State.setLatch s m code) := by
  unfold State.setLatch
  exact Keeps.ite h (State.when_keeps (State.refreshSafe_keeps (State.raiseM_keeps (State.bump_keeps (State.updShr_keeps (State.gateMark_keeps
    (State.noteLatch_keeps h)))))) (fun _ => fun h1 => State.chopFail_keeps h1))

theorem State.cutRef_keeps {z s : State} {m : Fin 16} {bit : ℕ} (h : Keeps z s)  : Keeps z (State.cutRef s m bit) := by
  unfold State.cutRef
  try extract_lets
  repeat' (first | with_reducible assumption | with_reducible refine Keeps.ite ?_ ?_ | with_reducible refine State.updShr_keeps ?_ | with_reducible refine State.when_keeps ?_ ?_ | with_reducible refine State.setLatch_keeps ?_ | with_reducible refine State.bump_keeps ?_ | with_reducible refine State.setFld_keeps ?_ | with_reducible refine State.updSense_keeps ?_ | with_reducible refine Keeps.foldl ?_ ?_ | intro _ _ | intro _ | extract_lets | split | (with_reducible refine Keeps.upd ?_; first | with_reducible assumption | with_reducible refine State.updShr_keeps ?_ | with_reducible refine State.when_keeps ?_ ?_ | with_reducible refine State.setLatch_keeps ?_ | with_reducible refine State.bump_keeps ?_ | with_reducible refine State.setFld_keeps ?_ | with_reducible refine State.updSense_keeps ?_ | with_reducible refine Keeps.ite ?_ ?_ | with_reducible refine Keeps.foldl ?_ ?_ | split) | (with_reducible refine Keeps.updE ?_; first | with_reducible assumption | with_reducible refine State.updShr_keeps ?_ | with_reducible refine State.when_keeps ?_ ?_ | with_reducible refine State.setLatch_keeps ?_ | with_reducible refine State.bump_keeps ?_ | with_reducible refine State.setFld_keeps ?_ | with_reducible refine State.updSense_keeps ?_ | with_reducible refine Keeps.ite ?_ ?_ | with_reducible refine Keeps.foldl ?_ ?_ | split) | extract_lets | dsimp only)

theorem State.cbcLatch_keeps {z s : State} {m : Fin 16} (h : Keeps z s) : Keeps z (State.cbcLatch s m) := by
  unfold State.cbcLatch
  exact State.when_keeps (State.when_keeps (State.updShr_keeps h) (fun _ => fun h1 => State.setLatch_keeps h1)) (fun _ => fun h1 =>
    State.setLatch_keeps h1)

theorem State.compAct_keeps {z s : State} {m : Fin 16} {bit : ℕ} {cbc : Bool} (h : Keeps z s) : Keeps z (State.compAct s m bit cbc) := by
  unfold State.compAct
  exact Keeps.ite (State.cutRef_keeps h) (State.setLatch_keeps h)

theorem State.shroudLook_keeps {z s : State} {m : Fin 16} (h : Keeps z s) : Keeps z (State.shroudLook s m) := by
  unfold State.shroudLook
  exact State.when_keeps (State.when_keeps (State.when_keeps h (fun _ => fun h1 => State.compAct_keeps h1)) (fun _ => fun h1 => State.compAct_keeps
    h1)) (fun _ => fun h1 => State.setLatch_keeps h1)

theorem State.cutEnd_keeps {z s : State} {m : Fin 16} (h : Keeps z s) : Keeps z (State.cutEnd s m) := by
  unfold State.cutEnd
  exact State.updShr_keeps (Keeps.ite (State.cbcLatch_keeps h) h)

theorem State.shroudClear_keeps {z s : State} {m : Fin 16} (h : Keeps z s) : Keeps z (State.shroudClear s m) := by
  unfold State.shroudClear
  exact State.when_keeps (State.refreshSafe_keeps (State.updShr_keeps (State.gateMark_keeps h))) (fun _ => fun h1 => State.setFld_keeps h1)

theorem State.shroudTest_keeps {z s : State} {m : Fin 16} (h : Keeps z s) : Keeps z (State.shroudTest s m) := by
  unfold State.shroudTest
  exact Keeps.ite (State.setFld_keeps h) (State.updShr_keeps h)

theorem State.ocWritten_keeps {z s : State} {m : Fin 16} {old : Word} (h : Keeps z s) :
    Keeps z (State.ocWritten s m old) := by
  unfold State.ocWritten
  try extract_lets
  repeat' (first | with_reducible assumption | with_reducible refine Keeps.ite ?_ ?_ | with_reducible refine State.updShr_keeps ?_
                 | with_reducible refine Keeps.foldl ?_ ?_ | intro _ _ | intro _ | extract_lets | split | extract_lets | dsimp only)

theorem State.putStop_keeps {z s : State} {ports : List Nat} {src : Nat} {no : Nat} (h : Keeps z s) :
    Keeps z (State.putStop s ports src no) := by
  unfold State.putStop
  try extract_lets
  repeat' (first | with_reducible assumption | with_reducible refine Keeps.ite ?_ ?_ | with_reducible refine State.when_keeps ?_ ?_
                 | with_reducible refine Keeps.foldl ?_ ?_ | intro _ _ | intro _ | extract_lets | split
                 | (with_reducible refine Keeps.upd ?_; first | with_reducible assumption | with_reducible refine State.when_keeps ?_ ?_ | with_reducible refine Keeps.ite ?_ ?_ | with_reducible refine Keeps.foldl ?_ ?_ | split)
                 | (with_reducible refine Keeps.updE ?_; first | with_reducible assumption | with_reducible refine State.when_keeps ?_ ?_ | with_reducible refine Keeps.ite ?_ ?_ | with_reducible refine Keeps.foldl ?_ ?_ | split)
                 | intro _ _ | intro _ | extract_lets | split | extract_lets | dsimp only)

theorem State.stopOriginate_keeps {z s : State} (h : Keeps z s) :
    Keeps z (State.stopOriginate s) := by
  unfold State.stopOriginate
  try extract_lets
  repeat' (first | with_reducible assumption | with_reducible refine Keeps.ite ?_ ?_ | with_reducible refine State.putStop_keeps ?_
                 | with_reducible refine Keeps.foldl ?_ ?_ | intro _ _ | intro _ | extract_lets | split
                 | (with_reducible refine Keeps.upd ?_; first | with_reducible assumption | with_reducible refine State.putStop_keeps ?_ | with_reducible refine Keeps.ite ?_ ?_ | with_reducible refine Keeps.foldl ?_ ?_ | split)
                 | (with_reducible refine Keeps.updE ?_; first | with_reducible assumption | with_reducible refine State.putStop_keeps ?_ | with_reducible refine Keeps.ite ?_ ?_ | with_reducible refine Keeps.foldl ?_ ?_ | split)
                 | intro _ _ | intro _ | extract_lets | split | extract_lets | dsimp only)

theorem State.gateMarkAll_keeps {z s : State} (h : Keeps z s) : Keeps z (State.gateMarkAll s) := by
  unfold State.gateMarkAll
  exact Keeps.foldl h (fun _ => fun _ => fun h2 => State.gateMark_keeps h2)

theorem State.furlBy_keeps {z s : State} {by_ : ℕ} (h : Keeps z s) : Keeps z (State.furlBy s by_) := by
  unfold State.furlBy
  exact Keeps.ite h (Keeps.ite (Keeps.upd h) (State.when_keeps (Keeps.foldl (State.raise_keeps (Keeps.upd (State.gateMarkAll_keeps h))) (fun _ => fun
    _ => fun h2 => State.seqFault_keeps h2)) (fun _ => fun h1 => State.stopOriginate_keeps h1)))

theorem State.furlEnter_keeps {z s : State} {cause : ℕ} (h : Keeps z s) : Keeps z (State.furlEnter s cause) := by
  unfold State.furlEnter
  exact State.furlBy_keeps h

theorem State.furlOff_keeps {z s : State} {m : Fin 16} (h : Keeps z s) :
    Keeps z (State.furlOff s m) := by
  unfold State.furlOff
  try extract_lets
  repeat' (first | with_reducible assumption | with_reducible refine Keeps.ite ?_ ?_ | with_reducible refine State.setOut_keeps ?_
                 | with_reducible refine State.estOff_keeps ?_ | with_reducible refine Keeps.foldl ?_ ?_ | intro _ _ | intro _ | extract_lets
                 | split | extract_lets | dsimp only)

theorem State.furlLeave_keeps {z s : State} (h : Keeps z s) :
    Keeps z (State.furlLeave s) := by
  unfold State.furlLeave
  try extract_lets
  repeat' (first | with_reducible assumption | with_reducible refine Keeps.ite ?_ ?_ | with_reducible refine State.gateMarkAll_keeps ?_
                 | with_reducible refine State.furlOff_keeps ?_ | with_reducible refine State.setFld_keeps ?_
                 | with_reducible refine Keeps.foldl ?_ ?_ | intro _ _ | intro _ | extract_lets | split
                 | (with_reducible refine Keeps.upd ?_; first | with_reducible assumption | with_reducible refine State.gateMarkAll_keeps ?_ | with_reducible refine State.furlOff_keeps ?_ | with_reducible refine State.setFld_keeps ?_ | with_reducible refine Keeps.ite ?_ ?_ | with_reducible refine Keeps.foldl ?_ ?_ | split)
                 | (with_reducible refine Keeps.updE ?_; first | with_reducible assumption | with_reducible refine State.gateMarkAll_keeps ?_ | with_reducible refine State.furlOff_keeps ?_ | with_reducible refine State.setFld_keeps ?_ | with_reducible refine Keeps.ite ?_ ?_ | with_reducible refine Keeps.foldl ?_ ?_ | split)
                 | intro _ _ | intro _ | extract_lets | split | extract_lets | dsimp only)

theorem State.furlCtl_keeps {z s : State} {w : Word} (h : Keeps z s) : Keeps z (State.furlCtl s w) := by
  unfold State.furlCtl
  exact Keeps.ite (State.furlEnter_keeps h) (Keeps.ite (State.furlLeave_keeps h) h)

theorem State.updRing_keeps {z s : State} {f : Ring → Ring} (h : Keeps z s) : Keeps z (State.updRing s f) := by
  unfold State.updRing
  exact Keeps.upd h

theorem State.updPort_keeps {z s : State} {q : Fin 2} {f : Port → Port} (h : Keeps z s) : Keeps z (State.updPort s q f) := by
  unfold State.updPort
  exact State.updRing_keeps h

theorem State.setPort_keeps {z s : State} {q : Fin 2} {st : PortSt} (h : Keeps z s) : Keeps z (State.setPort s q st) := by
  unfold State.setPort
  exact State.updPort_keeps h

theorem State.signal_keeps {z s : State} {q : Fin 2} {present : Bool} (h : Keeps z s) :
    Keeps z (State.signal s q present) := by
  unfold State.signal
  try extract_lets
  repeat' (first | with_reducible assumption | with_reducible refine Keeps.ite ?_ ?_ | with_reducible refine State.setPort_keeps ?_
                 | with_reducible refine State.acquire_keeps ?_ | with_reducible refine State.updPort_keeps ?_
                 | with_reducible refine Keeps.foldl ?_ ?_ | intro _ _ | intro _ | extract_lets | split
                 | (with_reducible refine Keeps.upd ?_; first | with_reducible assumption | with_reducible refine State.setPort_keeps ?_ | with_reducible refine State.acquire_keeps ?_ | with_reducible refine State.updPort_keeps ?_ | with_reducible refine Keeps.ite ?_ ?_ | with_reducible refine Keeps.foldl ?_ ?_ | split)
                 | (with_reducible refine Keeps.updE ?_; first | with_reducible assumption | with_reducible refine State.setPort_keeps ?_ | with_reducible refine State.acquire_keeps ?_ | with_reducible refine State.updPort_keeps ?_ | with_reducible refine Keeps.ite ?_ ?_ | with_reducible refine Keeps.foldl ?_ ?_ | split)
                 | intro _ _ | intro _ | extract_lets | split | extract_lets | dsimp only)

theorem State.setWrapped_keeps {z s : State} {w : Bool} (h : Keeps z s) : Keeps z (State.setWrapped s w) := by
  unfold State.setWrapped
  exact Keeps.ite (State.updRing_keeps h) (State.putSig_keeps (State.updRing_keeps h))

theorem State.ringClose_keeps {z s : State} (h : Keeps z s) : Keeps z (State.ringClose s) := by
  unfold State.ringClose
  exact State.updRing_keeps h

theorem State.ringRefresh_keeps {z s : State} (h : Keeps z s) : Keeps z (State.ringRefresh s) := by
  unfold State.ringRefresh
  exact Keeps.ite (Keeps.ite (State.setPort_keeps (Keeps.ite (State.setPort_keeps h) h)) (Keeps.ite (State.setPort_keeps h) h)) (State.updRing_keeps
    (State.ringClose_keeps (State.setPort_keeps (State.setPort_keeps h))))

theorem State.emit_keeps {z s : State} {f : TxFrame} (h : Keeps z s) : Keeps z (State.emit s f) := by
  unfold State.emit
  exact State.updRing_keeps h

theorem State.ownFrame_keeps {z s : State} {cls : ℕ} {typ : ℕ} {dst : ℕ} {ws : List Word} (h : Keeps z s) : Keeps z (State.ownFrame s cls typ dst
  ws).2 := by
  unfold State.ownFrame
  try extract_lets
  repeat' (first | with_reducible assumption | with_reducible refine State.updRing_keeps ?_ | extract_lets | extract_lets | dsimp only)

theorem State.sendOwn_keeps {z s : State} {cls : ℕ} {typ : ℕ} {dst : ℕ} {ws : List Word} (h : Keeps z s) : Keeps z (State.sendOwn s cls typ dst ws) :=
  by
  unfold State.sendOwn
  exact Keeps.ite (State.emit_keeps (State.ownFrame_keeps h)) h

theorem sendBulk_keeps {z s : State} {l : List TxFrame} (h : Keeps z s) : Keeps z (sendBulk s l) := by
  induction l generalizing s with
  | nil => exact State.updRing_keeps h
  | cons f l ih =>
    unfold sendBulk
    dsimp only
    split
    · exact ih (State.emit_keeps (State.updRing_keeps h))
    · exact State.updRing_keeps h

theorem State.serveBulk_keeps {z s : State} (h : Keeps z s) : Keeps z (State.serveBulk s) := by
  unfold State.serveBulk
  exact Keeps.ite (sendBulk_keeps h) h

theorem State.queueBulk_keeps {z s : State} {typ : ℕ} {dst : ℕ} {ws : List Word} (h : Keeps z s) : Keeps z (State.queueBulk s typ dst ws) := by
  unfold State.queueBulk
  exact State.serveBulk_keeps (State.updRing_keeps (State.ownFrame_keeps h))

theorem State.sendTopo_keeps {z s : State} (h : Keeps z s) : Keeps z (State.sendTopo s) := by
  unfold State.sendTopo
  exact Keeps.ite (State.updRing_keeps h) (State.sendOwn_keeps (State.updRing_keeps h))

theorem State.raiseRing_keeps {z s : State} {src : ℕ} {detail : ℕ} (h : Keeps z s) : Keeps z (State.raiseRing s src detail) := by
  unfold State.raiseRing
  exact State.raise_keeps (State.setFld_keeps h)

theorem State.setWrapAt_keeps {z s : State} {q : Fin 2} {w : Bool} (h : Keeps z s) : Keeps z (State.setWrapAt s q w) := by
  unfold State.setWrapAt
  exact Keeps.ite h (Keeps.ite (State.sendTopo_keeps (State.setWrapped_keeps (State.updRing_keeps (State.raiseRing_keeps (State.updPort_keeps h)))))
    (State.raiseRing_keeps (State.updPort_keeps h)))

theorem State.ringInsert_keeps {z s : State} (h : Keeps z s) : Keeps z (State.ringInsert s) := by
  unfold State.ringInsert
  exact State.updRing_keeps h

theorem State.insertTmo_keeps {z s : State} (h : Keeps z s) : Keeps z (State.insertTmo s) := by
  unfold State.insertTmo
  exact Keeps.ite (State.updRing_keeps (State.setPort_keeps (State.setPort_keeps (State.ringClose_keeps h)))) (Keeps.ite (State.setWrapAt_keeps h)
    (Keeps.ite (State.setWrapAt_keeps h) h))

theorem State.linkSet_keeps {z s : State} {q : Fin 2} {lock : Bool} {node : ℕ} (h : Keeps z s) : Keeps z (State.linkSet s q lock node) := by
  unfold State.linkSet
  exact Keeps.ite (State.updRing_keeps (State.setPort_keeps (State.updPort_keeps h))) (State.updPort_keeps h)

theorem State.linkDrop_keeps {z s : State} {q : Fin 2} (h : Keeps z s) : Keeps z (State.linkDrop s q) := by
  unfold State.linkDrop
  exact Keeps.ite (State.ringClose_keeps (State.raiseRing_keeps (State.setPort_keeps h))) (State.setWrapAt_keeps (State.raiseRing_keeps
    (State.setPort_keeps h)))

theorem State.police_keeps {z s : State} {q : Fin 2} {cls : ℕ} {typ : ℕ} {f : Frame} (h : Keeps z s) : Keeps z (State.police s q cls typ f).2 := by
  unfold State.police
  try extract_lets
  repeat' (first | with_reducible assumption | with_reducible refine State.updRing_keeps ?_ | with_reducible refine State.raise_keeps ?_ |
    with_reducible refine State.bump_keeps ?_ | extract_lets | split | extract_lets | dsimp only)

theorem State.forward_keeps {z s : State} {q : Fin 2} {cls : Nat} {typ : Nat} {f : Frame} (h : Keeps z s) :
    Keeps z (State.forward s q cls typ f) := by
  unfold State.forward
  try extract_lets
  repeat' (first | with_reducible assumption | with_reducible refine Keeps.ite ?_ ?_ | with_reducible refine State.updRing_keeps ?_
                 | with_reducible refine Keeps.foldl ?_ ?_ | intro _ _ | intro _ | extract_lets | split | extract_lets | dsimp only)

theorem State.firstCopy_keeps {z s : State} {cls : ℕ} {f : Frame} (h : Keeps z s) : Keeps z (State.firstCopy s cls f).2 := by
  unfold State.firstCopy
  try extract_lets
  repeat' (first | with_reducible assumption | with_reducible refine State.updRing_keeps ?_ | extract_lets | split | extract_lets | dsimp only)

theorem State.rxFrame_keeps {z s : State} {q : Fin 2} {cls : ℕ} {typ : ℕ} {f : Frame} {act : State → State} (h : Keeps z s) (hact : ∀ t, Keeps z t →
  Keeps z (act t)) : Keeps z (State.rxFrame s q cls typ f act) := by
  unfold State.rxFrame
  exact Keeps.ite h (Keeps.ite (State.police_keeps h) (Keeps.ite (State.forward_keeps (State.police_keeps h)) (Keeps.ite (hact _
    (State.firstCopy_keeps (State.forward_keeps (State.police_keeps h)))) (State.firstCopy_keeps (State.forward_keeps (State.police_keeps h))))))

theorem State.frameDrop_keeps {z s : State} {q : Fin 2} {e : FrameErr} (h : Keeps z s) :
    Keeps z (State.frameDrop s q e) := by
  unfold State.frameDrop
  try extract_lets
  repeat' (first | with_reducible assumption | with_reducible refine Keeps.ite ?_ ?_ | with_reducible refine State.when_keeps ?_ ?_
                 | with_reducible refine State.bump_keeps ?_ | with_reducible refine State.raise_keeps ?_ | with_reducible refine Keeps.foldl ?_ ?_
                 | intro _ _ | intro _ | extract_lets | split | extract_lets | dsimp only)

theorem State.beacon_keeps {z s : State} {q : Fin 2} {f : Frame} (h : Keeps z s) : Keeps z (State.beacon s q f) := by
  unfold State.beacon
  exact Keeps.ite h (Keeps.ite (Keeps.ite (State.police_keeps h) (Keeps.ite (State.when_keeps (State.updRing_keeps (State.police_keeps h)) (fun _ =>
    fun h1 => State.raise_keeps h1)) (Keeps.ite (State.ringRefresh_keeps (State.updRing_keeps (State.raise_keeps (State.police_keeps h))))
    (State.raise_keeps (State.police_keeps h))))) (State.rxFrame_keeps h (fun _ => fun h1 => State.updRing_keeps h1)))

theorem State.peerWrite_keeps {z s : State} {id : ℕ} {v : Word} (h : Keeps z s) : Keeps z (State.peerWrite s id v) := by
  unfold State.peerWrite
  exact Keeps.ite (State.putSig_keeps h) (State.raise_keeps (State.setFld_keeps h))

theorem State.applyMsg_keeps {z : State} : ∀ {l : List Word} {s : State}, Keeps z s → Keeps z (s.applyMsg l)
  | [], _, h => by simpa [State.applyMsg] using h
  | [_], _, h => by simpa [State.applyMsg] using h
  | a :: w :: r, s, h => by
    rw [State.applyMsg]
    exact State.applyMsg_keeps (Keeps.ite (State.peerWrite_keeps h) h)

theorem State.applyWrites_keeps {z : State} : ∀ {l : List Word} {s : State}, Keeps z s → Keeps z (s.applyWrites l)
  | [], _, h => by simpa [State.applyWrites] using h
  | [_], _, h => by simpa [State.applyWrites] using h
  | a :: w :: r, s, h => by
    rw [State.applyWrites]
    exact State.applyWrites_keeps (State.peerWrite_keeps h)

theorem State.msgTrig_keeps {z s : State} {src : ℕ} (h : Keeps z s) : Keeps z (State.msgTrig s src) := by
  unfold State.msgTrig
  exact State.when_keeps h (fun _ => fun h1 => State.trigger_keeps h1)

theorem State.flushMsg_keeps {z s : State} (h : Keeps z s) : Keeps z (State.flushMsg s) := by
  unfold State.flushMsg
  try extract_lets
  repeat' (first | with_reducible assumption | with_reducible refine Keeps.ite ?_ ?_ | with_reducible refine State.sendOwn_keeps ?_ | with_reducible
    refine State.updRing_keeps ?_ | extract_lets | split | extract_lets | dsimp only)

theorem State.sendMsg_keeps {z s : State} {d : Nat} (h : Keeps z s) :
    Keeps z (State.sendMsg s d) := by
  unfold State.sendMsg
  try extract_lets
  repeat' (first | with_reducible assumption | with_reducible refine Keeps.ite ?_ ?_ | with_reducible refine State.applyMsg_keeps ?_
                 | with_reducible refine State.msgTrig_keeps ?_ | with_reducible refine State.when_keeps ?_ ?_
                 | with_reducible refine State.setFld_keeps ?_ | with_reducible refine State.updRing_keeps ?_
                 | with_reducible refine State.flushMsg_keeps ?_ | with_reducible refine Keeps.foldl ?_ ?_ | intro _ _ | intro _ | extract_lets
                 | split
                 | (with_reducible refine Keeps.upd ?_; first | with_reducible assumption | with_reducible refine State.applyMsg_keeps ?_ | with_reducible refine State.msgTrig_keeps ?_ | with_reducible refine State.when_keeps ?_ ?_ | with_reducible refine State.setFld_keeps ?_ | with_reducible refine State.updRing_keeps ?_ | with_reducible refine State.flushMsg_keeps ?_ | with_reducible refine Keeps.ite ?_ ?_ | with_reducible refine Keeps.foldl ?_ ?_ | split)
                 | (with_reducible refine Keeps.updE ?_; first | with_reducible assumption | with_reducible refine State.applyMsg_keeps ?_ | with_reducible refine State.msgTrig_keeps ?_ | with_reducible refine State.when_keeps ?_ ?_ | with_reducible refine State.setFld_keeps ?_ | with_reducible refine State.updRing_keeps ?_ | with_reducible refine State.flushMsg_keeps ?_ | with_reducible refine Keeps.ite ?_ ?_ | with_reducible refine Keeps.foldl ?_ ?_ | split)
                 | intro _ _ | intro _ | extract_lets | split | extract_lets | dsimp only)

theorem State.mirrorAt_keeps {z s : State} {p : ℕ} {src : ℕ} {id : ℕ} {v : Word} (h : Keeps z s) : Keeps z (State.mirrorAt s p src id v) := by
  unfold State.mirrorAt
  exact Keeps.ite (State.putSig_keeps h) h

theorem State.mirror_keeps {z s : State} {src id : Nat} {l : List Word} (h : Keeps z s) : Keeps z (s.mirror src id l) := by
  induction l generalizing s id with
  | nil => exact h
  | cons v l ih => exact ih (Keeps.foldl h fun _ _ ht => State.mirrorAt_keeps ht)

theorem State.published_keeps {z s : State} {f : Frame} {last : Bool} (h : Keeps z s) : Keeps z (State.published s f last) := by
  unfold State.published
  exact State.when_keeps (State.when_keeps (State.updRing_keeps (State.mirror_keeps h)) (fun _ => fun h1 => State.setFld_keeps h1)) (fun _ => fun h1
    => State.trigger_keeps h1)

theorem State.stopRx_keeps {z s : State} {q : Fin 2} {src : Nat} {no : Nat} {cut : Bool} (h : Keeps z s) :
    Keeps z (State.stopRx s q src no cut) := by
  unfold State.stopRx
  try extract_lets
  repeat' (first | with_reducible assumption | with_reducible refine Keeps.ite ?_ ?_ | with_reducible refine State.when_keeps ?_ ?_
                 | with_reducible refine State.bump_keeps ?_ | with_reducible refine State.updRing_keeps ?_
                 | with_reducible refine State.putStop_keeps ?_ | with_reducible refine State.furlEnter_keeps ?_
                 | with_reducible refine Keeps.foldl ?_ ?_ | intro _ _ | intro _ | extract_lets | split
                 | (with_reducible refine Keeps.upd ?_; first | with_reducible assumption | with_reducible refine State.when_keeps ?_ ?_ | with_reducible refine State.bump_keeps ?_ | with_reducible refine State.updRing_keeps ?_ | with_reducible refine State.putStop_keeps ?_ | with_reducible refine State.furlEnter_keeps ?_ | with_reducible refine Keeps.ite ?_ ?_ | with_reducible refine Keeps.foldl ?_ ?_ | split)
                 | (with_reducible refine Keeps.updE ?_; first | with_reducible assumption | with_reducible refine State.when_keeps ?_ ?_ | with_reducible refine State.bump_keeps ?_ | with_reducible refine State.updRing_keeps ?_ | with_reducible refine State.putStop_keeps ?_ | with_reducible refine State.furlEnter_keeps ?_ | with_reducible refine Keeps.ite ?_ ?_ | with_reducible refine Keeps.foldl ?_ ?_ | split)
                 | intro _ _ | intro _ | extract_lets | split | extract_lets | dsimp only)

theorem State.stopSend_keeps {z s : State} {w : Word} (h : Keeps z s) : Keeps z (State.stopSend s w) := by
  unfold State.stopSend
  exact Keeps.ite (State.furlEnter_keeps (State.stopOriginate_keeps h)) h

theorem State.stopAgain_keeps {z s : State} {e : Nat × Nat × Nat} (h : Keeps z s) :
    Keeps z (State.stopAgain s e) := by
  unfold State.stopAgain
  try extract_lets
  repeat' (first | with_reducible assumption | with_reducible refine Keeps.ite ?_ ?_ | with_reducible refine State.putStop_keeps ?_
                 | with_reducible refine State.updRing_keeps ?_ | with_reducible refine Keeps.foldl ?_ ?_ | intro _ _ | intro _ | extract_lets
                 | split
                 | (with_reducible refine Keeps.upd ?_; first | with_reducible assumption | with_reducible refine State.putStop_keeps ?_ | with_reducible refine State.updRing_keeps ?_ | with_reducible refine Keeps.ite ?_ ?_ | with_reducible refine Keeps.foldl ?_ ?_ | split)
                 | (with_reducible refine Keeps.updE ?_; first | with_reducible assumption | with_reducible refine State.putStop_keeps ?_ | with_reducible refine State.updRing_keeps ?_ | with_reducible refine Keeps.ite ?_ ?_ | with_reducible refine Keeps.foldl ?_ ?_ | split)
                 | intro _ _ | intro _ | extract_lets | split | extract_lets | dsimp only)

theorem State.stopRepeat_keeps {z s : State} (h : Keeps z s) :
    Keeps z (State.stopRepeat s) := by
  unfold State.stopRepeat
  try extract_lets
  repeat' (first | with_reducible assumption | with_reducible refine Keeps.ite ?_ ?_ | with_reducible refine State.stopAgain_keeps ?_
                 | with_reducible refine State.updRing_keeps ?_ | with_reducible refine Keeps.foldl ?_ ?_ | intro _ _ | intro _ | extract_lets
                 | split
                 | (with_reducible refine Keeps.upd ?_; first | with_reducible assumption | with_reducible refine State.stopAgain_keeps ?_ | with_reducible refine State.updRing_keeps ?_ | with_reducible refine Keeps.ite ?_ ?_ | with_reducible refine Keeps.foldl ?_ ?_ | split)
                 | (with_reducible refine Keeps.updE ?_; first | with_reducible assumption | with_reducible refine State.stopAgain_keeps ?_ | with_reducible refine State.updRing_keeps ?_ | with_reducible refine Keeps.ite ?_ ?_ | with_reducible refine Keeps.foldl ?_ ?_ | split)
                 | intro _ _ | intro _ | extract_lets | split | extract_lets | dsimp only)

theorem State.loopback_keeps {z s : State} {w : Word} (h : Keeps z s) : Keeps z (State.loopback s w) := by
  unfold State.loopback
  exact Keeps.ite h (Keeps.ite (State.setFld_keeps h) (State.updRing_keeps h))

theorem State.calPub_keeps {z s : State} (h : Keeps z s) : Keeps z (State.calPub s) := by
  unfold State.calPub
  exact State.putSig_keeps h

theorem State.calPut_keeps {z s : State} {e : CalEntry} (h : Keeps z s) : Keeps z (State.calPut s e) := by
  unfold State.calPut
  exact State.calPub_keeps (Keeps.upd h)

theorem State.calFree_keeps {z s : State} {ix : ℕ} (h : Keeps z s) : Keeps z (State.calFree s ix) := by
  unfold State.calFree
  exact State.calPub_keeps (Keeps.upd h)

theorem State.calFlag_keeps {z s : State} {f : Fld} (h : Keeps z s) : Keeps z (State.calFlag s f) := by
  unfold State.calFlag
  exact State.setFld_keeps (State.when_keeps h (fun _ => fun h1 => State.setFld_keeps h1))

theorem State.calLate_keeps {z s : State} {e : CalEntry} {step : Bool} (h : Keeps z s) : Keeps z (State.calLate s e step) := by
  unfold State.calLate
  exact Keeps.ite (State.raise_keeps (State.calPut_keeps h)) (Keeps.ite (State.raise_keeps (State.calPut_keeps h)) (Keeps.ite (State.calFree_keeps
    (State.bump_keeps (State.raise_keeps (State.calFlag_keeps h)))) (State.calPut_keeps (State.bump_keeps (State.raise_keeps (State.calFlag_keeps
    h))))))

theorem State.calSweep_keeps {z s : State} {step : Bool} (h : Keeps z s) : Keeps z (State.calSweep s step) := by
  unfold State.calSweep
  exact Keeps.foldl h (fun _ => fun _ => fun h2 => State.calLate_keeps h2)

theorem State.calRefuse_keeps {z s : State} {r : ℤ} (h : Keeps z s) : Keeps z (State.calRefuse s r).1 := by
  unfold State.calRefuse
  exact State.setFld_keeps h

theorem State.calInsert_keeps {z s : State} {w0 : Word} {w1 : Word} {w2 : Word} {w3 : Word} (h : Keeps z s)  : Keeps z (State.calInsert s w0 w1 w2 w3).1 := by
  unfold State.calInsert
  try extract_lets
  repeat' (first | with_reducible assumption | with_reducible refine Keeps.ite ?_ ?_ | with_reducible refine State.calRefuse_keeps ?_ | with_reducible refine State.raise_keeps ?_ | with_reducible refine State.bump_keeps ?_ | with_reducible refine State.calLate_keeps ?_ | with_reducible refine State.calPut_keeps ?_ | with_reducible refine Keeps.foldl ?_ ?_ | intro _ _ | intro _ | extract_lets | split | (with_reducible refine Keeps.upd ?_; first | with_reducible assumption | with_reducible refine State.calRefuse_keeps ?_ | with_reducible refine State.raise_keeps ?_ | with_reducible refine State.bump_keeps ?_ | with_reducible refine State.calLate_keeps ?_ | with_reducible refine State.calPut_keeps ?_ | with_reducible refine Keeps.ite ?_ ?_ | with_reducible refine Keeps.foldl ?_ ?_ | split) | (with_reducible refine Keeps.updE ?_; first | with_reducible assumption | with_reducible refine State.calRefuse_keeps ?_ | with_reducible refine State.raise_keeps ?_ | with_reducible refine State.bump_keeps ?_ | with_reducible refine State.calLate_keeps ?_ | with_reducible refine State.calPut_keeps ?_ | with_reducible refine Keeps.ite ?_ ?_ | with_reducible refine Keeps.foldl ?_ ?_ | split) | extract_lets | dsimp only)

theorem State.calRemove_keeps {z s : State} {ix : ℕ} (h : Keeps z s) : Keeps z (State.calRemove s ix).1 := by
  unfold State.calRemove
  try extract_lets
  repeat' (first | with_reducible assumption | with_reducible refine State.calFree_keeps ?_ | extract_lets | split | extract_lets | dsimp only)

theorem State.calRead_keeps {z s : State} {ix : ℕ} (h : Keeps z s) : Keeps z (State.calRead s ix).1 := by
  unfold State.calRead
  try extract_lets
  repeat' (first | with_reducible assumption | with_reducible refine State.wr_keeps ?_ | extract_lets | split | extract_lets | dsimp only)

theorem State.calRes_keeps {z : State} {r : State × Int} (h : Keeps z r.1) : Keeps z (State.calRes r) := State.setFld_keeps h

theorem State.calRun_keeps {z s : State} {j : CalJob} (h : Keeps z s) : Keeps z (State.calRun s j).1 := by
  unfold State.calRun
  split
  · exact State.calInsert_keeps h
  · exact State.calRemove_keeps h
  · exact State.calRead_keeps h

theorem State.calAsk_keeps {z s : State} {j : CalJob} (h : Keeps z s) : Keeps z (State.calAsk s j) := by
  unfold State.calAsk
  exact Keeps.upd h

theorem State.calCmd_keeps {z s : State} {w : Word} (h : Keeps z s) : Keeps z (s.calCmd w) := by
  unfold State.calCmd
  exact Keeps.ite h (Keeps.ite (State.setFld_keeps h) (Keeps.ite (State.calAsk_keeps h) (State.calAsk_keeps h)))

theorem State.calRan_keeps {z s : State} {e : CalEntry} (h : Keeps z s) : Keeps z (State.calRan s e) := by
  unfold State.calRan
  exact Keeps.ite h (State.when_keeps (State.calFlag_keeps (State.bump_keeps (State.putSig_keeps (State.putSig_keeps h)))) (fun _ => fun h1 =>
    State.raise_keeps h1))

theorem State.calNext_keeps {z s : State} {e : CalEntry} (h : Keeps z s) : Keeps z (State.calNext s e) := by
  unfold State.calNext
  exact Keeps.ite (State.calFree_keeps h) (Keeps.ite (State.calLate_keeps (State.calPut_keeps h)) (State.calPut_keeps h))

theorem State.updSrv_keeps {z s : State} {f : Servo → Servo} (h : Keeps z s) : Keeps z (State.updSrv s f) := by
  unfold State.updSrv
  exact Keeps.upd h

theorem State.cycleSync_keeps {z s : State} (h : Keeps z s) :
    Keeps z (State.cycleSync s) := by
  unfold State.cycleSync
  try extract_lets
  repeat' (first | with_reducible assumption | with_reducible refine Keeps.ite ?_ ?_ | with_reducible refine State.updRing_keeps ?_
                 | with_reducible refine State.cycle_keeps ?_ | with_reducible refine Keeps.foldl ?_ ?_ | intro _ _ | intro _ | extract_lets | split
                 | (with_reducible refine Keeps.upd ?_; first | with_reducible assumption | with_reducible refine State.updRing_keeps ?_ | with_reducible refine State.cycle_keeps ?_ | with_reducible refine Keeps.ite ?_ ?_ | with_reducible refine Keeps.foldl ?_ ?_ | split)
                 | (with_reducible refine Keeps.updE ?_; first | with_reducible assumption | with_reducible refine State.updRing_keeps ?_ | with_reducible refine State.cycle_keeps ?_ | with_reducible refine Keeps.ite ?_ ?_ | with_reducible refine Keeps.foldl ?_ ?_ | split)
                 | intro _ _ | intro _ | extract_lets | split | extract_lets | dsimp only)

theorem State.loadTime_keeps {z s : State} {total : Nat} {detail : Nat} (h : Keeps z s) :
    Keeps z (State.loadTime s total detail) := by
  unfold State.loadTime
  try extract_lets
  repeat' (first | with_reducible assumption | with_reducible refine Keeps.ite ?_ ?_ | with_reducible refine State.setFld_keeps ?_
                 | with_reducible refine State.raise_keeps ?_ | with_reducible refine State.when_keeps ?_ ?_
                 | with_reducible refine State.calSweep_keeps ?_ | with_reducible refine State.cycleSync_keeps ?_
                 | with_reducible refine Keeps.foldl ?_ ?_ | intro _ _ | intro _ | extract_lets | split
                 | (with_reducible refine Keeps.upd ?_; first | with_reducible assumption | with_reducible refine State.setFld_keeps ?_ | with_reducible refine State.raise_keeps ?_ | with_reducible refine State.when_keeps ?_ ?_ | with_reducible refine State.calSweep_keeps ?_ | with_reducible refine State.cycleSync_keeps ?_ | with_reducible refine Keeps.ite ?_ ?_ | with_reducible refine Keeps.foldl ?_ ?_ | split)
                 | (with_reducible refine Keeps.updE ?_; first | with_reducible assumption | with_reducible refine State.setFld_keeps ?_ | with_reducible refine State.raise_keeps ?_ | with_reducible refine State.when_keeps ?_ ?_ | with_reducible refine State.calSweep_keeps ?_ | with_reducible refine State.cycleSync_keeps ?_ | with_reducible refine Keeps.ite ?_ ?_ | with_reducible refine Keeps.foldl ?_ ?_ | split)
                 | intro _ _ | intro _ | extract_lets | split | extract_lets | dsimp only)

theorem State.enterSrv_keeps {z s : State} {st : SrvSt} (h : Keeps z s) : Keeps z (State.enterSrv s st) := by
  unfold State.enterSrv
  exact State.putSig_keeps (State.updSrv_keeps h)

theorem State.acquire_keeps {z s : State} {noSet : Bool} (h : Keeps z s) : Keeps z (State.acquire s noSet) := by
  unfold State.acquire
  exact State.updSrv_keeps (State.enterSrv_keeps h)

theorem State.setTime_keeps {z s : State} (h : Keeps z s) :
    Keeps z (State.setTime s) := by
  unfold State.setTime
  try extract_lets
  repeat' (first | with_reducible assumption | with_reducible refine Keeps.ite ?_ ?_ | with_reducible refine State.setFld_keeps ?_
                 | with_reducible refine Keeps.upd ?_ | with_reducible refine Keeps.updE ?_ | with_reducible refine Keeps.foldl ?_ ?_ | intro _ _
                 | intro _ | extract_lets | split | extract_lets | dsimp only)

theorem State.autoSet_keeps {z s : State} {th : Int} (h : Keeps z s) :
    Keeps z (State.autoSet s th) := by
  unfold State.autoSet
  try extract_lets
  repeat' (first | with_reducible assumption | with_reducible refine Keeps.ite ?_ ?_ | with_reducible refine Keeps.upd ?_
                 | with_reducible refine Keeps.updE ?_ | with_reducible refine Keeps.foldl ?_ ?_ | intro _ _ | intro _ | extract_lets | split
                 | extract_lets | dsimp only)

theorem State.tbLoad_keeps {z s : State} (h : Keeps z s) : Keeps z (State.tbLoad s) := by
  unfold State.tbLoad
  have h0 : Keeps z { s with tb.load := none } := Keeps.upd h
  dsimp only
  split
  · exact h
  · exact State.when_keeps (State.loadTime_keeps h0) fun _ k => State.acquire_keeps k
  · exact State.loadTime_keeps h0

theorem State.setRho_keeps {z s : State} {rho : Word} (h : Keeps z s) : Keeps z (State.setRho s rho) := by
  unfold State.setRho
  exact State.putSig_keeps (Keeps.upd h)

theorem State.accept_keeps {z s : State} {th : ℤ} (h : Keeps z s) : Keeps z (State.accept s th) := by
  unfold State.accept
  exact State.setRho_keeps (State.updSrv_keeps h)

theorem State.rejectSample_keeps {z s : State} (h : Keeps z s) : Keeps z (State.rejectSample s) := by
  unfold State.rejectSample
  exact State.raise_keeps (State.setFld_keeps h)

theorem State.acqSample_keeps {z s : State} {th : ℤ} (h : Keeps z s) : Keeps z (State.acqSample s th) := by
  unfold State.acqSample
  exact Keeps.ite (State.enterSrv_keeps (Keeps.ite (State.updSrv_keeps (State.autoSet_keeps h)) (State.accept_keeps h))) (State.updSrv_keeps
    (Keeps.ite (State.updSrv_keeps (State.autoSet_keeps h)) (State.accept_keeps h)))

theorem State.revSample_keeps {z s : State} {th : ℤ} (h : Keeps z s) : Keeps z (State.revSample s th) := by
  unfold State.revSample
  exact Keeps.ite (Keeps.ite (State.enterSrv_keeps (State.updSrv_keeps (State.autoSet_keeps h))) (State.enterSrv_keeps (State.accept_keeps h)))
    (State.updSrv_keeps h)

theorem State.mainSample_keeps {z s : State} {th : ℤ} (h : Keeps z s) : Keeps z (State.mainSample s th) := by
  unfold State.mainSample
  try extract_lets
  repeat' (first | with_reducible assumption | with_reducible refine Keeps.ite ?_ ?_ | with_reducible refine State.putSig_keeps ?_ | with_reducible
    refine State.updSrv_keeps ?_ | with_reducible refine State.acqSample_keeps ?_ | with_reducible refine State.accept_keeps ?_ | with_reducible
    refine State.enterSrv_keeps ?_ | with_reducible refine State.rejectSample_keeps ?_ | with_reducible refine State.revSample_keeps ?_ |
    with_reducible refine State.acquire_keeps ?_ | with_reducible refine State.raise_keeps ?_ | extract_lets | split | extract_lets | dsimp only)

theorem State.toMizzen_keeps {z s : State} (h : Keeps z s) :
    Keeps z (State.toMizzen s) := by
  unfold State.toMizzen
  try extract_lets
  repeat' (first | with_reducible assumption | with_reducible refine Keeps.ite ?_ ?_ | with_reducible refine State.enterSrv_keeps ?_
                 | with_reducible refine State.raise_keeps ?_ | with_reducible refine State.updSrv_keeps ?_
                 | with_reducible refine State.setRho_keeps ?_ | with_reducible refine Keeps.foldl ?_ ?_ | intro _ _ | intro _ | extract_lets
                 | split
                 | (with_reducible refine Keeps.upd ?_; first | with_reducible assumption | with_reducible refine State.enterSrv_keeps ?_ | with_reducible refine State.raise_keeps ?_ | with_reducible refine State.updSrv_keeps ?_ | with_reducible refine State.setRho_keeps ?_ | with_reducible refine Keeps.ite ?_ ?_ | with_reducible refine Keeps.foldl ?_ ?_ | split)
                 | (with_reducible refine Keeps.updE ?_; first | with_reducible assumption | with_reducible refine State.enterSrv_keeps ?_ | with_reducible refine State.raise_keeps ?_ | with_reducible refine State.updSrv_keeps ?_ | with_reducible refine State.setRho_keeps ?_ | with_reducible refine Keeps.ite ?_ ?_ | with_reducible refine Keeps.foldl ?_ ?_ | split)
                 | intro _ _ | intro _ | extract_lets | split | extract_lets | dsimp only)

theorem State.mizzenEnd_keeps {z s : State} (h : Keeps z s) :
    Keeps z (State.mizzenEnd s) := by
  unfold State.mizzenEnd
  try extract_lets
  repeat' (first | with_reducible assumption | with_reducible refine Keeps.ite ?_ ?_ | with_reducible refine State.enterSrv_keeps ?_
                 | with_reducible refine State.raise_keeps ?_ | with_reducible refine Keeps.foldl ?_ ?_ | intro _ _ | intro _ | extract_lets | split
                 | extract_lets | dsimp only)

theorem State.masterLost_keeps {z s : State} (h : Keeps z s) :
    Keeps z (State.masterLost s) := by
  unfold State.masterLost
  try extract_lets
  repeat' (first | with_reducible assumption | with_reducible refine Keeps.ite ?_ ?_ | with_reducible refine State.setFld_keeps ?_
                 | with_reducible refine State.updSrv_keeps ?_ | with_reducible refine State.toMizzen_keeps ?_
                 | with_reducible refine State.mizzenEnd_keeps ?_ | with_reducible refine Keeps.foldl ?_ ?_ | intro _ _ | intro _ | extract_lets
                 | split
                 | (with_reducible refine Keeps.upd ?_; first | with_reducible assumption | with_reducible refine State.setFld_keeps ?_ | with_reducible refine State.updSrv_keeps ?_ | with_reducible refine State.toMizzen_keeps ?_ | with_reducible refine State.mizzenEnd_keeps ?_ | with_reducible refine Keeps.ite ?_ ?_ | with_reducible refine Keeps.foldl ?_ ?_ | split)
                 | (with_reducible refine Keeps.updE ?_; first | with_reducible assumption | with_reducible refine State.setFld_keeps ?_ | with_reducible refine State.updSrv_keeps ?_ | with_reducible refine State.toMizzen_keeps ?_ | with_reducible refine State.mizzenEnd_keeps ?_ | with_reducible refine Keeps.ite ?_ ?_ | with_reducible refine Keeps.foldl ?_ ?_ | split)
                 | intro _ _ | intro _ | extract_lets | split | extract_lets | dsimp only)

theorem State.lostNow_keeps {z s : State} (h : Keeps z s) :
    Keeps z (State.lostNow s) := by
  unfold State.lostNow
  try extract_lets
  repeat' (first | with_reducible assumption | with_reducible refine Keeps.ite ?_ ?_ | with_reducible refine State.when_keeps ?_ ?_
                 | with_reducible refine State.setFld_keeps ?_ | with_reducible refine State.updSrv_keeps ?_
                 | with_reducible refine State.putSig_keeps ?_ | with_reducible refine State.masterLost_keeps ?_
                 | with_reducible refine State.mizzenEnd_keeps ?_ | with_reducible refine Keeps.foldl ?_ ?_ | intro _ _ | intro _ | extract_lets
                 | split
                 | (with_reducible refine Keeps.upd ?_; first | with_reducible assumption | with_reducible refine State.when_keeps ?_ ?_ | with_reducible refine State.setFld_keeps ?_ | with_reducible refine State.updSrv_keeps ?_ | with_reducible refine State.putSig_keeps ?_ | with_reducible refine State.masterLost_keeps ?_ | with_reducible refine State.mizzenEnd_keeps ?_ | with_reducible refine Keeps.ite ?_ ?_ | with_reducible refine Keeps.foldl ?_ ?_ | split)
                 | (with_reducible refine Keeps.updE ?_; first | with_reducible assumption | with_reducible refine State.when_keeps ?_ ?_ | with_reducible refine State.setFld_keeps ?_ | with_reducible refine State.updSrv_keeps ?_ | with_reducible refine State.putSig_keeps ?_ | with_reducible refine State.masterLost_keeps ?_ | with_reducible refine State.mizzenEnd_keeps ?_ | with_reducible refine Keeps.ite ?_ ?_ | with_reducible refine Keeps.foldl ?_ ?_ | split)
                 | intro _ _ | intro _ | extract_lets | split | extract_lets | dsimp only)

theorem State.mzFollow_keeps {z s : State} (h : Keeps z s) :
    Keeps z (State.mzFollow s) := by
  unfold State.mzFollow
  try extract_lets
  repeat' (first | with_reducible assumption | with_reducible refine Keeps.ite ?_ ?_ | with_reducible refine State.toMizzen_keeps ?_
                 | with_reducible refine State.mizzenEnd_keeps ?_ | with_reducible refine Keeps.foldl ?_ ?_ | intro _ _ | intro _ | extract_lets
                 | split | extract_lets | dsimp only)

theorem State.mzSample_keeps {z s : State} {th : Int} (h : Keeps z s) :
    Keeps z (State.mzSample s th) := by
  unfold State.mzSample
  try extract_lets
  repeat' (first | with_reducible assumption | with_reducible refine Keeps.ite ?_ ?_ | with_reducible refine State.updSrv_keeps ?_
                 | with_reducible refine State.putSig_keeps ?_ | with_reducible refine State.accept_keeps ?_
                 | with_reducible refine State.rejectSample_keeps ?_ | with_reducible refine State.mzFollow_keeps ?_
                 | with_reducible refine Keeps.foldl ?_ ?_ | intro _ _ | intro _ | extract_lets | split
                 | (with_reducible refine Keeps.upd ?_; first | with_reducible assumption | with_reducible refine State.updSrv_keeps ?_ | with_reducible refine State.putSig_keeps ?_ | with_reducible refine State.accept_keeps ?_ | with_reducible refine State.rejectSample_keeps ?_ | with_reducible refine State.mzFollow_keeps ?_ | with_reducible refine Keeps.ite ?_ ?_ | with_reducible refine Keeps.foldl ?_ ?_ | split)
                 | (with_reducible refine Keeps.updE ?_; first | with_reducible assumption | with_reducible refine State.updSrv_keeps ?_ | with_reducible refine State.putSig_keeps ?_ | with_reducible refine State.accept_keeps ?_ | with_reducible refine State.rejectSample_keeps ?_ | with_reducible refine State.mzFollow_keeps ?_ | with_reducible refine Keeps.ite ?_ ?_ | with_reducible refine Keeps.foldl ?_ ?_ | split)
                 | intro _ _ | intro _ | extract_lets | split | extract_lets | dsimp only)

theorem State.revert_keeps {z s : State} (h : Keeps z s) : Keeps z (State.revert s) := by
  unfold State.revert
  exact Keeps.ite (State.raise_keeps (State.acquire_keeps h)) (State.setFld_keeps h)

theorem State.tbCmd_keeps {z s : State} {w : Word} (h : Keeps z s) : Keeps z (State.tbCmd s w) := by
  unfold State.tbCmd
  exact State.when_keeps (State.when_keeps h (fun _ => fun h1 => State.setTime_keeps h1)) (fun _ => fun h1 => State.revert_keeps h1)

theorem State.refreshRole_keeps {z s0 : State} {zz : Nat} (h : Keeps z s0) :
    Keeps z (State.refreshRole s0 zz) := by
  unfold State.refreshRole
  try extract_lets
  repeat' (first | with_reducible assumption | with_reducible refine Keeps.ite ?_ ?_ | with_reducible refine State.when_keeps ?_ ?_
                 | with_reducible refine State.updSrv_keeps ?_ | with_reducible refine State.putSig_keeps ?_
                 | with_reducible refine State.acquire_keeps ?_ | with_reducible refine State.mzFollow_keeps ?_
                 | with_reducible refine State.enterSrv_keeps ?_ | with_reducible refine Keeps.foldl ?_ ?_ | intro _ _ | intro _ | extract_lets
                 | split
                 | (with_reducible refine Keeps.upd ?_; first | with_reducible assumption | with_reducible refine State.when_keeps ?_ ?_ | with_reducible refine State.updSrv_keeps ?_ | with_reducible refine State.putSig_keeps ?_ | with_reducible refine State.acquire_keeps ?_ | with_reducible refine State.mzFollow_keeps ?_ | with_reducible refine State.enterSrv_keeps ?_ | with_reducible refine Keeps.ite ?_ ?_ | with_reducible refine Keeps.foldl ?_ ?_ | split)
                 | (with_reducible refine Keeps.updE ?_; first | with_reducible assumption | with_reducible refine State.when_keeps ?_ ?_ | with_reducible refine State.updSrv_keeps ?_ | with_reducible refine State.putSig_keeps ?_ | with_reducible refine State.acquire_keeps ?_ | with_reducible refine State.mzFollow_keeps ?_ | with_reducible refine State.enterSrv_keeps ?_ | with_reducible refine Keeps.ite ?_ ?_ | with_reducible refine Keeps.foldl ?_ ?_ | split)
                 | intro _ _ | intro _ | extract_lets | split | extract_lets | dsimp only)

theorem State.timeDrop_keeps {z s : State} (h : Keeps z s) : Keeps z (State.timeDrop s) := by
  unfold State.timeDrop
  exact State.putSig_keeps h

theorem State.sync_keeps {z s : State} {q : Fin 2} {f : TimeFrame} (h : Keeps z s) : Keeps z (State.sync s q f) := by
  unfold State.sync
  exact Keeps.ite h (Keeps.ite (State.police_keeps h) (Keeps.ite (State.timeDrop_keeps (State.police_keeps h)) (Keeps.ite (State.police_keeps h)
    (Keeps.ite (State.firstCopy_keeps (State.when_keeps (State.police_keeps h) (fun _ => fun h1 => State.updSrv_keeps h1))) (Keeps.ite (Keeps.ite
    (State.mzSample_keeps (State.firstCopy_keeps (State.when_keeps (State.police_keeps h) (fun _ => fun h1 => State.updSrv_keeps h1))))
    (State.firstCopy_keeps (State.when_keeps (State.police_keeps h) (fun _ => fun h1 => State.updSrv_keeps h1)))) (Keeps.ite (State.mainSample_keeps
    (State.firstCopy_keeps (State.when_keeps (State.police_keeps h) (fun _ => fun h1 => State.updSrv_keeps h1)))) (State.firstCopy_keeps
    (State.when_keeps (State.police_keeps h) (fun _ => fun h1 => State.updSrv_keeps h1)))))))))

theorem State.pdReq_keeps {z s : State} {q : Fin 2} {f : TimeFrame} (h : Keeps z s) : Keeps z (State.pdReq s q f) := by
  unfold State.pdReq
  exact Keeps.ite h (Keeps.ite (State.police_keeps h) (Keeps.ite (State.timeDrop_keeps (State.police_keeps h)) (State.updSrv_keeps (State.police_keeps
    h))))

theorem State.pubDelay_keeps {z s : State} {q : Fin 2} (h : Keeps z s) : Keeps z (State.pubDelay s q) := by
  unfold State.pubDelay
  exact State.putSig_keeps h

theorem State.delaySample_keeps {z s : State} {q : Fin 2} {d : Int} (h : Keeps z s) :
    Keeps z (State.delaySample s q d) := by
  unfold State.delaySample
  extract_lets tc ld n ok long s1
  have h_s1 : Keeps z s1 := by
    repeat' (first | with_reducible assumption | with_reducible refine Keeps.ite ?_ ?_ | with_reducible refine State.updSrv_keeps ?_
                   | with_reducible refine State.pdReq_keeps ?_ | with_reducible refine State.pubDelay_keeps ?_
                   | with_reducible refine State.when_keeps ?_ ?_ | with_reducible refine State.raise_keeps ?_
                   | with_reducible refine Keeps.foldl ?_ ?_ | intro _ _ | intro _ | extract_lets | split
                   | (with_reducible refine Keeps.upd ?_; first | with_reducible assumption | with_reducible refine State.updSrv_keeps ?_ | with_reducible refine State.pdReq_keeps ?_ | with_reducible refine State.pubDelay_keeps ?_ | with_reducible refine State.when_keeps ?_ ?_ | with_reducible refine State.raise_keeps ?_ | with_reducible refine Keeps.ite ?_ ?_ | with_reducible refine Keeps.foldl ?_ ?_ | split)
                   | (with_reducible refine Keeps.updE ?_; first | with_reducible assumption | with_reducible refine State.updSrv_keeps ?_ | with_reducible refine State.pdReq_keeps ?_ | with_reducible refine State.pubDelay_keeps ?_ | with_reducible refine State.when_keeps ?_ ?_ | with_reducible refine State.raise_keeps ?_ | with_reducible refine Keeps.ite ?_ ?_ | with_reducible refine Keeps.foldl ?_ ?_ | split)
                   | intro _ _ | intro _ | extract_lets | split | extract_lets | dsimp only)
  clear_value s1
  repeat' (first | with_reducible assumption | with_reducible refine Keeps.ite ?_ ?_ | with_reducible refine State.updSrv_keeps ?_
                 | with_reducible refine State.pdReq_keeps ?_ | with_reducible refine State.pubDelay_keeps ?_
                 | with_reducible refine State.when_keeps ?_ ?_ | with_reducible refine State.raise_keeps ?_
                 | with_reducible refine Keeps.foldl ?_ ?_ | intro _ _ | intro _ | extract_lets | split
                 | (with_reducible refine Keeps.upd ?_; first | with_reducible assumption | with_reducible refine State.updSrv_keeps ?_ | with_reducible refine State.pdReq_keeps ?_ | with_reducible refine State.pubDelay_keeps ?_ | with_reducible refine State.when_keeps ?_ ?_ | with_reducible refine State.raise_keeps ?_ | with_reducible refine Keeps.ite ?_ ?_ | with_reducible refine Keeps.foldl ?_ ?_ | split)
                 | (with_reducible refine Keeps.updE ?_; first | with_reducible assumption | with_reducible refine State.updSrv_keeps ?_ | with_reducible refine State.pdReq_keeps ?_ | with_reducible refine State.pubDelay_keeps ?_ | with_reducible refine State.when_keeps ?_ ?_ | with_reducible refine State.raise_keeps ?_ | with_reducible refine Keeps.ite ?_ ?_ | with_reducible refine Keeps.foldl ?_ ?_ | split)
                 | intro _ _ | intro _ | extract_lets | split | extract_lets | dsimp only)

theorem State.pdResp_keeps {z s : State} {q : Fin 2} {f : TimeFrame} {ago : Nat} (h : Keeps z s) :
    Keeps z (State.pdResp s q f ago) := by
  unfold State.pdResp
  try extract_lets
  repeat' (first | with_reducible assumption | with_reducible refine Keeps.ite ?_ ?_ | with_reducible refine State.police_keeps ?_
                 | with_reducible refine State.timeDrop_keeps ?_ | with_reducible refine State.pdReq_keeps ?_
                 | with_reducible refine State.delaySample_keeps ?_ | with_reducible refine Keeps.foldl ?_ ?_ | intro _ _ | intro _ | extract_lets
                 | split | extract_lets | dsimp only)

theorem State.delayLost_keeps {z s : State} {q : Fin 2} (h : Keeps z s) : Keeps z (State.delayLost s q) := by
  unfold State.delayLost
  exact State.pubDelay_keeps (State.updSrv_keeps h)

theorem State.delaysFollow_keeps {z s : State} (h : Keeps z s) : Keeps z (State.delaysFollow s) := by
  unfold State.delaysFollow
  exact Keeps.ite (State.delayLost_keeps (Keeps.ite (State.delayLost_keeps h) h)) (Keeps.ite (State.delayLost_keeps h) h)

theorem State.ownTime_keeps {z s : State} {hh : Frame} {typ : Nat} {mizzen : Bool} {q : Nat} {dir : Bool} {id : Nat} {corr : Int} {ask : BitVec 64 × BitVec 16} (h : Keeps z s) :
    Keeps z (State.ownTime s hh typ mizzen q dir id corr ask) := by
  unfold State.ownTime
  try extract_lets
  repeat' (first | with_reducible assumption | with_reducible refine Keeps.ite ?_ ?_ | with_reducible refine State.updSrv_keeps ?_
                 | with_reducible refine Keeps.foldl ?_ ?_ | intro _ _ | intro _ | extract_lets | split
                 | (with_reducible refine Keeps.upd ?_; first | with_reducible assumption | with_reducible refine State.updSrv_keeps ?_ | with_reducible refine Keeps.ite ?_ ?_ | with_reducible refine Keeps.foldl ?_ ?_ | split)
                 | (with_reducible refine Keeps.updE ?_; first | with_reducible assumption | with_reducible refine State.updSrv_keeps ?_ | with_reducible refine Keeps.ite ?_ ?_ | with_reducible refine Keeps.foldl ?_ ?_ | split)
                 | intro _ _ | intro _ | extract_lets | split | extract_lets | dsimp only)

theorem State.nextId_keeps {z s : State} {k : Fin 3} (h : Keeps z s) : Keeps z (State.nextId s k).2 := by
  unfold State.nextId
  try extract_lets
  repeat' (first | with_reducible assumption | with_reducible refine State.updSrv_keeps ?_ | extract_lets | extract_lets | dsimp only)

theorem State.sendSync_keeps {z s : State} {mizzen : Bool} (h : Keeps z s) :
    Keeps z (State.sendSync s mizzen) := by
  unfold State.sendSync
  try extract_lets
  repeat' (first | with_reducible assumption | with_reducible refine Keeps.ite ?_ ?_ | with_reducible refine State.nextId_keeps ?_
                 | with_reducible refine State.ownFrame_keeps ?_ | with_reducible refine State.ownTime_keeps ?_
                 | with_reducible refine Keeps.foldl ?_ ?_ | intro _ _ | intro _ | extract_lets | split | extract_lets | dsimp only)

theorem State.askDelay_keeps {z s : State} {q : Fin 2} (h : Keeps z s) :
    Keeps z (State.askDelay s q) := by
  unfold State.askDelay
  try extract_lets
  repeat' (first | with_reducible assumption | with_reducible refine Keeps.ite ?_ ?_ | with_reducible refine State.pdReq_keeps ?_
                 | with_reducible refine State.delayLost_keeps ?_ | with_reducible refine State.nextId_keeps ?_
                 | with_reducible refine State.updSrv_keeps ?_ | with_reducible refine State.ownFrame_keeps ?_
                 | with_reducible refine State.ownTime_keeps ?_ | with_reducible refine Keeps.foldl ?_ ?_ | intro _ _ | intro _ | extract_lets
                 | split
                 | (with_reducible refine Keeps.upd ?_; first | with_reducible assumption | with_reducible refine State.pdReq_keeps ?_ | with_reducible refine State.delayLost_keeps ?_ | with_reducible refine State.nextId_keeps ?_ | with_reducible refine State.updSrv_keeps ?_ | with_reducible refine State.ownFrame_keeps ?_ | with_reducible refine State.ownTime_keeps ?_ | with_reducible refine Keeps.ite ?_ ?_ | with_reducible refine Keeps.foldl ?_ ?_ | split)
                 | (with_reducible refine Keeps.updE ?_; first | with_reducible assumption | with_reducible refine State.pdReq_keeps ?_ | with_reducible refine State.delayLost_keeps ?_ | with_reducible refine State.nextId_keeps ?_ | with_reducible refine State.updSrv_keeps ?_ | with_reducible refine State.ownFrame_keeps ?_ | with_reducible refine State.ownTime_keeps ?_ | with_reducible refine Keeps.ite ?_ ?_ | with_reducible refine Keeps.foldl ?_ ?_ | split)
                 | intro _ _ | intro _ | extract_lets | split | extract_lets | dsimp only)

theorem State.answerDelay_keeps {z s : State} {e : PdAsk} (h : Keeps z s) :
    Keeps z (State.answerDelay s e) := by
  unfold State.answerDelay
  try extract_lets
  repeat' (first | with_reducible assumption | with_reducible refine Keeps.ite ?_ ?_ | with_reducible refine State.ownFrame_keeps ?_
                 | with_reducible refine State.ownTime_keeps ?_ | with_reducible refine Keeps.foldl ?_ ?_ | intro _ _ | intro _ | extract_lets
                 | split | extract_lets | dsimp only)

theorem State.answerDelays_keeps {z s : State} (h : Keeps z s) :
    Keeps z (State.answerDelays s) := by
  unfold State.answerDelays
  try extract_lets
  repeat' (first | with_reducible assumption | with_reducible refine Keeps.ite ?_ ?_ | with_reducible refine State.answerDelay_keeps ?_
                 | with_reducible refine State.updSrv_keeps ?_ | with_reducible refine Keeps.foldl ?_ ?_ | intro _ _ | intro _ | extract_lets
                 | split
                 | (with_reducible refine Keeps.upd ?_; first | with_reducible assumption | with_reducible refine State.answerDelay_keeps ?_ | with_reducible refine State.updSrv_keeps ?_ | with_reducible refine Keeps.ite ?_ ?_ | with_reducible refine Keeps.foldl ?_ ?_ | split)
                 | (with_reducible refine Keeps.updE ?_; first | with_reducible assumption | with_reducible refine State.answerDelay_keeps ?_ | with_reducible refine State.updSrv_keeps ?_ | with_reducible refine Keeps.ite ?_ ?_ | with_reducible refine Keeps.foldl ?_ ?_ | split)
                 | intro _ _ | intro _ | extract_lets | split | extract_lets | dsimp only)

theorem State.timeCycle_keeps {z s : State} (h : Keeps z s) : Keeps z s.timeCycle := by
  unfold State.timeCycle
  extract_lets c s0
  have h0 : Keeps z s0 := State.updSrv_keeps h
  clear_value s0
  refine Keeps.ite (State.when_keeps h0 fun _ ht => State.sendSync_keeps ht) ?_
  refine Keeps.ite (State.when_keeps h0 fun _ ht => State.sendSync_keeps ht) ?_
  exact Keeps.ite (State.askDelay_keeps (State.askDelay_keeps h0)) (Keeps.ite (State.answerDelays_keeps h0) h0)

theorem State.capture_keeps {z s : State} {n : ℕ} (h : Keeps z s) : Keeps z (State.capture s n) := by
  unfold State.capture
  exact State.putSig_keeps (State.putSig_keeps (State.putSig_keeps (State.putSig_keeps (State.setFld_keeps (State.when_keeps h (fun _ => fun h1 =>
    State.setFld_keeps h1))))))

theorem State.gpioPut_keeps {z s : State} {mask : Nat} {v : Nat} (h : Keeps z s) :
    Keeps z (State.gpioPut s mask v) := by
  unfold State.gpioPut
  extract_lets old hold now w s1
  have h_s1 : Keeps z s1 := by
    repeat' (first | with_reducible assumption | with_reducible refine Keeps.ite ?_ ?_ | with_reducible refine State.wr_keeps ?_
                   | with_reducible refine State.putSig_keeps ?_ | with_reducible refine Keeps.upd ?_ | with_reducible refine Keeps.updE ?_
                   | with_reducible refine Keeps.foldl ?_ ?_ | intro _ _ | intro _ | extract_lets | split | extract_lets | dsimp only)
  clear_value s1
  repeat' (first | with_reducible assumption | with_reducible refine Keeps.ite ?_ ?_ | with_reducible refine State.wr_keeps ?_
                 | with_reducible refine State.putSig_keeps ?_ | with_reducible refine Keeps.upd ?_ | with_reducible refine Keeps.updE ?_
                 | with_reducible refine Keeps.foldl ?_ ?_ | intro _ _ | intro _ | extract_lets | split | extract_lets | dsimp only)

theorem State.gpioOut_keeps {z s : State} {rank : Nat} {mask : Nat} {v : Nat} {tog : Bool} (h : Keeps z s) :
    Keeps z (State.gpioOut s rank mask v tog) := by
  unfold State.gpioOut
  try extract_lets
  repeat' (first | with_reducible assumption | with_reducible refine Keeps.ite ?_ ?_ | with_reducible refine State.gpioPut_keeps ?_
                 | with_reducible refine Keeps.upd ?_ | with_reducible refine Keeps.updE ?_ | with_reducible refine Keeps.foldl ?_ ?_ | intro _ _
                 | intro _ | extract_lets | split | extract_lets | dsimp only)

theorem State.noteHw_keeps {z s : State} {id : Nat} (h : Keeps z s) :
    Keeps z (State.noteHw s id) := by
  unfold State.noteHw
  try extract_lets
  repeat' (first | with_reducible assumption | with_reducible refine Keeps.ite ?_ ?_ | with_reducible refine Keeps.foldl ?_ ?_ | intro _ _ | intro _
                 | extract_lets | split
                 | (with_reducible refine Keeps.upd ?_; first | with_reducible assumption | with_reducible refine Keeps.ite ?_ ?_ | with_reducible refine Keeps.foldl ?_ ?_ | split)
                 | (with_reducible refine Keeps.updE ?_; first | with_reducible assumption | with_reducible refine Keeps.ite ?_ ?_ | with_reducible refine Keeps.foldl ?_ ?_ | split)
                 | intro _ _ | intro _ | extract_lets | split | extract_lets | dsimp only)

theorem State.gpioRelease_keeps {z s : State} (h : Keeps z s) :
    Keeps z (State.gpioRelease s) := by
  unfold State.gpioRelease
  try extract_lets
  repeat' (first | with_reducible assumption | with_reducible refine Keeps.ite ?_ ?_ | with_reducible refine State.noteHw_keeps ?_
                 | with_reducible refine State.gpioPut_keeps ?_ | with_reducible refine Keeps.foldl ?_ ?_ | intro _ _ | intro _ | extract_lets
                 | split
                 | (with_reducible refine Keeps.upd ?_; first | with_reducible assumption | with_reducible refine State.noteHw_keeps ?_ | with_reducible refine State.gpioPut_keeps ?_ | with_reducible refine Keeps.ite ?_ ?_ | with_reducible refine Keeps.foldl ?_ ?_ | split)
                 | (with_reducible refine Keeps.updE ?_; first | with_reducible assumption | with_reducible refine State.noteHw_keeps ?_ | with_reducible refine State.gpioPut_keeps ?_ | with_reducible refine Keeps.ite ?_ ?_ | with_reducible refine Keeps.foldl ?_ ?_ | split)
                 | intro _ _ | intro _ | extract_lets | split | extract_lets | dsimp only)

theorem State.gpioEdge_keeps {z s : State} {p : Fin 32} {level : Bool} (h : Keeps z s) :
    Keeps z (State.gpioEdge s p level) := by
  unfold State.gpioEdge
  try extract_lets
  repeat' (first | with_reducible assumption | with_reducible refine Keeps.ite ?_ ?_ | with_reducible refine State.orFresh_keeps ?_
                 | with_reducible refine State.putSig_keeps ?_ | with_reducible refine Keeps.foldl ?_ ?_ | intro _ _ | intro _ | extract_lets
                 | split
                 | (with_reducible refine Keeps.upd ?_; first | with_reducible assumption | with_reducible refine State.orFresh_keeps ?_ | with_reducible refine State.putSig_keeps ?_ | with_reducible refine Keeps.ite ?_ ?_ | with_reducible refine Keeps.foldl ?_ ?_ | split)
                 | (with_reducible refine Keeps.updE ?_; first | with_reducible assumption | with_reducible refine State.orFresh_keeps ?_ | with_reducible refine State.putSig_keeps ?_ | with_reducible refine Keeps.ite ?_ ?_ | with_reducible refine Keeps.foldl ?_ ?_ | split)
                 | intro _ _ | intro _ | extract_lets | split | extract_lets | dsimp only)

theorem publishRange_keeps {z s : State} {fuel id n : Nat} (h : Keeps z s) : Keeps z (publishRange fuel s id n) := by
  induction fuel generalizing s id n with
  | zero => exact h
  | succ k ih =>
    unfold publishRange
    dsimp only
    split
    · exact h
    · exact ih (State.sendOwn_keeps h)

theorem State.publish_keeps {z s : State} (h : Keeps z s) : Keeps z (State.publish s) := by
  unfold State.publish
  exact Keeps.foldl h (fun _ => fun _ => fun h2 => Keeps.ite (publishRange_keeps h2) h2)

theorem State.cycleStart_keeps {z s : State} (h : Keeps z s) :
    Keeps z (State.cycleStart s) := by
  unfold State.cycleStart
  extract_lets c add dep fill s1 s2 s3 s4 s5
  have h_s1 : Keeps z s1 := by
    repeat' (first | with_reducible assumption | with_reducible refine Keeps.ite ?_ ?_ | with_reducible refine State.updRing_keeps ?_
                   | with_reducible refine State.setWrapped_keeps ?_ | with_reducible refine State.sendOwn_keeps ?_
                   | with_reducible refine State.when_keeps ?_ ?_ | with_reducible refine State.sendTopo_keeps ?_
                   | with_reducible refine State.flushMsg_keeps ?_ | with_reducible refine State.publish_keeps ?_
                   | with_reducible refine State.serveBulk_keeps ?_ | with_reducible refine State.putSig_keeps ?_
                   | with_reducible refine Keeps.foldl ?_ ?_ | intro _ _ | intro _ | extract_lets | split | extract_lets | dsimp only)
  clear_value s1
  have h_s2 : Keeps z s2 := by
    repeat' (first | with_reducible assumption | with_reducible refine Keeps.ite ?_ ?_ | with_reducible refine State.updRing_keeps ?_
                   | with_reducible refine State.setWrapped_keeps ?_ | with_reducible refine State.sendOwn_keeps ?_
                   | with_reducible refine State.when_keeps ?_ ?_ | with_reducible refine State.sendTopo_keeps ?_
                   | with_reducible refine State.flushMsg_keeps ?_ | with_reducible refine State.publish_keeps ?_
                   | with_reducible refine State.serveBulk_keeps ?_ | with_reducible refine State.putSig_keeps ?_
                   | with_reducible refine Keeps.foldl ?_ ?_ | intro _ _ | intro _ | extract_lets | split | extract_lets | dsimp only)
  clear_value s2
  have h_s3 : Keeps z s3 := by
    repeat' (first | with_reducible assumption | with_reducible refine Keeps.ite ?_ ?_ | with_reducible refine State.updRing_keeps ?_
                   | with_reducible refine State.setWrapped_keeps ?_ | with_reducible refine State.sendOwn_keeps ?_
                   | with_reducible refine State.when_keeps ?_ ?_ | with_reducible refine State.sendTopo_keeps ?_
                   | with_reducible refine State.flushMsg_keeps ?_ | with_reducible refine State.publish_keeps ?_
                   | with_reducible refine State.serveBulk_keeps ?_ | with_reducible refine State.putSig_keeps ?_
                   | with_reducible refine Keeps.foldl ?_ ?_ | intro _ _ | intro _ | extract_lets | split | extract_lets | dsimp only)
  clear_value s3
  have h_s4 : Keeps z s4 := by
    repeat' (first | with_reducible assumption | with_reducible refine Keeps.ite ?_ ?_ | with_reducible refine State.updRing_keeps ?_
                   | with_reducible refine State.setWrapped_keeps ?_ | with_reducible refine State.sendOwn_keeps ?_
                   | with_reducible refine State.when_keeps ?_ ?_ | with_reducible refine State.sendTopo_keeps ?_
                   | with_reducible refine State.flushMsg_keeps ?_ | with_reducible refine State.publish_keeps ?_
                   | with_reducible refine State.serveBulk_keeps ?_ | with_reducible refine State.putSig_keeps ?_
                   | with_reducible refine Keeps.foldl ?_ ?_ | intro _ _ | intro _ | extract_lets | split | extract_lets | dsimp only)
  clear_value s4
  have h_s5 : Keeps z s5 := by
    repeat' (first | with_reducible assumption | with_reducible refine Keeps.ite ?_ ?_ | with_reducible refine State.updRing_keeps ?_
                   | with_reducible refine State.setWrapped_keeps ?_ | with_reducible refine State.sendOwn_keeps ?_
                   | with_reducible refine State.when_keeps ?_ ?_ | with_reducible refine State.sendTopo_keeps ?_
                   | with_reducible refine State.flushMsg_keeps ?_ | with_reducible refine State.publish_keeps ?_
                   | with_reducible refine State.serveBulk_keeps ?_ | with_reducible refine State.putSig_keeps ?_
                   | with_reducible refine Keeps.foldl ?_ ?_ | intro _ _ | intro _ | extract_lets | split | extract_lets | dsimp only)
  clear_value s5
  repeat' (first | with_reducible assumption | with_reducible refine Keeps.ite ?_ ?_ | with_reducible refine State.updRing_keeps ?_
                 | with_reducible refine State.setWrapped_keeps ?_ | with_reducible refine State.sendOwn_keeps ?_
                 | with_reducible refine State.when_keeps ?_ ?_ | with_reducible refine State.sendTopo_keeps ?_
                 | with_reducible refine State.flushMsg_keeps ?_ | with_reducible refine State.publish_keeps ?_
                 | with_reducible refine State.serveBulk_keeps ?_ | with_reducible refine State.putSig_keeps ?_
                 | with_reducible refine Keeps.foldl ?_ ?_ | intro _ _ | intro _ | extract_lets | split | extract_lets | dsimp only)

theorem State.sigBad_keeps {z s : State} (h : Keeps z s) : Keeps z (State.sigBad s).st := by
  unfold State.sigBad
  exact State.raise_keeps h

theorem State.putNew_keeps {z s : State} {id : Nat} {w : Word} (h : Keeps z s) :
    Keeps z (State.putNew s id w) := by
  unfold State.putNew
  try extract_lets
  repeat' (first | with_reducible assumption | with_reducible refine Keeps.ite ?_ ?_ | with_reducible refine State.putSig_keeps ?_
                 | with_reducible refine Keeps.foldl ?_ ?_ | intro _ _ | intro _ | extract_lets | split | extract_lets | dsimp only)

theorem State.sigTick_keeps {z s : State} (h : Keeps z s) :
    Keeps z (State.sigTick s) := by
  unfold State.sigTick
  extract_lets s1
  have h_s1 : Keeps z s1 := by
    repeat' (first | with_reducible assumption | with_reducible refine Keeps.ite ?_ ?_ | with_reducible refine State.putNew_keeps ?_
                   | with_reducible refine fireWatches_keeps ?_ | with_reducible refine State.trcWatch_keeps ?_
                   | with_reducible refine Keeps.foldl ?_ ?_ | intro _ _ | intro _ | extract_lets | split | extract_lets | dsimp only)
  clear_value s1
  repeat' (first | with_reducible assumption | with_reducible refine Keeps.ite ?_ ?_ | with_reducible refine State.putNew_keeps ?_
                 | with_reducible refine fireWatches_keeps ?_ | with_reducible refine State.trcWatch_keeps ?_
                 | with_reducible refine Keeps.foldl ?_ ?_ | intro _ _ | intro _ | extract_lets | split | extract_lets | dsimp only)

theorem State.noteSig_keeps {z s : State} {rank : Nat} {id : Nat} (h : Keeps z s) :
    Keeps z (State.noteSig s rank id) := by
  unfold State.noteSig
  try extract_lets
  repeat' (first | with_reducible assumption | with_reducible refine Keeps.ite ?_ ?_ | with_reducible refine Keeps.upd ?_
                 | with_reducible refine Keeps.updE ?_ | with_reducible refine Keeps.foldl ?_ ?_ | intro _ _ | intro _ | extract_lets | split
                 | extract_lets | dsimp only)

theorem State.putRank_keeps {z s : State} {rank : Nat} {id : Nat} {w : Word} (h : Keeps z s) :
    Keeps z (State.putRank s rank id w) := by
  unfold State.putRank
  try extract_lets
  repeat' (first | with_reducible assumption | with_reducible refine Keeps.ite ?_ ?_ | with_reducible refine fireWatches_keeps ?_
                 | with_reducible refine State.trcWatch_keeps ?_ | with_reducible refine State.noteSig_keeps ?_
                 | with_reducible refine State.putSig_keeps ?_ | with_reducible refine Keeps.foldl ?_ ?_ | intro _ _ | intro _ | extract_lets
                 | split | extract_lets | dsimp only)

theorem State.post_keeps {z s : State} {rank : Nat} {p : Post} (h : Keeps z s) :
    Keeps z (State.post s rank p) := by
  unfold State.post
  try extract_lets
  repeat' (first | with_reducible assumption | with_reducible refine Keeps.ite ?_ ?_ | with_reducible refine Keeps.foldl ?_ ?_ | intro _ _ | intro _
                 | extract_lets | split
                 | (with_reducible refine Keeps.upd ?_; first | with_reducible assumption | with_reducible refine Keeps.ite ?_ ?_ | with_reducible refine Keeps.foldl ?_ ?_ | split)
                 | (with_reducible refine Keeps.updE ?_; first | with_reducible assumption | with_reducible refine Keeps.ite ?_ ?_ | with_reducible refine Keeps.foldl ?_ ?_ | split)
                 | intro _ _ | intro _ | extract_lets | split | extract_lets | dsimp only)

theorem State.opWrite_keeps {z s : State} {rank : Nat} {id : Nat} {w : Word} (h : Keeps z s) :
    Keeps z (State.opWrite s rank id w) := by
  unfold State.opWrite
  try extract_lets
  repeat' (first | with_reducible assumption | with_reducible refine Keeps.ite ?_ ?_ | with_reducible refine State.setFld_keeps ?_
                 | with_reducible refine State.putRank_keeps ?_ | with_reducible refine State.post_keeps ?_
                 | with_reducible refine State.gpioOut_keeps ?_ | with_reducible refine State.putSig_keeps ?_
                 | with_reducible refine State.orFresh_keeps ?_ | with_reducible refine State.updCom_keeps ?_
                 | with_reducible refine Keeps.foldl ?_ ?_ | intro _ _ | intro _ | extract_lets | split
                 | (with_reducible refine Keeps.upd ?_; first | with_reducible assumption | with_reducible refine State.setFld_keeps ?_ | with_reducible refine State.putRank_keeps ?_ | with_reducible refine State.post_keeps ?_ | with_reducible refine State.gpioOut_keeps ?_ | with_reducible refine State.putSig_keeps ?_ | with_reducible refine State.orFresh_keeps ?_ | with_reducible refine State.updCom_keeps ?_ | with_reducible refine Keeps.ite ?_ ?_ | with_reducible refine Keeps.foldl ?_ ?_ | split)
                 | (with_reducible refine Keeps.updE ?_; first | with_reducible assumption | with_reducible refine State.setFld_keeps ?_ | with_reducible refine State.putRank_keeps ?_ | with_reducible refine State.post_keeps ?_ | with_reducible refine State.gpioOut_keeps ?_ | with_reducible refine State.putSig_keeps ?_ | with_reducible refine State.orFresh_keeps ?_ | with_reducible refine State.updCom_keeps ?_ | with_reducible refine Keeps.ite ?_ ?_ | with_reducible refine Keeps.foldl ?_ ?_ | split)
                 | intro _ _ | intro _ | extract_lets | split | extract_lets | dsimp only)

theorem State.bufAdd_keeps {z s : State} {rank : Nat} {id : Nat} {w : Word} (h : Keeps z s) :
    Keeps z (State.bufAdd s rank id w) := by
  unfold State.bufAdd
  try extract_lets
  repeat' (first | with_reducible assumption | with_reducible refine Keeps.ite ?_ ?_ | with_reducible refine Keeps.foldl ?_ ?_ | intro _ _ | intro _
                 | extract_lets | split
                 | (with_reducible refine Keeps.upd ?_; first | with_reducible assumption | with_reducible refine Keeps.ite ?_ ?_ | with_reducible refine Keeps.foldl ?_ ?_ | split)
                 | (with_reducible refine Keeps.updE ?_; first | with_reducible assumption | with_reducible refine Keeps.ite ?_ ?_ | with_reducible refine Keeps.foldl ?_ ?_ | split)
                 | intro _ _ | intro _ | extract_lets | split | extract_lets | dsimp only)

theorem State.writeSig_keeps {z s : State} {rank : Nat} {id : Nat} {w : Word} (h : Keeps z s) :
    Keeps z (State.writeSig s rank id w).st := by
  unfold State.writeSig
  try extract_lets
  repeat' (first | with_reducible assumption | with_reducible refine Keeps.ite ?_ ?_ | with_reducible refine State.opWrite_keeps ?_
                 | with_reducible refine State.mirror_keeps ?_ | with_reducible refine State.sigBad_keeps ?_
                 | with_reducible refine State.raise_keeps ?_ | with_reducible refine State.when_keeps ?_ ?_
                 | with_reducible refine State.noteSig_keeps ?_ | with_reducible refine State.bufAdd_keeps ?_
                 | with_reducible refine State.post_keeps ?_ | with_reducible refine Keeps.foldl ?_ ?_ | intro _ _ | intro _ | extract_lets | split
                 | extract_lets | dsimp only)

theorem State.nextReq_keeps {z s : State} {who : Nat} (h : Keeps z s) : Keeps z (State.nextReq s who).2 := by
  unfold State.nextReq
  split
  · dsimp only
    exact State.updC_keeps h
  · exact Keeps.upd h

theorem State.readSig_keeps {z s : State} {who : Nat} {id : Nat} (h : Keeps z s) :
    Keeps z (State.readSig s who id).st := by
  unfold State.readSig
  try extract_lets
  repeat' (first | with_reducible assumption | with_reducible refine Keeps.ite ?_ ?_ | with_reducible refine State.mirror_keeps ?_
                 | with_reducible refine State.nextReq_keeps ?_ | with_reducible refine State.post_keeps ?_
                 | with_reducible refine Keeps.foldl ?_ ?_ | intro _ _ | intro _ | extract_lets | split
                 | (with_reducible refine Keeps.upd ?_; first | with_reducible assumption | with_reducible refine State.mirror_keeps ?_ | with_reducible refine State.nextReq_keeps ?_ | with_reducible refine State.post_keeps ?_ | with_reducible refine Keeps.ite ?_ ?_ | with_reducible refine Keeps.foldl ?_ ?_ | split)
                 | (with_reducible refine Keeps.updE ?_; first | with_reducible assumption | with_reducible refine State.mirror_keeps ?_ | with_reducible refine State.nextReq_keeps ?_ | with_reducible refine State.post_keeps ?_ | with_reducible refine Keeps.ite ?_ ?_ | with_reducible refine Keeps.foldl ?_ ?_ | split)
                 | intro _ _ | intro _ | extract_lets | split | extract_lets | dsimp only)

end Sys2Proof.Machine
end

