-- ==== Sys2Proof/Laws/KeepsEngine.lean ====
section
/-! SUPPORT. Laws/KeepsEngine.lean: what cells and engine keep: the queue, the variant and the canonical form of the memories. -/

set_option linter.unusedTactic false
set_option linter.unreachableTactic false
set_option linter.unusedVariables false

namespace Sys2Proof.Machine

theorem State.trcStart_keeps {z s : State} (h : Keeps z s) : Keeps z (State.trcStart s) := by
  unfold State.trcStart
  exact Keeps.updE h

theorem State.trcCond_keeps {z s : State} {cond : ℕ} (h : Keeps z s) : Keeps z (State.trcCond s cond) := by
  unfold State.trcCond
  exact Keeps.ite (State.trcStart_keeps h) h

theorem State.trcCtl_keeps {z s : State} {w : Word} (h : Keeps z s) : Keeps z (s.trcCtl w) := by
  have h1 : Keeps z (s.wr R.TRC_CTL w) := State.wr_keeps h
  have h2 : Keeps z ((List.range 1024).foldl (fun s i => s.putSig (0xC00 + i) 0#32) (s.wr R.TRC_CTL w)) :=
    Keeps.foldl h1 fun _ _ ht => State.putSig_keeps ht
  unfold State.trcCtl
  dsimp only
  generalize (List.range 1024).foldl (fun s i => s.putSig (0xC00 + i) 0#32) (s.wr R.TRC_CTL w) = s2 at h2
  generalize s.wr R.TRC_CTL w = s1 at h1
  exact Keeps.ite (Keeps.updE h1) (Keeps.ite h1 (State.trcCond_keeps (Keeps.updE h2)))

theorem putFrom_keeps {z s : State} {id : Nat} {l : List Word} (h : Keeps z s) : Keeps z (putFrom s id l) := by
  induction l generalizing s id with
  | nil => exact h
  | cons w r ih => exact ih (State.putSig_keeps h)

theorem State.trcPut_keeps {z s : State} {e : TrcRec} (h : Keeps z s) : Keeps z (State.trcPut s e) := by
  unfold State.trcPut
  refine Keeps.ite (Keeps.upd h) ⟨h.pending, h.now, h.variant, fun c => ?_⟩
  have k := h.canonical c
  refine ⟨k.1, ?_, k.2.2⟩
  have f : ∀ (l : List (Nat × Word)) (q : Sparse), spWf sigReset q = true →
      spWf sigReset (l.foldl (fun l x => spSet (sigReset x.1) l x.1 x.2) q) = true := by
    intro l
    induction l with
    | nil => exact fun _ hq => hq
    | cons x r ih => exact fun _ hq => ih _ (spSet_wf (d := sigReset) hq)
  exact f _ _ k.2.1

theorem State.trcOrder_keeps {z s : State} {l : List TrcRec} (h : Keeps z s) :
    Keeps z (State.trcOrder s l) := by
  unfold State.trcOrder
  try extract_lets
  repeat' (first | with_reducible assumption | with_reducible refine Keeps.ite ?_ ?_ | with_reducible refine State.trcPut_keeps ?_
                 | with_reducible refine Keeps.foldl ?_ ?_ | intro _ _ | intro _ | extract_lets | split
                 | (with_reducible refine Keeps.upd ?_; first | with_reducible assumption | with_reducible refine State.trcPut_keeps ?_ | with_reducible refine Keeps.ite ?_ ?_ | with_reducible refine Keeps.foldl ?_ ?_ | split)
                 | (with_reducible refine Keeps.updE ?_; first | with_reducible assumption | with_reducible refine State.trcPut_keeps ?_ | with_reducible refine Keeps.ite ?_ ?_ | with_reducible refine Keeps.foldl ?_ ?_ | split)
                 | intro _ _ | intro _ | extract_lets | split | extract_lets | dsimp only)

theorem State.trcJoin_keeps {z s : State} {e : TrcRec} {lost : Bool} (h : Keeps z s) :
    Keeps z (State.trcJoin s e lost) := by
  unfold State.trcJoin
  try extract_lets
  repeat' (first | with_reducible assumption | with_reducible refine Keeps.ite ?_ ?_ | with_reducible refine State.trcOrder_keeps ?_
                 | with_reducible refine Keeps.foldl ?_ ?_ | intro _ _ | intro _ | extract_lets | split
                 | (with_reducible refine Keeps.upd ?_; first | with_reducible assumption | with_reducible refine State.trcOrder_keeps ?_ | with_reducible refine Keeps.ite ?_ ?_ | with_reducible refine Keeps.foldl ?_ ?_ | split)
                 | (with_reducible refine Keeps.updE ?_; first | with_reducible assumption | with_reducible refine State.trcOrder_keeps ?_ | with_reducible refine Keeps.ite ?_ ?_ | with_reducible refine Keeps.foldl ?_ ?_ | split)
                 | intro _ _ | intro _ | extract_lets | split | extract_lets | dsimp only)

theorem State.trcRecord_keeps {z s : State} {typ : Nat} {ctx : Nat} {tag : Nat} {a : Word} {b : Word} (h : Keeps z s) :
    Keeps z (State.trcRecord s typ ctx tag a b) := by
  unfold State.trcRecord
  dsimp only
  refine Keeps.ite (Keeps.ite (Keeps.ite (State.trcJoin_keeps (State.bump_keeps h)) h) (State.trcJoin_keeps ?_)) h
  have h1 : Keeps z { s with eng.trcCount := s.eng.trcCount + 1 } := Keeps.updE h
  have h2 := putFrom_keeps (id := 0xC00 + 4 * (s.eng.trcCount % s.trcRoom)) (l := trcWords typ ctx tag s.tbNs a b) h1
  split
  · split
    · exact ⟨h.1, h.2, h.3, h.4⟩
    · exact ⟨h2.1, h2.2, h2.3, h2.4⟩
  · split
    · exact ⟨h.1, h.2, h.3, h.4⟩
    · exact h2

theorem State.setCw_keeps {z s : State} {n k : Nat} {w : Word} (h : Keeps z s) : Keeps z (s.setCw n k w) :=
  State.updEng_keeps h fun _ e => ⟨e.1, e.2.1, spSet_wf (d := fun _ => 0#32) e.2.2.1, e.2.2.2⟩

theorem State.setCws_keeps {z s : State} {n : Nat} {l : List (Nat × Word)} (h : Keeps z s) : Keeps z (s.setCws n l) := by
  induction l generalizing s with
  | nil => exact h
  | cons e r ih => exact ih (State.setCw_keeps h)

theorem State.cellHist_keeps {z s : State} {n : Nat} {e : Word} (h : Keeps z s) : Keeps z (s.cellHist n e) := by
  unfold State.cellHist
  exact State.updEng_keeps (State.setCws_keeps h) fun _ e => ⟨e.1, e.2.1, e.2.2.1, spSet_wf (d := fun _ => 0#32) e.2.2.2⟩

theorem State.cellNan_keeps {z s : State} {n : ℕ} {l : Option Bool} (h : Keeps z s) : Keeps z (State.cellNan s n l).st := by
  unfold State.cellNan
  exact State.raise_keeps h

theorem State.tinjCount_keeps {z s : State} {ctx : ℕ} {e : Word} {u : Word} (h : Keeps z s)  : Keeps z (State.tinjCount s ctx e u) := by
  unfold State.tinjCount
  try extract_lets
  repeat' (first | with_reducible assumption | with_reducible refine Keeps.ite ?_ ?_ | with_reducible refine State.trcRecord_keeps ?_ | with_reducible refine State.updEng_keeps ?_ ?_ | with_reducible refine Keeps.foldl ?_ ?_ | intro _ _ | intro _ | extract_lets | split | (with_reducible refine Keeps.upd ?_; first | with_reducible assumption | with_reducible refine State.trcRecord_keeps ?_ | with_reducible refine State.updEng_keeps ?_ ?_ | with_reducible refine Keeps.ite ?_ ?_ | with_reducible refine Keeps.foldl ?_ ?_ | split) | (with_reducible refine Keeps.updE ?_; first | with_reducible assumption | with_reducible refine State.trcRecord_keeps ?_ | with_reducible refine State.updEng_keeps ?_ ?_ | with_reducible refine Keeps.ite ?_ ?_ | with_reducible refine Keeps.foldl ?_ ?_ | split) | extract_lets | dsimp only)

theorem State.cellStepCore_keeps {z s : State} {n : Nat} {e0 : Word} (h : Keeps z s) : Keeps z (s.cellStepCore n e0).1.st := by
  unfold State.cellStepCore
  refine Keeps.iteP (fun r : CellRes × Word => r.1.st) ?_ ?_
  · exact Keeps.iteP (fun r : CellRes × Word => r.1.st) (State.cellHist_keeps h) (State.cellNan_keeps h)
  · refine Keeps.iteP (fun r : CellRes × Word => r.1.st) ?_ (State.cellNan_keeps h)
    dsimp only
    refine State.updEng_keeps (State.setCws_keeps (State.setCws_keeps h)) ?_
    intro _ e
    exact ⟨e.1, e.2.1, e.2.2.1, spSet_wf (d := fun _ => 0#32) e.2.2.2⟩

theorem State.cellStep_keeps {z s : State} {ctx : ℕ} {n : ℕ} {e : Word} (h : Keeps z s) : Keeps z (State.cellStep s ctx n e).st := by
  unfold State.cellStep
  try extract_lets
  repeat' (first | with_reducible assumption | with_reducible refine State.cellStepCore_keeps ?_ | with_reducible refine State.tinjCount_keeps ?_ |
    extract_lets | split | extract_lets | dsimp only)

theorem State.cellHold_keeps {z s : State} {ctx n : Nat} {e : Word} (h : Keeps z s) : Keeps z (s.cellHold ctx n e).st := by
  unfold State.cellHold
  by_cases hf : fFinite e = true <;> simp only [hf, if_true, if_false, Bool.false_eq_true] <;> split
  · exact State.tinjCount_keeps (State.cellHist_keeps h)
  · exact State.cellHist_keeps h
  · exact State.tinjCount_keeps (State.cellNan_keeps h)
  · exact State.cellNan_keeps h

theorem State.cellPreset_keeps {z s : State} {n : ℕ} {v : Word} (h : Keeps z s) : Keeps z (State.cellPreset s n v).st := by
  unfold State.cellPreset
  exact State.setCws_keeps (State.setCw_keeps h)

theorem State.cellSetman_keeps {z s : State} {n : ℕ} {v : Word} (h : Keeps z s) : Keeps z (State.cellSetman s n v).st := by
  unfold State.cellSetman
  exact State.setCw_keeps (State.setCw_keeps h)

theorem State.cellAutoCmd_keeps {z s : State} {n : ℕ} (h : Keeps z s)  : Keeps z (State.cellAutoCmd s n) := by
  unfold State.cellAutoCmd
  try extract_lets
  repeat' (first | with_reducible assumption | with_reducible refine Keeps.ite ?_ ?_ | with_reducible refine State.updEng_keeps ?_ ?_ | with_reducible refine State.setCw_keeps ?_ | with_reducible refine Keeps.foldl ?_ ?_ | intro _ _ | intro _ | extract_lets | split | (with_reducible refine Keeps.upd ?_; first | with_reducible assumption | with_reducible refine State.updEng_keeps ?_ ?_ | with_reducible refine State.setCw_keeps ?_ | with_reducible refine Keeps.ite ?_ ?_ | with_reducible refine Keeps.foldl ?_ ?_ | split) | (with_reducible refine Keeps.updE ?_; first | with_reducible assumption | with_reducible refine State.updEng_keeps ?_ ?_ | with_reducible refine State.setCw_keeps ?_ | with_reducible refine Keeps.ite ?_ ?_ | with_reducible refine Keeps.foldl ?_ ?_ | split) | extract_lets | dsimp only)

theorem State.cellOpen_keeps {z s : State} {n : ℕ} (h : Keeps z s) : Keeps z (State.cellOpen s n) := by
  unfold State.cellOpen
  exact State.setCw_keeps h

theorem State.cellRefuse_keeps {z s : State} (h : Keeps z s) : Keeps z (State.cellRefuse s) := by
  unfold State.cellRefuse
  exact State.raise_keeps (State.setFld_keeps h)

theorem State.cellClose_keeps {z s : State} {n : ℕ} (h : Keeps z s) : Keeps z (State.cellClose s n).1 := by
  unfold State.cellClose
  try extract_lets
  repeat' (first | with_reducible assumption | with_reducible refine State.updEng_keeps ?_ ?_ | with_reducible refine State.setCw_keeps ?_ |
    with_reducible refine State.cellRefuse_keeps ?_ | intro _ _ | intro _ | extract_lets | split | extract_lets | dsimp only)

theorem State.cellManual_keeps {z s : State} {n : ℕ} (h : Keeps z s) : Keeps z (State.cellManual s n) := by
  unfold State.cellManual
  exact State.setCw_keeps h

theorem State.cellClear_keeps {z s : State} {n : Nat} (h : Keeps z s) : Keeps z (s.cellClear n) :=
  Keeps.ite (State.cellRefuse_keeps h)
    (State.updEng_keeps (State.setCws_keeps h) fun _ e => ⟨e.1, e.2.1, e.2.2.1, spSet_wf (d := fun _ => 0#32) e.2.2.2⟩)

theorem State.cellWrite_keeps {z s : State} {n : Nat} {k : Nat} {w : Word} (h : Keeps z s) :
    Keeps z (State.cellWrite s n k w) := by
  unfold State.cellWrite
  try extract_lets
  repeat' (first | with_reducible assumption | with_reducible refine Keeps.ite ?_ ?_ | with_reducible refine State.cellRefuse_keeps ?_
                 | with_reducible refine State.when_keeps ?_ ?_ | with_reducible refine State.setFld_keeps ?_
                 | with_reducible refine State.setCw_keeps ?_ | with_reducible refine Keeps.foldl ?_ ?_ | intro _ _ | intro _ | extract_lets | split
                 | extract_lets | dsimp only)

theorem State.offLane_keeps {z s : State} {c : Fin 64} (h : Keeps z s)  : Keeps z (State.offLane s c) := by
  unfold State.offLane
  try extract_lets
  repeat' (first | with_reducible assumption | with_reducible refine Keeps.ite ?_ ?_ | with_reducible refine State.updC_keeps ?_ | with_reducible refine State.updL_keeps ?_ | with_reducible refine Keeps.foldl ?_ ?_ | intro _ _ | intro _ | extract_lets | split | (with_reducible refine Keeps.upd ?_; first | with_reducible assumption | with_reducible refine State.updC_keeps ?_ | with_reducible refine State.updL_keeps ?_ | with_reducible refine Keeps.ite ?_ ?_ | with_reducible refine Keeps.foldl ?_ ?_ | split) | (with_reducible refine Keeps.updE ?_; first | with_reducible assumption | with_reducible refine State.updC_keeps ?_ | with_reducible refine State.updL_keeps ?_ | with_reducible refine Keeps.ite ?_ ?_ | with_reducible refine Keeps.foldl ?_ ?_ | split) | extract_lets | dsimp only)

theorem State.laneLeave_keeps {z s : State} {c : Fin 64} (h : Keeps z s) : Keeps z (State.laneLeave s c) := by
  unfold State.laneLeave
  exact Keeps.foldl h (fun _ => fun _ => fun h2 => Keeps.ite (State.updL_keeps h2) h2)

theorem State.closeAct_keeps {z s : State} {c : Fin 64} (h : Keeps z s) : Keeps z (State.closeAct s c) := by
  unfold State.closeAct
  exact Keeps.ite h (Keeps.ite (State.trcRecord_keeps (State.updC_keeps h)) (State.updC_keeps h))

theorem State.nextAct_keeps {z s : State} {c : Fin 64} (h : Keeps z s) : Keeps z (State.nextAct s c) := by
  unfold State.nextAct
  try extract_lets
  repeat' (first | with_reducible assumption | with_reducible refine State.updC_keeps ?_ | extract_lets | split | extract_lets | dsimp only)

theorem State.endAct_keeps {z s : State} {c : Fin 64} (h : Keeps z s) :
    Keeps z (State.endAct s c) := by
  unfold State.endAct
  extract_lets s1
  have h_s1 : Keeps z s1 := by
    repeat' (first | with_reducible assumption | with_reducible refine Keeps.ite ?_ ?_ | with_reducible refine State.closeAct_keeps ?_
                   | with_reducible refine State.offLane_keeps ?_ | with_reducible refine State.updC_keeps ?_
                   | with_reducible refine State.laneLeave_keeps ?_ | with_reducible refine State.nextAct_keeps ?_
                   | with_reducible refine Keeps.foldl ?_ ?_ | intro _ _ | intro _ | extract_lets | split
                   | (with_reducible refine Keeps.upd ?_; first | with_reducible assumption | with_reducible refine State.closeAct_keeps ?_ | with_reducible refine State.offLane_keeps ?_ | with_reducible refine State.updC_keeps ?_ | with_reducible refine State.laneLeave_keeps ?_ | with_reducible refine State.nextAct_keeps ?_ | with_reducible refine Keeps.ite ?_ ?_ | with_reducible refine Keeps.foldl ?_ ?_ | split)
                   | (with_reducible refine Keeps.updE ?_; first | with_reducible assumption | with_reducible refine State.closeAct_keeps ?_ | with_reducible refine State.offLane_keeps ?_ | with_reducible refine State.updC_keeps ?_ | with_reducible refine State.laneLeave_keeps ?_ | with_reducible refine State.nextAct_keeps ?_ | with_reducible refine Keeps.ite ?_ ?_ | with_reducible refine Keeps.foldl ?_ ?_ | split)
                   | intro _ _ | intro _ | extract_lets | split | extract_lets | dsimp only)
  clear_value s1
  repeat' (first | with_reducible assumption | with_reducible refine Keeps.ite ?_ ?_ | with_reducible refine State.closeAct_keeps ?_
                 | with_reducible refine State.offLane_keeps ?_ | with_reducible refine State.updC_keeps ?_
                 | with_reducible refine State.laneLeave_keeps ?_ | with_reducible refine State.nextAct_keeps ?_
                 | with_reducible refine Keeps.foldl ?_ ?_ | intro _ _ | intro _ | extract_lets | split
                 | (with_reducible refine Keeps.upd ?_; first | with_reducible assumption | with_reducible refine State.closeAct_keeps ?_ | with_reducible refine State.offLane_keeps ?_ | with_reducible refine State.updC_keeps ?_ | with_reducible refine State.laneLeave_keeps ?_ | with_reducible refine State.nextAct_keeps ?_ | with_reducible refine Keeps.ite ?_ ?_ | with_reducible refine Keeps.foldl ?_ ?_ | split)
                 | (with_reducible refine Keeps.updE ?_; first | with_reducible assumption | with_reducible refine State.closeAct_keeps ?_ | with_reducible refine State.offLane_keeps ?_ | with_reducible refine State.updC_keeps ?_ | with_reducible refine State.laneLeave_keeps ?_ | with_reducible refine State.nextAct_keeps ?_ | with_reducible refine Keeps.ite ?_ ?_ | with_reducible refine Keeps.foldl ?_ ?_ | split)
                 | intro _ _ | intro _ | extract_lets | split | extract_lets | dsimp only)

theorem State.ctxOff_keeps {z s : State} {c : Fin 64} (h : Keeps z s) :
    Keeps z (State.ctxOff s c) := by
  unfold State.ctxOff
  try extract_lets
  repeat' (first | with_reducible assumption | with_reducible refine Keeps.ite ?_ ?_ | with_reducible refine State.closeAct_keeps ?_
                 | with_reducible refine State.offLane_keeps ?_ | with_reducible refine State.updC_keeps ?_
                 | with_reducible refine State.laneLeave_keeps ?_ | with_reducible refine Keeps.foldl ?_ ?_ | intro _ _ | intro _ | extract_lets
                 | split
                 | (with_reducible refine Keeps.upd ?_; first | with_reducible assumption | with_reducible refine State.closeAct_keeps ?_ | with_reducible refine State.offLane_keeps ?_ | with_reducible refine State.updC_keeps ?_ | with_reducible refine State.laneLeave_keeps ?_ | with_reducible refine Keeps.ite ?_ ?_ | with_reducible refine Keeps.foldl ?_ ?_ | split)
                 | (with_reducible refine Keeps.updE ?_; first | with_reducible assumption | with_reducible refine State.closeAct_keeps ?_ | with_reducible refine State.offLane_keeps ?_ | with_reducible refine State.updC_keeps ?_ | with_reducible refine State.laneLeave_keeps ?_ | with_reducible refine Keeps.ite ?_ ?_ | with_reducible refine Keeps.foldl ?_ ?_ | split)
                 | intro _ _ | intro _ | extract_lets | split | extract_lets | dsimp only)

theorem State.engFault_keeps {z s : State} {cause : ℕ} {c : Fin 64} {lane : ℕ} {pc : ℕ} (h : Keeps z s) :
    Keeps z (State.engFault s cause c lane pc) := by
  unfold State.engFault
  exact Keeps.ite h (State.orFresh_keeps (State.wr_keeps h))

theorem State.exception_keeps {z s : State} {c : Fin 64} {cause : Nat} {pc : Nat} (h : Keeps z s) :
    Keeps z (State.exception s c cause pc) := by
  unfold State.exception
  extract_lets x s1
  have h_s1 : Keeps z s1 := by
    repeat' (first | with_reducible assumption | with_reducible refine Keeps.ite ?_ ?_ | with_reducible refine State.engFault_keeps ?_
                   | with_reducible refine State.raise_keeps ?_ | with_reducible refine State.closeAct_keeps ?_
                   | with_reducible refine State.offLane_keeps ?_ | with_reducible refine State.updC_keeps ?_
                   | with_reducible refine State.laneLeave_keeps ?_ | with_reducible refine Keeps.foldl ?_ ?_ | intro _ _ | intro _ | extract_lets
                   | split
                   | (with_reducible refine Keeps.upd ?_; first | with_reducible assumption | with_reducible refine State.engFault_keeps ?_ | with_reducible refine State.raise_keeps ?_ | with_reducible refine State.closeAct_keeps ?_ | with_reducible refine State.offLane_keeps ?_ | with_reducible refine State.updC_keeps ?_ | with_reducible refine State.laneLeave_keeps ?_ | with_reducible refine Keeps.ite ?_ ?_ | with_reducible refine Keeps.foldl ?_ ?_ | split)
                   | (with_reducible refine Keeps.updE ?_; first | with_reducible assumption | with_reducible refine State.engFault_keeps ?_ | with_reducible refine State.raise_keeps ?_ | with_reducible refine State.closeAct_keeps ?_ | with_reducible refine State.offLane_keeps ?_ | with_reducible refine State.updC_keeps ?_ | with_reducible refine State.laneLeave_keeps ?_ | with_reducible refine Keeps.ite ?_ ?_ | with_reducible refine Keeps.foldl ?_ ?_ | split)
                   | intro _ _ | intro _ | extract_lets | split | extract_lets | dsimp only)
  clear_value s1
  repeat' (first | with_reducible assumption | with_reducible refine Keeps.ite ?_ ?_ | with_reducible refine State.engFault_keeps ?_
                 | with_reducible refine State.raise_keeps ?_ | with_reducible refine State.closeAct_keeps ?_
                 | with_reducible refine State.offLane_keeps ?_ | with_reducible refine State.updC_keeps ?_
                 | with_reducible refine State.laneLeave_keeps ?_ | with_reducible refine Keeps.foldl ?_ ?_ | intro _ _ | intro _ | extract_lets
                 | split
                 | (with_reducible refine Keeps.upd ?_; first | with_reducible assumption | with_reducible refine State.engFault_keeps ?_ | with_reducible refine State.raise_keeps ?_ | with_reducible refine State.closeAct_keeps ?_ | with_reducible refine State.offLane_keeps ?_ | with_reducible refine State.updC_keeps ?_ | with_reducible refine State.laneLeave_keeps ?_ | with_reducible refine Keeps.ite ?_ ?_ | with_reducible refine Keeps.foldl ?_ ?_ | split)
                 | (with_reducible refine Keeps.updE ?_; first | with_reducible assumption | with_reducible refine State.engFault_keeps ?_ | with_reducible refine State.raise_keeps ?_ | with_reducible refine State.closeAct_keeps ?_ | with_reducible refine State.offLane_keeps ?_ | with_reducible refine State.updC_keeps ?_ | with_reducible refine State.laneLeave_keeps ?_ | with_reducible refine Keeps.ite ?_ ?_ | with_reducible refine Keeps.foldl ?_ ?_ | split)
                 | intro _ _ | intro _ | extract_lets | split | extract_lets | dsimp only)

theorem State.ctxHalts_keeps {z s : State} {c : Fin 64} (h : Keeps z s) : Keeps z (State.ctxHalts s c) := by
  unfold State.ctxHalts
  exact State.updC_keeps (State.offLane_keeps h)

theorem State.ctxIgnore_keeps {z s : State} (h : Keeps z s) : Keeps z (State.ctxIgnore s) := by
  unfold State.ctxIgnore
  exact State.setFld_keeps h

theorem State.haltNow_keeps {z s : State} {c : Fin 64} {go : State → State} (h : Keeps z s) (hg : ∀ t, Keeps z t → Keeps z (go t)) :
    Keeps z (State.haltNow s c go) := by
  unfold State.haltNow
  exact Keeps.ite (State.ctxHalts_keeps h) (hg _ (State.ctxIgnore_keeps (State.updC_keeps h)))

theorem State.unblock_keeps {z s : State} {c : Fin 64} (h : Keeps z s) : Keeps z (State.unblock s c) := by
  unfold State.unblock
  exact Keeps.ite (State.ctxOff_keeps h) (Keeps.ite (State.haltNow_keeps h fun _ k => State.updC_keeps k) (State.updC_keeps h))

theorem State.block_keeps {z s : State} {c : Fin 64} {w : Wait} (h : Keeps z s) : Keeps z (State.block s c w) := by
  unfold State.block
  exact State.updC_keeps (State.offLane_keeps h)

theorem State.preempt_keeps {z s : State} {n : Fin 4} (h : Keeps z s)  : Keeps z (State.preempt s n) := by
  unfold State.preempt
  try extract_lets
  repeat' (first | with_reducible assumption | with_reducible refine Keeps.ite ?_ ?_ | with_reducible refine State.updC_keeps ?_ | with_reducible refine State.offLane_keeps ?_ | with_reducible refine Keeps.foldl ?_ ?_ | intro _ _ | intro _ | extract_lets | split | (with_reducible refine Keeps.upd ?_; first | with_reducible assumption | with_reducible refine State.updC_keeps ?_ | with_reducible refine State.offLane_keeps ?_ | with_reducible refine Keeps.ite ?_ ?_ | with_reducible refine Keeps.foldl ?_ ?_ | split) | (with_reducible refine Keeps.updE ?_; first | with_reducible assumption | with_reducible refine State.updC_keeps ?_ | with_reducible refine State.offLane_keeps ?_ | with_reducible refine Keeps.ite ?_ ?_ | with_reducible refine Keeps.foldl ?_ ?_ | split) | extract_lets | dsimp only)

theorem State.beginAct_keeps {z s : State} {c : Fin 64} (h : Keeps z s) : Keeps z (State.beginAct s c) := by
  unfold State.beginAct
  exact Keeps.ite h (State.updC_keeps h)

theorem State.takeLane_keeps {z s : State} {c : Fin 64} {n : Fin 4} (h : Keeps z s) : Keeps z (State.takeLane s c n) := by
  unfold State.takeLane
  have g (t : State) (k : Keeps z t) : Keeps z (((t.preempt n).updL n fun l => { l with ctx := some c.val, lastIssue := t.now }).updC c fun x =>
      { x with st := .running, lane := some n, ran := n, qIss := 0, spent := false, runWait := x.runWait + (t.now - x.since), nextAt := t.now }) :=
    State.updC_keeps (State.updL_keeps (State.preempt_keeps k))
  exact Keeps.ite (State.haltNow_keeps (State.beginAct_keeps h) g) (g _ (State.beginAct_keeps h))

theorem State.dispatch_keeps {z s : State} {c : Fin 64} (h : Keeps z s)  : Keeps z (State.dispatch s c) := by
  unfold State.dispatch
  try extract_lets
  repeat' (first | with_reducible assumption | with_reducible refine Keeps.ite ?_ ?_ | with_reducible refine State.takeLane_keeps ?_ | with_reducible refine Keeps.foldl ?_ ?_ | intro _ _ | intro _ | extract_lets | split | (with_reducible refine Keeps.upd ?_; first | with_reducible assumption | with_reducible refine State.takeLane_keeps ?_ | with_reducible refine Keeps.ite ?_ ?_ | with_reducible refine Keeps.foldl ?_ ?_ | split) | (with_reducible refine Keeps.updE ?_; first | with_reducible assumption | with_reducible refine State.takeLane_keeps ?_ | with_reducible refine Keeps.ite ?_ ?_ | with_reducible refine Keeps.foldl ?_ ?_ | split) | extract_lets | dsimp only)

theorem State.budgetAct_keeps {z s : State} {c : Fin 64} (h : Keeps z s)  : Keeps z (State.budgetAct s c) := by
  unfold State.budgetAct
  try extract_lets
  repeat' (first | with_reducible assumption | with_reducible refine Keeps.ite ?_ ?_ | with_reducible refine State.updC_keeps ?_ | with_reducible refine State.raise_keeps ?_ | with_reducible refine State.setFld_keeps ?_ | with_reducible refine State.endAct_keeps ?_ | with_reducible refine State.engFault_keeps ?_ | with_reducible refine Keeps.foldl ?_ ?_ | intro _ _ | intro _ | extract_lets | split | (with_reducible refine Keeps.upd ?_; first | with_reducible assumption | with_reducible refine State.updC_keeps ?_ | with_reducible refine State.raise_keeps ?_ | with_reducible refine State.setFld_keeps ?_ | with_reducible refine State.endAct_keeps ?_ | with_reducible refine State.engFault_keeps ?_ | with_reducible refine Keeps.ite ?_ ?_ | with_reducible refine Keeps.foldl ?_ ?_ | split) | (with_reducible refine Keeps.updE ?_; first | with_reducible assumption | with_reducible refine State.updC_keeps ?_ | with_reducible refine State.raise_keeps ?_ | with_reducible refine State.setFld_keeps ?_ | with_reducible refine State.endAct_keeps ?_ | with_reducible refine State.engFault_keeps ?_ | with_reducible refine Keeps.ite ?_ ?_ | with_reducible refine Keeps.foldl ?_ ?_ | split) | extract_lets | dsimp only)

theorem State.haltCtx_keeps {z s : State} {c : Fin 64} (h : Keeps z s) : Keeps z (State.haltCtx s c) := by
  unfold State.haltCtx
  try extract_lets
  repeat' (first | with_reducible assumption | with_reducible refine State.ctxHalts_keeps ?_ | with_reducible refine State.updC_keeps ?_ |
    extract_lets | split | extract_lets | dsimp only)

theorem State.bkTake_keeps {z s : State} {c : Fin 64} (h : Keeps z s) : Keeps z (State.bkTake s c) := by
  unfold State.bkTake
  exact State.when_keeps (State.trcCond_keeps (State.when_keeps (State.updC_keeps (State.ctxHalts_keeps (State.setFld_keeps h))) fun _ h1 =>
    Keeps.foldl h1 fun _ _ h4 => Keeps.ite (State.haltCtx_keeps h4) h4)) fun _ h1 => State.trcCtl_keeps h1

theorem State.ctxCmd_keeps {z s : State} {c : Fin 64} {cmd : ℕ} (h : Keeps z s)  : Keeps z (State.ctxCmd s c cmd) := by
  unfold State.ctxCmd
  try extract_lets
  repeat' (first | with_reducible assumption | with_reducible refine Keeps.ite ?_ ?_ | with_reducible refine State.updC_keeps ?_ | with_reducible refine State.ctxIgnore_keeps ?_ | with_reducible refine State.ctxOff_keeps ?_ | with_reducible refine State.haltCtx_keeps ?_ | with_reducible refine Keeps.foldl ?_ ?_ | intro _ _ | intro _ | extract_lets | split | (with_reducible refine Keeps.upd ?_; first | with_reducible assumption | with_reducible refine State.updC_keeps ?_ | with_reducible refine State.ctxIgnore_keeps ?_ | with_reducible refine State.ctxOff_keeps ?_ | with_reducible refine State.haltCtx_keeps ?_ | with_reducible refine Keeps.ite ?_ ?_ | with_reducible refine Keeps.foldl ?_ ?_ | split) | (with_reducible refine Keeps.updE ?_; first | with_reducible assumption | with_reducible refine State.updC_keeps ?_ | with_reducible refine State.ctxIgnore_keeps ?_ | with_reducible refine State.ctxOff_keeps ?_ | with_reducible refine State.haltCtx_keeps ?_ | with_reducible refine Keeps.ite ?_ ?_ | with_reducible refine Keeps.foldl ?_ ?_ | split) | extract_lets | dsimp only)

theorem State.laneFault_keeps {z s : State} {n : Fin 4} (h : Keeps z s) : Keeps z (State.laneFault s n) := by
  unfold State.laneFault
  try extract_lets
  repeat' (first | with_reducible assumption | with_reducible refine State.raise_keeps ?_ | with_reducible refine State.updL_keeps ?_ | with_reducible
    refine State.endAct_keeps ?_ | with_reducible refine State.engFault_keeps ?_ | extract_lets | split | extract_lets | dsimp only)

theorem State.touch_keeps {z s : State} {bank : ℕ} {pc : ℕ} (h : Keeps z s)  : Keeps z (State.touch s bank pc) := by
  unfold State.touch
  try extract_lets
  repeat' (first | with_reducible assumption | with_reducible refine Keeps.ite ?_ ?_ | with_reducible refine Keeps.foldl ?_ ?_ | intro _ _ | intro _ | extract_lets | split | (with_reducible refine Keeps.upd ?_; first | with_reducible assumption | with_reducible refine Keeps.ite ?_ ?_ | with_reducible refine Keeps.foldl ?_ ?_ | split) | (with_reducible refine Keeps.updE ?_; first | with_reducible assumption | with_reducible refine Keeps.ite ?_ ?_ | with_reducible refine Keeps.foldl ?_ ?_ | split) | extract_lets | dsimp only)

theorem State.memFlag_keeps {z s : State} {f : Fld} (h : Keeps z s) : Keeps z (State.memFlag s f) := by
  unfold State.memFlag
  exact Keeps.ite h (State.setFld_keeps (State.setFld_keeps h))

theorem State.fetchFail_keeps {z s : State} {c : Fin 64} (h : Keeps z s) : Keeps z (State.fetchFail s c) := by
  unfold State.fetchFail
  exact State.exception_keeps (State.raise_keeps (State.memFlag_keeps h))

theorem State.fetchWait_keeps {z s : State} {c : Fin 64} {line : ℕ} (h : Keeps z s) : Keeps z (State.fetchWait s c line) := by
  unfold State.fetchWait
  exact Keeps.ite (State.block_keeps h) (Keeps.upd (State.block_keeps h))

theorem State.setReg_keeps {z s : State} {c : Fin 64} {r : ℕ} {w : Word} {lat : ℕ} (h : Keeps z s) : Keeps z (State.setReg s c r w lat) := by
  unfold State.setReg
  exact State.updC_keeps h

theorem State.setFl_keeps {z s : State} {c : Fin 64} {lat : ℕ} {f : Flags → Flags} (h : Keeps z s) : Keeps z (State.setFl s c lat f) := by
  unfold State.setFl
  exact State.updC_keeps h

theorem State.setU_keeps {z s : State} {c : Fin 64} (h : Keeps z s) : Keeps z (State.setU s c) := by
  unfold State.setU
  exact State.updC_keeps h

theorem State.work_keeps {z s : State} {c : Fin 64} {t : ℕ} (h : Keeps z s) : Keeps z (State.work s c t) := by
  unfold State.work
  exact State.updC_keeps h

theorem State.occupy_keeps {z s : State} {c : Fin 64} {n : ℕ} (h : Keeps z s) : Keeps z (State.occupy s c n) := by
  unfold State.occupy
  dsimp only
  split
  · exact State.updL_keeps (State.updC_keeps h)
  · exact State.updC_keeps h

theorem State.countIssue_keeps {z s : State} {c : Fin 64} {n : ℕ} (h : Keeps z s) : Keeps z (State.countIssue s c n) := by
  unfold State.countIssue
  dsimp only
  split
  · exact State.updL_keeps (State.occupy_keeps (State.updC_keeps h))
  · exact State.occupy_keeps (State.updC_keeps h)

theorem State.relocate_keeps {z s : State} {c : Fin 64} (h : Keeps z s) : Keeps z (State.relocate s c) := by
  unfold State.relocate
  split
  · exact Keeps.ite (State.preempt_keeps h) h
  · exact h

theorem State.endIssued_keeps {z s : State} {c : Fin 64} (h : Keeps z s) : Keeps z (State.endIssued s c) := by
  unfold State.endIssued
  exact Keeps.ite (State.endAct_keeps h) (State.block_keeps h)

theorem State.stepHalt_keeps {z s : State} {c : Fin 64} (h : Keeps z s) : Keeps z (State.stepHalt s c) := by
  unfold State.stepHalt
  exact Keeps.ite (State.haltNow_keeps h fun _ k => k) h

theorem State.perform_keeps {z s : State} {c : Fin 64} {w : Word} {body : State → State} (h : Keeps z s) (hbody : ∀ t, Keeps z t → Keeps z (body t)) :
  Keeps z (State.perform s c w body) := by
  unfold State.perform
  exact State.stepHalt_keeps (hbody _ (State.countIssue_keeps h))

theorem State.await_keeps {z s : State} {c : Fin 64} {w : Word} {t : ℕ} {body : State → State} (h : Keeps z s) (hbody : ∀ t, Keeps z t → Keeps z (body
  t)) : Keeps z (State.await s c w t body) := by
  unfold State.await
  exact Keeps.ite (State.perform_keeps h hbody) (Keeps.ite (State.updC_keeps h) (State.block_keeps h))

theorem State.touched_keeps {z s : State} {w : Word} {bank : Nat} {pc : Nat} (h : Keeps z s) :
    Keeps z (State.touched s w bank pc) := by
  unfold State.touched
  try extract_lets
  repeat' (first | with_reducible assumption | with_reducible refine Keeps.ite ?_ ?_ | with_reducible refine State.touch_keeps ?_
                 | with_reducible refine State.when_keeps ?_ ?_ | with_reducible refine Keeps.foldl ?_ ?_ | intro _ _ | intro _ | extract_lets
                 | split | extract_lets | dsimp only)

theorem State.issue_keeps {z s : State} {c : Fin 64} {row : Word → Bool} {body : State → Word → Word → State} (h : Keeps z s)
    (hbody : ∀ t w l, Keeps z t → Keeps z (body t w l)) : Keeps z (s.issue c row body) := by
  unfold State.issue
  dsimp only
  refine Keeps.ite h (Keeps.ite (State.relocate_keeps h) ?_)
  split
  · exact State.exception_keeps h
  · exact State.fetchFail_keeps h
  · exact State.fetchWait_keeps h
  · rename_i w _
    refine Keeps.ite h (Keeps.ite (State.bkTake_keeps h) ?_)
    split
    · exact State.exception_keeps h
    · exact State.fetchFail_keeps h
    · exact State.fetchWait_keeps h
    · rename_i l _
      exact State.await_keeps (State.when_keeps (State.touched_keeps h) fun _ ht => State.setFld_keeps ht) fun t ht => hbody t w l ht

theorem State.issueIllegal_keeps {z s : State} {c : Fin 64} (h : Keeps z s) :
    Keeps z (State.issueIllegal s c) := by
  unfold State.issueIllegal
  try extract_lets
  repeat' (first | with_reducible assumption | with_reducible refine Keeps.ite ?_ ?_ | with_reducible refine State.relocate_keeps ?_
                 | with_reducible refine State.exception_keeps ?_ | with_reducible refine State.fetchFail_keeps ?_
                 | with_reducible refine State.fetchWait_keeps ?_ | with_reducible refine State.bkTake_keeps ?_
                 | with_reducible refine State.touch_keeps ?_ | with_reducible refine State.when_keeps ?_ ?_
                 | with_reducible refine State.setFld_keeps ?_ | with_reducible refine Keeps.foldl ?_ ?_ | intro _ _ | intro _ | extract_lets
                 | split | extract_lets | dsimp only)

theorem State.deliver_keeps {z s : State} {cn : ℕ} {id no : Option ℕ} {v : Word} (h : Keeps z s) : Keeps z (State.deliver s cn id no v) := by
  unfold State.deliver
  dsimp only
  split
  · split
    · exact Keeps.ite (Keeps.upd h) h
    · exact h
  · split
    · exact h
    · split
      · exact Keeps.ite (State.updC_keeps h) h
      · exact h

theorem State.accessDone_keeps {z s : State} {c : Fin 64} (h : Keeps z s) :
    Keeps z (State.accessDone s c) := by
  unfold State.accessDone
  try extract_lets
  repeat' (first | with_reducible assumption | with_reducible refine Keeps.ite ?_ ?_ | with_reducible refine State.setReg_keeps ?_
                 | with_reducible refine State.unblock_keeps ?_ | with_reducible refine State.bufAdd_keeps ?_
                 | with_reducible refine Keeps.foldl ?_ ?_ | intro _ _ | intro _ | extract_lets | split | extract_lets | dsimp only)

theorem State.accessDrop_keeps {z s : State} {c : Fin 64} (h : Keeps z s)  : Keeps z (State.accessDrop s c) := by
  unfold State.accessDrop
  try extract_lets
  repeat' (first | with_reducible assumption | with_reducible refine Keeps.ite ?_ ?_ | with_reducible refine State.raise_keeps ?_ | with_reducible refine State.unblock_keeps ?_ | with_reducible refine State.setU_keeps ?_ | with_reducible refine State.setReg_keeps ?_ | with_reducible refine Keeps.foldl ?_ ?_ | intro _ _ | intro _ | extract_lets | split | (with_reducible refine Keeps.upd ?_; first | with_reducible assumption | with_reducible refine State.raise_keeps ?_ | with_reducible refine State.unblock_keeps ?_ | with_reducible refine State.setU_keeps ?_ | with_reducible refine State.setReg_keeps ?_ | with_reducible refine Keeps.ite ?_ ?_ | with_reducible refine Keeps.foldl ?_ ?_ | split) | (with_reducible refine Keeps.updE ?_; first | with_reducible assumption | with_reducible refine State.raise_keeps ?_ | with_reducible refine State.unblock_keeps ?_ | with_reducible refine State.setU_keeps ?_ | with_reducible refine State.setReg_keeps ?_ | with_reducible refine Keeps.ite ?_ ?_ | with_reducible refine Keeps.foldl ?_ ?_ | split) | extract_lets | dsimp only)

theorem State.resend_keeps {z s : State} {no who id : ℕ} (h : Keeps z s) : Keeps z (State.resend s no who id) := by
  unfold State.resend
  split
  · exact State.queueBulk_keeps h
  · exact h

theorem State.resendReads_keeps {z s : State} (h : Keeps z s) : Keeps z (State.resendReads s) := by
  unfold State.resendReads
  have h1 : Keeps z (s.ctxList.foldl (fun s c =>
      match (s.ctx c).st, (s.ctx c).wait with
      | .blocked, some (.access sg (some _) _ _ false) => s.resend (s.ctx c).reqNo c.val sg
      | _, _ => s) s) := Keeps.foldl h fun t c k => by
    split
    · exact State.resend_keeps k
    · exact k
  dsimp only
  split
  · exact State.resend_keeps h1
  · exact h1

theorem State.noteSlow_keeps {z s : State} {c : Fin 64} {id : Nat} (h : Keeps z s) :
    Keeps z (State.noteSlow s c id) := by
  unfold State.noteSlow
  try extract_lets
  repeat' (first | with_reducible assumption | with_reducible refine Keeps.ite ?_ ?_ | with_reducible refine State.raise_keeps ?_
                 | with_reducible refine State.updC_keeps ?_ | with_reducible refine Keeps.foldl ?_ ?_ | intro _ _ | intro _ | extract_lets | split
                 | (with_reducible refine Keeps.upd ?_; first | with_reducible assumption | with_reducible refine State.raise_keeps ?_ | with_reducible refine State.updC_keeps ?_ | with_reducible refine Keeps.ite ?_ ?_ | with_reducible refine Keeps.foldl ?_ ?_ | split)
                 | (with_reducible refine Keeps.updE ?_; first | with_reducible assumption | with_reducible refine State.raise_keeps ?_ | with_reducible refine State.updC_keeps ?_ | with_reducible refine Keeps.ite ?_ ?_ | with_reducible refine Keeps.foldl ?_ ?_ | split)
                 | intro _ _ | intro _ | extract_lets | split | extract_lets | dsimp only)

theorem State.loadSig_keeps {z s : State} {c : Fin 64} {id : Nat} {r : Nat} (h : Keeps z s) :
    Keeps z (State.loadSig s c id r) := by
  unfold State.loadSig
  try extract_lets
  repeat' (first | with_reducible assumption | with_reducible refine Keeps.ite ?_ ?_ | with_reducible refine State.noteSlow_keeps ?_
                 | with_reducible refine State.readSig_keeps ?_ | with_reducible refine State.block_keeps ?_
                 | with_reducible refine State.raise_keeps ?_ | with_reducible refine State.setReg_keeps ?_
                 | with_reducible refine Keeps.foldl ?_ ?_ | intro _ _ | intro _ | extract_lets | split | extract_lets | dsimp only)

theorem State.storeSig_keeps {z s : State} {c : Fin 64} {id : ℕ} {w : Word} (h : Keeps z s) : Keeps z (State.storeSig s c id w) := by
  unfold State.storeSig
  exact Keeps.ite (State.block_keeps (State.writeSig_keeps h)) (Keeps.ite (State.setU_keeps (State.writeSig_keeps h)) (State.writeSig_keeps h))

end Sys2Proof.Machine
end

