-- ==== Sys2Proof/Laws/KeepsFault.lean ====
section
/-! SUPPORT. Laws/KeepsFault.lean: what temperature, the fault collector, roles, store and memory port keep: the queue, the variant and the canonical form of the memories. -/

set_option linter.unusedTactic false
set_option linter.unreachableTactic false
set_option linter.unusedVariables false

namespace Sys2Proof.Machine

theorem State.updHk_keeps {z s : State} {f : Hk → Hk} (h : Keeps z s) : Keeps z (State.updHk s f) := by
  unfold State.updHk
  exact Keeps.upd h

theorem State.updSns_keeps {z s : State} {i : Fin 32} {f : Sns → Sns} (h : Keeps z s) : Keeps z (State.updSns s i f) := by
  unfold State.updSns
  exact State.updHk_keeps h

theorem State.visitLeg_keeps {z s : State} {m : Fin 16} {l : Fin 4} {early : BitVec 2} (h : Keeps z s) : Keeps z (State.visitLeg s m l early) := by
  unfold State.visitLeg
  exact State.when_keeps (State.updM_keeps h) (fun _ => fun h1 => State.raise_keeps h1)

theorem State.fastCal_keeps {z s : State} (h : Keeps z s) : Keeps z (State.fastCal s) := by
  unfold State.fastCal
  exact Keeps.foldl h (fun _ => fun _ => fun h2 => State.updM_keeps h2)

theorem State.snsSlot_keeps {z s : State} {i : Fin 32} {code : ℕ} (h : Keeps z s) : Keeps z (State.snsSlot s i code) := by
  unfold State.snsSlot
  exact Keeps.ite (State.updSns_keeps h) (State.updSns_keeps h)

theorem State.evNote_keeps {z s : State} {src : ℕ} {detail : ℕ} {mast : Option ℕ} (h : Keeps z s) : Keeps z (State.evNote s src detail mast) := by
  unfold State.evNote
  exact State.updHk_keeps h

theorem State.snsCheck_keeps {z s : State} {i : Fin 32} {c : ℕ} (h : Keeps z s) : Keeps z (State.snsCheck s i c) := by
  unfold State.snsCheck
  exact Keeps.ite (State.updSns_keeps h) (Keeps.ite h (Keeps.ite (Keeps.ite (State.updSns_keeps h) (Keeps.ite (State.updSns_keeps h)
    (State.updSns_keeps h))) (Keeps.ite (State.evNote_keeps (State.updSns_keeps h)) (State.updSns_keeps h))))

theorem State.warnStep_keeps {z s : State} {i : Fin 32} (h : Keeps z s) : Keeps z (State.warnStep s i) := by
  unfold State.warnStep
  exact Keeps.ite h (Keeps.ite (Keeps.ite h (State.evNote_keeps (State.updSns_keeps h))) (Keeps.ite (State.updSns_keeps h) h))

theorem State.shutStep_keeps {z s : State} {i : Fin 32} (h : Keeps z s) : Keeps z (State.shutStep s i) := by
  unfold State.shutStep
  exact Keeps.ite h (Keeps.ite (State.raise_keeps (State.furlEnter_keeps (State.updHk_keeps (State.updSns_keeps h)))) (Keeps.ite (State.raise_keeps
    (State.updSns_keeps h)) (State.updSns_keeps h)))

theorem State.rateStep_keeps {z s : State} (h : Keeps z s) : Keeps z (State.rateStep s) := by
  unfold State.rateStep
  exact State.when_keeps (State.updHk_keeps h) (fun _ => fun h1 => State.evNote_keeps h1)

theorem State.dieStep_keeps {z s : State} (h : Keeps z s) : Keeps z (State.dieStep s) := by
  unfold State.dieStep
  try extract_lets
  repeat' (first | with_reducible assumption | with_reducible refine State.updHk_keeps ?_ | extract_lets | split | extract_lets | dsimp only)

theorem State.factorStep_keeps {z s : State} {i : Fin 32} (h : Keeps z s) : Keeps z (State.factorStep s i) := by
  unfold State.factorStep
  exact Keeps.ite (State.updSns_keeps h) h

theorem State.reefStep_keeps {z s : State} {prev : ℕ → Bool} {m : Fin 16} (h : Keeps z s) : Keeps z (State.reefStep s prev m) := by
  unfold State.reefStep
  exact State.when_keeps (State.updHk_keeps h) (fun _ => fun h1 => State.evNote_keeps h1)

theorem State.reefMapped_keeps {z s : State} {m : Fin 16} (h : Keeps z s) : Keeps z (State.reefMapped s m) := by
  unfold State.reefMapped
  exact State.updHk_keeps h

theorem State.evaluate_keeps {z s : State} (h : Keeps z s) :
    Keeps z (State.evaluate s) := by
  unfold State.evaluate
  try extract_lets
  repeat' (first | with_reducible assumption | with_reducible refine Keeps.ite ?_ ?_ | with_reducible refine State.updHk_keeps ?_
                 | with_reducible refine State.snsCheck_keeps ?_ | with_reducible refine State.warnStep_keeps ?_
                 | with_reducible refine State.dieStep_keeps ?_ | with_reducible refine State.shutStep_keeps ?_
                 | with_reducible refine State.rateStep_keeps ?_ | with_reducible refine State.factorStep_keeps ?_
                 | with_reducible refine State.reefStep_keeps ?_ | with_reducible refine Keeps.foldl ?_ ?_ | intro _ _ | intro _ | extract_lets
                 | split
                 | (with_reducible refine Keeps.upd ?_; first | with_reducible assumption | with_reducible refine State.updHk_keeps ?_ | with_reducible refine State.snsCheck_keeps ?_ | with_reducible refine State.warnStep_keeps ?_ | with_reducible refine State.dieStep_keeps ?_ | with_reducible refine State.shutStep_keeps ?_ | with_reducible refine State.rateStep_keeps ?_ | with_reducible refine State.factorStep_keeps ?_ | with_reducible refine State.reefStep_keeps ?_ | with_reducible refine Keeps.ite ?_ ?_ | with_reducible refine Keeps.foldl ?_ ?_ | split)
                 | (with_reducible refine Keeps.updE ?_; first | with_reducible assumption | with_reducible refine State.updHk_keeps ?_ | with_reducible refine State.snsCheck_keeps ?_ | with_reducible refine State.warnStep_keeps ?_ | with_reducible refine State.dieStep_keeps ?_ | with_reducible refine State.shutStep_keeps ?_ | with_reducible refine State.rateStep_keeps ?_ | with_reducible refine State.factorStep_keeps ?_ | with_reducible refine State.reefStep_keeps ?_ | with_reducible refine Keeps.ite ?_ ?_ | with_reducible refine Keeps.foldl ?_ ?_ | split)
                 | intro _ _ | intro _ | extract_lets | split | extract_lets | dsimp only)

theorem State.pubReef_keeps {z s : State} {m : Fin 16} (h : Keeps z s) : Keeps z (State.pubReef s m) := by
  unfold State.pubReef
  exact State.putM_keeps (State.updHk_keeps h)

theorem State.publishRound_keeps {z s : State} (h : Keeps z s) : Keeps z (State.publishRound s) := by
  unfold State.publishRound
  exact Keeps.foldl (State.updHk_keeps (State.putSig_keeps (State.putSig_keeps (State.putSig_keeps (State.putSig_keeps (State.putSig_keeps
    (Keeps.foldl (Keeps.foldl h (fun _ => fun _ => fun h2 => State.pubReef_keeps h2)) (fun _ => fun _ => fun h2 => State.putSig_keeps h2)))))))) (fun
    _ => fun _ => fun h2 => State.raise_keeps h2)

theorem State.laneLoads_keeps {z s : State} (h : Keeps z s) : Keeps z (State.laneLoads s) := by
  unfold State.laneLoads
  exact State.putSig_keeps (Keeps.foldl h (fun _ => fun _ => fun h2 => State.putSig_keeps (State.updL_keeps h2)))

theorem State.visit_keeps {z s : State} {early : BitVec 2} (h : Keeps z s) : Keeps z (State.visit s early) := by
  unfold State.visit
  exact State.updHk_keeps (State.visitLeg_keeps h)

theorem State.slotWork_keeps {z s : State} {code : ℕ} {early : BitVec 2} (h : Keeps z s) : Keeps z (State.slotWork s code early) := by
  unfold State.slotWork
  exact State.updHk_keeps (Keeps.ite (State.snsSlot_keeps (State.laneLoads_keeps (State.updHk_keeps (State.visit_keeps h)))) (Keeps.ite
    (State.snsSlot_keeps (State.updHk_keeps (State.visit_keeps h))) (Keeps.ite (State.evaluate_keeps (State.updHk_keeps (State.visit_keeps h)))
    (Keeps.ite (State.publishRound_keeps (State.updHk_keeps (State.visit_keeps h))) (State.updHk_keeps (State.visit_keeps h))))))

theorem State.supplyOut_keeps {z s0 : State} {n : Nat} (h : Keeps z s0) :
    Keeps z (State.supplyOut s0 n) := by
  unfold State.supplyOut
  try extract_lets
  repeat' (first | with_reducible assumption | with_reducible refine Keeps.ite ?_ ?_ | with_reducible refine State.updHk_keeps ?_
                 | with_reducible refine State.setFld_keeps ?_ | with_reducible refine State.when_keeps ?_ ?_
                 | with_reducible refine State.raise_keeps ?_ | with_reducible refine Keeps.foldl ?_ ?_ | intro _ _ | intro _ | extract_lets | split
                 | (with_reducible refine Keeps.upd ?_; first | with_reducible assumption | with_reducible refine State.updHk_keeps ?_ | with_reducible refine State.setFld_keeps ?_ | with_reducible refine State.when_keeps ?_ ?_ | with_reducible refine State.raise_keeps ?_ | with_reducible refine Keeps.ite ?_ ?_ | with_reducible refine Keeps.foldl ?_ ?_ | split)
                 | (with_reducible refine Keeps.updE ?_; first | with_reducible assumption | with_reducible refine State.updHk_keeps ?_ | with_reducible refine State.setFld_keeps ?_ | with_reducible refine State.when_keeps ?_ ?_ | with_reducible refine State.raise_keeps ?_ | with_reducible refine Keeps.ite ?_ ?_ | with_reducible refine Keeps.foldl ?_ ?_ | split)
                 | intro _ _ | intro _ | extract_lets | split | extract_lets | dsimp only)

theorem State.supplyIn_keeps {z s : State} {n : ℕ} (h : Keeps z s) : Keeps z (State.supplyIn s n) := by
  unfold State.supplyIn
  exact State.updHk_keeps h

theorem State.shutClear_keeps {z s : State} (h : Keeps z s) : Keeps z (State.shutClear s) := by
  unfold State.shutClear
  exact Keeps.ite (State.updHk_keeps h) (State.setFld_keeps h)

theorem State.peakClear_keeps {z s : State} (h : Keeps z s) : Keeps z (State.peakClear s) := by
  unfold State.peakClear
  exact State.updHk_keeps h

theorem State.stProgram_keeps {z s : State} {i : Nat} {ws : List Word} (h : Keeps z s) : Keeps z (s.stProgram i ws) :=
  State.updStore_keeps h fun _ e => putWords_wf e

theorem State.stErase_keeps {z s : State} {n : Nat} (h : Keeps z s) : Keeps z (s.stErase n) :=
  State.updStore_keeps h fun _ e => spWf_filter e

theorem State.stAbort_keeps {z s : State} {i : ℕ} {n : ℕ} (h : Keeps z s) : Keeps z (State.stAbort s i n) := by
  unfold State.stAbort
  exact State.stProgram_keeps h

theorem State.count_keeps {z s : State} {src : ℕ} (h : Keeps z s) : Keeps z (State.count s src).2 := by
  unfold State.count
  try extract_lets
  repeat' (first | with_reducible assumption | with_reducible refine State.updFc_keeps ?_ | extract_lets | split | extract_lets | dsimp only)

theorem State.openWake_keeps {z s : State} {code : ℕ} {mast : Option ℕ} {named : Bool} (h : Keeps z s) : Keeps z (State.openWake s code mast named) :=
  by
  unfold State.openWake
  exact Keeps.ite h (State.updFc_keeps h)

theorem State.wakesEnd_keeps {z s : State} (h : Keeps z s) : Keeps z (State.wakesEnd s) := by
  unfold State.wakesEnd
  exact State.updFc_keeps h

theorem State.classify_keeps {z s : State} {e : Ev} (h : Keeps z s) : Keeps z (State.classify s e).2 := by
  unfold State.classify
  try extract_lets
  repeat' (first | with_reducible assumption | with_reducible refine State.count_keeps ?_ | extract_lets | split | extract_lets | dsimp only)

theorem State.classifyAll_keeps {z s : State} {l : List Ev} (h : Keeps z s) : Keeps z (s.classifyAll l).2 := by
  induction l generalizing s with
  | nil => exact h
  | cons e r ih =>
    unfold State.classifyAll
    have h1 := ih (State.classify_keeps (e := e) h)
    dsimp only
    split <;> exact h1

theorem State.storeRec_keeps {z s : State} {r : Rec} (h : Keeps z s) :
    Keeps z (State.storeRec s r) := by
  unfold State.storeRec
  try extract_lets
  repeat' (first | with_reducible assumption | with_reducible refine Keeps.ite ?_ ?_ | with_reducible refine State.react_keeps ?_
                 | with_reducible refine State.updFc_keeps ?_ | with_reducible refine State.bump_keeps ?_
                 | with_reducible refine State.setFld_keeps ?_ | with_reducible refine Keeps.foldl ?_ ?_ | intro _ _ | intro _ | extract_lets
                 | split
                 | (with_reducible refine Keeps.upd ?_; first | with_reducible assumption | with_reducible refine State.react_keeps ?_ | with_reducible refine State.updFc_keeps ?_ | with_reducible refine State.bump_keeps ?_ | with_reducible refine State.setFld_keeps ?_ | with_reducible refine Keeps.ite ?_ ?_ | with_reducible refine Keeps.foldl ?_ ?_ | split)
                 | (with_reducible refine Keeps.updE ?_; first | with_reducible assumption | with_reducible refine State.react_keeps ?_ | with_reducible refine State.updFc_keeps ?_ | with_reducible refine State.bump_keeps ?_ | with_reducible refine State.setFld_keeps ?_ | with_reducible refine Keeps.ite ?_ ?_ | with_reducible refine Keeps.foldl ?_ ?_ | split)
                 | intro _ _ | intro _ | extract_lets | split | extract_lets | dsimp only)

theorem State.writeRec_keeps {z s : State} {v : Verdict} {logOnly : optParam Bool Bool.false} (h : Keeps z s) : Keeps z (State.writeRec s v
  logOnly).2.2 := by
  unfold State.writeRec
  exact Keeps.ite (State.updFc_keeps (State.when_keeps (State.trcRecord_keeps (State.when_keeps (State.when_keeps (State.when_keeps (State.bump_keeps
    (State.when_keeps (State.when_keeps (State.updFc_keeps h) (fun _ => fun h1 => State.setFld_keeps h1)) (fun _ => fun h1 => State.updFc_keeps h1)))
    (fun _ => fun h1 => State.bump_keeps h1)) (fun _ => fun h1 => State.setFld_keeps h1)) (fun _ => fun h1 => State.trcCond_keeps h1))) (fun _ => fun
    h1 => State.trigger_keeps h1))) (State.storeRec_keeps (State.when_keeps (State.trcRecord_keeps (State.when_keeps (State.when_keeps
    (State.when_keeps (State.bump_keeps (State.when_keeps (State.when_keeps (State.updFc_keeps h) (fun _ => fun h1 => State.setFld_keeps h1)) (fun _
    => fun h1 => State.updFc_keeps h1))) (fun _ => fun h1 => State.bump_keeps h1)) (fun _ => fun h1 => State.setFld_keeps h1)) (fun _ => fun h1 =>
    State.trcCond_keeps h1))) (fun _ => fun h1 => State.trigger_keeps h1)))

theorem State.beginEffect_keeps {z s : State} {m : Fin 16} {k : Nat} {detail : Nat} {held : Bool} (h : Keeps z s) :
    Keeps z (State.beginEffect s m k detail held) := by
  unfold State.beginEffect
  try extract_lets
  repeat' (first | with_reducible assumption | with_reducible refine Keeps.ite ?_ ?_ | with_reducible refine State.updShr_keeps ?_
                 | with_reducible refine State.updSense_keeps ?_ | with_reducible refine Keeps.foldl ?_ ?_ | intro _ _ | intro _ | extract_lets
                 | split
                 | (with_reducible refine Keeps.upd ?_; first | with_reducible assumption | with_reducible refine State.updShr_keeps ?_ | with_reducible refine State.updSense_keeps ?_ | with_reducible refine Keeps.ite ?_ ?_ | with_reducible refine Keeps.foldl ?_ ?_ | split)
                 | (with_reducible refine Keeps.updE ?_; first | with_reducible assumption | with_reducible refine State.updShr_keeps ?_ | with_reducible refine State.updSense_keeps ?_ | with_reducible refine Keeps.ite ?_ ?_ | with_reducible refine Keeps.foldl ?_ ?_ | split)
                 | intro _ _ | intro _ | extract_lets | split | extract_lets | dsimp only)

theorem State.endEffect_keeps {z s : State} {m : Fin 16} {k : ℕ} {all : Bool} (h : Keeps z s) : Keeps z (State.endEffect s m k all) := by
  unfold State.endEffect
  try extract_lets
  repeat' (first | with_reducible assumption | with_reducible refine State.when_keeps ?_ ?_ | with_reducible refine State.updShr_keeps ?_ |
    with_reducible refine State.updSense_keeps ?_ | intro _ _ | intro _ | extract_lets | split | extract_lets | dsimp only)

theorem State.eventEffect_keeps {z s : State} {e : Ev} {held : Bool} (h : Keeps z s) :
    Keeps z (State.eventEffect s e held) := by
  unfold State.eventEffect
  try extract_lets
  repeat' (first | with_reducible assumption | with_reducible refine Keeps.ite ?_ ?_ | with_reducible refine State.beginEffect_keeps ?_
                 | with_reducible refine Keeps.foldl ?_ ?_ | intro _ _ | intro _ | extract_lets | split | extract_lets | dsimp only)

theorem State.mastReset_keeps {z s : State} {m : Fin 16} {restart : Bool} (h : Keeps z s) : Keeps z (State.mastReset s m restart) := by
  unfold State.mastReset
  exact Keeps.ite (State.updM_keeps h) (State.updM_keeps (State.gateMark_keeps h))

theorem State.reactMast_keeps {z s : State} {m : Fin 16} {code : ℕ} {restart : Bool} (h : Keeps z s)  : Keeps z (State.reactMast s m code restart) := by
  unfold State.reactMast
  try extract_lets
  repeat' (first | with_reducible assumption | with_reducible refine Keeps.ite ?_ ?_ | with_reducible refine State.seqFault_keeps ?_ | with_reducible refine State.gateMark_keeps ?_ | with_reducible refine State.refreshSafe_keeps ?_ | with_reducible refine State.updSeq_keeps ?_ | with_reducible refine State.seqRamp_keeps ?_ | with_reducible refine State.mastReset_keeps ?_ | with_reducible refine State.openWake_keeps ?_ | with_reducible refine Keeps.foldl ?_ ?_ | intro _ _ | intro _ | extract_lets | split | (with_reducible refine Keeps.upd ?_; first | with_reducible assumption | with_reducible refine State.seqFault_keeps ?_ | with_reducible refine State.gateMark_keeps ?_ | with_reducible refine State.refreshSafe_keeps ?_ | with_reducible refine State.updSeq_keeps ?_ | with_reducible refine State.seqRamp_keeps ?_ | with_reducible refine State.mastReset_keeps ?_ | with_reducible refine State.openWake_keeps ?_ | with_reducible refine Keeps.ite ?_ ?_ | with_reducible refine Keeps.foldl ?_ ?_ | split) | (with_reducible refine Keeps.updE ?_; first | with_reducible assumption | with_reducible refine State.seqFault_keeps ?_ | with_reducible refine State.gateMark_keeps ?_ | with_reducible refine State.refreshSafe_keeps ?_ | with_reducible refine State.updSeq_keeps ?_ | with_reducible refine State.seqRamp_keeps ?_ | with_reducible refine State.mastReset_keeps ?_ | with_reducible refine State.openWake_keeps ?_ | with_reducible refine Keeps.ite ?_ ?_ | with_reducible refine Keeps.foldl ?_ ?_ | split) | extract_lets | dsimp only)

theorem State.react_keeps {z s : State} {vs : List Verdict} (h : Keeps z s)  : Keeps z (State.react s vs) := by
  unfold State.react
  try extract_lets
  repeat' (first | with_reducible assumption | with_reducible refine Keeps.ite ?_ ?_ | with_reducible refine State.openWake_keeps ?_ | with_reducible refine State.furlEnter_keeps ?_ | with_reducible refine State.reactMast_keeps ?_ | with_reducible refine Keeps.foldl ?_ ?_ | intro _ _ | intro _ | extract_lets | split | (with_reducible refine Keeps.upd ?_; first | with_reducible assumption | with_reducible refine State.openWake_keeps ?_ | with_reducible refine State.furlEnter_keeps ?_ | with_reducible refine State.reactMast_keeps ?_ | with_reducible refine Keeps.ite ?_ ?_ | with_reducible refine Keeps.foldl ?_ ?_ | split) | (with_reducible refine Keeps.updE ?_; first | with_reducible assumption | with_reducible refine State.openWake_keeps ?_ | with_reducible refine State.furlEnter_keeps ?_ | with_reducible refine State.reactMast_keeps ?_ | with_reducible refine Keeps.ite ?_ ?_ | with_reducible refine Keeps.foldl ?_ ?_ | split) | extract_lets | dsimp only)

theorem State.writeAll_keeps {z s : State} {l : List Verdict} (h : Keeps z s) : Keeps z (s.writeAll l).2 := by
  induction l generalizing s with
  | nil => exact h
  | cons v r ih =>
    unfold State.writeAll
    split
    · exact ih (State.eventEffect_keeps (State.updFc_keeps h))
    · exact ih (State.eventEffect_keeps (State.writeRec_keeps h))

theorem State.collect_keeps {z s : State} (h : Keeps z s) : Keeps z (State.collect s) := by
  unfold State.collect
  exact State.react_keeps (State.writeAll_keeps (State.classifyAll_keeps (Keeps.foldl (State.updFc_keeps h) (fun _ => fun _ => fun h2 =>
    State.eventEffect_keeps h2))))

theorem State.turn_keeps {z s : State} (h : Keeps z s) : Keeps z s.turn := by
  unfold State.turn
  exact Keeps.upd h

theorem settle_keeps {z s : State} {n : Nat} (h : Keeps z s) : Keeps z (settle n s) := by
  induction n generalizing s with
  | zero => exact h
  | succ n ih =>
    unfold settle
    split
    · exact h
    · exact ih (State.turn_keeps (State.collect_keeps h))

theorem State.advance_keeps {z s : State} {dt : Nat} (h : Keeps z s) : Keeps z (s.advance dt) :=
  ⟨h.pending, Nat.le_trans h.now (Nat.le_add_right ..), h.variant, h.canonical⟩

theorem State.cycle_keeps {z s : State} {t : Nat} (h : Keeps z s) : Keeps z (s.cycle t) :=
  State.turn_keeps (State.advance_keeps (settle_keeps h))

theorem State.look_keeps {z s : State} {t : Nat} (h : Keeps z s) : Keeps z (s.look t) :=
  Keeps.foldl h fun _ _ k => State.pathLook_keeps k

theorem State.calJob_keeps {z s : State} {j : CalJob} (h : Keeps z s) : Keeps z (s.calJob j) := by
  unfold State.calJob
  dsimp only
  split
  · exact State.calRes_keeps (State.calRun_keeps h)
  · exact State.updC_keeps (State.calRun_keeps h)

theorem State.calCycle_keeps {z s : State} (h : Keeps z s) : Keeps z s.calCycle :=
  Keeps.foldl (Keeps.upd h) fun _ _ k => State.calJob_keeps k

theorem State.letFree_keeps {z s : State} (h : Keeps z s) :
    Keeps z (State.letFree s) := by
  unfold State.letFree
  try extract_lets
  repeat' (first | with_reducible assumption | with_reducible refine Keeps.ite ?_ ?_ | with_reducible refine State.gateMark_keeps ?_
                 | with_reducible refine Keeps.foldl ?_ ?_ | intro _ _ | intro _ | extract_lets | split
                 | (with_reducible refine Keeps.upd ?_; first | with_reducible assumption | with_reducible refine State.gateMark_keeps ?_ | with_reducible refine Keeps.ite ?_ ?_ | with_reducible refine Keeps.foldl ?_ ?_ | split)
                 | (with_reducible refine Keeps.updE ?_; first | with_reducible assumption | with_reducible refine State.gateMark_keeps ?_ | with_reducible refine Keeps.ite ?_ ?_ | with_reducible refine Keeps.foldl ?_ ?_ | split)
                 | intro _ _ | intro _ | extract_lets | split | extract_lets | dsimp only)

theorem State.sendPost_keeps {z s : State} {p : Post} (h : Keeps z s) : Keeps z (State.sendPost s p) := by
  cases p with
  | message d => exact State.sendMsg_keeps h
  | bulk typ dst ws => exact State.queueBulk_keeps h

theorem State.sendPosts_keeps {z s : State} (h : Keeps z s) :
    Keeps z (State.sendPosts s) := by
  unfold State.sendPosts
  try extract_lets
  repeat' (first | with_reducible assumption | with_reducible refine Keeps.ite ?_ ?_ | with_reducible refine State.sendPost_keeps ?_
                 | with_reducible refine Keeps.foldl ?_ ?_ | intro _ _ | intro _ | extract_lets | split
                 | (with_reducible refine Keeps.upd ?_; first | with_reducible assumption | with_reducible refine State.sendPost_keeps ?_ | with_reducible refine Keeps.ite ?_ ?_ | with_reducible refine Keeps.foldl ?_ ?_ | split)
                 | (with_reducible refine Keeps.updE ?_; first | with_reducible assumption | with_reducible refine State.sendPost_keeps ?_ | with_reducible refine Keeps.ite ?_ ?_ | with_reducible refine Keeps.foldl ?_ ?_ | split)
                 | intro _ _ | intro _ | extract_lets | split | extract_lets | dsimp only)

theorem State.nextCycle_keeps {z s : State} {c1 : Nat} (h : Keeps z s) :
    Keeps z (State.nextCycle s c1) := by
  unfold State.nextCycle
  try extract_lets
  repeat' (first | with_reducible assumption | with_reducible refine Keeps.ite ?_ ?_ | with_reducible refine State.look_keeps ?_
                 | with_reducible refine State.sendPosts_keeps ?_ | with_reducible refine State.cycle_keeps ?_
                 | with_reducible refine State.letFree_keeps ?_ | with_reducible refine State.tbLoad_keeps ?_
                 | with_reducible refine State.calCycle_keeps ?_ | with_reducible refine State.seqCycle_keeps ?_
                 | with_reducible refine State.sigTick_keeps ?_ | with_reducible refine Keeps.foldl ?_ ?_ | intro _ _ | intro _ | extract_lets
                 | split | extract_lets | dsimp only)

theorem State.laterCycle_keeps {z s : State} {c : Nat} (h : Keeps z s) : Keeps z (s.laterCycle c) := by
  unfold State.laterCycle
  have k := State.sigTick_keeps (State.cycle_keeps (t := c) (State.look_keeps (t := c - 1) h))
  exact Keeps.ite (State.sigTick_keeps k) k

/-- Time that passes keeps what every operation keeps. -/
theorem State.elapse_keeps {z s : State} {dt : Nat} (h : Keeps z s) : Keeps z (s.elapse dt) := by
  unfold State.elapse
  dsimp only
  split
  · exact State.advance_keeps (State.look_keeps h)
  · refine State.advance_keeps (State.look_keeps ?_)
    exact Keeps.ite (State.laterCycle_keeps (State.nextCycle_keeps h)) (State.nextCycle_keeps h)

theorem State.hostTurn_keeps {z s : State} (h : Keeps z s) : Keeps z s.hostTurn := by
  unfold State.hostTurn
  exact Keeps.ite (Keeps.upd (State.elapse_keeps h)) h

theorem State.hostCycle_keeps {z s : State} (h : Keeps z s) : Keeps z s.hostCycle := by
  unfold State.hostCycle
  exact Keeps.upd (State.hostTurn_keeps h)

theorem State.stBegin_keeps {z s : State} {p : Pulse} (h : Keeps z s) : Keeps z (State.stBegin s p) := by
  unfold State.stBegin
  try extract_lets
  repeat' (first | with_reducible assumption | with_reducible refine State.updStore_keeps ?_ ?_ | intro _ _ | intro _ | extract_lets | extract_lets |
    dsimp only)

theorem State.stKick_keeps {z s : State} (h : Keeps z s) : Keeps z (State.stKick s) := by
  unfold State.stKick
  try extract_lets
  repeat' (first | with_reducible assumption | with_reducible refine Keeps.ite ?_ ?_ | with_reducible refine State.updFc_keeps ?_ | with_reducible
    refine State.stBegin_keeps ?_ | with_reducible refine State.updStore_keeps ?_ ?_ | intro _ _ | intro _ | extract_lets | split | extract_lets |
    dsimp only)

theorem State.stEnd_keeps {z s : State} {result : ℕ} (h : Keeps z s) : Keeps z (State.stEnd s result) := by
  unfold State.stEnd
  try extract_lets
  repeat' (first | with_reducible assumption | with_reducible refine State.when_keeps ?_ ?_ | with_reducible refine State.setFld_keeps ?_ |
    with_reducible refine State.updStore_keeps ?_ ?_ | intro _ _ | intro _ | extract_lets | extract_lets | dsimp only)

theorem State.jStepLost_keeps {z s : State} (h : Keeps z s) :
    Keeps z (State.jStepLost s) := by
  unfold State.jStepLost
  try extract_lets
  repeat' (first | with_reducible assumption | with_reducible refine Keeps.ite ?_ ?_ | with_reducible refine State.stAbort_keeps ?_
                 | with_reducible refine State.updStore_keeps ?_ ?_ | with_reducible refine Keeps.foldl ?_ ?_ | intro _ _ | intro _ | extract_lets
                 | split
                 | (with_reducible refine Keeps.upd ?_; first | with_reducible assumption | with_reducible refine State.stAbort_keeps ?_ | with_reducible refine State.updStore_keeps ?_ ?_ | with_reducible refine Keeps.ite ?_ ?_ | with_reducible refine Keeps.foldl ?_ ?_ | split)
                 | (with_reducible refine Keeps.updE ?_; first | with_reducible assumption | with_reducible refine State.stAbort_keeps ?_ | with_reducible refine State.updStore_keeps ?_ ?_ | with_reducible refine Keeps.ite ?_ ?_ | with_reducible refine Keeps.foldl ?_ ?_ | split)
                 | intro _ _ | intro _ | extract_lets | split | extract_lets | dsimp only)

theorem State.stAbortPulse_keeps {z s : State} (h : Keeps z s) :
    Keeps z (State.stAbortPulse s) := by
  unfold State.stAbortPulse
  try extract_lets
  repeat' (first | with_reducible assumption | with_reducible refine Keeps.ite ?_ ?_ | with_reducible refine State.updStore_keeps ?_ ?_
                 | with_reducible refine State.stAbort_keeps ?_ | with_reducible refine State.audit_keeps ?_
                 | with_reducible refine State.stEnd_keeps ?_ | with_reducible refine State.jStepLost_keeps ?_
                 | with_reducible refine Keeps.foldl ?_ ?_ | intro _ _ | intro _ | extract_lets | split
                 | (with_reducible refine Keeps.upd ?_; first | with_reducible assumption | with_reducible refine State.updStore_keeps ?_ ?_ | with_reducible refine State.stAbort_keeps ?_ | with_reducible refine State.audit_keeps ?_ | with_reducible refine State.stEnd_keeps ?_ | with_reducible refine State.jStepLost_keeps ?_ | with_reducible refine Keeps.ite ?_ ?_ | with_reducible refine Keeps.foldl ?_ ?_ | split)
                 | (with_reducible refine Keeps.updE ?_; first | with_reducible assumption | with_reducible refine State.updStore_keeps ?_ ?_ | with_reducible refine State.stAbort_keeps ?_ | with_reducible refine State.audit_keeps ?_ | with_reducible refine State.stEnd_keeps ?_ | with_reducible refine State.jStepLost_keeps ?_ | with_reducible refine Keeps.ite ?_ ?_ | with_reducible refine Keeps.foldl ?_ ?_ | split)
                 | intro _ _ | intro _ | extract_lets | split | extract_lets | dsimp only)

theorem State.finish_keeps {z s : State} (h : Keeps z s) : Keeps z (State.finish s) := by
  unfold State.finish
  exact State.stKick_keeps (Keeps.ite (State.stAbortPulse_keeps h) h)

theorem State.ackRec_keeps {z s : State} {r : Rec} (h : Keeps z s) : Keeps z (State.ackRec s r) := by
  unfold State.ackRec
  try extract_lets
  repeat' (first | with_reducible assumption | with_reducible refine Keeps.ite ?_ ?_ | with_reducible refine State.updFc_keeps ?_ | with_reducible
    refine State.endEffect_keeps ?_ | extract_lets | split | extract_lets | dsimp only)

theorem State.fcAck_keeps {z s : State} {n : ℕ} (h : Keeps z s) : Keeps z (State.fcAck s n).2 := by
  unfold State.fcAck
  try extract_lets
  repeat' (first | with_reducible assumption | with_reducible refine State.setFld_keeps ?_ | with_reducible refine State.ackRec_keeps ?_ |
    extract_lets | split | extract_lets | dsimp only)

theorem State.fcAckAll_keeps {z s : State} (h : Keeps z s) :
    Keeps z (State.fcAckAll s) := by
  unfold State.fcAckAll
  extract_lets ok s1
  have h_s1 : Keeps z s1 := by
    repeat' (first | with_reducible assumption | with_reducible refine Keeps.ite ?_ ?_ | with_reducible refine State.ackRec_keeps ?_
                   | with_reducible refine State.endEffect_keeps ?_ | with_reducible refine Keeps.foldl ?_ ?_ | intro _ _ | intro _ | extract_lets
                   | split | extract_lets | dsimp only)
  clear_value s1
  repeat' (first | with_reducible assumption | with_reducible refine Keeps.ite ?_ ?_ | with_reducible refine State.ackRec_keeps ?_
                 | with_reducible refine State.endEffect_keeps ?_ | with_reducible refine Keeps.foldl ?_ ?_ | intro _ _ | intro _ | extract_lets
                 | split | extract_lets | dsimp only)

theorem State.updRole_keeps {z s : State} {f : RoleSt → RoleSt} (h : Keeps z s) : Keeps z (State.updRole s f) := by
  unfold State.updRole
  exact Keeps.upd h

theorem State.audit_keeps {z s : State} {kind : ℕ} {tgt : ℕ} {val : Word} {port : optParam ℕ 0} (h : Keeps z s) : Keeps z (State.audit s kind tgt val
  port) := by
  unfold State.audit
  try extract_lets
  repeat' (first | with_reducible assumption | with_reducible refine State.updStore_keeps ?_ ?_ | intro _ _ | intro _ | extract_lets | extract_lets |
    dsimp only)

theorem State.denied_keeps {z s : State} {detail : ℕ} (h : Keeps z s) : Keeps z (State.denied s detail) := by
  unfold State.denied
  exact State.raise_keeps (State.setFld_keeps h)

theorem State.audFull_keeps {z s : State} (h : Keeps z s) : Keeps z (State.audFull s) := by
  unfold State.audFull
  exact State.denied_keeps (State.setFld_keeps h)

theorem State.audited_keeps {z s : State} {n : ℕ} {f : State → State} (h : Keeps z s) (hf : ∀ t, Keeps z t → Keeps z (f t)) : Keeps z (State.audited s
  n f) := by
  unfold State.audited
  exact Keeps.ite (hf _ h) (State.audFull_keeps h)

theorem State.audNext_keeps {z s : State} (h : Keeps z s) : Keeps z (State.audNext s) := by
  unfold State.audNext
  exact Keeps.ite (State.when_keeps (State.setFld_keeps h) (fun _ => fun h1 => State.setFld_keeps h1)) h

theorem State.setRole_keeps {z s : State} {role : ℕ} (h : Keeps z s) : Keeps z (State.setRole s role) := by
  unfold State.setRole
  exact State.updRole_keeps h

theorem State.roleEnd_keeps {z s : State} {cause : ℕ} {port : ℕ} (h : Keeps z s) : Keeps z (State.roleEnd s cause port) := by
  unfold State.roleEnd
  exact Keeps.ite h (State.setRole_keeps (State.audit_keeps h))

theorem State.roleChal_keeps {z s : State} {role : Nat} (h : Keeps z s) :
    Keeps z (State.roleChal s role) := by
  unfold State.roleChal
  try extract_lets
  repeat' (first | with_reducible assumption | with_reducible refine Keeps.ite ?_ ?_ | with_reducible refine State.setFld_keeps ?_
                 | with_reducible refine State.updRole_keeps ?_ | with_reducible refine Keeps.foldl ?_ ?_ | intro _ _ | intro _ | extract_lets
                 | split
                 | (with_reducible refine Keeps.upd ?_; first | with_reducible assumption | with_reducible refine State.setFld_keeps ?_ | with_reducible refine State.updRole_keeps ?_ | with_reducible refine Keeps.ite ?_ ?_ | with_reducible refine Keeps.foldl ?_ ?_ | split)
                 | (with_reducible refine Keeps.updE ?_; first | with_reducible assumption | with_reducible refine State.setFld_keeps ?_ | with_reducible refine State.updRole_keeps ?_ | with_reducible refine Keeps.ite ?_ ?_ | with_reducible refine Keeps.foldl ?_ ?_ | split)
                 | intro _ _ | intro _ | extract_lets | split | extract_lets | dsimp only)

theorem State.chalSpent_keeps {z s : State} (h : Keeps z s) : Keeps z (State.chalSpent s) := by
  unfold State.chalSpent
  exact State.updRole_keeps h

theorem State.roleResp_keeps {z s : State} (h : Keeps z s) : Keeps z (State.roleResp s) := by
  unfold State.roleResp
  exact State.audited_keeps h (fun _ => fun h1 => Keeps.ite (State.audit_keeps (State.updRole_keeps (State.setRole_keeps (State.chalSpent_keeps
    (State.roleEnd_keeps h1))))) (State.raise_keeps (State.updRole_keeps (State.bump_keeps (State.setFld_keeps (State.audit_keeps
    (State.chalSpent_keeps (State.roleEnd_keeps h1))))))))

theorem State.roleKeyCmd_keeps {z s : State} {slot : ℕ} (h : Keeps z s) : Keeps z (State.roleKeyCmd s slot) := by
  unfold State.roleKeyCmd
  exact Keeps.ite (State.updRole_keeps (State.setFld_keeps h)) (State.audited_keeps h (fun _ => fun h1 => State.updRole_keeps (State.audit_keeps
    (State.updRole_keeps h1))))

theorem State.roleCmd_keeps {z s : State} {w : Word} (h : Keeps z s) : Keeps z (State.roleCmd s w) := by
  unfold State.roleCmd
  try extract_lets
  repeat' (first | with_reducible assumption | with_reducible refine Keeps.ite ?_ ?_ | with_reducible refine State.roleChal_keeps ?_ | with_reducible
    refine State.roleResp_keeps ?_ | with_reducible refine State.audited_keeps ?_ ?_ | with_reducible refine State.roleEnd_keeps ?_ | with_reducible
    refine State.roleKeyCmd_keeps ?_ | with_reducible refine State.setFld_keeps ?_ | intro _ _ | intro _ | extract_lets | split | extract_lets | dsimp
    only)

theorem State.rigWrite_keeps {z s : State} {w : Word} (h : Keeps z s) : Keeps z (State.rigWrite s w) := by
  unfold State.rigWrite
  exact Keeps.ite (State.setFld_keeps h) (State.wr_keeps h)

theorem State.putProg_keeps {z s : State} {pb : Nat} {ws : List Word} (h : Keeps z s) : Keeps z (s.putProg pb ws) :=
  State.updEng_keeps h fun _ e => ⟨spFold_wf (key := fun x => pb * 2 ^ 18 + x.2) e.1, e.2⟩

theorem State.putTab_keeps {z s : State} {ws : List Word} (h : Keeps z s) : Keeps z (s.putTab ws) :=
  State.updEng_keeps h fun _ e => ⟨e.1, spFold_wf (key := fun x => x.2) e.2.1, e.2.2⟩

theorem State.loadCopy_keeps {z s : State} {g : ℕ → Word} {pb : ℕ} (h : Keeps z s) : Keeps z (State.loadCopy s g pb) := by
  unfold State.loadCopy
  exact Keeps.foldl h (fun _ => fun _ => fun h2 => Keeps.ite (State.putProg_keeps h2) (Keeps.ite (State.putTab_keeps h2) h2))

theorem State.jBoot_keeps {z s : State} (h : Keeps z s) : Keeps z (State.jBoot s) := by
  unfold State.jBoot
  try extract_lets
  repeat' (first | with_reducible assumption | with_reducible refine State.updStore_keeps ?_ ?_ | intro _ _ | intro _ | extract_lets | extract_lets |
    dsimp only)

theorem State.jCompact_keeps {z s : State} (h : Keeps z s) :
    Keeps z (State.jCompact s) := by
  unfold State.jCompact
  try extract_lets
  repeat' (first | with_reducible assumption | with_reducible refine Keeps.ite ?_ ?_ | with_reducible refine State.updStore_keeps ?_ ?_
                 | with_reducible refine Keeps.foldl ?_ ?_ | intro _ _ | intro _ | extract_lets | split
                 | (with_reducible refine Keeps.upd ?_; first | with_reducible assumption | with_reducible refine State.updStore_keeps ?_ ?_ | with_reducible refine Keeps.ite ?_ ?_ | with_reducible refine Keeps.foldl ?_ ?_ | split)
                 | (with_reducible refine Keeps.updE ?_; first | with_reducible assumption | with_reducible refine State.updStore_keeps ?_ ?_ | with_reducible refine Keeps.ite ?_ ?_ | with_reducible refine Keeps.foldl ?_ ?_ | split)
                 | intro _ _ | intro _ | extract_lets | split | extract_lets | dsimp only)

theorem State.stStart_keeps {z s : State} {c : StCmd} (h : Keeps z s) : Keeps z (State.stStart s c) := by
  unfold State.stStart
  try extract_lets
  repeat' (first | with_reducible assumption | with_reducible refine State.updStore_keeps ?_ ?_ | intro _ _ | intro _ | extract_lets | extract_lets |
    dsimp only)

theorem State.stRefuse_keeps {z s : State} {result : ℕ} (h : Keeps z s)  : Keeps z (State.stRefuse s result) := by
  unfold State.stRefuse
  try extract_lets
  repeat' (first | with_reducible assumption | with_reducible refine Keeps.ite ?_ ?_ | with_reducible refine State.setFld_keeps ?_ | with_reducible refine State.updStore_keeps ?_ ?_ | with_reducible refine Keeps.foldl ?_ ?_ | intro _ _ | intro _ | extract_lets | split | (with_reducible refine Keeps.upd ?_; first | with_reducible assumption | with_reducible refine State.setFld_keeps ?_ | with_reducible refine State.updStore_keeps ?_ ?_ | with_reducible refine Keeps.ite ?_ ?_ | with_reducible refine Keeps.foldl ?_ ?_ | split) | (with_reducible refine Keeps.updE ?_; first | with_reducible assumption | with_reducible refine State.setFld_keeps ?_ | with_reducible refine State.updStore_keeps ?_ ?_ | with_reducible refine Keeps.ite ?_ ?_ | with_reducible refine Keeps.foldl ?_ ?_ | split) | extract_lets | dsimp only)

theorem State.cmdErase_keeps {z s : State} (h : Keeps z s) : Keeps z (State.cmdErase s) := by
  unfold State.cmdErase
  exact State.audited_keeps h (fun _ => fun h1 => State.stStart_keeps (State.audit_keeps h1))

theorem State.cmdProg_keeps {z s : State} (h : Keeps z s) : Keeps z (State.cmdProg s) := by
  unfold State.cmdProg
  try extract_lets
  repeat' (first | with_reducible assumption | with_reducible refine Keeps.ite ?_ ?_ | with_reducible refine State.updStore_keeps ?_ ?_ |
    with_reducible refine State.stStart_keeps ?_ | with_reducible refine State.stRefuse_keeps ?_ | intro _ _ | intro _ | extract_lets | extract_lets |
    dsimp only)

theorem State.cmdCommit_keeps {z s : State} (h : Keeps z s) : Keeps z (State.cmdCommit s) := by
  unfold State.cmdCommit
  exact Keeps.ite (State.stRefuse_keeps h) (Keeps.ite (State.stRefuse_keeps h) (Keeps.ite (State.stRefuse_keeps h) (Keeps.ite (State.stRefuse_keeps h)
    (Keeps.ite (State.stRefuse_keeps h) (State.audited_keeps h (fun _ => fun h1 => State.stStart_keeps (State.audit_keeps h1)))))))

theorem State.cmdLoad_keeps {z s : State} {pb : ℕ} (h : Keeps z s)  : Keeps z (State.cmdLoad s pb) := by
  unfold State.cmdLoad
  try extract_lets
  repeat' (first | with_reducible assumption | with_reducible refine Keeps.ite ?_ ?_ | with_reducible refine State.stRefuse_keeps ?_ | with_reducible refine State.audited_keeps ?_ ?_ | with_reducible refine State.stStart_keeps ?_ | with_reducible refine State.audit_keeps ?_ | with_reducible refine Keeps.foldl ?_ ?_ | intro _ _ | intro _ | extract_lets | split | (with_reducible refine Keeps.upd ?_; first | with_reducible assumption | with_reducible refine State.stRefuse_keeps ?_ | with_reducible refine State.audited_keeps ?_ ?_ | with_reducible refine State.stStart_keeps ?_ | with_reducible refine State.audit_keeps ?_ | with_reducible refine Keeps.ite ?_ ?_ | with_reducible refine Keeps.foldl ?_ ?_ | split) | (with_reducible refine Keeps.updE ?_; first | with_reducible assumption | with_reducible refine State.stRefuse_keeps ?_ | with_reducible refine State.audited_keeps ?_ ?_ | with_reducible refine State.stStart_keeps ?_ | with_reducible refine State.audit_keeps ?_ | with_reducible refine Keeps.ite ?_ ?_ | with_reducible refine Keeps.foldl ?_ ?_ | split) | extract_lets | dsimp only)

theorem State.cmdAppend_keeps {z s : State} {kind : ℕ} {tgt : ℕ} {val : Word} (h : Keeps z s)  : Keeps z (State.cmdAppend s kind tgt val) := by
  unfold State.cmdAppend
  try extract_lets
  repeat' (first | with_reducible assumption | with_reducible refine Keeps.ite ?_ ?_ | with_reducible refine State.stRefuse_keeps ?_ | with_reducible refine State.updStore_keeps ?_ ?_ | with_reducible refine State.stStart_keeps ?_ | with_reducible refine Keeps.foldl ?_ ?_ | intro _ _ | intro _ | extract_lets | split | (with_reducible refine Keeps.upd ?_; first | with_reducible assumption | with_reducible refine State.stRefuse_keeps ?_ | with_reducible refine State.updStore_keeps ?_ ?_ | with_reducible refine State.stStart_keeps ?_ | with_reducible refine Keeps.ite ?_ ?_ | with_reducible refine Keeps.foldl ?_ ?_ | split) | (with_reducible refine Keeps.updE ?_; first | with_reducible assumption | with_reducible refine State.stRefuse_keeps ?_ | with_reducible refine State.updStore_keeps ?_ ?_ | with_reducible refine State.stStart_keeps ?_ | with_reducible refine Keeps.ite ?_ ?_ | with_reducible refine Keeps.foldl ?_ ?_ | split) | extract_lets | dsimp only)

theorem State.cmdJcommit_keeps {z s : State} (h : Keeps z s) : Keeps z (State.cmdJcommit s) := by
  unfold State.cmdJcommit
  exact Keeps.ite (State.stRefuse_keeps h) (State.audited_keeps h (fun _ => fun h1 => State.cmdAppend_keeps (State.audit_keeps h1)))

theorem State.cmdJdrop_keeps {z s : State}  (h : Keeps z s)  : Keeps z (State.cmdJdrop s) := by
  unfold State.cmdJdrop
  try extract_lets
  repeat' (first | with_reducible assumption | with_reducible refine Keeps.ite ?_ ?_ | with_reducible refine State.stEnd_keeps ?_ | with_reducible refine State.updStore_keeps ?_ ?_ | with_reducible refine Keeps.foldl ?_ ?_ | intro _ _ | intro _ | extract_lets | split | (with_reducible refine Keeps.upd ?_; first | with_reducible assumption | with_reducible refine State.stEnd_keeps ?_ | with_reducible refine State.updStore_keeps ?_ ?_ | with_reducible refine Keeps.ite ?_ ?_ | with_reducible refine Keeps.foldl ?_ ?_ | split) | (with_reducible refine Keeps.updE ?_; first | with_reducible assumption | with_reducible refine State.stEnd_keeps ?_ | with_reducible refine State.updStore_keeps ?_ ?_ | with_reducible refine Keeps.ite ?_ ?_ | with_reducible refine Keeps.foldl ?_ ?_ | split) | extract_lets | dsimp only)

theorem State.cmdAbort_keeps {z s : State} (h : Keeps z s) : Keeps z (State.cmdAbort s) := by
  unfold State.cmdAbort
  try extract_lets
  repeat' (first | with_reducible assumption | with_reducible refine Keeps.ite ?_ ?_ | with_reducible refine State.updStore_keeps ?_ ?_ |
    with_reducible refine State.stEnd_keeps ?_ | intro _ _ | intro _ | extract_lets | extract_lets | dsimp only)

theorem State.jAppended_keeps {z s : State} {kind : ℕ} {tgt : ℕ} {val : Word} (h : Keeps z s) : Keeps z (State.jAppended s kind tgt val) := by
  unfold State.jAppended
  try extract_lets
  repeat' (first | with_reducible assumption | with_reducible refine State.updStore_keeps ?_ ?_ | intro _ _ | intro _ | extract_lets | extract_lets |
    dsimp only)

theorem State.loadImage_keeps {z s : State} {pb : Nat} (h : Keeps z s) :
    Keeps z (State.loadImage s pb).1 := by
  unfold State.loadImage
  try extract_lets
  repeat' (first | with_reducible assumption | with_reducible refine Keeps.ite ?_ ?_ | with_reducible refine State.loadCopy_keeps ?_
                 | with_reducible refine Keeps.foldl ?_ ?_ | intro _ _ | intro _ | extract_lets | split | extract_lets | dsimp only)

theorem State.cmdStepDone_keeps {z s : State} {c : StCmd} {ok : Bool} (h : Keeps z s) :
    Keeps z (State.cmdStepDone s c ok) := by
  unfold State.cmdStepDone
  try extract_lets
  repeat' (first | with_reducible assumption | with_reducible refine Keeps.ite ?_ ?_ | with_reducible refine State.stAbort_keeps ?_
                 | with_reducible refine State.raise_keeps ?_ | with_reducible refine State.loadImage_keeps ?_
                 | with_reducible refine State.stEnd_keeps ?_ | with_reducible refine State.updStore_keeps ?_ ?_
                 | with_reducible refine State.stErase_keeps ?_ | with_reducible refine State.stProgram_keeps ?_
                 | with_reducible refine State.jAppended_keeps ?_ | with_reducible refine Keeps.foldl ?_ ?_ | intro _ _ | intro _ | extract_lets
                 | split
                 | (with_reducible refine Keeps.upd ?_; first | with_reducible assumption | with_reducible refine State.stAbort_keeps ?_ | with_reducible refine State.raise_keeps ?_ | with_reducible refine State.loadImage_keeps ?_ | with_reducible refine State.stEnd_keeps ?_ | with_reducible refine State.updStore_keeps ?_ ?_ | with_reducible refine State.stErase_keeps ?_ | with_reducible refine State.stProgram_keeps ?_ | with_reducible refine State.jAppended_keeps ?_ | with_reducible refine Keeps.ite ?_ ?_ | with_reducible refine Keeps.foldl ?_ ?_ | split)
                 | (with_reducible refine Keeps.updE ?_; first | with_reducible assumption | with_reducible refine State.stAbort_keeps ?_ | with_reducible refine State.raise_keeps ?_ | with_reducible refine State.loadImage_keeps ?_ | with_reducible refine State.stEnd_keeps ?_ | with_reducible refine State.updStore_keeps ?_ ?_ | with_reducible refine State.stErase_keeps ?_ | with_reducible refine State.stProgram_keeps ?_ | with_reducible refine State.jAppended_keeps ?_ | with_reducible refine Keeps.ite ?_ ?_ | with_reducible refine Keeps.foldl ?_ ?_ | split)
                 | intro _ _ | intro _ | extract_lets | split | extract_lets | dsimp only)

theorem State.jStepDone_keeps {z s : State} (h : Keeps z s) :
    Keeps z (State.jStepDone s) := by
  unfold State.jStepDone
  try extract_lets
  repeat' (first | with_reducible assumption | with_reducible refine Keeps.ite ?_ ?_ | with_reducible refine State.stProgram_keeps ?_
                 | with_reducible refine State.updStore_keeps ?_ ?_ | with_reducible refine State.stErase_keeps ?_
                 | with_reducible refine Keeps.foldl ?_ ?_ | intro _ _ | intro _ | extract_lets | split
                 | (with_reducible refine Keeps.upd ?_; first | with_reducible assumption | with_reducible refine State.stProgram_keeps ?_ | with_reducible refine State.updStore_keeps ?_ ?_ | with_reducible refine State.stErase_keeps ?_ | with_reducible refine Keeps.ite ?_ ?_ | with_reducible refine Keeps.foldl ?_ ?_ | split)
                 | (with_reducible refine Keeps.updE ?_; first | with_reducible assumption | with_reducible refine State.stProgram_keeps ?_ | with_reducible refine State.updStore_keeps ?_ ?_ | with_reducible refine State.stErase_keeps ?_ | with_reducible refine Keeps.ite ?_ ?_ | with_reducible refine Keeps.foldl ?_ ?_ | split)
                 | intro _ _ | intro _ | extract_lets | split | extract_lets | dsimp only)

theorem State.pulseDone__keeps {z s : State} {ok : Bool} (h : Keeps z s) :
    Keeps z (State.pulseDone_ s ok) := by
  unfold State.pulseDone_
  try extract_lets
  repeat' (first | with_reducible assumption | with_reducible refine Keeps.ite ?_ ?_ | with_reducible refine State.updStore_keeps ?_ ?_
                 | with_reducible refine State.stAbort_keeps ?_ | with_reducible refine State.raise_keeps ?_
                 | with_reducible refine State.stProgram_keeps ?_ | with_reducible refine State.audit_keeps ?_
                 | with_reducible refine State.stErase_keeps ?_ | with_reducible refine State.cmdStepDone_keeps ?_
                 | with_reducible refine State.jStepDone_keeps ?_ | with_reducible refine State.jStepLost_keeps ?_
                 | with_reducible refine State.when_keeps ?_ ?_ | with_reducible refine State.stEnd_keeps ?_
                 | with_reducible refine Keeps.foldl ?_ ?_ | intro _ _ | intro _ | extract_lets | split
                 | (with_reducible refine Keeps.upd ?_; first | with_reducible assumption | with_reducible refine State.updStore_keeps ?_ ?_ | with_reducible refine State.stAbort_keeps ?_ | with_reducible refine State.raise_keeps ?_ | with_reducible refine State.stProgram_keeps ?_ | with_reducible refine State.audit_keeps ?_ | with_reducible refine State.stErase_keeps ?_ | with_reducible refine State.cmdStepDone_keeps ?_ | with_reducible refine State.jStepDone_keeps ?_ | with_reducible refine State.jStepLost_keeps ?_ | with_reducible refine State.when_keeps ?_ ?_ | with_reducible refine State.stEnd_keeps ?_ | with_reducible refine Keeps.ite ?_ ?_ | with_reducible refine Keeps.foldl ?_ ?_ | split)
                 | (with_reducible refine Keeps.updE ?_; first | with_reducible assumption | with_reducible refine State.updStore_keeps ?_ ?_ | with_reducible refine State.stAbort_keeps ?_ | with_reducible refine State.raise_keeps ?_ | with_reducible refine State.stProgram_keeps ?_ | with_reducible refine State.audit_keeps ?_ | with_reducible refine State.stErase_keeps ?_ | with_reducible refine State.cmdStepDone_keeps ?_ | with_reducible refine State.jStepDone_keeps ?_ | with_reducible refine State.jStepLost_keeps ?_ | with_reducible refine State.when_keeps ?_ ?_ | with_reducible refine State.stEnd_keeps ?_ | with_reducible refine Keeps.ite ?_ ?_ | with_reducible refine Keeps.foldl ?_ ?_ | split)
                 | intro _ _ | intro _ | extract_lets | split | extract_lets | dsimp only)

theorem State.stNext_keeps {z s : State} (h : Keeps z s) : Keeps z (State.stNext s) := by
  unfold State.stNext
  exact Keeps.ite (State.setFld_keeps h) h

theorem State.stDataWrite_keeps {z s : State} {w : Word} (h : Keeps z s)  : Keeps z (State.stDataWrite s w) := by
  unfold State.stDataWrite
  try extract_lets
  repeat' (first | with_reducible assumption | with_reducible refine Keeps.ite ?_ ?_ | with_reducible refine State.stNext_keeps ?_ | with_reducible refine State.updStore_keeps ?_ ?_ | with_reducible refine Keeps.foldl ?_ ?_ | intro _ _ | intro _ | extract_lets | split | (with_reducible refine Keeps.upd ?_; first | with_reducible assumption | with_reducible refine State.stNext_keeps ?_ | with_reducible refine State.updStore_keeps ?_ ?_ | with_reducible refine Keeps.ite ?_ ?_ | with_reducible refine Keeps.foldl ?_ ?_ | split) | (with_reducible refine Keeps.updE ?_; first | with_reducible assumption | with_reducible refine State.stNext_keeps ?_ | with_reducible refine State.updStore_keeps ?_ ?_ | with_reducible refine Keeps.ite ?_ ?_ | with_reducible refine Keeps.foldl ?_ ?_ | split) | extract_lets | dsimp only)

theorem State.updMem_keeps {z s : State} {f : MemPort → MemPort} (h : Keeps z s) : Keeps z (State.updMem s f) := by
  unfold State.updMem
  exact Keeps.upd h

theorem State.memCfgErr_keeps {z s : State} (h : Keeps z s) : Keeps z (State.memCfgErr s) := by
  unfold State.memCfgErr
  exact State.setFld_keeps h

theorem State.lineFails_keeps {z s : State} {line : ℕ} (h : Keeps z s) : Keeps z (State.lineFails s line) := by
  unfold State.lineFails
  exact Keeps.foldl (State.updMem_keeps h) (fun _ => fun _ => fun h2 => State.fetchFail_keeps h2)

theorem State.memBegin_keeps {z s : State} (h : Keeps z s) : Keeps z (State.memBegin s) := by
  unfold State.memBegin
  try extract_lets
  repeat' (first | with_reducible assumption | with_reducible refine Keeps.ite ?_ ?_ | with_reducible refine State.updMem_keeps ?_ | with_reducible
    refine State.lineFails_keeps ?_ | extract_lets | split | extract_lets | dsimp only)

theorem State.psDrained_keeps {z s : State} (h : Keeps z s) : Keeps z (State.psDrained s) := by
  unfold State.psDrained
  exact Keeps.ite (State.updMem_keeps (State.setFld_keeps h)) h

theorem State.putLine_keeps {z s : State} {line : ℕ} {ws : List Word} (h : Keeps z s) : Keeps z (State.putLine s line ws) := by
  unfold State.putLine
  exact State.updMem_keeps h

theorem State.wantNext_keeps {z s : State} {line : ℕ} (h : Keeps z s) : Keeps z (State.wantNext s line) := by
  unfold State.wantNext
  exact Keeps.ite h (State.updMem_keeps h)

theorem State.seqEnds_keeps {z s : State} {sel : ℕ} (h : Keeps z s) : Keeps z (State.seqEnds s sel) := by
  unfold State.seqEnds
  exact State.gpioRelease_keeps (State.updMem_keeps h)

theorem State.seqRun_keeps {z s : State} {data : List Word} (h : Keeps z s) : Keeps z (State.seqRun s data) := by
  unfold State.seqRun
  try extract_lets
  repeat' (first | with_reducible assumption | with_reducible refine Keeps.ite ?_ ?_ | with_reducible refine State.updMem_keeps ?_ | with_reducible
    refine State.memFlag_keeps ?_ | with_reducible refine State.seqEnds_keeps ?_ | extract_lets | split | extract_lets | dsimp only)

theorem State.memEnd_keeps {z s : State} {ok : Bool} {data : List Word} (h : Keeps z s) : Keeps z (State.memEnd s ok data) := by
  unfold State.memEnd
  try extract_lets
  repeat' (first | with_reducible assumption | with_reducible refine Keeps.ite ?_ ?_ | with_reducible refine State.updMem_keeps ?_ | with_reducible
    refine State.putLine_keeps ?_ | with_reducible refine State.wantNext_keeps ?_ | with_reducible refine State.unblock_keeps ?_ | with_reducible
    refine State.lineFails_keeps ?_ | with_reducible refine State.deliver_keeps ?_ | with_reducible refine State.psDrained_keeps ?_ | with_reducible
    refine State.updEng_keeps ?_ ?_ | with_reducible refine State.seqRun_keeps ?_ | with_reducible refine Keeps.foldl ?_ ?_ | intro _ _ | intro _ |
    extract_lets | split | extract_lets | dsimp only)

theorem State.memTmo_keeps {z s : State} (h : Keeps z s) :
    Keeps z (State.memTmo s) := by
  unfold State.memTmo
  try extract_lets
  repeat' (first | with_reducible assumption | with_reducible refine Keeps.ite ?_ ?_ | with_reducible refine State.seqEnds_keeps ?_
                 | with_reducible refine State.updMem_keeps ?_ | with_reducible refine State.memFlag_keeps ?_
                 | with_reducible refine State.raise_keeps ?_ | with_reducible refine State.lineFails_keeps ?_
                 | with_reducible refine State.deliver_keeps ?_ | with_reducible refine State.setU_keeps ?_
                 | with_reducible refine State.updEng_keeps ?_ ?_ | with_reducible refine State.psDrained_keeps ?_
                 | with_reducible refine State.bump_keeps ?_ | with_reducible refine Keeps.foldl ?_ ?_ | intro _ _ | intro _ | extract_lets | split
                 | (with_reducible refine Keeps.upd ?_; first | with_reducible assumption | with_reducible refine State.seqEnds_keeps ?_ | with_reducible refine State.updMem_keeps ?_ | with_reducible refine State.memFlag_keeps ?_ | with_reducible refine State.raise_keeps ?_ | with_reducible refine State.lineFails_keeps ?_ | with_reducible refine State.deliver_keeps ?_ | with_reducible refine State.setU_keeps ?_ | with_reducible refine State.updEng_keeps ?_ ?_ | with_reducible refine State.psDrained_keeps ?_ | with_reducible refine State.bump_keeps ?_ | with_reducible refine Keeps.ite ?_ ?_ | with_reducible refine Keeps.foldl ?_ ?_ | split)
                 | (with_reducible refine Keeps.updE ?_; first | with_reducible assumption | with_reducible refine State.seqEnds_keeps ?_ | with_reducible refine State.updMem_keeps ?_ | with_reducible refine State.memFlag_keeps ?_ | with_reducible refine State.raise_keeps ?_ | with_reducible refine State.lineFails_keeps ?_ | with_reducible refine State.deliver_keeps ?_ | with_reducible refine State.setU_keeps ?_ | with_reducible refine State.updEng_keeps ?_ ?_ | with_reducible refine State.psDrained_keeps ?_ | with_reducible refine State.bump_keeps ?_ | with_reducible refine Keeps.ite ?_ ?_ | with_reducible refine Keeps.foldl ?_ ?_ | split)
                 | intro _ _ | intro _ | extract_lets | split | extract_lets | dsimp only)

theorem State.memPush_keeps {z s : State} {w : Word} (h : Keeps z s) : Keeps z (State.memPush s w) := by
  unfold State.memPush
  exact Keeps.ite (State.memCfgErr_keeps h) (State.updMem_keeps h)

theorem State.memTx_keeps {z s : State} {w : Word} (h : Keeps z s) : Keeps z (State.memTx s w) := by
  unfold State.memTx
  exact Keeps.ite (State.memCfgErr_keeps h) (State.updMem_keeps h)

theorem State.memRx_keeps {z s : State} (h : Keeps z s) : Keeps z (State.memRx s).2 := by
  unfold State.memRx
  try extract_lets
  repeat' (first | with_reducible assumption | with_reducible refine State.updMem_keeps ?_ | extract_lets | split | extract_lets | dsimp only)

theorem State.memAbort_keeps {z s : State} (h : Keeps z s) : Keeps z (State.memAbort s) := by
  unfold State.memAbort
  try extract_lets
  repeat' (first | with_reducible assumption | with_reducible refine State.updMem_keeps ?_ | with_reducible refine State.seqEnds_keeps ?_ |
    extract_lets | split | extract_lets | dsimp only)

theorem State.memGo_keeps {z s : State} {w : Word} (h : Keeps z s) : Keeps z (State.memGo s w) := by
  unfold State.memGo
  exact Keeps.ite (State.setFld_keeps h) (State.updMem_keeps h)

theorem State.memCmd_keeps {z s : State} {w : Word} (h : Keeps z s) : Keeps z (State.memCmd s w) := by
  unfold State.memCmd
  exact Keeps.ite (State.memAbort_keeps h) (Keeps.ite (State.memGo_keeps h) h)

theorem State.memXip_keeps {z s : State} {key : ℕ} {w : Word} (h : Keeps z s) : Keeps z (State.memXip s key w) := by
  unfold State.memXip
  exact Keeps.ite (State.memCfgErr_keeps h) (State.updMem_keeps (State.wr_keeps h))

theorem State.memPsram_keeps {z s : State} {w : Word} (h : Keeps z s) : Keeps z (State.memPsram s w) := by
  unfold State.memPsram
  try extract_lets
  repeat' (first | with_reducible assumption | with_reducible refine Keeps.ite ?_ ?_ | with_reducible refine State.psDrained_keeps ?_ | with_reducible
    refine State.updMem_keeps ?_ | with_reducible refine State.memCfgErr_keeps ?_ | with_reducible refine State.wr_keeps ?_ | extract_lets |
    extract_lets | dsimp only)

theorem State.memPscmd_keeps {z s : State} {w : Word} (h : Keeps z s) : Keeps z (State.memPscmd s w) := by
  unfold State.memPscmd
  exact Keeps.ite (State.memCfgErr_keeps h) (State.wr_keeps h)

end Sys2Proof.Machine
end

