-- ==== Sys2Proof/Laws/KeepsReg.lean ====
section
/-! SUPPORT. Laws/KeepsReg.lean: what boundaries, resets and register accesses keep: the queue, the variant and the canonical form of the memories. -/

set_option linter.unusedTactic false
set_option linter.unreachableTactic false
set_option linter.unusedVariables false

namespace Sys2Proof.Machine

theorem State.caseFlags_keeps {z s : State} {m : Fin 16} {l : List CaseFlag} (h : Keeps z s) : Keeps z (State.caseFlags s m l) := by
  unfold State.caseFlags
  exact State.when_keeps (State.when_keeps (State.when_keeps h (fun _ => fun h1 => State.setFld_keeps h1)) (fun _ => fun h1 => State.setFld_keeps h1))
    (fun _ => fun h1 => State.setFld_keeps h1)

theorem State.planPeriod_keeps {z s : State} {m : Fin 16} {b : ℕ} {tLen : ℕ} {inl : Bool} {ch : Option (ℤ × ℤ)} (h : Keeps z s) : Keeps z
  (State.planPeriod s m b tLen inl ch).1 := by
  unfold State.planPeriod
  try extract_lets
  repeat' (first | with_reducible assumption | with_reducible refine State.caseFlags_keeps ?_ | with_reducible refine State.updPwm_keeps ?_ |
    extract_lets | extract_lets | dsimp only)

theorem State.rampRelease_keeps {z s : State} {m : Fin 16} (h : Keeps z s) :
    Keeps z (State.rampRelease s m) := by
  unfold State.rampRelease
  try extract_lets
  repeat' (first | with_reducible assumption | with_reducible refine Keeps.ite ?_ ?_ | with_reducible refine State.updSeq_keeps ?_
                 | with_reducible refine Keeps.foldl ?_ ?_ | intro _ _ | intro _ | extract_lets | split
                 | (with_reducible refine Keeps.upd ?_; first | with_reducible assumption | with_reducible refine State.updSeq_keeps ?_ | with_reducible refine Keeps.ite ?_ ?_ | with_reducible refine Keeps.foldl ?_ ?_ | split)
                 | (with_reducible refine Keeps.updE ?_; first | with_reducible assumption | with_reducible refine State.updSeq_keeps ?_ | with_reducible refine Keeps.ite ?_ ?_ | with_reducible refine Keeps.foldl ?_ ?_ | split)
                 | intro _ _ | intro _ | extract_lets | split | extract_lets | dsimp only)

theorem State.release_keeps {z s : State} {m : Fin 16} {c : Cap} (h : Keeps z s) :
    Keeps z (State.release s m c) := by
  unfold State.release
  try extract_lets
  repeat' (first | with_reducible assumption | with_reducible refine Keeps.ite ?_ ?_ | with_reducible refine State.writeSet_keeps ?_
                 | with_reducible refine State.comRelease_keeps ?_ | with_reducible refine State.seqRelease_keeps ?_
                 | with_reducible refine State.cmdRelease_keeps ?_ | with_reducible refine State.regenRelease_keeps ?_
                 | with_reducible refine State.halRelease_keeps ?_ | with_reducible refine State.rampRelease_keeps ?_
                 | with_reducible refine State.busRelease_keeps ?_ | with_reducible refine State.loopTrigger_keeps ?_
                 | with_reducible refine Keeps.foldl ?_ ?_ | intro _ _ | intro _ | extract_lets | split | extract_lets | dsimp only)

theorem State.noteZ_keeps {z s : State} {m : Fin 16} (h : Keeps z s) :
    Keeps z (State.noteZ s m) := by
  unfold State.noteZ
  try extract_lets
  repeat' (first | with_reducible assumption | with_reducible refine Keeps.ite ?_ ?_ | with_reducible refine State.when_keeps ?_ ?_
                 | with_reducible refine State.updCom_keeps ?_ | with_reducible refine Keeps.foldl ?_ ?_ | intro _ _ | intro _ | extract_lets
                 | split
                 | (with_reducible refine Keeps.upd ?_; first | with_reducible assumption | with_reducible refine State.when_keeps ?_ ?_ | with_reducible refine State.updCom_keeps ?_ | with_reducible refine Keeps.ite ?_ ?_ | with_reducible refine Keeps.foldl ?_ ?_ | split)
                 | (with_reducible refine Keeps.updE ?_; first | with_reducible assumption | with_reducible refine State.when_keeps ?_ ?_ | with_reducible refine State.updCom_keeps ?_ | with_reducible refine Keeps.ite ?_ ?_ | with_reducible refine Keeps.foldl ?_ ?_ | split)
                 | intro _ _ | intro _ | extract_lets | split | extract_lets | dsimp only)

theorem State.closePeriod_keeps {z s : State} {m : Fin 16} {b : Nat} (h : Keeps z s) :
    Keeps z (State.closePeriod s m b) := by
  unfold State.closePeriod
  try extract_lets
  repeat' (first | with_reducible assumption | with_reducible refine Keeps.ite ?_ ?_ | with_reducible refine State.when_keeps ?_ ?_
                 | with_reducible refine State.noteZ_keeps ?_ | with_reducible refine State.gateMark_keeps ?_
                 | with_reducible refine State.updM_keeps ?_ | with_reducible refine State.applyDeferred_keeps ?_
                 | with_reducible refine State.ofsLook_keeps ?_ | with_reducible refine State.updSense_keeps ?_
                 | with_reducible refine Keeps.foldl ?_ ?_ | intro _ _ | intro _ | extract_lets | split
                 | (with_reducible refine Keeps.upd ?_; first | with_reducible assumption | with_reducible refine State.when_keeps ?_ ?_ | with_reducible refine State.noteZ_keeps ?_ | with_reducible refine State.gateMark_keeps ?_ | with_reducible refine State.updM_keeps ?_ | with_reducible refine State.applyDeferred_keeps ?_ | with_reducible refine State.ofsLook_keeps ?_ | with_reducible refine State.updSense_keeps ?_ | with_reducible refine Keeps.ite ?_ ?_ | with_reducible refine Keeps.foldl ?_ ?_ | split)
                 | (with_reducible refine Keeps.updE ?_; first | with_reducible assumption | with_reducible refine State.when_keeps ?_ ?_ | with_reducible refine State.noteZ_keeps ?_ | with_reducible refine State.gateMark_keeps ?_ | with_reducible refine State.updM_keeps ?_ | with_reducible refine State.applyDeferred_keeps ?_ | with_reducible refine State.ofsLook_keeps ?_ | with_reducible refine State.updSense_keeps ?_ | with_reducible refine Keeps.ite ?_ ?_ | with_reducible refine Keeps.foldl ?_ ?_ | split)
                 | intro _ _ | intro _ | extract_lets | split | extract_lets | dsimp only)

theorem State.stopAt_keeps {z s : State} {m : Fin 16} {b : Nat} (h : Keeps z s) : Keeps z (s.stopAt m b) := by
  unfold State.stopAt
  extract_lets p last chop s1 s2 s3 s4 s5 s6 s7
  have h1 : Keeps z s1 := State.updPwm_keeps h
  have h2 : Keeps z s2 := State.dropValid_keeps (State.updSense_keeps h1)
  have h3 : Keeps z s3 := Keeps.upd h2
  have h4 : Keeps z s4 := by
    show Keeps z (match last with | some e => s3.hardStep m e.1 b | none => s3)
    clear_value last s3
    split
    · exact State.hardStep_keeps h3
    · exact h3
  have h5 : Keeps z s5 := State.seqBoundary_keeps (State.propagate_keeps (State.luffEnd_keeps h4))
  have h6 : Keeps z s6 := State.updSeq_keeps h5
  exact State.putMs_keeps (State.groupStopped_keeps (State.leaveSafe_keeps (State.cutEnd_keeps h6)))

theorem State.polarityCmp_keeps {z s : State} {m : Fin 16} {b : Nat} {tLen : Nat} (h : Keeps z s) :
    Keeps z (State.polarityCmp s m b tLen) := by
  unfold State.polarityCmp
  try extract_lets
  repeat' (first | with_reducible assumption | with_reducible refine Keeps.ite ?_ ?_ | with_reducible refine State.updPwm_keeps ?_
                 | with_reducible refine State.updCom_keeps ?_ | with_reducible refine State.when_keeps ?_ ?_
                 | with_reducible refine State.comFlag_keeps ?_ | with_reducible refine Keeps.foldl ?_ ?_ | intro _ _ | intro _ | extract_lets
                 | split
                 | (with_reducible refine Keeps.upd ?_; first | with_reducible assumption | with_reducible refine State.updPwm_keeps ?_ | with_reducible refine State.updCom_keeps ?_ | with_reducible refine State.when_keeps ?_ ?_ | with_reducible refine State.comFlag_keeps ?_ | with_reducible refine Keeps.ite ?_ ?_ | with_reducible refine Keeps.foldl ?_ ?_ | split)
                 | (with_reducible refine Keeps.updE ?_; first | with_reducible assumption | with_reducible refine State.updPwm_keeps ?_ | with_reducible refine State.updCom_keeps ?_ | with_reducible refine State.when_keeps ?_ ?_ | with_reducible refine State.comFlag_keeps ?_ | with_reducible refine Keeps.ite ?_ ?_ | with_reducible refine Keeps.foldl ?_ ?_ | split)
                 | intro _ _ | intro _ | extract_lets | split | extract_lets | dsimp only)

theorem State.beginPeriod_keeps {z s : State} {m : Fin 16} {b : ℕ} {tLen : ℕ} {path : Bool × ℕ} {chg : Bool} (h : Keeps z s) : Keeps z
  (State.beginPeriod s m b tLen path chg) := by
  unfold State.beginPeriod
  exact State.putMs_keeps (State.updCom_keeps (State.updSense_keeps (State.updShr_keeps (State.cutEnd_keeps (State.updPwm_keeps
    (State.planPeriod_keeps h))))))

theorem State.nextPeriod_keeps {z s : State} {m : Fin 16} {b : Nat} {path : Bool × Nat} (h : Keeps z s) :
    Keeps z (State.nextPeriod s m b path) := by
  unfold State.nextPeriod
  extract_lets chg s2 a tLen s3 s4
  have h_s2 : Keeps z s2 := by
    repeat' (first | with_reducible assumption | with_reducible refine Keeps.ite ?_ ?_ | with_reducible refine State.reload_keeps ?_
                   | with_reducible refine State.leaveSafe_keeps ?_ | with_reducible refine State.propagate_keeps ?_
                   | with_reducible refine State.seqBoundary_keeps ?_ | with_reducible refine State.anchorStep_keeps ?_
                   | with_reducible refine State.polarityCmp_keeps ?_ | with_reducible refine State.forcedAngle_keeps ?_
                   | with_reducible refine State.refreshDrive_keeps ?_ | with_reducible refine State.stepBoundary_keeps ?_
                   | with_reducible refine State.holdMask_keeps ?_ | with_reducible refine State.beginPeriod_keeps ?_
                   | with_reducible refine Keeps.foldl ?_ ?_ | intro _ _ | intro _ | extract_lets | split | extract_lets | dsimp only)
  clear_value s2
  have h_s3 : Keeps z s3 := by
    repeat' (first | with_reducible assumption | with_reducible refine Keeps.ite ?_ ?_ | with_reducible refine State.reload_keeps ?_
                   | with_reducible refine State.leaveSafe_keeps ?_ | with_reducible refine State.propagate_keeps ?_
                   | with_reducible refine State.seqBoundary_keeps ?_ | with_reducible refine State.anchorStep_keeps ?_
                   | with_reducible refine State.polarityCmp_keeps ?_ | with_reducible refine State.forcedAngle_keeps ?_
                   | with_reducible refine State.refreshDrive_keeps ?_ | with_reducible refine State.stepBoundary_keeps ?_
                   | with_reducible refine State.holdMask_keeps ?_ | with_reducible refine State.beginPeriod_keeps ?_
                   | with_reducible refine Keeps.foldl ?_ ?_ | intro _ _ | intro _ | extract_lets | split | extract_lets | dsimp only)
  clear_value s3
  have h_s4 : Keeps z s4 := by
    repeat' (first | with_reducible assumption | with_reducible refine Keeps.ite ?_ ?_ | with_reducible refine State.reload_keeps ?_
                   | with_reducible refine State.leaveSafe_keeps ?_ | with_reducible refine State.propagate_keeps ?_
                   | with_reducible refine State.seqBoundary_keeps ?_ | with_reducible refine State.anchorStep_keeps ?_
                   | with_reducible refine State.polarityCmp_keeps ?_ | with_reducible refine State.forcedAngle_keeps ?_
                   | with_reducible refine State.refreshDrive_keeps ?_ | with_reducible refine State.stepBoundary_keeps ?_
                   | with_reducible refine State.holdMask_keeps ?_ | with_reducible refine State.beginPeriod_keeps ?_
                   | with_reducible refine Keeps.foldl ?_ ?_ | intro _ _ | intro _ | extract_lets | split | extract_lets | dsimp only)
  clear_value s4
  repeat' (first | with_reducible assumption | with_reducible refine Keeps.ite ?_ ?_ | with_reducible refine State.reload_keeps ?_
                 | with_reducible refine State.leaveSafe_keeps ?_ | with_reducible refine State.propagate_keeps ?_
                 | with_reducible refine State.seqBoundary_keeps ?_ | with_reducible refine State.anchorStep_keeps ?_
                 | with_reducible refine State.polarityCmp_keeps ?_ | with_reducible refine State.forcedAngle_keeps ?_
                 | with_reducible refine State.refreshDrive_keeps ?_ | with_reducible refine State.stepBoundary_keeps ?_
                 | with_reducible refine State.holdMask_keeps ?_ | with_reducible refine State.beginPeriod_keeps ?_
                 | with_reducible refine Keeps.foldl ?_ ?_ | intro _ _ | intro _ | extract_lets | split | extract_lets | dsimp only)

theorem State.boundary_keeps {z s : State} {m : Fin 16} (h : Keeps z s) :
    Keeps z (State.boundary s m) := by
  unfold State.boundary
  try extract_lets
  repeat' (first | with_reducible assumption | with_reducible refine Keeps.ite ?_ ?_ | with_reducible refine State.released_keeps ?_
                 | with_reducible refine State.release_keeps ?_ | with_reducible refine State.closePeriod_keeps ?_
                 | with_reducible refine State.stopAt_keeps ?_ | with_reducible refine State.nextPeriod_keeps ?_
                 | with_reducible refine State.when_keeps ?_ ?_ | with_reducible refine State.trigger_keeps ?_
                 | with_reducible refine State.shroudLook_keeps ?_ | with_reducible refine Keeps.foldl ?_ ?_ | intro _ _ | intro _ | extract_lets
                 | split | extract_lets | dsimp only)

theorem State.logRead_keeps {z s : State} (h : Keeps z s) :
    Keeps z (State.logRead s) := by
  unfold State.logRead
  try extract_lets
  repeat' (first | with_reducible assumption | with_reducible refine Keeps.ite ?_ ?_ | with_reducible refine State.updFc_keeps ?_
                 | with_reducible refine Keeps.foldl ?_ ?_ | intro _ _ | intro _ | extract_lets | split
                 | (with_reducible refine Keeps.upd ?_; first | with_reducible assumption | with_reducible refine State.updFc_keeps ?_ | with_reducible refine Keeps.ite ?_ ?_ | with_reducible refine Keeps.foldl ?_ ?_ | split)
                 | (with_reducible refine Keeps.updE ?_; first | with_reducible assumption | with_reducible refine State.updFc_keeps ?_ | with_reducible refine Keeps.ite ?_ ?_ | with_reducible refine Keeps.foldl ?_ ?_ | split)
                 | intro _ _ | intro _ | extract_lets | split | extract_lets | dsimp only)

theorem State.logNext_keeps {z s : State} (h : Keeps z s) : Keeps z (State.logNext s) := by
  unfold State.logNext
  exact Keeps.ite (State.updFc_keeps (State.setFld_keeps h)) h

theorem State.lowRead_keeps {z s : State} {a : ℕ} (h : Keeps z s) : Keeps z (State.lowRead s a) := by
  unfold State.lowRead
  exact Keeps.ite (Keeps.upd h) (Keeps.ite (State.updFc_keeps h) (Keeps.ite (State.logRead_keeps (State.updFc_keeps h)) h))

theorem State.prgNext_keeps {z s : State} (h : Keeps z s) : Keeps z (State.prgNext s) := by
  unfold State.prgNext
  exact State.when_keeps h (fun _ => fun h1 => State.setFld_keeps h1)

theorem State.tabNext_keeps {z s : State} (h : Keeps z s) : Keeps z (State.tabNext s) := by
  unfold State.tabNext
  exact State.when_keeps h (fun _ => fun h1 => State.setFld_keeps h1)

theorem State.sigNext_keeps {z s : State} (h : Keeps z s) : Keeps z (State.sigNext s) := by
  unfold State.sigNext
  exact State.when_keeps h (fun _ => fun h1 => State.setFld_keeps h1)

theorem State.cellNext_keeps {z s : State} (h : Keeps z s) : Keeps z (State.cellNext s) := by
  unfold State.cellNext
  exact State.when_keeps h (fun _ => fun h1 => State.setFld_keeps (State.setFld_keeps h1))

theorem State.readEffect_keeps {z s : State} {a : ℕ} (h : Keeps z s) : Keeps z (State.readEffect s a) := by
  unfold State.readEffect
  exact Keeps.ite (State.lowRead_keeps h) (Keeps.ite (State.logRead_keeps h) (Keeps.ite (State.logNext_keeps (State.logRead_keeps h)) (Keeps.ite
    (State.audNext_keeps h) (Keeps.ite (State.prgNext_keeps h) (Keeps.ite (State.tabNext_keeps h) (Keeps.ite (State.cellNext_keeps h) (Keeps.ite
    (State.stNext_keeps h) h)))))))

theorem State.rcTake_keeps {z s : State} {a : ℕ} {i : ℕ} {row : RegRow} (h : Keeps z s)  : Keeps z (State.rcTake s a i row).2 := by
  unfold State.rcTake
  try extract_lets
  repeat' (first | with_reducible assumption | with_reducible refine Keeps.ite ?_ ?_ | with_reducible refine State.updFc_keeps ?_ | with_reducible refine State.wr_keeps ?_ | with_reducible refine Keeps.foldl ?_ ?_ | intro _ _ | intro _ | extract_lets | split | (with_reducible refine Keeps.upd ?_; first | with_reducible assumption | with_reducible refine State.updFc_keeps ?_ | with_reducible refine State.wr_keeps ?_ | with_reducible refine Keeps.ite ?_ ?_ | with_reducible refine Keeps.foldl ?_ ?_ | split) | (with_reducible refine Keeps.updE ?_; first | with_reducible assumption | with_reducible refine State.updFc_keeps ?_ | with_reducible refine State.wr_keeps ?_ | with_reducible refine Keeps.ite ?_ ?_ | with_reducible refine Keeps.foldl ?_ ?_ | split) | extract_lets | dsimp only)

theorem State.comFollows_keeps {z s : State} {m : Fin 16} {old : Word} {nw : Word} (h : Keeps z s) : Keeps z (State.comFollows s m old nw) := by
  unfold State.comFollows
  exact Keeps.ite (State.refreshDrive_keeps (Keeps.ite (Keeps.ite h (State.setEst_keeps h)) (Keeps.ite h (State.setEst_keeps h)))) h

theorem State.stepWrite_keeps {z s : State} {m : Fin 16} {w : Word} (h : Keeps z s) : Keeps z (State.stepWrite s m w) := by
  unfold State.stepWrite
  exact Keeps.ite h (Keeps.ite (State.stepEvent_keeps h) (State.comCfgErr_keeps h))

theorem State.afterMast_keeps {z s : State} {m : Fin 16} {a : Nat} {w : Word} {old : Word} {nw : Word} (h : Keeps z s) :
    Keeps z (State.afterMast s m a w old nw) := by
  unfold State.afterMast
  try extract_lets
  repeat' (first | with_reducible assumption | with_reducible refine Keeps.ite ?_ ?_ | with_reducible refine State.stageKind_keeps ?_
                 | with_reducible refine State.when_keeps ?_ ?_ | with_reducible refine State.startRun_keeps ?_
                 | with_reducible refine State.count_keeps ?_ | with_reducible refine State.release_keeps ?_
                 | with_reducible refine State.updPwm_keeps ?_ | with_reducible refine State.updSense_keeps ?_
                 | with_reducible refine State.updCom_keeps ?_ | with_reducible refine State.noteZ_keeps ?_
                 | with_reducible refine State.comFollows_keeps ?_ | with_reducible refine State.stepWrite_keeps ?_
                 | with_reducible refine State.updCmd_keeps ?_ | with_reducible refine State.ocWritten_keeps ?_
                 | with_reducible refine State.shroudLook_keeps ?_ | with_reducible refine State.refreshSafe_keeps ?_
                 | with_reducible refine Keeps.foldl ?_ ?_ | intro _ _ | intro _ | extract_lets | split
                 | (with_reducible refine Keeps.upd ?_; first | with_reducible assumption | with_reducible refine State.stageKind_keeps ?_ | with_reducible refine State.when_keeps ?_ ?_ | with_reducible refine State.startRun_keeps ?_ | with_reducible refine State.count_keeps ?_ | with_reducible refine State.release_keeps ?_ | with_reducible refine State.updPwm_keeps ?_ | with_reducible refine State.updSense_keeps ?_ | with_reducible refine State.updCom_keeps ?_ | with_reducible refine State.noteZ_keeps ?_ | with_reducible refine State.comFollows_keeps ?_ | with_reducible refine State.stepWrite_keeps ?_ | with_reducible refine State.updCmd_keeps ?_ | with_reducible refine State.ocWritten_keeps ?_ | with_reducible refine State.shroudLook_keeps ?_ | with_reducible refine State.refreshSafe_keeps ?_ | with_reducible refine Keeps.ite ?_ ?_ | with_reducible refine Keeps.foldl ?_ ?_ | split)
                 | (with_reducible refine Keeps.updE ?_; first | with_reducible assumption | with_reducible refine State.stageKind_keeps ?_ | with_reducible refine State.when_keeps ?_ ?_ | with_reducible refine State.startRun_keeps ?_ | with_reducible refine State.count_keeps ?_ | with_reducible refine State.release_keeps ?_ | with_reducible refine State.updPwm_keeps ?_ | with_reducible refine State.updSense_keeps ?_ | with_reducible refine State.updCom_keeps ?_ | with_reducible refine State.noteZ_keeps ?_ | with_reducible refine State.comFollows_keeps ?_ | with_reducible refine State.stepWrite_keeps ?_ | with_reducible refine State.updCmd_keeps ?_ | with_reducible refine State.ocWritten_keeps ?_ | with_reducible refine State.shroudLook_keeps ?_ | with_reducible refine State.refreshSafe_keeps ?_ | with_reducible refine Keeps.ite ?_ ?_ | with_reducible refine Keeps.foldl ?_ ?_ | split)
                 | intro _ _ | intro _ | extract_lets | split | extract_lets | dsimp only)

theorem State.pwmCommitW_keeps {z s : State} {m : Fin 16} {w : Word} (h : Keeps z s) : Keeps z (State.pwmCommitW s m w) := by
  unfold State.pwmCommitW
  exact Keeps.ite (State.commitAt_keeps h) h

theorem State.seqCmdW_keeps {z s : State} {m : Fin 16} {w : Word} (h : Keeps z s) : Keeps z (State.seqCmdW s m w) := by
  unfold State.seqCmdW
  try extract_lets
  repeat' (first | with_reducible assumption | with_reducible refine State.seqRequest_keeps ?_ | with_reducible refine State.setFld_keeps ?_ |
    extract_lets | split | extract_lets | dsimp only)

theorem State.shrCmdW_keeps {z s : State} {m : Fin 16} {w : Word} (h : Keeps z s) : Keeps z (State.shrCmdW s m w) := by
  unfold State.shrCmdW
  exact State.when_keeps (State.when_keeps h (fun _ => fun h1 => State.shroudClear_keeps h1)) (fun _ => fun h1 => State.shroudTest_keeps h1)

theorem State.noteCause_keeps {z s old : State} {cause mon : Nat} (h : Keeps z s) : Keeps z (s.noteCause old cause mon) := by
  unfold State.noteCause
  extract_lets s1 s2 s3
  have h1 : Keeps z s1 := State.wr_keeps (State.wr_keeps h)
  have h2 : Keeps z s2 := State.setFld_keeps (State.setFld_keeps h1)
  have h3 : Keeps z s3 := State.setFld_keeps h2
  exact Keeps.ite h (State.bump_keeps h3)

theorem State.resetStore_wf {z s : State} {cause : Nat} (h : Keeps z s) (c : z.canonical) :
    spWf (fun _ => stBlank) (s.resetStore cause).mem = true := by
  have h1 : Keeps z (if s.store.pulse.isNone then s
      else if s.store.programs && decide (3 ≤ cause) then s.pulseDone_ true else s.stAbortPulse) :=
    Keeps.ite h (Keeps.ite (State.pulseDone__keeps h) (State.stAbortPulse_keeps h))
  exact (h1.canonical c).2.2.2.2.2.2

theorem State.deviceReset_keeps {z s : State} {cause mon : Nat} (h : Keeps z s) : Keeps z (s.deviceReset cause mon) := by
  unfold State.deviceReset
  dsimp only
  refine State.turn_keeps (State.noteCause_keeps ⟨h.pending, h.now, h.variant, fun c => ?_⟩)
  exact ⟨rfl, rfl, rfl, rfl, rfl, rfl, State.resetStore_wf h c⟩

theorem State.trackAgain_keeps {z s : State} {m : Fin 16} (h : Keeps z s) : Keeps z (State.trackAgain s m) := by
  unfold State.trackAgain
  exact State.when_keeps h (fun _ => fun h1 => State.setEst_keeps h1)

theorem State.noteDrops_keeps {z s : State} {m : Fin 16} (h : Keeps z s) :
    Keeps z (State.noteDrops s m) := by
  unfold State.noteDrops
  try extract_lets
  repeat' (first | with_reducible assumption | with_reducible refine Keeps.ite ?_ ?_ | with_reducible refine State.noteHw_keeps ?_
                 | with_reducible refine Keeps.foldl ?_ ?_ | intro _ _ | intro _ | extract_lets | split | extract_lets | dsimp only)

theorem State.mastResetDone_keeps {z s : State} {m : Fin 16} (h : Keeps z s) : Keeps z (s.mastResetDone m) := by
  unfold State.mastResetDone
  dsimp only
  have h1 := fun f => State.updM_keeps (m := m) (f := f) (State.gateMark_keeps (m := m) h)
  refine State.when_keeps (State.shroudLook_keeps (State.refreshSafe_keeps (State.refreshDrive_keeps (State.trackAgain_keeps (State.putM_keeps
    (State.updFc_keeps ?_)))))) fun _ ht => State.seqRequest_keeps ht
  have h3 := State.setFld_keeps (f := F.SHR_CNT_CBC) (i := m) (v := 0) (State.setFld_keeps (f := F.LOOP_OVR_COUNT) (i := m) (v := 0)
    (Keeps.foldl (l := mastStatusRegs) (f := fun s a => s.wr (keyI a m) (resetWord s.variant (keyI a m)))
      (h1 fun x => x.blockReset s.now (s.srcPend (0x40 + 12 * m.val + MS.INLINE_SENSE)) (s.srcPend (0x40 + 12 * m.val + MS.SHUNT_SENSE)))
      fun _ _ ht => State.wr_keeps ht))
  have h4 := State.noteDrops_keeps (m := m) h3
  exact ⟨h4.1, h4.2, h4.3, fun c => ⟨(h4.canonical c).1, spWf_filter (h3.canonical c).2.1, (h4.canonical c).2.2⟩⟩

theorem State.laneTested_keeps {z s : State} {n : Fin 4} {pass : Bool} (h : Keeps z s) : Keeps z (State.laneTested s n pass) := by
  unfold State.laneTested
  exact Keeps.ite h (Keeps.ite (State.updL_keeps h) (State.raise_keeps (State.updL_keeps h)))

theorem State.rstCmd_keeps {z s : State} {w : Word} (h : Keeps z s) : Keeps z (State.rstCmd s w) := by
  unfold State.rstCmd
  try extract_lets
  repeat' (first | with_reducible assumption | with_reducible refine Keeps.ite ?_ ?_ | with_reducible refine State.setFld_keeps ?_ | with_reducible
    refine State.deviceReset_keeps ?_ | with_reducible refine State.mastReset_keeps ?_ | with_reducible refine State.updL_keeps ?_ | with_reducible
    refine Keeps.foldl ?_ ?_ | intro _ _ | intro _ | extract_lets | split | extract_lets | dsimp only)

theorem State.bgFollows_keeps {z s : State} {g : Fin 8} {old : Word} {nw : Word} (h : Keeps z s) : Keeps z (State.bgFollows s g old nw) := by
  unfold State.bgFollows
  exact State.refreshGroup_keeps (State.refreshBgEn_keeps (State.updG_keeps (Keeps.foldl h (fun _ => fun _ => fun h2 => State.refreshSafe_keeps
    (State.setChop_keeps (State.gateMark_keeps h2))))))

theorem State.etmrFollows_keeps {z s : State} {n : Fin 8} {old : Word} {nw : Word} (h : Keeps z s) : Keeps z (State.etmrFollows s n old nw) := by
  unfold State.etmrFollows
  try extract_lets
  repeat' (first | with_reducible assumption | with_reducible refine State.updEng_keeps ?_ ?_ | intro _ _ | intro _ | extract_lets | extract_lets |
    dsimp only)

theorem State.lanesFollow_keeps {z s : State} {old : Word} {nw : Word} (h : Keeps z s) : Keeps z (State.lanesFollow s old nw) := by
  unfold State.lanesFollow
  exact Keeps.foldl h fun _ _ h2 => Keeps.ite (State.updL_keeps h2) (Keeps.ite (State.updL_keeps h2) h2)

theorem State.pwinFollows_keeps {z s : State} {p : Nat} {old nw : Word} (h : Keeps z s) : Keeps z (s.pwinFollows p old nw) := by
  unfold State.pwinFollows
  split
  · exact ⟨h.1, h.2, h.3, fun c => by
      have k := h.canonical c
      exact ⟨k.1, spWf_filter k.2.1, k.2.2⟩⟩
  · exact h

theorem State.afterDev_keeps {z s : State} {a : Nat} {i : Nat} {old : Word} {nw : Word} (h : Keeps z s) :
    Keeps z (State.afterDev s a i old nw) := by
  unfold State.afterDev
  try extract_lets
  repeat' (first | with_reducible assumption | with_reducible refine Keeps.ite ?_ ?_ | with_reducible refine State.updFc_keeps ?_
                 | with_reducible refine State.when_keeps ?_ ?_ | with_reducible refine State.updRing_keeps ?_
                 | with_reducible refine State.ringRefresh_keeps ?_ | with_reducible refine State.delaysFollow_keeps ?_
                 | with_reducible refine State.pwinFollows_keeps ?_ | with_reducible refine State.cycleSync_keeps ?_
                 | with_reducible refine State.mzFollow_keeps ?_ | with_reducible refine State.refreshRole_keeps ?_
                 | with_reducible refine State.calSweep_keeps ?_ | with_reducible refine State.lanesFollow_keeps ?_
                 | with_reducible refine State.relocate_keeps ?_ | with_reducible refine State.etmrFollows_keeps ?_
                 | with_reducible refine State.updEng_keeps ?_ ?_ | with_reducible refine State.bgFollows_keeps ?_
                 | with_reducible refine State.updRole_keeps ?_ | with_reducible refine Keeps.foldl ?_ ?_ | intro _ _ | intro _ | extract_lets
                 | split
                 | (with_reducible refine Keeps.upd ?_; first | with_reducible assumption | with_reducible refine State.updFc_keeps ?_ | with_reducible refine State.when_keeps ?_ ?_ | with_reducible refine State.updRing_keeps ?_ | with_reducible refine State.ringRefresh_keeps ?_ | with_reducible refine State.delaysFollow_keeps ?_ | with_reducible refine State.pwinFollows_keeps ?_ | with_reducible refine State.cycleSync_keeps ?_ | with_reducible refine State.mzFollow_keeps ?_ | with_reducible refine State.refreshRole_keeps ?_ | with_reducible refine State.calSweep_keeps ?_ | with_reducible refine State.lanesFollow_keeps ?_ | with_reducible refine State.relocate_keeps ?_ | with_reducible refine State.etmrFollows_keeps ?_ | with_reducible refine State.updEng_keeps ?_ ?_ | with_reducible refine State.bgFollows_keeps ?_ | with_reducible refine State.updRole_keeps ?_ | with_reducible refine Keeps.ite ?_ ?_ | with_reducible refine Keeps.foldl ?_ ?_ | split)
                 | (with_reducible refine Keeps.updE ?_; first | with_reducible assumption | with_reducible refine State.updFc_keeps ?_ | with_reducible refine State.when_keeps ?_ ?_ | with_reducible refine State.updRing_keeps ?_ | with_reducible refine State.ringRefresh_keeps ?_ | with_reducible refine State.delaysFollow_keeps ?_ | with_reducible refine State.pwinFollows_keeps ?_ | with_reducible refine State.cycleSync_keeps ?_ | with_reducible refine State.mzFollow_keeps ?_ | with_reducible refine State.refreshRole_keeps ?_ | with_reducible refine State.calSweep_keeps ?_ | with_reducible refine State.lanesFollow_keeps ?_ | with_reducible refine State.relocate_keeps ?_ | with_reducible refine State.etmrFollows_keeps ?_ | with_reducible refine State.updEng_keeps ?_ ?_ | with_reducible refine State.bgFollows_keeps ?_ | with_reducible refine State.updRole_keeps ?_ | with_reducible refine Keeps.ite ?_ ?_ | with_reducible refine Keeps.foldl ?_ ?_ | split)
                 | intro _ _ | intro _ | extract_lets | split | extract_lets | dsimp only)

theorem State.prgWrite_keeps {z s : State} {w : Word} (h : Keeps z s) : Keeps z (s.prgWrite w) :=
  State.prgNext_keeps (Keeps.ite (State.setFld_keeps h) ⟨h.pending, h.now, h.variant, fun c => by
    have k := h.canonical c
    exact ⟨k.1, k.2.1, spSet_wf (d := fun _ => 0#32) k.2.2.1, k.2.2.2⟩⟩)

theorem State.tabWrite_keeps {z s : State} {w : Word} (h : Keeps z s) : Keeps z (s.tabWrite w) :=
  State.tabNext_keeps ⟨h.pending, h.now, h.variant, fun c => by
    have k := h.canonical c
    exact ⟨k.1, k.2.1, k.2.2.1, spSet_wf (d := fun _ => 0#32) k.2.2.2.1, k.2.2.2.2⟩⟩

theorem State.cellNote_keeps {z s : State} {r : Nat} {n : Nat} {o : CellOp} (h : Keeps z s) :
    Keeps z (State.cellNote s r n o) := by
  unfold State.cellNote
  try extract_lets
  repeat' (first | with_reducible assumption | with_reducible refine Keeps.ite ?_ ?_ | with_reducible refine Keeps.foldl ?_ ?_ | intro _ _ | intro _
                 | extract_lets | split
                 | (with_reducible refine Keeps.upd ?_; first | with_reducible assumption | with_reducible refine Keeps.ite ?_ ?_ | with_reducible refine Keeps.foldl ?_ ?_ | split)
                 | (with_reducible refine Keeps.updE ?_; first | with_reducible assumption | with_reducible refine Keeps.ite ?_ ?_ | with_reducible refine Keeps.foldl ?_ ?_ | split)
                 | intro _ _ | intro _ | extract_lets | split | extract_lets | dsimp only)

theorem State.cellPort_keeps {z s : State} {w : Word} (h : Keeps z s) :
    Keeps z (State.cellPort s w) := by
  unfold State.cellPort
  try extract_lets
  repeat' (first | with_reducible assumption | with_reducible refine Keeps.ite ?_ ?_ | with_reducible refine State.cellNote_keeps ?_
                 | with_reducible refine State.cellWrite_keeps ?_ | with_reducible refine State.cellNext_keeps ?_
                 | with_reducible refine Keeps.foldl ?_ ?_ | intro _ _ | intro _ | extract_lets | split | extract_lets | dsimp only)

theorem State.cellCmd_keeps {z s : State} {n : Nat} {k : Nat} (h : Keeps z s) :
    Keeps z (State.cellCmd s n k) := by
  unfold State.cellCmd
  try extract_lets
  repeat' (first | with_reducible assumption | with_reducible refine Keeps.ite ?_ ?_ | with_reducible refine State.cellOpen_keeps ?_
                 | with_reducible refine State.cellClose_keeps ?_ | with_reducible refine State.cellAutoCmd_keeps ?_
                 | with_reducible refine State.cellManual_keeps ?_ | with_reducible refine State.cellClear_keeps ?_
                 | with_reducible refine Keeps.foldl ?_ ?_ | intro _ _ | intro _ | extract_lets | split | extract_lets | dsimp only)

theorem State.cellCmdW_keeps {z s : State} {w : Word} (h : Keeps z s) :
    Keeps z (State.cellCmdW s w) := by
  unfold State.cellCmdW
  try extract_lets
  repeat' (first | with_reducible assumption | with_reducible refine Keeps.ite ?_ ?_ | with_reducible refine State.ctxIgnore_keeps ?_
                 | with_reducible refine State.cellNote_keeps ?_ | with_reducible refine State.cellCmd_keeps ?_
                 | with_reducible refine Keeps.foldl ?_ ?_ | intro _ _ | intro _ | extract_lets | split | extract_lets | dsimp only)

theorem State.ctxRegWrite_keeps {z s : State} {a : ℕ} {c : Fin 64} {w : Word} (h : Keeps z s) : Keeps z (State.ctxRegWrite s a c w) := by
  unfold State.ctxRegWrite
  exact Keeps.ite (State.ctxIgnore_keeps h) (Keeps.ite (State.updC_keeps h) (State.updC_keeps h))

theorem State.doorbellW_keeps {z s : State} {w : Word} (h : Keeps z s) : Keeps z (State.doorbellW s w) := by
  unfold State.doorbellW
  exact Keeps.ite (State.trigger_keeps h) (State.setFld_keeps h)

theorem State.fcTestW_keeps {z s : State} {w : Word} (h : Keeps z s) : Keeps z (State.fcTestW s w) := by
  unfold State.fcTestW
  exact Keeps.ite (State.raise_keeps h) (State.setFld_keeps h)

theorem State.fcAckW_keeps {z s : State} {w : Word} (h : Keeps z s) : Keeps z (State.fcAckW s w) := by
  unfold State.fcAckW
  try extract_lets
  repeat' (first | with_reducible assumption | with_reducible refine Keeps.ite ?_ ?_ | with_reducible refine State.fcAck_keeps ?_ | with_reducible
    refine State.audited_keeps ?_ ?_ | with_reducible refine State.audit_keeps ?_ | intro _ _ | intro _ | extract_lets | split | extract_lets | dsimp
    only)

theorem State.fcCmdW_keeps {z s : State} {w : Word} (h : Keeps z s) : Keeps z (State.fcCmdW s w) := by
  unfold State.fcCmdW
  exact State.when_keeps (State.when_keeps (State.when_keeps h (fun _ => fun h1 => State.audited_keeps h1 (fun _ => fun h3 => Keeps.foldl
    (State.fcAckAll_keeps h3) (fun _ => fun _ => fun h6 => State.audit_keeps h6)))) (fun _ => fun h1 => State.updFc_keeps h1)) (fun _ => fun h1 =>
    State.updFc_keeps h1)

theorem State.hkCmdW_keeps {z s : State} {w : Word} (h : Keeps z s) : Keeps z (State.hkCmdW s w) := by
  unfold State.hkCmdW
  exact State.when_keeps (State.when_keeps h (fun _ => fun h1 => State.shutClear_keeps h1)) (fun _ => fun h1 => State.peakClear_keeps h1)

theorem State.stCmdW_keeps {z s : State} {w : Word} (h : Keeps z s) : Keeps z (s.stCmdW w) := by
  unfold State.stCmdW
  dsimp only
  refine Keeps.ite h (Keeps.ite (State.setFld_keeps h) (Keeps.ite (State.cmdAbort_keeps h) (Keeps.ite (State.stRefuse_keeps h) ?_)))
  split
  · exact State.cmdErase_keeps h
  · exact State.cmdProg_keeps h
  · exact State.cmdCommit_keeps h
  · exact State.cmdLoad_keeps h
  · exact Keeps.ite (State.cmdAppend_keeps h) (State.stRefuse_keeps h)
  · exact Keeps.ite (State.cmdAppend_keeps h) (State.stRefuse_keeps h)
  · exact State.cmdJcommit_keeps h
  · exact State.cmdJdrop_keeps h

theorem State.bgSelW_keeps {z s : State} {w : Word} (h : Keeps z s) : Keeps z (State.bgSelW s w) := by
  unfold State.bgSelW
  exact State.when_keeps (State.setFld_keeps h) (fun _ => fun h1 => State.ackGroup_keeps h1)

theorem State.hostSig_keeps {z s : State} {id : Nat} {w : Word} (h : Keeps z s) : Keeps z (State.hostSig s id w).st := by
  unfold State.hostSig
  exact State.when_keeps (State.writeSig_keeps h) fun _ k => State.setFld_keeps k

theorem State.sigPort_keeps {z s : State} {w : Word} (h : Keeps z s) : Keeps z (State.sigPort s w).st := by
  unfold State.sigPort
  exact State.sigNext_keeps (State.hostSig_keeps h)

theorem State.special_keeps {z s : State} {a i : Nat} {w : Word} (h : Keeps z s) : ∀ t, s.special a i w = some t → Keeps z t := by
  unfold State.special
  dsimp only
  repeat' (first
    | with_reducible refine Keeps.someIte (Keeps.some ?_) ?_
    | with_reducible exact State.pwmCommitW_keeps h | with_reducible exact State.seqCmdW_keeps h | with_reducible exact State.shrCmdW_keeps h | with_reducible exact State.rstCmd_keeps h
    | with_reducible exact State.roleCmd_keeps h | with_reducible exact State.updRole_keeps h | with_reducible exact State.rigWrite_keeps h | with_reducible exact State.fcAckW_keeps h
    | with_reducible exact State.fcCmdW_keeps h | with_reducible exact State.fcTestW_keeps h | with_reducible exact State.hkCmdW_keeps h | with_reducible exact State.stopSend_keeps h
    | with_reducible exact State.loopback_keeps h | with_reducible exact State.tbCmd_keeps h | with_reducible exact State.calCmd_keeps h | with_reducible exact State.ctxCmd_keeps h
    | with_reducible exact State.ctxRegWrite_keeps h | with_reducible exact State.doorbellW_keeps h | with_reducible exact State.prgWrite_keeps h | with_reducible exact State.tabWrite_keeps h
    | with_reducible exact State.cellPort_keeps h | with_reducible exact State.cellCmdW_keeps h | with_reducible exact State.sigPort_keeps h | with_reducible exact State.trcCtl_keeps h
    | with_reducible exact State.memXip_keeps h | with_reducible exact State.memPsram_keeps h | with_reducible exact State.memPscmd_keeps h | with_reducible exact State.memPush_keeps h
    | with_reducible exact State.memTx_keeps h | with_reducible exact State.memCmd_keeps h | with_reducible exact State.gpioOut_keeps h | with_reducible exact State.stCmdW_keeps h
    | with_reducible exact State.stDataWrite_keeps h | with_reducible exact State.bgSelW_keeps h | with_reducible exact State.furlCtl_keeps h
    | (intro t e; cases e))

theorem State.defer_keeps {z s : State} {a : ℕ} {i : ℕ} {old : Word} {nw : Word} (h : Keeps z s) : Keeps z (State.defer s a i old nw) := by
  unfold State.defer
  exact Keeps.ite (Keeps.upd h) h

theorem State.storeReg_keeps {z s : State} {a i : Nat} {w : Word} (h : Keeps z s) : Keeps z (s.storeReg a i w) := by
  unfold State.storeReg
  exact Keeps.ite (State.stageWr_keeps (State.wr_keeps h)) (Keeps.ite (State.stageWr_keeps h) (State.wr_keeps h))

theorem State.applyReg_keeps {z s : State} {role a i : Nat} {row : RegRow} {w : Word} (h : Keeps z s) :
    Keeps z (s.applyReg role a i row w) := by
  unfold State.applyReg
  split
  · rename_i t e
    exact State.special_keeps h t e
  · extract_lets old x e m s1 s2
    have h1 : Keeps z s1 :=
      State.when_keeps (State.when_keeps h fun _ ht => State.setFld_keeps ht) fun _ ht => State.gateMark_keeps ht
    have h2 : Keeps z s2 := State.defer_keeps (State.storeReg_keeps h1)
    exact Keeps.ite (State.afterMast_keeps h2) (State.when_keeps (State.afterDev_keeps h2) fun _ ht => State.reefMapped_keeps ht)

theorem State.calAgain_keeps {z s : State} {a i : Nat} {row : RegRow} (h : Keeps z s) : Keeps z (s.calAgain a i row) := by
  unfold State.calAgain
  exact Keeps.ite (Keeps.foldl h fun _ _ k => State.applyReg_keeps k) h

theorem State.calReg_keeps {z s : State} {a i : Nat} {mask w : Word} (h : Keeps z s) : Keeps z (s.calReg a i mask w) := by
  unfold State.calReg
  split
  · exact State.applyReg_keeps (Keeps.upd h)
  · exact h

theorem State.recorded_keeps {z s : State} {addr : ℕ} {a : ℕ} {i : ℕ} {need : ℕ} {row : RegRow} {w : Word} (h : Keeps z s)  : Keeps z (State.recorded s addr a i need row w) := by
  unfold State.recorded
  try extract_lets
  repeat' (first | with_reducible assumption | with_reducible refine Keeps.ite ?_ ?_ | with_reducible refine State.applyReg_keeps ?_ | with_reducible refine State.audited_keeps ?_ ?_ | with_reducible refine State.audit_keeps ?_ | with_reducible refine State.updRole_keeps ?_ | with_reducible refine Keeps.foldl ?_ ?_ | intro _ _ | intro _ | extract_lets | split | (with_reducible refine Keeps.upd ?_; first | with_reducible assumption | with_reducible refine State.applyReg_keeps ?_ | with_reducible refine State.audited_keeps ?_ ?_ | with_reducible refine State.audit_keeps ?_ | with_reducible refine State.updRole_keeps ?_ | with_reducible refine Keeps.ite ?_ ?_ | with_reducible refine Keeps.foldl ?_ ?_ | split) | (with_reducible refine Keeps.updE ?_; first | with_reducible assumption | with_reducible refine State.applyReg_keeps ?_ | with_reducible refine State.audited_keeps ?_ ?_ | with_reducible refine State.audit_keeps ?_ | with_reducible refine State.updRole_keeps ?_ | with_reducible refine Keeps.ite ?_ ?_ | with_reducible refine Keeps.foldl ?_ ?_ | split) | extract_lets | dsimp only)

theorem State.regWrite_keeps {z s : State} {addr : Nat} {w : Word} (h : Keeps z s) :
    Keeps z (State.regWrite s addr w) := by
  unfold State.regWrite
  extract_lets s0
  have h_s0 : Keeps z s0 := by
    repeat' (first | with_reducible assumption | with_reducible refine Keeps.ite ?_ ?_ | with_reducible refine State.updRole_keeps ?_
                   | with_reducible refine State.setFld_keeps ?_ | with_reducible refine State.denied_keeps ?_
                   | with_reducible refine State.recorded_keeps ?_ | with_reducible refine State.calAgain_keeps ?_
                   | with_reducible refine Keeps.foldl ?_ ?_ | intro _ _ | intro _ | extract_lets | split
                   | (with_reducible refine Keeps.upd ?_; first | with_reducible assumption | with_reducible refine State.updRole_keeps ?_ | with_reducible refine State.setFld_keeps ?_ | with_reducible refine State.denied_keeps ?_ | with_reducible refine State.recorded_keeps ?_ | with_reducible refine State.calAgain_keeps ?_ | with_reducible refine Keeps.ite ?_ ?_ | with_reducible refine Keeps.foldl ?_ ?_ | split)
                   | (with_reducible refine Keeps.updE ?_; first | with_reducible assumption | with_reducible refine State.updRole_keeps ?_ | with_reducible refine State.setFld_keeps ?_ | with_reducible refine State.denied_keeps ?_ | with_reducible refine State.recorded_keeps ?_ | with_reducible refine State.calAgain_keeps ?_ | with_reducible refine Keeps.ite ?_ ?_ | with_reducible refine Keeps.foldl ?_ ?_ | split)
                   | intro _ _ | intro _ | extract_lets | split | extract_lets | dsimp only)
  clear_value s0
  repeat' (first | with_reducible assumption | with_reducible refine Keeps.ite ?_ ?_ | with_reducible refine State.updRole_keeps ?_
                 | with_reducible refine State.setFld_keeps ?_ | with_reducible refine State.denied_keeps ?_
                 | with_reducible refine State.recorded_keeps ?_ | with_reducible refine State.calAgain_keeps ?_
                 | with_reducible refine Keeps.foldl ?_ ?_ | intro _ _ | intro _ | extract_lets | split
                 | (with_reducible refine Keeps.upd ?_; first | with_reducible assumption | with_reducible refine State.updRole_keeps ?_ | with_reducible refine State.setFld_keeps ?_ | with_reducible refine State.denied_keeps ?_ | with_reducible refine State.recorded_keeps ?_ | with_reducible refine State.calAgain_keeps ?_ | with_reducible refine Keeps.ite ?_ ?_ | with_reducible refine Keeps.foldl ?_ ?_ | split)
                 | (with_reducible refine Keeps.updE ?_; first | with_reducible assumption | with_reducible refine State.updRole_keeps ?_ | with_reducible refine State.setFld_keeps ?_ | with_reducible refine State.denied_keeps ?_ | with_reducible refine State.recorded_keeps ?_ | with_reducible refine State.calAgain_keeps ?_ | with_reducible refine Keeps.ite ?_ ?_ | with_reducible refine Keeps.foldl ?_ ?_ | split)
                 | intro _ _ | intro _ | extract_lets | split | extract_lets | dsimp only)

theorem State.makerWrite_keeps {z s : State} {addr : ℕ} {w : Word} (h : Keeps z s) : Keeps z (State.makerWrite s addr w) := by
  unfold State.makerWrite
  try extract_lets
  repeat' (first | with_reducible assumption | with_reducible refine State.applyReg_keeps ?_ | extract_lets | split | extract_lets | dsimp only)

end Sys2Proof.Machine
end

