-- ==== Sys2Proof/Laws/KeepsHost.lean ====
section
/-! SUPPORT. Laws/KeepsHost.lean: what the host port and boot keep: the queue, the variant and the canonical form of the memories. -/

set_option linter.unusedTactic false
set_option linter.unreachableTactic false
set_option linter.unusedVariables false

namespace Sys2Proof.Machine

theorem State.updHost_keeps {z s : State} {f : HostPort → HostPort} (h : Keeps z s) : Keeps z (State.updHost s f) := by
  unfold State.updHost
  exact Keeps.upd h

theorem State.hostProto_keeps {z s : State} {d : ℕ} (h : Keeps z s) : Keeps z (State.hostProto s d) := by
  unfold State.hostProto
  exact State.bump_keeps (State.raise_keeps h)

theorem State.addFields_keeps {z s : State} {a i : Nat} {v : Word} {l : List FieldRow} (h : Keeps z s) :
    Keeps z (s.addFields a i v l) := by
  induction l generalizing s with
  | nil => exact h
  | cons f r ih => exact ih (Keeps.ite (State.wr_keeps h) h)

theorem State.rcBack_keeps {z s : State} {key : ℕ} {v : Word} (h : Keeps z s) : Keeps z (State.rcBack s key v) := by
  unfold State.rcBack
  try extract_lets
  repeat' (first | with_reducible assumption | with_reducible refine Keeps.ite ?_ ?_ | with_reducible refine State.updFc_keeps ?_ | with_reducible
    refine State.addFields_keeps ?_ | extract_lets | split | extract_lets | dsimp only)

theorem State.holdEnd_keeps {z s : State} (h : Keeps z s) : Keeps z (State.holdEnd s) := by
  unfold State.holdEnd
  try extract_lets
  repeat' (first | with_reducible assumption | with_reducible refine Keeps.ite ?_ ?_ | with_reducible refine State.rcBack_keeps ?_ | with_reducible
    refine State.updHost_keeps ?_ | with_reducible refine Keeps.foldl ?_ ?_ | intro _ _ | intro _ | extract_lets | split | extract_lets | dsimp only)

theorem State.holdRegs_keeps {z s b : State} {l : List Nat} (h : Keeps z s) : Keeps z (s.holdRegs b l) := by
  induction l generalizing s with
  | nil => exact h
  | cons a r ih =>
    unfold State.holdRegs
    refine ih ?_
    split
    · exact State.updHost_keeps (State.rcTake_keeps h)
    · exact h

theorem State.snapTake_keeps {z s : State} {g : ℕ} (h : Keeps z s) : Keeps z (State.snapTake s g) := by
  unfold State.snapTake
  have h1 := State.hostCycle_keeps h
  dsimp only
  split
  · exact State.hostProto_keeps h1
  · exact State.holdRegs_keeps (State.updHost_keeps (State.holdEnd_keeps h1))

theorem State.wordSent_keeps {z s : State} (h : Keeps z s) : Keeps z (State.wordSent s) := by
  unfold State.wordSent
  try extract_lets
  repeat' (first | with_reducible assumption | with_reducible refine State.updHost_keeps ?_ | extract_lets | split | extract_lets | dsimp only)

theorem State.accessBack_keeps {z s : State} {a : Option (Bool × Nat × Word)} (h : Keeps z s) : Keeps z (s.accessBack a) := by
  unfold State.accessBack
  split
  · exact State.rcBack_keeps h
  · exact h

theorem State.wordCut_keeps {z s : State} (h : Keeps z s) : Keeps z (State.wordCut s) :=
  State.accessBack_keeps (State.accessBack_keeps (State.updHost_keeps h))

theorem State.readReg_keeps {z s : State} {a : ℕ} {i : ℕ} {row : RegRow} (h : Keeps z s) : Keeps z (State.readReg s a i row).2 := by
  unfold State.readReg
  exact State.readEffect_keeps (Keeps.ite h (State.updHost_keeps (State.rcTake_keeps h)))

theorem State.waitFor_keeps {z s : State} {sig : Bool} {addr : ℕ} {id : Option ℕ} (h : Keeps z s) : Keeps z (State.waitFor s sig addr id) := by
  unfold State.waitFor
  exact State.updHost_keeps h

theorem State.readLive_keeps {z s : State} {addr : Nat} (h : Keeps z s) : Keeps z (s.readLive addr).2 := by
  unfold State.readLive
  split
  · dsimp only
    exact State.updHost_keeps h
  · split
    · dsimp only
      split
      · split
        · exact State.waitFor_keeps (State.readSig_keeps h)
        · exact State.sigNext_keeps (State.readSig_keeps h)
      · split
        · have h1 := State.memRx_keeps h
          split
          · rename_i e; rw [e] at h1; exact h1
          · rename_i e; rw [e] at h1; exact State.waitFor_keeps h1
        · exact State.readReg_keeps h
    · exact h

theorem State.readWord_keeps {z s : State} {addr : ℕ} {first : Bool} (h : Keeps z s) : Keeps z (State.readWord s addr first).2 := by
  unfold State.readWord
  have h1 := State.hostCycle_keeps h
  dsimp only
  generalize s.hostCycle = s1 at h1
  split
  · exact State.setFld_keeps h1
  · split
    · split
      · dsimp only
        exact State.updHost_keeps h1
      · exact State.readLive_keeps h1
    · exact State.readLive_keeps h1

theorem State.sigLive_keeps {z s : State} {id : ℕ} (h : Keeps z s) : Keeps z (State.sigLive s id).2 := by
  unfold State.sigLive
  try extract_lets
  repeat' (first | with_reducible assumption | with_reducible refine State.readSig_keeps ?_ | with_reducible refine State.waitFor_keeps ?_ |
    extract_lets | split | extract_lets | dsimp only)

theorem State.readSigWord_keeps {z s : State} {id : ℕ} {first : Bool} (h : Keeps z s) : Keeps z (State.readSigWord s id first).2 := by
  unfold State.readSigWord
  have h1 := State.hostCycle_keeps h
  dsimp only
  generalize s.hostCycle = s1 at h1
  split
  · exact State.setFld_keeps h1
  · split
    · split
      · dsimp only
        exact State.updHost_keeps h1
      · exact State.sigLive_keeps h1
    · exact State.sigLive_keeps h1

theorem State.underrun_keeps {z s : State} (h : Keeps z s) : Keeps z (State.underrun s) := by
  unfold State.underrun
  exact State.bump_keeps (State.setFld_keeps h)

theorem State.aside_keeps {z s : State} {acc : State → Option Word × State} (h : Keeps z s) (ha : ∀ t, Keeps z t → Keeps z (acc t).2) :
    Keeps z (s.aside acc).2 := by
  unfold State.aside
  dsimp only
  exact State.updHost_keeps (ha _ (State.updHost_keeps h))

theorem State.accessPast_keeps {z s : State} {addr : Nat} (h : Keeps z s) :
    Keeps z (State.accessPast s addr) := by
  unfold State.accessPast
  try extract_lets
  repeat' (first | with_reducible assumption | with_reducible refine Keeps.ite ?_ ?_ | with_reducible refine State.hostCycle_keeps ?_
                 | with_reducible refine State.rcTake_keeps ?_ | with_reducible refine State.updHost_keeps ?_
                 | with_reducible refine Keeps.foldl ?_ ?_ | intro _ _ | intro _ | extract_lets | split
                 | (with_reducible refine Keeps.upd ?_; first | with_reducible assumption | with_reducible refine State.hostCycle_keeps ?_ | with_reducible refine State.rcTake_keeps ?_ | with_reducible refine State.updHost_keeps ?_ | with_reducible refine Keeps.ite ?_ ?_ | with_reducible refine Keeps.foldl ?_ ?_ | split)
                 | (with_reducible refine Keeps.updE ?_; first | with_reducible assumption | with_reducible refine State.hostCycle_keeps ?_ | with_reducible refine State.rcTake_keeps ?_ | with_reducible refine State.updHost_keeps ?_ | with_reducible refine Keeps.ite ?_ ?_ | with_reducible refine Keeps.foldl ?_ ?_ | split)
                 | intro _ _ | intro _ | extract_lets | split | extract_lets | dsimp only)

theorem State.readWords_keeps {z s : State} {addr : Nat} {fix first : Bool} {prev : Word} {n : Nat} (h : Keeps z s) :
    Keeps z (s.readWords addr fix first prev n).2 := by
  induction n generalizing s addr first prev with
  | zero => exact Keeps.ite h (State.accessPast_keeps h)
  | succ n ih =>
    unfold State.readWords
    have h1 := State.aside_keeps (acc := fun s => s.readWord addr first) h fun _ ht => State.readWord_keeps ht
    split
    · rename_i e; rw [e] at h1; exact ih (State.wordSent_keeps h1)
    · rename_i e; rw [e] at h1; exact State.underrun_keeps (State.wordSent_keeps h1)

theorem State.readSigs_keeps {z s : State} {id : Nat} {first : Bool} {prev : Word} {n : Nat} (h : Keeps z s) :
    Keeps z (s.readSigs id first prev n).2 := by
  induction n generalizing s id first prev with
  | zero => exact h
  | succ n ih =>
    unfold State.readSigs
    have h1 := State.readSigWord_keeps (id := id) (first := first) h
    split
    · rename_i e; rw [e] at h1; exact ih h1
    · rename_i e; rw [e] at h1; exact State.underrun_keeps h1

theorem State.fillHold_keeps {z s : State} {sig : Bool} {addr : ℕ} {v : Word} (h : Keeps z s) : Keeps z (State.fillHold s sig addr v) := by
  unfold State.fillHold
  exact State.updHost_keeps (State.setFld_keeps h)

theorem State.writeWord_keeps {z s : State} {addr : Nat} {w : Word} {part : Bool} (h : Keeps z s) :
    ∀ t, s.writeWord addr w part = some t → Keeps z t := by
  unfold State.writeWord
  extract_lets s' past s1
  replace h : Keeps z s' := State.hostCycle_keeps h
  have h1 : Keeps z s1 := Keeps.ite (State.updHost_keeps h) h
  have hp : ∀ t, Keeps z t → Keeps z (past t) := fun _ ht => State.setFld_keeps ht
  clear_value s1 s' past
  refine Keeps.someIte (Keeps.some (State.hostProto_keeps (State.when_keeps h hp))) (Keeps.someIte (Keeps.some (hp _ h)) ?_)
  split
  · exact Keeps.someIte (Keeps.some h1) (Keeps.someIte (fun _ e => nomatch e) (Keeps.some (State.finish_keeps (State.regWrite_keeps h1))))
  · exact Keeps.some (State.regWrite_keeps h1)

theorem State.writeSigWord_keeps {z s : State} {id : Nat} {w : Word} {part : Bool} (h : Keeps z s) :
    ∀ t, s.writeSigWord id w part = some t → Keeps z t := by
  unfold State.writeSigWord
  extract_lets s' past s1
  replace h : Keeps z s' := State.hostCycle_keeps h
  have h1 : Keeps z s1 := Keeps.ite (State.updHost_keeps h) h
  have hp : ∀ t, Keeps z t → Keeps z (past t) := fun _ ht => State.setFld_keeps ht
  clear_value s1 s' past
  refine Keeps.someIte (Keeps.some (State.hostProto_keeps (State.when_keeps h hp))) (Keeps.someIte (Keeps.some (hp _ h)) (Keeps.someIte (Keeps.some h) ?_))
  exact Keeps.someIte (fun _ e => nomatch e) (Keeps.some (State.finish_keeps (State.hostSig_keeps (State.updRole_keeps h1))))

theorem State.hostEntry_keeps {z s : State} {e : HEntry} (h : Keeps z s) : ∀ t, s.hostEntry e = some t → Keeps z t := by
  intro t ht
  unfold State.hostEntry at ht
  split at ht
  · rename_i addr fix n
    split at ht
    · have h1 := State.readWord_keeps (addr := addr) (first := true) h
      split at ht
      · rename_i e; rw [e] at h1; cases ht; exact State.fillHold_keeps (State.updHost_keeps h1)
      · rename_i e; rw [e] at h1; cases ht; exact h1
    · cases ht; exact State.updHost_keeps (State.readWords_keeps h)
  · rename_i id n
    split at ht
    · have h1 := State.readSigWord_keeps (id := id) (first := true) h
      split at ht
      · rename_i e; rw [e] at h1; cases ht; exact State.fillHold_keeps h1
      · rename_i e; rw [e] at h1; cases ht; exact h1
    · cases ht; exact State.updHost_keeps (State.readSigs_keeps h)
  · cases ht; exact State.updHost_keeps h
  · cases ht; exact State.updHost_keeps h
  · split at ht
    · obtain ⟨u, hu, rfl⟩ := Option.map_eq_some_iff.mp ht
      exact State.updHost_keeps (State.writeWord_keeps h u hu)
    · obtain ⟨u, hu, rfl⟩ := Option.map_eq_some_iff.mp ht
      exact State.updHost_keeps (State.writeSigWord_keeps h u hu)
    · cases ht; exact h
  · cases ht; exact h
  · cases ht; exact State.snapTake_keeps h
  · cases ht; exact State.holdEnd_keeps h
  · cases ht; exact State.hostProto_keeps h

theorem State.hostDrain_keeps {z s : State} {n : Nat} (h : Keeps z s) : Keeps z (State.hostDrain n s) := by
  induction n generalizing s with
  | zero => exact h
  | succ n ih =>
    unfold State.hostDrain
    split
    · exact h
    · refine Keeps.ite h ?_
      split
      · rename_i t e
        exact ih (State.hostEntry_keeps (Keeps.upd h) t e)
      · exact h

theorem State.hostServe_keeps {z s : State} (h : Keeps z s) : Keeps z (State.hostServe s) := by
  unfold State.hostServe
  exact State.hostDrain_keeps h

theorem State.hostPush_keeps {z s : State} {e : HEntry} (h : Keeps z s) : Keeps z (State.hostPush s e) := by
  unfold State.hostPush
  exact Keeps.ite h (Keeps.ite (State.updHost_keeps (State.hostProto_keeps (State.setFld_keeps h))) (State.hostServe_keeps (State.updHost_keeps h)))

theorem State.lastSent_keeps {z s : State} (h : Keeps z s) :
    Keeps z (State.lastSent s) := by
  unfold State.lastSent
  try extract_lets
  repeat' (first | with_reducible assumption | with_reducible refine Keeps.ite ?_ ?_ | with_reducible refine State.wordSent_keeps ?_
                 | with_reducible refine State.wordCut_keeps ?_ | with_reducible refine Keeps.foldl ?_ ?_ | intro _ _ | intro _ | extract_lets
                 | split | extract_lets | dsimp only)

theorem State.hostBegin_keeps {z s : State} {writing : Bool} (h : Keeps z s) :
    Keeps z (State.hostBegin s writing) := by
  unfold State.hostBegin
  try extract_lets
  repeat' (first | with_reducible assumption | with_reducible refine Keeps.ite ?_ ?_ | with_reducible refine State.lastSent_keeps ?_
                 | with_reducible refine State.updHost_keeps ?_ | with_reducible refine Keeps.foldl ?_ ?_ | intro _ _ | intro _ | extract_lets
                 | split
                 | (with_reducible refine Keeps.upd ?_; first | with_reducible assumption | with_reducible refine State.lastSent_keeps ?_ | with_reducible refine State.updHost_keeps ?_ | with_reducible refine Keeps.ite ?_ ?_ | with_reducible refine Keeps.foldl ?_ ?_ | split)
                 | (with_reducible refine Keeps.updE ?_; first | with_reducible assumption | with_reducible refine State.lastSent_keeps ?_ | with_reducible refine State.updHost_keeps ?_ | with_reducible refine Keeps.ite ?_ ?_ | with_reducible refine Keeps.foldl ?_ ?_ | split)
                 | intro _ _ | intro _ | extract_lets | split | extract_lets | dsimp only)

theorem State.hostReadT_keeps {z s : State} {n : ℕ} {e : ℕ → HEntry} (h : Keeps z s) : Keeps z (State.hostReadT s n e) := by
  unfold State.hostReadT
  extract_lets t s1
  have h0 : Keeps z t := State.hostTurn_keeps h
  have h1 : Keeps z s1 := State.hostBegin_keeps h0
  exact Keeps.ite h0 (Keeps.ite h1 (Keeps.ite (State.hostPush_keeps h1) (State.hostPush_keeps (State.underrun_keeps (State.updHost_keeps h1)))))

theorem State.hostWords_keeps {z s : State} {l : List Word} (h : Keeps z s) : Keeps z (s.hostWords l) := by
  induction l generalizing s with
  | nil => exact h
  | cons w r ih => exact ih (State.hostPush_keeps h)

theorem State.hostWriteT_keeps {z s : State} {hdr : HEntry} {ws : List Word} (h : Keeps z s) : Keeps z (State.hostWriteT s hdr ws) := by
  unfold State.hostWriteT
  have h0 := State.hostTurn_keeps h
  exact Keeps.ite h0 (State.hostWords_keeps (State.hostPush_keeps (State.hostBegin_keeps h0)))

theorem State.hostPlain_keeps {z s : State} {hdr : HEntry} (h : Keeps z s) : Keeps z (State.hostPlain s hdr) := by
  unfold State.hostPlain
  have h0 := State.hostTurn_keeps h
  exact Keeps.ite h0 (State.hostPush_keeps (State.hostBegin_keeps h0))

theorem State.hostReg_keeps {z s : State} {addr : ℕ} {w : Word} (h : Keeps z s) : Keeps z (State.hostReg s addr w) := by
  unfold State.hostReg
  exact State.hostWriteT_keeps h

theorem State.hostReads_keeps {z s : State} {addr : ℕ} {fix : Bool} {n : ℕ} (h : Keeps z s) : Keeps z (State.hostReads s addr fix n) := by
  unfold State.hostReads
  exact State.hostReadT_keeps h

theorem State.hostStatus_keeps {z s : State} (h : Keeps z s) :
    Keeps z (State.hostStatus s) := by
  unfold State.hostStatus
  try extract_lets
  repeat' (first | with_reducible assumption | with_reducible refine Keeps.ite ?_ ?_ | with_reducible refine State.hostCycle_keeps ?_
                 | with_reducible refine State.lastSent_keeps ?_ | with_reducible refine State.updHost_keeps ?_
                 | with_reducible refine Keeps.foldl ?_ ?_ | intro _ _ | intro _ | extract_lets | split
                 | (with_reducible refine Keeps.upd ?_; first | with_reducible assumption | with_reducible refine State.hostCycle_keeps ?_ | with_reducible refine State.lastSent_keeps ?_ | with_reducible refine State.updHost_keeps ?_ | with_reducible refine Keeps.ite ?_ ?_ | with_reducible refine Keeps.foldl ?_ ?_ | split)
                 | (with_reducible refine Keeps.updE ?_; first | with_reducible assumption | with_reducible refine State.hostCycle_keeps ?_ | with_reducible refine State.lastSent_keeps ?_ | with_reducible refine State.updHost_keeps ?_ | with_reducible refine Keeps.ite ?_ ?_ | with_reducible refine Keeps.foldl ?_ ?_ | split)
                 | intro _ _ | intro _ | extract_lets | split | extract_lets | dsimp only)

theorem State.hostStopT_keeps {z s : State} {hdr : ℕ} (h : Keeps z s) : Keeps z (State.hostStopT s hdr) := by
  unfold State.hostStopT
  exact Keeps.ite h (Keeps.ite (State.bump_keeps (State.furlEnter_keeps h)) (State.hostProto_keeps h))

theorem State.hselRise_keeps {z s : State} {cut : Cut} (h : Keeps z s) :
    Keeps z (State.hselRise s cut) := by
  unfold State.hselRise
  try extract_lets
  repeat' (first | with_reducible assumption | with_reducible refine Keeps.ite ?_ ?_ | with_reducible refine State.lastSent_keeps ?_
                 | with_reducible refine State.setFld_keeps ?_ | with_reducible refine State.hostProto_keeps ?_
                 | with_reducible refine State.bump_keeps ?_ | with_reducible refine State.hostPush_keeps ?_
                 | with_reducible refine State.wordCut_keeps ?_ | with_reducible refine State.updHost_keeps ?_
                 | with_reducible refine Keeps.foldl ?_ ?_ | intro _ _ | intro _ | extract_lets | split
                 | (with_reducible refine Keeps.upd ?_; first | with_reducible assumption | with_reducible refine State.lastSent_keeps ?_ | with_reducible refine State.setFld_keeps ?_ | with_reducible refine State.hostProto_keeps ?_ | with_reducible refine State.bump_keeps ?_ | with_reducible refine State.hostPush_keeps ?_ | with_reducible refine State.wordCut_keeps ?_ | with_reducible refine State.updHost_keeps ?_ | with_reducible refine Keeps.ite ?_ ?_ | with_reducible refine Keeps.foldl ?_ ?_ | split)
                 | (with_reducible refine Keeps.updE ?_; first | with_reducible assumption | with_reducible refine State.lastSent_keeps ?_ | with_reducible refine State.setFld_keeps ?_ | with_reducible refine State.hostProto_keeps ?_ | with_reducible refine State.bump_keeps ?_ | with_reducible refine State.hostPush_keeps ?_ | with_reducible refine State.wordCut_keeps ?_ | with_reducible refine State.updHost_keeps ?_ | with_reducible refine Keeps.ite ?_ ?_ | with_reducible refine Keeps.foldl ?_ ?_ | split)
                 | intro _ _ | intro _ | extract_lets | split | extract_lets | dsimp only)

theorem State.lateNow_keeps {z s : State} (h : Keeps z s) : ∀ x, s.lateNow = some x → Keeps z x.2.2 := by
  intro x hx
  unfold State.lateNow at hx
  split at hx
  · cases hx
  · split at hx
    · cases hx; exact h
    · split at hx
      · split at hx
        · cases hx; exact State.raise_keeps ⟨h.1, h.2, h.3, h.4⟩
        · cases hx
      · have h1 := State.memRx_keeps h
        split at hx
        · rename_i e; rw [e] at h1; cases hx; exact h1
        · cases hx

theorem State.holdFilled_keeps {z s : State} (h : Keeps z s) : Keeps z s.holdFilled := by
  unfold State.holdFilled
  split
  · exact h
  · rename_i l v t e
    have h1 := State.fillHold_keeps (sig := l.sig) (addr := l.addr) (v := v) (State.lateNow_keeps h _ e)
    exact State.hostServe_keeps (Keeps.ite (State.sigNext_keeps h1) h1)

theorem State.updClk_keeps {z s : State} {f : Clk → Clk} (h : Keeps z s) : Keeps z (State.updClk s f) := by
  unfold State.updClk
  exact Keeps.upd h

theorem State.released_keeps {z s : State} {straps : ℕ} (h : Keeps z s) : Keeps z (State.released s straps) := by
  unfold State.released
  exact Keeps.ite h (State.updClk_keeps h)

theorem State.supplies_keeps {z s : State} {v : Supplies} (h : Keeps z s) :
    Keeps z (State.supplies s v) := by
  unfold State.supplies
  extract_lets s1 s2
  have h_s1 : Keeps z s1 := by
    repeat' (first | with_reducible assumption | with_reducible refine Keeps.ite ?_ ?_ | with_reducible refine State.updClk_keeps ?_
                   | with_reducible refine Keeps.foldl ?_ ?_ | intro _ _ | intro _ | extract_lets | split
                   | (with_reducible refine Keeps.upd ?_; first | with_reducible assumption | with_reducible refine State.updClk_keeps ?_ | with_reducible refine Keeps.ite ?_ ?_ | with_reducible refine Keeps.foldl ?_ ?_ | split)
                   | (with_reducible refine Keeps.updE ?_; first | with_reducible assumption | with_reducible refine State.updClk_keeps ?_ | with_reducible refine Keeps.ite ?_ ?_ | with_reducible refine Keeps.foldl ?_ ?_ | split)
                   | intro _ _ | intro _ | extract_lets | split | extract_lets | dsimp only)
  clear_value s1
  have h_s2 : Keeps z s2 := by
    repeat' (first | with_reducible assumption | with_reducible refine Keeps.ite ?_ ?_ | with_reducible refine State.updClk_keeps ?_
                   | with_reducible refine Keeps.foldl ?_ ?_ | intro _ _ | intro _ | extract_lets | split
                   | (with_reducible refine Keeps.upd ?_; first | with_reducible assumption | with_reducible refine State.updClk_keeps ?_ | with_reducible refine Keeps.ite ?_ ?_ | with_reducible refine Keeps.foldl ?_ ?_ | split)
                   | (with_reducible refine Keeps.updE ?_; first | with_reducible assumption | with_reducible refine State.updClk_keeps ?_ | with_reducible refine Keeps.ite ?_ ?_ | with_reducible refine Keeps.foldl ?_ ?_ | split)
                   | intro _ _ | intro _ | extract_lets | split | extract_lets | dsimp only)
  clear_value s2
  repeat' (first | with_reducible assumption | with_reducible refine Keeps.ite ?_ ?_ | with_reducible refine State.updClk_keeps ?_
                 | with_reducible refine Keeps.foldl ?_ ?_ | intro _ _ | intro _ | extract_lets | split
                 | (with_reducible refine Keeps.upd ?_; first | with_reducible assumption | with_reducible refine State.updClk_keeps ?_ | with_reducible refine Keeps.ite ?_ ?_ | with_reducible refine Keeps.foldl ?_ ?_ | split)
                 | (with_reducible refine Keeps.updE ?_; first | with_reducible assumption | with_reducible refine State.updClk_keeps ?_ | with_reducible refine Keeps.ite ?_ ?_ | with_reducible refine Keeps.foldl ?_ ?_ | split)
                 | intro _ _ | intro _ | extract_lets | split | extract_lets | dsimp only)

theorem State.power_keeps {z s : State} {v : Supplies} {vrefp : Bool} {straps : Nat} (h : Keeps z s) :
    Keeps z (State.power s v vrefp straps) := by
  unfold State.power
  try extract_lets
  repeat' (first | with_reducible assumption | with_reducible refine Keeps.ite ?_ ?_ | with_reducible refine State.supplies_keeps ?_
                 | with_reducible refine State.deviceReset_keeps ?_ | with_reducible refine State.updClk_keeps ?_
                 | with_reducible refine State.released_keeps ?_ | with_reducible refine Keeps.foldl ?_ ?_ | intro _ _ | intro _ | extract_lets
                 | split
                 | (with_reducible refine Keeps.upd ?_; first | with_reducible assumption | with_reducible refine State.supplies_keeps ?_ | with_reducible refine State.deviceReset_keeps ?_ | with_reducible refine State.updClk_keeps ?_ | with_reducible refine State.released_keeps ?_ | with_reducible refine Keeps.ite ?_ ?_ | with_reducible refine Keeps.foldl ?_ ?_ | split)
                 | (with_reducible refine Keeps.updE ?_; first | with_reducible assumption | with_reducible refine State.supplies_keeps ?_ | with_reducible refine State.deviceReset_keeps ?_ | with_reducible refine State.updClk_keeps ?_ | with_reducible refine State.released_keeps ?_ | with_reducible refine Keeps.ite ?_ ?_ | with_reducible refine Keeps.foldl ?_ ?_ | split)
                 | intro _ _ | intro _ | extract_lets | split | extract_lets | dsimp only)

theorem State.resetPinW_keeps {z s : State} {low : Bool} {straps : ℕ} (h : Keeps z s) : Keeps z (State.resetPinW s low straps) := by
  unfold State.resetPinW
  exact Keeps.ite (Keeps.ite h (State.updClk_keeps (State.deviceReset_keeps h))) (Keeps.ite h (State.released_keeps (State.updClk_keeps h)))

theorem State.clockLost_keeps {z s : State} {mon : ℕ} (h : Keeps z s) : Keeps z (State.clockLost s mon) := by
  unfold State.clockLost
  exact Keeps.ite h (Keeps.ite (State.deviceReset_keeps h) h)

theorem State.fromJournal_keeps {z s : State} {a : ℕ} (h : Keeps z s) : Keeps z (State.fromJournal s a) := by
  unfold State.fromJournal
  try extract_lets
  repeat' (first | with_reducible assumption | with_reducible refine State.wr_keeps ?_ | extract_lets | split | extract_lets | dsimp only)

theorem State.bootStart_keeps {z s : State} (h : Keeps z s) :
    Keeps z (State.bootStart s) := by
  unfold State.bootStart
  extract_lets st s1 s2 s3 s4
  have h_s1 : Keeps z s1 := by
    repeat' (first | with_reducible assumption | with_reducible refine Keeps.ite ?_ ?_ | with_reducible refine State.updClk_keeps ?_
                   | with_reducible refine State.updStore_keeps ?_ ?_ | with_reducible refine State.jBoot_keeps ?_
                   | with_reducible refine State.fromJournal_keeps ?_ | with_reducible refine State.setFld_keeps ?_
                   | with_reducible refine State.shroudLook_keeps ?_ | with_reducible refine Keeps.foldl ?_ ?_ | intro _ _ | intro _ | extract_lets
                   | split
                   | (with_reducible refine Keeps.upd ?_; first | with_reducible assumption | with_reducible refine State.updClk_keeps ?_ | with_reducible refine State.updStore_keeps ?_ ?_ | with_reducible refine State.jBoot_keeps ?_ | with_reducible refine State.fromJournal_keeps ?_ | with_reducible refine State.setFld_keeps ?_ | with_reducible refine State.shroudLook_keeps ?_ | with_reducible refine Keeps.ite ?_ ?_ | with_reducible refine Keeps.foldl ?_ ?_ | split)
                   | (with_reducible refine Keeps.updE ?_; first | with_reducible assumption | with_reducible refine State.updClk_keeps ?_ | with_reducible refine State.updStore_keeps ?_ ?_ | with_reducible refine State.jBoot_keeps ?_ | with_reducible refine State.fromJournal_keeps ?_ | with_reducible refine State.setFld_keeps ?_ | with_reducible refine State.shroudLook_keeps ?_ | with_reducible refine Keeps.ite ?_ ?_ | with_reducible refine Keeps.foldl ?_ ?_ | split)
                   | intro _ _ | intro _ | extract_lets | split | extract_lets | dsimp only)
  clear_value s1
  have h_s2 : Keeps z s2 := by
    repeat' (first | with_reducible assumption | with_reducible refine Keeps.ite ?_ ?_ | with_reducible refine State.updClk_keeps ?_
                   | with_reducible refine State.updStore_keeps ?_ ?_ | with_reducible refine State.jBoot_keeps ?_
                   | with_reducible refine State.fromJournal_keeps ?_ | with_reducible refine State.setFld_keeps ?_
                   | with_reducible refine State.shroudLook_keeps ?_ | with_reducible refine Keeps.foldl ?_ ?_ | intro _ _ | intro _ | extract_lets
                   | split
                   | (with_reducible refine Keeps.upd ?_; first | with_reducible assumption | with_reducible refine State.updClk_keeps ?_ | with_reducible refine State.updStore_keeps ?_ ?_ | with_reducible refine State.jBoot_keeps ?_ | with_reducible refine State.fromJournal_keeps ?_ | with_reducible refine State.setFld_keeps ?_ | with_reducible refine State.shroudLook_keeps ?_ | with_reducible refine Keeps.ite ?_ ?_ | with_reducible refine Keeps.foldl ?_ ?_ | split)
                   | (with_reducible refine Keeps.updE ?_; first | with_reducible assumption | with_reducible refine State.updClk_keeps ?_ | with_reducible refine State.updStore_keeps ?_ ?_ | with_reducible refine State.jBoot_keeps ?_ | with_reducible refine State.fromJournal_keeps ?_ | with_reducible refine State.setFld_keeps ?_ | with_reducible refine State.shroudLook_keeps ?_ | with_reducible refine Keeps.ite ?_ ?_ | with_reducible refine Keeps.foldl ?_ ?_ | split)
                   | intro _ _ | intro _ | extract_lets | split | extract_lets | dsimp only)
  clear_value s2
  have h_s3 : Keeps z s3 := by
    repeat' (first | with_reducible assumption | with_reducible refine Keeps.ite ?_ ?_ | with_reducible refine State.updClk_keeps ?_
                   | with_reducible refine State.updStore_keeps ?_ ?_ | with_reducible refine State.jBoot_keeps ?_
                   | with_reducible refine State.fromJournal_keeps ?_ | with_reducible refine State.setFld_keeps ?_
                   | with_reducible refine State.shroudLook_keeps ?_ | with_reducible refine Keeps.foldl ?_ ?_ | intro _ _ | intro _ | extract_lets
                   | split
                   | (with_reducible refine Keeps.upd ?_; first | with_reducible assumption | with_reducible refine State.updClk_keeps ?_ | with_reducible refine State.updStore_keeps ?_ ?_ | with_reducible refine State.jBoot_keeps ?_ | with_reducible refine State.fromJournal_keeps ?_ | with_reducible refine State.setFld_keeps ?_ | with_reducible refine State.shroudLook_keeps ?_ | with_reducible refine Keeps.ite ?_ ?_ | with_reducible refine Keeps.foldl ?_ ?_ | split)
                   | (with_reducible refine Keeps.updE ?_; first | with_reducible assumption | with_reducible refine State.updClk_keeps ?_ | with_reducible refine State.updStore_keeps ?_ ?_ | with_reducible refine State.jBoot_keeps ?_ | with_reducible refine State.fromJournal_keeps ?_ | with_reducible refine State.setFld_keeps ?_ | with_reducible refine State.shroudLook_keeps ?_ | with_reducible refine Keeps.ite ?_ ?_ | with_reducible refine Keeps.foldl ?_ ?_ | split)
                   | intro _ _ | intro _ | extract_lets | split | extract_lets | dsimp only)
  clear_value s3
  have h_s4 : Keeps z s4 := by
    repeat' (first | with_reducible assumption | with_reducible refine Keeps.ite ?_ ?_ | with_reducible refine State.updClk_keeps ?_
                   | with_reducible refine State.updStore_keeps ?_ ?_ | with_reducible refine State.jBoot_keeps ?_
                   | with_reducible refine State.fromJournal_keeps ?_ | with_reducible refine State.setFld_keeps ?_
                   | with_reducible refine State.shroudLook_keeps ?_ | with_reducible refine Keeps.foldl ?_ ?_ | intro _ _ | intro _ | extract_lets
                   | split
                   | (with_reducible refine Keeps.upd ?_; first | with_reducible assumption | with_reducible refine State.updClk_keeps ?_ | with_reducible refine State.updStore_keeps ?_ ?_ | with_reducible refine State.jBoot_keeps ?_ | with_reducible refine State.fromJournal_keeps ?_ | with_reducible refine State.setFld_keeps ?_ | with_reducible refine State.shroudLook_keeps ?_ | with_reducible refine Keeps.ite ?_ ?_ | with_reducible refine Keeps.foldl ?_ ?_ | split)
                   | (with_reducible refine Keeps.updE ?_; first | with_reducible assumption | with_reducible refine State.updClk_keeps ?_ | with_reducible refine State.updStore_keeps ?_ ?_ | with_reducible refine State.jBoot_keeps ?_ | with_reducible refine State.fromJournal_keeps ?_ | with_reducible refine State.setFld_keeps ?_ | with_reducible refine State.shroudLook_keeps ?_ | with_reducible refine Keeps.ite ?_ ?_ | with_reducible refine Keeps.foldl ?_ ?_ | split)
                   | intro _ _ | intro _ | extract_lets | split | extract_lets | dsimp only)
  clear_value s4
  repeat' (first | with_reducible assumption | with_reducible refine Keeps.ite ?_ ?_ | with_reducible refine State.updClk_keeps ?_
                 | with_reducible refine State.updStore_keeps ?_ ?_ | with_reducible refine State.jBoot_keeps ?_
                 | with_reducible refine State.fromJournal_keeps ?_ | with_reducible refine State.setFld_keeps ?_
                 | with_reducible refine State.shroudLook_keeps ?_ | with_reducible refine Keeps.foldl ?_ ?_ | intro _ _ | intro _ | extract_lets
                 | split
                 | (with_reducible refine Keeps.upd ?_; first | with_reducible assumption | with_reducible refine State.updClk_keeps ?_ | with_reducible refine State.updStore_keeps ?_ ?_ | with_reducible refine State.jBoot_keeps ?_ | with_reducible refine State.fromJournal_keeps ?_ | with_reducible refine State.setFld_keeps ?_ | with_reducible refine State.shroudLook_keeps ?_ | with_reducible refine Keeps.ite ?_ ?_ | with_reducible refine Keeps.foldl ?_ ?_ | split)
                 | (with_reducible refine Keeps.updE ?_; first | with_reducible assumption | with_reducible refine State.updClk_keeps ?_ | with_reducible refine State.updStore_keeps ?_ ?_ | with_reducible refine State.jBoot_keeps ?_ | with_reducible refine State.fromJournal_keeps ?_ | with_reducible refine State.setFld_keeps ?_ | with_reducible refine State.shroudLook_keeps ?_ | with_reducible refine Keeps.ite ?_ ?_ | with_reducible refine Keeps.foldl ?_ ?_ | split)
                 | intro _ _ | intro _ | extract_lets | split | extract_lets | dsimp only)

theorem State.refCount_keeps {z s : State} {clkref : ℕ} {xtal : ℕ} (h : Keeps z s) : Keeps z (State.refCount s clkref xtal) := by
  unfold State.refCount
  exact Keeps.ite (State.updClk_keeps h) (Keeps.ite (State.updClk_keeps h) (State.updClk_keeps h))

theorem State.clockRecord_keeps {z s : State} (h : Keeps z s) : Keeps z (State.clockRecord s) := by
  unfold State.clockRecord
  try extract_lets
  repeat' (first | with_reducible assumption | with_reducible refine State.updClk_keeps ?_ | with_reducible refine State.writeRec_keeps ?_ |
    extract_lets | split | extract_lets | dsimp only)

theorem State.gridStart_keeps {z s : State} (h : Keeps z s) : Keeps z (State.gridStart s) :=
  State.turn_keeps ⟨h.1, le_trans h.2 (by show s.now ≤ ((s.now + 15) / 16 * 16 + 511) / 512 * 512; omega), h.3, h.4⟩

theorem State.pllLocked_keeps {z s : State} (h : Keeps z s) :
    Keeps z (State.pllLocked s) := by
  unfold State.pllLocked
  try extract_lets
  repeat' (first | with_reducible assumption | with_reducible refine Keeps.ite ?_ ?_ | with_reducible refine State.gridStart_keeps ?_
                 | with_reducible refine State.updClk_keeps ?_ | with_reducible refine State.setFld_keeps ?_
                 | with_reducible refine State.when_keeps ?_ ?_ | with_reducible refine State.clockRecord_keeps ?_
                 | with_reducible refine Keeps.foldl ?_ ?_ | intro _ _ | intro _ | extract_lets | split
                 | (with_reducible refine Keeps.upd ?_; first | with_reducible assumption | with_reducible refine State.gridStart_keeps ?_ | with_reducible refine State.updClk_keeps ?_ | with_reducible refine State.setFld_keeps ?_ | with_reducible refine State.when_keeps ?_ ?_ | with_reducible refine State.clockRecord_keeps ?_ | with_reducible refine Keeps.ite ?_ ?_ | with_reducible refine Keeps.foldl ?_ ?_ | split)
                 | (with_reducible refine Keeps.updE ?_; first | with_reducible assumption | with_reducible refine State.gridStart_keeps ?_ | with_reducible refine State.updClk_keeps ?_ | with_reducible refine State.setFld_keeps ?_ | with_reducible refine State.when_keeps ?_ ?_ | with_reducible refine State.clockRecord_keeps ?_ | with_reducible refine Keeps.ite ?_ ?_ | with_reducible refine Keeps.foldl ?_ ?_ | split)
                 | intro _ _ | intro _ | extract_lets | split | extract_lets | dsimp only)

theorem State.bootNone_keeps {z s : State} (h : Keeps z s) : Keeps z (State.bootNone s) := by
  unfold State.bootNone
  exact State.updClk_keeps (State.setFld_keeps h)

theorem State.bootFail_keeps {z s : State} (h : Keeps z s) : Keeps z (State.bootFail s) := by
  unfold State.bootFail
  exact Keeps.ite (State.bootNone_keeps (State.raise_keeps h)) (Keeps.ite (State.bootNone_keeps (State.setFld_keeps (State.raise_keeps h)))
    (State.updClk_keeps (State.setFld_keeps (State.raise_keeps h))))

theorem State.applyCell_keeps {z s : State} {n : ℕ} {ws : List Word} (h : Keeps z s) : Keeps z (State.applyCell s n ws) := by
  unfold State.applyCell
  exact Keeps.ite (State.cellClose_keeps (Keeps.ite (State.cellManual_keeps (State.cellWrite_keeps (State.setCws_keeps (State.setCw_keeps h))))
    (State.cellWrite_keeps (State.setCws_keeps (State.setCw_keeps h))))) (Keeps.ite (State.cellManual_keeps (State.cellWrite_keeps (State.setCws_keeps
    (State.setCw_keeps h)))) (State.cellWrite_keeps (State.setCws_keeps (State.setCw_keeps h))))

theorem State.applyCells_keeps {z s : State} {k : Nat} {l : List Word} (h : Keeps z s) : Keeps z (s.applyCells k l) := by
  induction k generalizing s l with
  | zero => simpa [State.applyCells] using h
  | succ k ih =>
    cases l with
    | nil => simpa [State.applyCells] using h
    | cons n r => exact ih (Keeps.ite (State.applyCell_keeps h) h)

theorem State.bootSig_keeps {z s : State} {id : Nat} {w : Word} (h : Keeps z s) : Keeps z (State.bootSig s id w) := by
  unfold State.bootSig
  exact Keeps.ite (State.bufAdd_keeps h) (State.writeSig_keeps h)

theorem State.applyPairs_keeps {z : State} {sig : Bool} : ∀ {l : List Word} {s : State}, Keeps z s → Keeps z (s.applyPairs sig l)
  | [], _, h => by simpa [State.applyPairs] using h
  | [_], _, h => by simpa [State.applyPairs] using h
  | a :: w :: r, s, h => by
    rw [State.applyPairs]
    exact State.applyPairs_keeps (Keeps.ite (State.bootSig_keeps h) (State.makerWrite_keeps h))

theorem State.applySection_keeps {z s : State} {g : ℕ → Word} {x : Section} (h : Keeps z s) : Keeps z (State.applySection s g x) := by
  unfold State.applySection
  try extract_lets
  repeat' (first | with_reducible assumption | with_reducible refine State.putProg_keeps ?_ | with_reducible refine State.putTab_keeps ?_ |
    with_reducible refine State.applyCells_keeps ?_ | with_reducible refine State.applyPairs_keeps ?_ | extract_lets | split | extract_lets | dsimp
    only)

theorem State.bootApply_keeps {z s : State} (h : Keeps z s) : Keeps z (State.bootApply s) := by
  unfold State.bootApply
  extract_lets g s1 s2 b
  have h_s1 : Keeps z s1 := by
    repeat' (first | with_reducible assumption | with_reducible refine State.applySection_keeps ?_ | with_reducible refine State.wr_keeps ?_ |
      with_reducible refine State.updClk_keeps ?_ | with_reducible refine State.updStore_keeps ?_ ?_ | with_reducible refine State.setFld_keeps ?_ |
      with_reducible refine Keeps.foldl ?_ ?_ | intro _ _ | intro _ | extract_lets | extract_lets | dsimp only)
  clear_value s1
  have h_s2 : Keeps z s2 := by
    repeat' (first | with_reducible assumption | with_reducible refine State.applySection_keeps ?_ | with_reducible refine State.wr_keeps ?_ |
      with_reducible refine State.updClk_keeps ?_ | with_reducible refine State.updStore_keeps ?_ ?_ | with_reducible refine State.setFld_keeps ?_ |
      with_reducible refine Keeps.foldl ?_ ?_ | intro _ _ | intro _ | extract_lets | extract_lets | dsimp only)
  clear_value s2
  repeat' (first | with_reducible assumption | with_reducible refine State.applySection_keeps ?_ | with_reducible refine State.wr_keeps ?_ |
    with_reducible refine State.updClk_keeps ?_ | with_reducible refine State.updStore_keeps ?_ ?_ | with_reducible refine State.setFld_keeps ?_ |
    with_reducible refine Keeps.foldl ?_ ?_ | intro _ _ | intro _ | extract_lets | extract_lets | dsimp only)

theorem State.bootStep_keeps {z s : State} {flash : List Word} (h : Keeps z s) :
    Keeps z (State.bootStep s flash) := by
  unfold State.bootStep
  try extract_lets
  repeat' (first | with_reducible assumption | with_reducible refine Keeps.ite ?_ ?_ | with_reducible refine State.setFld_keeps ?_
                 | with_reducible refine State.updClk_keeps ?_ | with_reducible refine State.bootNone_keeps ?_
                 | with_reducible refine State.bootFail_keeps ?_ | with_reducible refine State.bootApply_keeps ?_
                 | with_reducible refine Keeps.foldl ?_ ?_ | intro _ _ | intro _ | extract_lets | split
                 | (with_reducible refine Keeps.upd ?_; first | with_reducible assumption | with_reducible refine State.setFld_keeps ?_ | with_reducible refine State.updClk_keeps ?_ | with_reducible refine State.bootNone_keeps ?_ | with_reducible refine State.bootFail_keeps ?_ | with_reducible refine State.bootApply_keeps ?_ | with_reducible refine Keeps.ite ?_ ?_ | with_reducible refine Keeps.foldl ?_ ?_ | split)
                 | (with_reducible refine Keeps.updE ?_; first | with_reducible assumption | with_reducible refine State.setFld_keeps ?_ | with_reducible refine State.updClk_keeps ?_ | with_reducible refine State.bootNone_keeps ?_ | with_reducible refine State.bootFail_keeps ?_ | with_reducible refine State.bootApply_keeps ?_ | with_reducible refine Keeps.ite ?_ ?_ | with_reducible refine Keeps.foldl ?_ ?_ | split)
                 | intro _ _ | intro _ | extract_lets | split | extract_lets | dsimp only)

theorem State.jReplay_keeps {z s : State} (h : Keeps z s) :
    Keeps z (State.jReplay s) := by
  unfold State.jReplay
  try extract_lets
  repeat' (first | with_reducible assumption | with_reducible refine Keeps.ite ?_ ?_ | with_reducible refine State.makerWrite_keeps ?_
                 | with_reducible refine State.bootSig_keeps ?_ | with_reducible refine Keeps.foldl ?_ ?_ | intro _ _ | intro _ | extract_lets
                 | split | extract_lets | dsimp only)

theorem State.bootReadyW_keeps {z s : State} (h : Keeps z s) :
    Keeps z (State.bootReadyW s) := by
  unfold State.bootReadyW
  try extract_lets
  repeat' (first | with_reducible assumption | with_reducible refine Keeps.ite ?_ ?_ | with_reducible refine State.jReplay_keeps ?_
                 | with_reducible refine State.updClk_keeps ?_ | with_reducible refine State.setFld_keeps ?_
                 | with_reducible refine State.updRole_keeps ?_ | with_reducible refine State.ctxOff_keeps ?_
                 | with_reducible refine State.when_keeps ?_ ?_ | with_reducible refine State.startRun_keeps ?_
                 | with_reducible refine State.furlEnter_keeps ?_ | with_reducible refine Keeps.foldl ?_ ?_ | intro _ _ | intro _ | extract_lets
                 | split
                 | (with_reducible refine Keeps.upd ?_; first | with_reducible assumption | with_reducible refine State.jReplay_keeps ?_ | with_reducible refine State.updClk_keeps ?_ | with_reducible refine State.setFld_keeps ?_ | with_reducible refine State.updRole_keeps ?_ | with_reducible refine State.ctxOff_keeps ?_ | with_reducible refine State.when_keeps ?_ ?_ | with_reducible refine State.startRun_keeps ?_ | with_reducible refine State.furlEnter_keeps ?_ | with_reducible refine Keeps.ite ?_ ?_ | with_reducible refine Keeps.foldl ?_ ?_ | split)
                 | (with_reducible refine Keeps.updE ?_; first | with_reducible assumption | with_reducible refine State.jReplay_keeps ?_ | with_reducible refine State.updClk_keeps ?_ | with_reducible refine State.setFld_keeps ?_ | with_reducible refine State.updRole_keeps ?_ | with_reducible refine State.ctxOff_keeps ?_ | with_reducible refine State.when_keeps ?_ ?_ | with_reducible refine State.startRun_keeps ?_ | with_reducible refine State.furlEnter_keeps ?_ | with_reducible refine Keeps.ite ?_ ?_ | with_reducible refine Keeps.foldl ?_ ?_ | split)
                 | intro _ _ | intro _ | extract_lets | split | extract_lets | dsimp only)

end Sys2Proof.Machine
end

