-- ==== Sys2Proof/Laws/KeepsExec.lean ====
section
/-! SUPPORT. Laws/KeepsExec.lean: what the operations of the command families keep: the queue, the variant and the canonical form of the memories. -/

set_option linter.unusedTactic false
set_option linter.unreachableTactic false
set_option linter.unusedVariables false

namespace Sys2Proof.Machine

theorem State.adcSDone_keeps {z s : State} {m : Fin 16} {code : BitVec 14} (h : Keeps z s) : Keeps z (State.adcSDone s m code) := by
  unfold State.adcSDone
  try extract_lets
  repeat' (first | with_reducible assumption | with_reducible refine State.doneS_keeps ?_ | extract_lets | split | extract_lets | dsimp only)

theorem State.adcSBegin_keeps {z s : State} {m : Fin 16} (h : Keeps z s) : Keeps z (State.adcSBegin s m) := by
  unfold State.adcSBegin
  try extract_lets
  repeat' (first | with_reducible assumption | with_reducible refine State.updSense_keeps ?_ | extract_lets | split | extract_lets | dsimp only)

theorem State.adcPDone_keeps {z s : State} {m : Fin 16} {code : BitVec 12} (h : Keeps z s) : Keeps z (State.adcPDone s m code) := by
  unfold State.adcPDone
  try extract_lets
  repeat' (first | with_reducible assumption | with_reducible refine State.doneP_keeps ?_ | extract_lets | split | extract_lets | dsimp only)

theorem State.adcPBegin_keeps {z s : State} {m : Fin 16} (h : Keeps z s) : Keeps z (State.adcPBegin s m) := by
  unfold State.adcPBegin
  try extract_lets
  repeat' (first | with_reducible assumption | with_reducible refine State.updSense_keeps ?_ | extract_lets | split | extract_lets | dsimp only)

theorem State.releaseNext_keeps {z s : State} {m : Fin 16} (h : Keeps z s) : Keeps z (State.releaseNext s m) := by
  unfold State.releaseNext
  try extract_lets
  repeat' (first | with_reducible assumption | with_reducible refine State.release_keeps ?_ | extract_lets | split | extract_lets | dsimp only)

theorem State.recoveryOn_keeps {z s : State} {m : Fin 16} (h : Keeps z s) : Keeps z (State.recoveryOn s m) := by
  unfold State.recoveryOn
  exact State.updSense_keeps h

theorem State.recoveryOff_keeps {z s : State} {m : Fin 16} (h : Keeps z s) : Keeps z (State.recoveryOff s m) := by
  unfold State.recoveryOff
  exact State.updSense_keeps h

theorem State.result_keeps {z s : State} {c : Fin 64} {w : Word} {lat : ℕ} {r : Word} {f : Flags → Flags} (h : Keeps z s) : Keeps z (State.result s c
  w lat r f) := by
  unfold State.result
  exact State.setFl_keeps (State.setReg_keeps h)

theorem State.absentUnit_keeps {z s : State} (h : Keeps z s) : Keeps z (State.absentUnit s) := by
  unfold State.absentUnit
  exact State.raise_keeps h

theorem State.onMast_keeps {z s : State} {c : Fin 64} {w : Word} {f : State → Fin 16 → State} (h : Keeps z s) (hf : ∀ t x1, Keeps z t → Keeps z (f t
  x1)) : Keeps z (State.onMast s c w f) := by
  unfold State.onMast
  exact Keeps.ite (hf _ _ h) (State.absentUnit_keeps h)

theorem State.goTo_keeps {z s : State} {c : Fin 64} {pc : ℕ} (h : Keeps z s) : Keeps z (State.goTo s c pc) := by
  unfold State.goTo
  exact State.occupy_keeps (State.updC_keeps h)

theorem State.cellParity_keeps {z s : State} {c : Fin 64} {w : Word} {n : ℕ} (h : Keeps z s) : Keeps z (State.cellParity s c w n) := by
  unfold State.cellParity
  exact State.exception_keeps (State.setReg_keeps (State.cellOpen_keeps h))

theorem CellRes.land_keeps {z : State} {r : CellRes} {c : Fin 64} {w : Word} (h : Keeps z r.st) : Keeps z (r.land c w) :=
  State.result_keeps h

theorem State.cellBack_keeps {z s : State} {n : Nat} (h : Keeps z s) : Keeps z (State.cellBack s n) := by
  unfold State.cellBack
  exact State.updEng_keeps (State.setCws_keeps h) fun _ e => ⟨e.1, e.2.1, e.2.2.1, spSet_wf (d := fun _ => 0#32) e.2.2.2⟩

theorem State.cellDo_keeps {z s : State} {ctx n mode : Nat} {e : Word} (h : Keeps z s) : Keeps z (s.cellDo ctx n mode e).st := by
  unfold State.cellDo
  dsimp only
  split
  · exact State.cellStep_keeps h
  · exact State.cellHold_keeps h
  · exact State.cellPreset_keeps h
  · exact State.cellSetman_keeps h
  · exact State.cellAutoCmd_keeps h
  · exact State.cellOpen_keeps h
  · exact State.cellClose_keeps h
  · exact h

theorem State.tinjAgain_keeps {z s : State} {rank ctx tag : Nat} {a b : Word} (h : Keeps z s) : Keeps z (s.tinjAgain rank ctx tag a b) := by
  unfold State.tinjAgain
  exact State.trcOrder_keeps h

theorem State.cellAgain_keeps {z s : State} {n rank : Nat} {o : CellOp} (h : Keeps z s) : Keeps z (s.cellAgain n rank o) := by
  cases o with
  | data k w => exact State.cellWrite_keeps h
  | cmd k => exact State.cellCmd_keeps h
  | lane c w parity e fl =>
    have h0 : Keeps z (s.updC c fun x => { x with fl := fl }) := State.updC_keeps h
    unfold State.cellAgain
    dsimp only
    refine Keeps.ite (State.cellOpen_keeps h0) (Keeps.ite ?_ (CellRes.land_keeps (State.cellDo_keeps h0)))
    refine CellRes.land_keeps ?_
    dsimp only
    refine State.updEng_keeps (State.tinjAgain_keeps ?_) ?_
    swap
    · exact fun _ e => e
    split
    · exact State.cellStepCore_keeps h0
    · dsimp only
      split
      · exact State.cellHist_keeps h0
      · exact State.cellNan_keeps h0

theorem State.cellRedo_keeps {z s : State} {n : Nat} (h : Keeps z s) : Keeps z (State.cellRedo s n) :=
  Keeps.foldl (State.cellBack_keeps h) fun _ _ ht => State.cellAgain_keeps ht

theorem State.cellInstr_keeps {z s : State} {c : Fin 64} {w : Word} {parity : Bool} {f : State → Nat → Word → CellRes} (h : Keeps z s)
    (hf : ∀ t n e, Keeps z t → Keeps z (f t n e).st) : Keeps z (s.cellInstr c w parity f) := by
  unfold State.cellInstr
  exact State.when_keeps (Keeps.ite (State.cellParity_keeps (State.cellNote_keeps h)) (CellRes.land_keeps (hf _ _ _ (State.cellNote_keeps h))))
    fun _ ht => State.cellRedo_keeps ht

theorem State.hallIllegalAct_keeps {z s : State} {m : Fin 16} (h : Keeps z s) : Keeps z (State.hallIllegalAct s m) := by
  unfold State.hallIllegalAct
  exact State.updCom_keeps (State.sensorFault_keeps h)

theorem State.cmdLost_keeps {z s : State} {m : Fin 16} (h : Keeps z s) : Keeps z (State.cmdLost s m) := by
  unfold State.cmdLost
  exact State.when_keeps (State.when_keeps (State.putMs_keeps (State.raiseM_keeps (State.updCmd_keeps h))) (fun _ => fun h1 => State.putM_keeps h1))
    (fun _ => fun h1 => State.seqRequest_keeps h1)

theorem State.jamCleared_keeps {z s : State} {m : Fin 16} (h : Keeps z s) : Keeps z (State.jamCleared s m) := by
  unfold State.jamCleared
  exact State.updHal_keeps h

theorem State.dwellEnd_keeps {z s : State} {m : Fin 16} (h : Keeps z s) : Keeps z (State.dwellEnd s m) := by
  unfold State.dwellEnd
  exact State.updHal_keeps h

theorem State.calMast_keeps {z s : State} {m : Fin 16} {cmd : ℕ} {mode : ℕ} (h : Keeps z s) : Keeps z (State.calMast s m cmd mode) := by
  unfold State.calMast
  try extract_lets
  repeat' (first | with_reducible assumption | with_reducible refine State.seqRequest_keeps ?_ | extract_lets | split | extract_lets | dsimp only)

theorem State.calGpio_keeps {z s : State} {p : ℕ} {code : ℕ} (h : Keeps z s) : Keeps z (State.calGpio s p code) := by
  unfold State.calGpio
  exact State.gpioOut_keeps h

theorem State.calBank_keeps {z s : State} {c bank entry : ℕ} (h : Keeps z s) : Keeps z (State.calBank s c bank entry) := by
  unfold State.calBank
  exact State.calReg_keeps h

theorem State.calAnchor_keeps {z s : State} {m : ℕ} {w : Word} (h : Keeps z s) : Keeps z (State.calAnchor s m w) := by
  unfold State.calAnchor
  exact State.calReg_keeps h

theorem State.calAction_keeps {z s : State} {e : CalEntry} (h : Keeps z s) : ∀ t, s.calAction e = some t → Keeps z t := by
  unfold State.calAction
  dsimp only
  split
  · refine Keeps.someIte (fun _ e => nomatch e) (Keeps.some (State.writeSig_keeps h))
  · exact Keeps.some (State.calMast_keeps h)
  · exact Keeps.some (State.calAnchor_keeps h)
  · exact Keeps.some (State.trigger_keeps h)
  · exact Keeps.some (State.calGpio_keeps h)
  · exact Keeps.some (State.capture_keeps h)
  · exact Keeps.some (State.calBank_keeps h)
  · exact Keeps.some h

theorem State.calDispatch_keeps {z s : State} (h : Keeps z s) : Keeps z s.calDispatch := by
  unfold State.calDispatch
  split
  · exact h
  · rename_i e _
    split
    · exact h
    · rename_i s1 he
      exact State.calNext_keeps (State.calAction_keeps (State.calRan_keeps h) s1 he)

theorem State.quantumEnd_keeps {z s : State} {c : Fin 64} (h : Keeps z s) :
    Keeps z (State.quantumEnd s c) := by
  unfold State.quantumEnd
  try extract_lets
  repeat' (first | with_reducible assumption | with_reducible refine Keeps.ite ?_ ?_ | with_reducible refine State.preempt_keeps ?_
                 | with_reducible refine State.updC_keeps ?_ | with_reducible refine Keeps.foldl ?_ ?_ | intro _ _ | intro _ | extract_lets | split
                 | (with_reducible refine Keeps.upd ?_; first | with_reducible assumption | with_reducible refine State.preempt_keeps ?_ | with_reducible refine State.updC_keeps ?_ | with_reducible refine Keeps.ite ?_ ?_ | with_reducible refine Keeps.foldl ?_ ?_ | split)
                 | (with_reducible refine Keeps.updE ?_; first | with_reducible assumption | with_reducible refine State.preempt_keeps ?_ | with_reducible refine State.updC_keeps ?_ | with_reducible refine Keeps.ite ?_ ?_ | with_reducible refine Keeps.foldl ?_ ?_ | split)
                 | intro _ _ | intro _ | extract_lets | split | extract_lets | dsimp only)

theorem State.tmrFire_keeps {z s : State} {n : Fin 8} (h : Keeps z s)  : Keeps z (State.tmrFire s n) := by
  unfold State.tmrFire
  try extract_lets
  repeat' (first | with_reducible assumption | with_reducible refine Keeps.ite ?_ ?_ | with_reducible refine State.trigger_keeps ?_ | with_reducible refine State.updEng_keeps ?_ ?_ | with_reducible refine Keeps.foldl ?_ ?_ | intro _ _ | intro _ | extract_lets | split | (with_reducible refine Keeps.upd ?_; first | with_reducible assumption | with_reducible refine State.trigger_keeps ?_ | with_reducible refine State.updEng_keeps ?_ ?_ | with_reducible refine Keeps.ite ?_ ?_ | with_reducible refine Keeps.foldl ?_ ?_ | split) | (with_reducible refine Keeps.updE ?_; first | with_reducible assumption | with_reducible refine State.trigger_keeps ?_ | with_reducible refine State.updEng_keeps ?_ ?_ | with_reducible refine Keeps.ite ?_ ?_ | with_reducible refine Keeps.foldl ?_ ?_ | split) | extract_lets | dsimp only)

theorem State.ctxParity_keeps {z s : State} {c : Fin 64} (h : Keeps z s) : Keeps z (State.ctxParity s c) := by
  unfold State.ctxParity
  exact State.exception_keeps h

theorem State.calGive_keeps {z s : State} {c : Fin 64} {w : Word} {cmd : ℕ} {w0 w1 w2 w3 : Word} (h : Keeps z s) :
    Keeps z (State.calGive s c w cmd w0 w1 w2 w3) := by
  unfold State.calGive
  exact State.block_keeps (State.calAsk_keeps h)

theorem State.resultPair_keeps {z s : State} {c : Fin 64} {w : Word} {lat : ℕ} {r : Word × Word} (h : Keeps z s) : Keeps z (State.resultPair s c w lat
  r) := by
  unfold State.resultPair
  exact State.when_keeps (State.setFl_keeps (State.setReg_keeps (State.setReg_keeps h))) (fun _ => fun h1 => State.setU_keeps h1)

theorem State.outLeg_keeps {z s : State} {c : Fin 64} {w : Word} {m : Fin 16} {l : ℕ} (h : Keeps z s) : Keeps z (State.outLeg s c w m l) := by
  unfold State.outLeg
  exact Keeps.ite h (Keeps.ite (State.setU_keeps h) (Keeps.ite h (Keeps.ite (State.stageKind_keeps (State.stageWr_keeps h)) (State.stageWr_keeps h))))

theorem State.outLegs_keeps {z s : State} {c : Fin 64} {w : Word} {m : Fin 16} (h : Keeps z s) : Keeps z (State.outLegs s c w m) := by
  unfold State.outLegs
  exact State.outLeg_keeps (State.outLeg_keeps (State.outLeg_keeps (State.outLeg_keeps h)))

theorem State.outCommit_keeps {z s : State} {c : Fin 64} {m : Fin 16} {sheet : Option ℕ} (h : Keeps z s) : Keeps z (State.outCommit s c m sheet) := by
  unfold State.outCommit
  exact Keeps.ite h (State.work_keeps (State.commitAt_keeps h))

theorem State.outVec_keeps {z s : State} {c : Fin 64} {w : Word} {m : Fin 16} (h : Keeps z s) : Keeps z (State.outVec s c w m) := by
  unfold State.outVec
  exact Keeps.ite (State.setU_keeps h) (Keeps.ite h (State.stageKind_keeps (State.stageWr_keeps (State.stageWr_keeps h))))

theorem State.outPeriod_keeps {z s : State} {c : Fin 64} {w : Word} {m : Fin 16} (h : Keeps z s) : Keeps z (State.outPeriod s c w m) := by
  unfold State.outPeriod
  exact Keeps.ite h (State.stageWr_keeps h)

theorem State.seqInstr_keeps {z s : State} {m : Fin 16} {w : Word} (h : Keeps z s) : Keeps z (State.seqInstr s m w) := by
  unfold State.seqInstr
  try extract_lets
  repeat' (first | with_reducible assumption | with_reducible refine State.seqRequest_keeps ?_ | extract_lets | split | extract_lets | dsimp only)

theorem State.tripPin_keeps {z s : State} {m : Fin 16} {low : Bool} (h : Keeps z s) : Keeps z (State.tripPin s m low) := by
  unfold State.tripPin
  exact State.shroudLook_keeps (State.updShr_keeps h)

theorem State.ampMoves_keeps {z s : State} {m : Fin 16} {amp : Int} (h : Keeps z s) : Keeps z (State.ampMoves s m amp) := by
  unfold State.ampMoves
  exact State.shroudLook_keeps (State.updShr_keeps h)

theorem State.testDone_keeps {z s : State} {m : Fin 16} {pass : Bool} (h : Keeps z s) : Keeps z (State.testDone s m pass) := by
  unfold State.testDone
  exact State.when_keeps (State.updShr_keeps h) (fun _ => fun h1 => State.setFld_keeps h1)

theorem State.furlPin_keeps {z s : State} {low : Bool} (h : Keeps z s) : Keeps z (State.furlPin s low) := by
  unfold State.furlPin
  exact State.when_keeps (Keeps.upd h) (fun _ => fun h1 => State.furlEnter_keeps h1)

theorem State.pendFull_keeps {z s : State} (h : Keeps z s) : Keeps z (State.pendFull s) := by
  unfold State.pendFull
  exact State.raise_keeps (State.updFc_keeps h)

theorem State.fastCalDone_keeps {z s : State} (h : Keeps z s) : Keeps z (State.fastCalDone s) := by
  unfold State.fastCalDone
  exact State.updClk_keeps (State.fastCal_keeps h)

theorem State.ringFollows_keeps {z s : State} {was : Bool} (h : Keeps z s) : Keeps z (State.ringFollows s was) := by
  unfold State.ringFollows
  exact State.when_keeps (State.delaysFollow_keeps h) (fun _ => fun h1 => State.resendReads_keeps h1)

theorem State.noteZs_keeps {z s : State} {p : Fin 32} (h : Keeps z s) : Keeps z (State.noteZs s p) :=
  Keeps.foldl h fun _ _ ht => State.when_keeps ht fun _ h1 => State.noteZ_keeps h1

theorem State.pinEdge_keeps {z s : State} {p : Fin 32} {level : Bool} (h : Keeps z s) : Keeps z (s.pinEdge p level) :=
  Keeps.ite h (Keeps.foldl (State.gpioEdge_keeps (State.noteZs_keeps h)) fun _ _ ht => State.when_keeps ht fun _ h1 => State.capture_keeps h1)

theorem State.jtagReg_keeps {z s : State} {addr : Nat} {w : Word} (h : Keeps z s) : Keeps z (s.jtagReg addr w) := by
  unfold State.jtagReg
  refine Keeps.ite h (State.updRole_keeps ?_)
  have h1 : Keeps z (s.hostTurn.updRole fun r => { r with jtag := true }) := State.updRole_keeps (State.hostTurn_keeps h)
  cases e : (s.hostTurn.updRole fun r => { r with jtag := true }).writeWord addr w false with
  | none => exact h1
  | some t => exact State.writeWord_keeps h1 t e

theorem State.ringRx_keeps {z s : State} {q : Fin 2} {f : Frame} {act : State → State} (h : Keeps z s) (hact : ∀ t, Keeps z t → Keeps z (act t)) :
  Keeps z (State.ringRx s q f act) := by
  unfold State.ringRx
  exact Keeps.ite h (Keeps.ite (State.frameDrop_keeps h) (hact _ h))

theorem State.readReq_keeps {z s : State} {f : Frame} (h : Keeps z s) : Keeps z (State.readReq s f) := by
  unfold State.readReq
  try extract_lets
  repeat' (first | with_reducible assumption | with_reducible refine State.queueBulk_keeps ?_ | extract_lets | split | extract_lets | dsimp only)

theorem State.readRsp_keeps {z s : State} {f : Frame} (h : Keeps z s) : Keeps z (State.readRsp s f) := by
  unfold State.readRsp
  try extract_lets
  repeat' (first | with_reducible assumption | with_reducible refine State.hostServe_keeps ?_ | with_reducible refine State.deliver_keeps ?_ |
    extract_lets | split | extract_lets | dsimp only)

theorem State.loopDone_keeps {z s : State} {pass : Bool} (h : Keeps z s) : Keeps z (State.loopDone s pass) := by
  unfold State.loopDone
  exact State.updRing_keeps h

theorem State.lockoutEnd_keeps {z s : State} (h : Keeps z s) : Keeps z (State.lockoutEnd s) := by
  unfold State.lockoutEnd
  exact State.updRole_keeps h

theorem State.idleEnd_keeps {z s : State} (h : Keeps z s) : Keeps z (State.idleEnd s) := by
  unfold State.idleEnd
  exact State.audited_keeps h (fun _ => fun h1 => State.roleEnd_keeps h1)

theorem State.alignEnd_keeps {z s : State} {m : Fin 16} (h : Keeps z s) : Keeps z (State.alignEnd s m) := by
  unfold State.alignEnd
  exact State.updSeq_keeps h

theorem State.timeRx_keeps {z s : State} {q : Fin 2} {f : TimeFrame} {act : State → State} (h : Keeps z s) (hact : ∀ t, Keeps z t → Keeps z (act t)) :
  Keeps z (State.timeRx s q f act) := by
  unfold State.timeRx
  exact State.ringRx_keeps h hact

theorem State.holdEndSrv_keeps {z s : State} (h : Keeps z s) : Keeps z (State.holdEndSrv s) := by
  unfold State.holdEndSrv
  exact State.updSrv_keeps (State.enterSrv_keeps h)

theorem State.resultTake_keeps {z s : State} {c : Fin 64} (h : Keeps z s) :
    Keeps z (State.resultTake s c) := by
  unfold State.resultTake
  try extract_lets
  repeat' (first | with_reducible assumption | with_reducible refine Keeps.ite ?_ ?_ | with_reducible refine State.endAct_keeps ?_
                 | with_reducible refine State.unblock_keeps ?_ | with_reducible refine Keeps.foldl ?_ ?_ | intro _ _ | intro _ | extract_lets
                 | split | extract_lets | dsimp only)

end Sys2Proof.Machine
end

