-- ==== Sys2Proof/Laws/Rows.lean ====
section
/-! SUPPORT. Laws/Rows.lean: how the meaning of an instruction row gives what Safety.lean's RowGives and RowGoes state. -/

namespace Sys2Proof.Machine

variable {i : Nat → Fin 64 → Instr} {o lat : Nat} {body : Fin 64 → State → Word → Word → State}

/-- A row that writes vd and the flags from its context's registers. -/
theorem RowGives.of_result {r : Ctx → Word → Word → Word} {f : Ctx → Word → Flags → Flags}
    (he : ∀ dt c s, exec (i dt c) s = instr dt c o (body c) s)
    (hb : ∀ c s w l, iOp w = o → body c s w l = s.result c w lat (r (s.ctx c) w l) (f (s.ctx c) w))
    (hr : ∀ (x y : Ctx) w l, x.v = y.v → r x w l = r y w l) (hf : ∀ (x y : Ctx) w, x.v = y.v → f x w = f y w) : RowGives i o lat r f := by
  intro dt c z s w l e h ho
  have ev : ((s.issued c w).ctx c).v = (s.ctx c).v := by rw [State.issued_ctx]
  obtain ⟨t, h1, h2, h3⟩ := instr_result (body := body c) e h ho (hb c _ w l ho)
  refine ⟨t, (he dt c z).trans h1, ?_, h3⟩
  rw [← hr _ _ w l ev, ← hf _ _ w ev]
  exact h2

/-- A row that writes vd and leaves the flags. -/
theorem RowGives.of_move {r : Ctx → Word → Word → Word}
    (he : ∀ dt c s, exec (i dt c) s = instr dt c o (body c) s)
    (hb : ∀ c s w l, iOp w = o → body c s w l = s.setReg c (iD w) (r (s.ctx c) w l) lat)
    (hr : ∀ (x y : Ctx) w l, x.v = y.v → r x w l = r y w l) : RowGives i o lat r (fun _ _ f => f) := by
  intro dt c z s w l e h ho
  have ev : ((s.issued c w).ctx c).v = (s.ctx c).v := by rw [State.issued_ctx]
  obtain ⟨t, h1, h2, h3⟩ := instr_move (body := body c) e h ho (hb c _ w l ho)
  refine ⟨t, (he dt c z).trans h1, ?_, h3⟩
  rw [← hr _ _ w l ev]
  exact h2

/-- A row that changes of its context the flags and pc alone. -/
theorem RowGoes.of_ctx {row : Word → Bool} {ok : Word → Prop} {f : Ctx → Word → Flags → Flags} {p : Ctx → Word → Nat} {g : State → Word → Ctx → Ctx}
    (he : ∀ dt c s, exec (i dt c) s = done ((s.elapse dt).issue c row (body c)))
    (hk : ∀ w, ok w → row w = true)
    (hb : ∀ c s w l, ok w → body c s w l = s.updC c (g s w))
    (hg : ∀ (c : Fin 64) (s : State) w, ok w →
      Ctx.went (s.ctx c) (g (s.issued c w) w ((s.issued c w).ctx c)) (f (s.ctx c) w (s.ctx c).fl) (p (s.ctx c) w)) : RowGoes i ok f p := by
  intro dt c z s w l e h ho
  obtain ⟨t, h1, h2, h3⟩ := issue_goes (body := body c) (f := f (s.ctx c) w) e h (hk w ho) (hb c _ w l ho) (hg c s w ho)
  exact ⟨t, (he dt c z).trans h1, h2, h3⟩

end Sys2Proof.Machine
end

