-- ==== Sys2Proof/Machine/Balls.lean ====
section
/-! DEFINITION. Machine/Balls.lean: what the block drives on its balls (R513, R514, R517, R584), and the test access port beside them (R585). -/

namespace Sys2Proof.Machine

/-- What a ball does: driven low, driven high, or high-impedance (an input, an undriven ball is that too); `busy`: driven by a clock or a transfer under
way, whose levels follow one another. -/
inductive Ball where
  | low | high | hiZ | busy
  deriving DecidableEq, Repr

/-- A ball driven to a level. -/
def Ball.ofBool (b : Bool) : Ball := if b then .high else .low

/-- VDDIO is absent: below the 1.0 V from which on gate outputs are driven (R570, R584). DEDUCED, log entry 111: of every ball. -/
def State.noVddio (s : State) : Bool := decide (s.clk.at_.vddio < 1000)

/-- A ball that VDDIO drives. -/
def State.driven (s : State) (b : Ball) : Ball := if s.noVddio then .hiZ else b

/-- The gate balls of a leg, low gate and high gate, under the control of R584: low until the block runs, then as R77 composes them, and undriven without
VDDIO (R570). What the test access port does, EXTEST included, has no part in it (R585). -/
def State.gateBalls (s : State) (m : Fin 16) (l : Fin 4) : Ball × Ball :=
  (s.driven (Ball.ofBool (s.gates m l).1), s.driven (Ball.ofBool (s.gates m l).2))

/-- FLT_N, open drain (R390, R584). -/
def State.fltBall (s : State) : Ball := s.driven (if s.fltLow then .low else .hiZ)

/-- HIRQ0_N and HIRQ1_N: high-impedance until step 3 of the boot, then driven (R513, R579, R584). -/
def State.hirqBall (s : State) (line : Fin 2) : Ball := s.driven (if s.clk.locked then Ball.ofBool (!s.hirqLow line) else .hiZ)

/-- HD0–HD3 while the device sends these bits in an HSCK cycle, or (`none`) sends none (R493, R494, R584). -/
def State.hdBall (s : State) (bits : Option (List Bool)) (d : Fin 4) : Ball :=
  s.driven (match bits with
    | some l => if s.clk.locked then (((hdDrive s.host.lanes l).getD d.val none).map Ball.ofBool).getD .hiZ else .hiZ
    | none => .hiZ)

/-- A select is low: a transaction of the port, or a sequence with that select, has it (1 MSEL0_N, 2 GPIO31; R517, R528, R580). -/
def State.selLow (s : State) (sel : Nat) : Bool :=
  s.mem.frames.any (fun f => f.sel == sel) ||
    (match s.mem.busy, s.mem.seqOn with | some (.seq, _), some q => q.2.1 == sel | _, _ => false)

/-- The port transfers: the flash's read of a boot, a transaction or a sequence. -/
def State.memBusy (s : State) : Bool := s.mem.busy.isSome || !s.mem.frames.isEmpty

/-- MSEL0_N (R517, R584). -/
def State.mselBall (s : State) : Ball := s.driven (Ball.ofBool (!s.selLow 1))
/-- MSCK, low between transactions; MD0–MD7 and MDQS, driven by the port or a device while one runs (R517, R584). -/
def State.msckBall (s : State) : Ball := s.driven (if s.memBusy then .busy else .low)
def State.mdBall (s : State) : Ball := s.driven (if s.memBusy then .busy else .hiZ)

/-- A GPIO ball (R514, R584). -/
def State.gpioBall (s : State) (p : Fin 32) : Ball := s.driven (((s.gpioDrive p.val).map Ball.ofBool).getD .hiZ)

/-- The bypass switches are open (R424): the node is inserted, which it is only with EN, without BYPASS, out of reset and with VDDIO. -/
def State.switchesOpen (s : State) : Bool := s.ring.inserted && s.ringEn && !s.noVddio && !s.clk.pinLow

/-- LKA_TX and LKB_TX: high-impedance while the switches are closed (R424, R584). -/
def State.linkBall (s : State) : Ball := if s.switchesOpen then .busy else .hiZ

/-- TDO: high-impedance except while shifting (R584, R585). -/
def State.tdoBall (s : State) : Ball := s.driven ((s.tap.tdo.map Ball.ofBool).getD .hiZ)

/-! ### The test access port (R585) -/

/-- TRST_N: it resets the port and nothing else (R585). -/
def State.tapTrst (s : State) (low : Bool) : State := if low then { s with tap := { trstLow := true } } else { s with tap.trstLow := false }

/-- An instruction is loaded; the port takes none while TRST_N holds it reset. -/
def State.tapLoad (s : State) (i : TapInstr) : State := if s.tap.trstLow then s else { s with tap.instr := i }

/-- A bit of the selected register is shifted out, or (`none`) shifting ends. -/
def State.tapShift (s : State) (b : Option Bool) : State := if s.tap.trstLow then s else { s with tap.tdo := b }

/-- The gate balls as the observe-only cells of the boundary-scan register see them: low gate and high gate of each leg, in the order of the masts. -/
def State.gateScan (s : State) : List Bool :=
  s.mastList.flatMap fun m => (allFin 4).flatMap fun l => [(s.gates m l).1, (s.gates m l).2]

/-- The boundary-scan register captures the gate balls; it drives none of them (R585). -/
def State.tapCapture (s : State) : State := if s.tap.trstLow then s else { s with tap.gateCells := s.gateScan }

end Sys2Proof.Machine
end

