-- ==== Sys2Proof/Tests/Slice0.lean ====
section
/-! SUPPORT. Tests/Slice0.lean: ill-formed commands that WellFormed refuses, states that meet the hypotheses of each statement, and
worked examples of the manual, each about one step. -/

-- One declaration after the other.
set_option Elab.async false

namespace Sys2Proof.Tests
open Machine

/-! ### Small states -/

/-- The clocks run, the block takes commands, the session is OP. -/
def rig : State := { clk := { locked := true, ready := true, inReset := false } }

/-- The same in a maker's session. -/
def boss : State := { rig with role := { role := 2 } }

/-- The same with mast 0 as given. -/
def withM (x : Mast) : State := { boss with masts := boss.masts.set 0 x }

/-- A mast whose timebase runs. -/
def turningMast : Mast := { pwm := { counting := true, bNext := 1000, k := 3, tLen := 192000 }, sense := { pathNext := some (false, 0) } }

/-- The same at instant `t` with the given fields of registers set. -/
def setF (s : State) (t : Nat) (l : List (Fld × Nat × Nat)) : State :=
  { l.foldl (fun s e => s.setFld e.1 e.2.1 e.2.2) s with now := t }

/-- Context 0 runs on lane 0, its next words `w` and `l`, its registers `v`. -/
def issuing (w l : Word) (v : Vector Word 16 := Vector.replicate 16 0#32) : State :=
  { boss with eng := { prog := spSet 0#32 (spSet 0#32 [] 0 w) 1 l
                       ctxs := (Vector.replicate 64 ({} : Ctx)).set 0 { v := v, st := .running, lane := some 0 }
                       lanes := (Vector.replicate 4 ({} : Lane)).set 0 { ctx := some 0 } } }

theorem takes_of {s : State} {n : Nat}
    (h : (s.clk.locked = true ∧ s.clk.ready = true ∧ s.host.fifo = [] ∧ s.host.late = none ∧ s.host.hold = none) ∧
      n ≤ s.role.role ∧ s.store.audQ.length < 32) : s.TakesWrites n :=
  ⟨⟨h.1.1, h.1.2.1, h.1.2.2.1, h.1.2.2.2.1, h.1.2.2.2.2⟩, h.2.1, h.2.2⟩

theorem issues_of {s : State} {c : Fin 64} {w l : Word}
    (h : (s.canIssue c = true ∧ s.misplaced c = false) ∧ s.fetch (s.ctx c).bank (s.ctx c).pc = .word w ∧ illegal w = false ∧ s.bkMatch c = false ∧
      s.second w (s.ctx c).bank (s.ctx c).pc = .word l ∧ (s.ctx c).readyAt w ≤ s.now) : s.Issues c w l :=
  ⟨h.1.1, h.1.2, h.2.1, h.2.2.1, h.2.2.2.1, h.2.2.2.2.1, h.2.2.2.2.2⟩

/-- No time passes over `s`: no path decision falls due at its instant, and the host port is free. -/
def stays (s : State) : Bool :=
  s.mastList.all (fun m => !((s.mast m).pwm.counting && (s.mast m).sense.pathNext.isNone && decide ((s.mast m).pwm.bNext ≤ s.now + 256))) &&
    decide (s.tb.total < tbWrap) && !s.cyc.host && s.host.rc.isNone && s.host.ahead.isNone

theorem fold_stays {α β : Type} {f : β → α → β} {s : β} : ∀ {l : List α}, (∀ a ∈ l, f s a = s) → l.foldl f s = s
  | [], _ => rfl
  | a :: l, h => by
    rw [List.foldl_cons, h a List.mem_cons_self]
    exact fold_stays fun b hb => h b (List.mem_cons_of_mem _ hb)

/-- Such a state is what it is itself given in, after no time: the first premise of every statement about a command. -/
theorem given {s : State} (h : stays s = true) : s = s.elapse 0 ∧ s = (s.elapse 0).asked := by
  unfold stays at h
  simp only [Bool.and_eq_true, decide_eq_true_eq, Bool.not_eq_true', List.all_eq_true] at h
  obtain ⟨⟨⟨⟨h1, h2⟩, h3⟩, h4⟩, h5⟩ := h
  have hl : s.look s.now = s := fold_stays fun m hm => by
    unfold State.pathLook
    rw [if_neg]
    have := h1 m hm
    simpa using this
  have he : s.elapse 0 = s := by
    unfold State.elapse
    have : s.now + 0 < (s.now / tSpar + 1) * tSpar := by unfold tSpar; omega
    rw [if_pos this, Nat.add_zero, hl]
    unfold State.advance
    simp only [Nat.add_zero, Nat.sub_self, Nat.zero_mul, Nat.mod_eq_of_lt h2]
  rw [he]
  exact ⟨rfl, (State.asked_same h3 (Option.isNone_iff_eq_none.mp h4) (Option.isNone_iff_eq_none.mp h5)).symm⟩

/-- The same with cells, table words, whatever of the engine `f` sets besides. -/
def issuingE (w : Word) (v : Vector Word 16) (f : State → State) : State := f (issuing w 0#32 v)

/-- A frame from node 3 to all, and one to a node that is none. -/
def frameOf (ws : List Word) : Frame := { dir := false, src := 3, dst := 63, hops := 0, seq := 1, cycle := 0, words := ws }
def lostFrame : Frame := { frameOf [] with dst := 40 }
def timeOf (f : Frame) : TimeFrame :=
  { hdr := f, mizzen := false, version := 2, twoStep := false, dom := 0, corr := 0, seqId := 7, sec := 0, ns := 0 }

/-! ### WellFormed refuses -/

/-- One ill-formed command for each check: the word lacks the row's code or bit, the frame may not be sent, the header or the
register is not of the row's kind. -/
theorem test_refused_mast : ∀ i ∈ [Instr.pwmRunSet 0 0 0, .pwmRunClear 0 0 (-1), .stepWr 0 0 0, .seqStart 0 (.host 0 0), .seqStop 0 (.host 0 0),
    .seqClear 0 (.host 0 0), .shroudClr 0 0 0, .shroudTest 0 0 0, .furlSet 0 0, .furlClear 0 0, .busGroupAck 0 0, .ackAll 0 0, .logClr 0 0,
    .firstClr 0 0, .peakClr 0 0, .shutClr 0 0], i.wf = false := by decide +kernel

theorem test_refused_engine : ∀ i ∈ [Instr.ctxEnable 0 0, .ctxDisable 0 0, .ctxHalt 0 0, .ctxResume 0 0, .ctxStep 0 0, .ctxRestart 0 0,
    .cellOpen 0 (.host 0) false, .cellClose 0 (.host 0) false, .cellAuto 0 (.host 0) false, .cellManual 0 0, .cellClear 0 0, .traceEnable 0 0,
    .calInsert 0 (.host 0), .calRemove 0 (.host 0), .calRead 0 0, .calEnable 0 0], i.wf = false := by decide +kernel

theorem test_refused_ring : ∀ i ∈ [Instr.stopSend 0 0, .loopbackTest 0 0, .tbRevert 0 0, .setTime 0 0, .beaconReceived 0 0 lostFrame,
    .messageReceived 0 0 lostFrame, .topoReceived 0 0 lostFrame, .publishReceived 0 0 lostFrame false, .readReqReceived 0 0 lostFrame,
    .readRspReceived 0 0 lostFrame, .writeReceived 0 0 lostFrame, .syncReceived 0 0 (timeOf lostFrame), .pdelayReqReceived 0 0 (timeOf lostFrame),
    .pdelayRespReceived 0 0 (timeOf lostFrame) 0], i.wf = false := by decide +kernel

theorem test_refused_ports : ∀ i ∈ [Instr.hostStop 0 0, .reservedHeader 0 0, .snapshotLowWordRead 0 0x100, .memGo 0 0, .memAbort 0 0,
    .psramUnmap 0 (-1), .chal 0 0, .resp 0 0, .roleEnd 0 0, .key 0 0, .erase 0 0, .prog 0 0, .commit 0 0, .load 0 0, .jreg 0 0, .jsig 0 0,
    .jcommit 0 0, .jdrop 0 0, .stAbort 0 0, .softReset 0 0, .mastResetCmd 0 0, .laneReset 0 0], i.wf = false := by decide +kernel

/-- At most 64 words. -/
theorem test_refused_long : (frameOf (List.replicate 65 0#32)).wf = false ∧ (frameOf (List.replicate 64 0#32)).wf = true := by decide +kernel

/-- Headers as R495 writes them: command, then address; EXT, operation, argument. -/
theorem test_headers :
    hostHeader 0 0b001_0000100100011#16 0 2 [] = .hostRead 0 0x123#13 2 ∧ hostHeader 0 0b100_1111111111111#16 0 0 [7#32] = .writeFix 0 0x1FFF#13 [7#32] ∧
      hostHeader 0 0b101_0000000000000#16 0 0 [] = .status 0 ∧ hostHeader 0 0b110_1010101010101#16 0 0 [] = .hostStop 0 0xD555#16 ∧
      hostHeader 0 0b000_00001_00000101#16 0x0123#16 1 [] = .sigRead 0 0x50123#20 1 ∧ hostHeader 0 0b000_00011_00000010#16 0 0 [] = .snapshot 0 2#8 ∧
      hostHeader 0 0b000_00101_00000000#16 0 0 [] = .reservedHeader 0 0x0500#16 ∧ hostHeader 0 0b111_0000000000000#16 0 0 [] = .reservedHeader 0 0xE000#16 := by
  decide

/-! ### Witnesses: ch. 1, 2, 18 -/

theorem witness_StepRunsFront : ({ rig with pending := [.extNop 0] } : State).pending = .extNop 0 :: [] ∧ rig.pending = [] := by decide

/-- CanonicalKept: a step answers a next state from a canonical one. -/
theorem witness_CanonicalKept : ∃ t, step { rig with pending := [.extNop 0] } = .next t ∧ ({ rig with pending := [.extNop 0] } : State).canonical :=
  ⟨_, rfl, by decide⟩

theorem witness_EveryCommandCompletes : State.reset.canonical := by decide

/-- A leg whose low gate was on until 40 taps ago, and one whose high gate was. -/
def legOff (v : Vector Nat 8) : State := { withM { pwm := { offAt := v } } with now := 0x10000 }

theorem witness_GatesNeverTogether : State.reset.clk.ready = false ∧ (legOff #v[5, 0, 0, 0, 0, 0, 0, 0]).legDrive 0 0 = 0 ∧
    ((legOff #v[5, 0, 0, 0, 0, 0, 0, 0]).mast 0).pwm.offAt.toArray.getD (2 * 0) 0 ≠ 0 ∧
    ((legOff #v[0, 5, 0, 0, 0, 0, 0, 0]).mast 0).pwm.offAt.toArray.getD (2 * 0 + 1) 0 ≠ 0 := by decide +kernel

/-- Mast 0 turns with its outputs enabled; leg U is high from tap 1000 to tap 5000 of the period, with dead times of 320 and 640 taps. -/
def switching (t : Nat) (x : Pwm) : State :=
  let p : Pwm := { x with counting := true, k := 3, bPrev := 0, bNext := 192000, tLen := 192000, sheet := 0
                          plans := #v[.pulse 1000 5000 320 640, .low, .low, .low] }
  setF (withM { turningMast with pwm := p, seq := { st := .run, outEn := true } }) t [(F.PWM_CTL_RUN, 0, 1), (F.LEG_CFG_FUNC, 0, 1)]

theorem witness_GatesNeverTogether_deadTime : (switching 0 {}).canonical ∧ (switching 0 {}).gatesAt 0 0 999 = (true, false) ∧
    (switching 0 {}).gatesAt 0 0 1319 = (false, false) ∧ (switching 0 {}).gatesAt 0 0 1320 = (false, true) ∧ (switching 0 {}).gatesAt 0 0 5640 = (true, false) ∧
    (switching 0 {}).gatesAt 0 0 4999 = (false, true) ∧ ((switching 0 {}).mast 0).pwm.bPrev ≤ 999 ∧ ((switching 0 {}).mast 0).pwm.gateChg = (switching 0 {}).now ∧
    ((switching 9000 {}).mast 0).pwm.gateChg ≠ (switching 9000 {}).now ∧ (switching 9000 {}).lastOn 0 1 = 5000 ∧ (switching 9000 {}).lastOn 0 0 = 9000 ∧
    (switching 2000 { offAt := #v[5, 0, 0, 0, 0, 0, 0, 0], gateWas := 2 }).gates 0 0 = (false, true) ∧
    (switching 20000 { offAt := #v[0, 5, 0, 0, 0, 0, 0, 0] }).gates 0 0 = (true, false) ∧ (switching 9000 {}).furl.furled = false ∧
    (Instr.furlSet 0 0x40000000).wf = true := by decide +kernel

/-- A committed period of 100 that is due at the boundary at 64. -/
def short : State := withM { pwm := { counting := true, k := 3, untag := [{ set := { period := 100 }, doneAt := 0 }] } }

theorem witness_PeriodFloor : short.canonical ∧ (short.mast 0).pwm.k ≠ 0 ∧ (short.mast 0).resetAt = none ∧
    chooseEntry (short.mast 0).pwm 1000 = some { set := { period := 100 }, doneAt := 0 } ∧ ({ period := 100 } : PwmSet).period < 1200 := by decide +kernel

/-- B(0) with an early and a late commit, with none that came early enough. -/
def first (t : Nat) : State := withM { pwm := { counting := true, hist := [{ set := { period := 100 }, doneAt := t }] } }

theorem witness_PeriodFloor_first : ((first 744).mast 0).pwm.k = 0 ∧ ((first 744).mast 0).resetAt = none ∧ (first 744).canonical ∧
    ((((first 744).mast 0).pwm.hist.filter fun e => decide (e.doneAt + 256 ≤ 1000)).getLast?).isSome = true ∧ ((first 744).firstSet 0 1000).period < 1200 ∧
    (∀ e ∈ ((first 745).mast 0).pwm.hist, 1000 < e.doneAt + 256) := by decide +kernel

theorem rig_idle : rig.HostIdle := ⟨rfl, rfl, rfl, rfl, rfl⟩

/-- An address in window 0x0E, the LK_CTL of a device without the ring, a register an operator may not write. -/
theorem witness_DiscardedWrites_none : rig.canonical ∧ rig.HostIdle ∧ rig.place 0xE05 = .none_ ∧ ∀ e ∈ rig.host.heldRegs, e.1 ≠ 0xE05 :=
  ⟨by decide, rig_idle, by decide +kernel, by decide⟩

def small : State := { rig with variant := .sv6420 }

theorem witness_DiscardedWrites_absent : small.canonical ∧ small.HostIdle ∧ small.place 0x1F00 = .absent ∧ ∀ e ∈ small.host.heldRegs, e.1 ≠ 0x1F00 :=
  ⟨by decide, ⟨rfl, rfl, rfl, rfl, rfl⟩, by decide +kernel, by decide⟩

def secRow : RegRow := (regRow R.SET_SEC_LO).getD ⟨0, false, 0, []⟩

theorem witness_DiscardedWrites_denied : rig.place R.SET_SEC_LO = .reg R.SET_SEC_LO 0 secRow ∧ R.SET_SEC_LO ≠ R.SIG_DATA ∧
    ∀ h : HostPort, rig.role.role < ({ rig with host := h, role.lastWrite := rig.now, cyc.host := true } : State).writeNeed R.SET_SEC_LO 0 secRow 5 := by
  refine ⟨by decide +kernel, by decide, fun h => ?_⟩
  exact Nat.lt_of_lt_of_eq (by decide : rig.role.role < 1) (by with_unfolding_all rfl)

/-- Through JTAG, with TRST_N up, the host port busy or not. -/
theorem witness_DiscardedWrites_jtag : rig = (rig.elapse 0).hostTurn ∧ rig.tap.trstLow = false ∧ rig.HostIdle ∧ rig.canonical ∧
    ∀ (h : HostPort) (j : Bool), rig.role.role < ({ rig with host := h, role := { rig.role with lastWrite := rig.now, jtag := j }, cyc.host := true } : State).writeNeed R.SET_SEC_LO 0 secRow 5 := by
  refine ⟨?_, by decide, rig_idle, by decide, fun h j => ?_⟩
  · rw [← (given (s := rig) (by decide +kernel)).1]; rfl
  · exact Nat.lt_of_lt_of_eq (by decide : rig.role.role < 1) (by with_unfolding_all rfl)

/-! ### Witnesses: instructions (ch. 7) -/

/-- The opcode with vd = v3, va = v1, vb = v2. -/
def opWord (o : Nat) : Word := BitVec.ofNat 32 (o * 2 ^ 24 + 0x312000)

/-- The opcodes of IntegerArithmetic, LogicAndMoves (LIT apart), FloatRows, ControlFlow, EndOfActivation, SignalsAndTable and TimeTriggerTrace. -/
def oneWordOps : List Nat :=
  (List.range 14).map (· + 1) ++ [0x0F, 0x10, 0x11, 0x12, 0x13] ++ (List.range 17).map (· + 0x20) ++ (List.range 16).map (· + 0x38) ++
    [0x48, 0x49, 0x4A, 0x4B, 0x50, 0x51, 0x52, 0x53, 0x54, 0x72, 0x78, 0x79, 0x7A, 0x7B, 0x7C]

/-- The word as each opcode may have it: FROT's and BFX's fields lie in the modifier, ACTV and TIME write three registers. -/
theorem witness_Issues : ∀ o ∈ oneWordOps, iOp (opWord o) = o ∧ (issuing (opWord o) 0#32).canonical ∧
    ((issuing (opWord o) 0#32)).Issues 0 (opWord o) 0#32 := by
  intro o ho
  have h : ∀ o ∈ oneWordOps, iOp (opWord o) = o ∧ (issuing (opWord o) 0#32).canonical ∧
      (let s := (issuing (opWord o) 0#32)
       (s.canIssue 0 = true ∧ s.misplaced 0 = false) ∧ s.fetch (s.ctx 0).bank (s.ctx 0).pc = .word (opWord o) ∧ illegal (opWord o) = false ∧ s.bkMatch 0 = false ∧
        s.second (opWord o) (s.ctx 0).bank (s.ctx 0).pc = .word 0#32 ∧ (s.ctx 0).readyAt (opWord o) ≤ s.now) := by decide +kernel
  exact ⟨(h o ho).1, (h o ho).2.1, issues_of (h o ho).2.2⟩

theorem witness_Lit : iOp 0x14300000#32 = 0x14 ∧ ((issuing 0x14300000 0x3A83126F)).Issues 0 0x14300000 0x3A83126F :=
  ⟨by decide, issues_of (by decide +kernel)⟩

theorem witness_EndOfActivation : iOp (opWord 0x4A) = 0x4A ∧ ((issuing (opWord 0x4A) 0#32)).Issues 0 (opWord 0x4A) 0#32 ∧
    ((issuing (opWord 0x4A) 0#32).ctx 0).doneAt ≤ (issuing (opWord 0x4A) 0#32).now ∧ (issuing (opWord 0x4A) 0#32).flag F.TRC_CTL_EN = false ∧
    ((issuing (opWord 0x4A) 0#32).ctx 0).disableReq = false ∧ ((issuing (opWord 0x4A) 0#32).ctx 0).pend = [] :=
  ⟨by decide, issues_of (by decide +kernel), by decide +kernel, by decide +kernel, by decide +kernel, by decide +kernel⟩

/-- A result of the activation comes 640 taps on. -/
def endWait : State := (issuing (opWord 0x4A) 0#32).updC 0 fun x => { x with rdy := (Vector.replicate 16 0).set 5 640 }

theorem witness_EndOfActivation_wait : endWait.Issues 0 (opWord 0x4A) 0#32 ∧ endWait.now < (endWait.ctx 0).doneAt :=
  ⟨issues_of (by decide +kernel), by decide +kernel⟩

/-- Pending triggers: a timer's and a doorbell's. -/
def endPend : State := (issuing (opWord 0x4A) 0#32).updC 0 fun x => { x with pend := [{ kind := 7 }, { kind := 4, a := 2 }] }

theorem witness_EndOfActivation_pend : (endPend).Issues 0 (opWord 0x4A) 0#32 ∧ (endPend.ctx 0).doneAt ≤ endPend.now ∧ endPend.flag F.TRC_CTL_EN = false ∧
    (endPend.ctx 0).disableReq = false ∧ (∀ u ∈ (endPend.ctx 0).pend, 4 ≤ u.kind) ∧ ({ kind := 4, a := 2 } : Trig) ∈ (endPend.ctx 0).pend :=
  ⟨issues_of (by decide +kernel), by decide +kernel, by decide +kernel, by decide +kernel, by decide +kernel, by decide +kernel⟩

/-- Indexed loads and stores name the signal in v1; PSRAM is mapped. -/
def sigV (id : Nat) : Vector Word 16 := #v[0, BitVec.ofNat 32 id, 7, 0, 0, 0, 0, 0, 0, 0, 0, 0, 0, 0, 0, 0]
def loadOf (o id : Nat) : State := setF (issuing (BitVec.ofNat 32 (o * 2 ^ 24 + 0x312000)) 0#32 (sigV id)) 0 [(F.MEM_CFG_EN, 0, 1), (F.MEM_PSRAM_EN, 0, 1)]

/-- LDSI and STSI of the signals of each kind. -/
theorem witness_SignalsAndTable_issues : ∀ e ∈ [(0x52, 0x9000), (0x52, 0x400), (0x52, 0x10000), (0x53, 0x9000), (0x53, 0x400), (0x53, 0x7FFFF)],
    ((loadOf e.1 e.2)).Issues 0 (BitVec.ofNat 32 (e.1 * 2 ^ 24 + 0x312000)) 0#32 ∧ (loadOf e.1 e.2).canonical := by
  intro e he
  have h : ∀ e ∈ [(0x52, 0x9000), (0x52, 0x400), (0x52, 0x10000), (0x53, 0x9000), (0x53, 0x400), (0x53, 0x7FFFF)],
      (let s := (loadOf e.1 e.2)
       let w : Word := BitVec.ofNat 32 (e.1 * 2 ^ 24 + 0x312000)
       (s.canIssue 0 = true ∧ s.misplaced 0 = false) ∧ s.fetch (s.ctx 0).bank (s.ctx 0).pc = .word w ∧ illegal w = false ∧ s.bkMatch 0 = false ∧
        s.second w (s.ctx 0).bank (s.ctx 0).pc = .word 0#32 ∧ (s.ctx 0).readyAt w ≤ s.now) ∧ (loadOf e.1 e.2).canonical := by decide +kernel
  exact ⟨issues_of (h e he).1, (h e he).2⟩

theorem witness_SignalsAndTable_kinds : ((loadOf 0x52 0x9000)).sigKind 0x9000 = .op ∧ ((loadOf 0x52 0x400)).sigKind 0x400 = .hw ∧
    ((loadOf 0x52 0x10000)).sigKind 0x10000 = .ext ∧ bufVal (loadOf 0x52 0x10000).eng.wbuf 0x10000 = none ∧
    ((loadOf 0x53 0x7FFFF)).sigKind 0x7FFFF = .none_ ∧ ({ loadOf 0x52 0x8FFF with variant := .sv6420 } : State).sigKind 0x8FFF = .absent ∧
    (loadOf 0x52 0x10000).eng.wbuf.length < 16 := by decide +kernel

/-- The write buffer holds the named words; a window on node 3's signals is mirrored. -/
def buffered (o : Nat) (l : List (Nat × Word)) : State := { loadOf o 0x10000 with eng := { (loadOf o 0x10000).eng with wbuf := l } }
def mirroring (o : Nat) : State := setF (loadOf o 0x90005) 0
  [(F.LK_PWIN_EN, 2, 1), (F.LK_PWIN_NODE, 2, 3), (F.LK_PWIN_BASE, 2, 1), (F.LK_PWIN_MLEN, 2, 4)]

theorem witness_SignalsAndTable_buffer : (buffered 0x52 [(0x10000, 9)]).Issues 0 (BitVec.ofNat 32 (0x52 * 2 ^ 24 + 0x312000)) 0#32 ∧
    bufVal (buffered 0x52 [(0x10000, 9)]).eng.wbuf 0x10000 = some 9#32 ∧
    (buffered 0x53 (List.replicate 16 (0x10001, 0))).Issues 0 (BitVec.ofNat 32 (0x53 * 2 ^ 24 + 0x312000)) 0#32 ∧
    16 ≤ (buffered 0x53 (List.replicate 16 (0x10001, 0))).eng.wbuf.length ∧
    (mirroring 0x52).Issues 0 (BitVec.ofNat 32 (0x52 * 2 ^ 24 + 0x312000)) 0#32 ∧ (mirroring 0x52).sigKind 0x90005 = .mirror ∧
    (mirroring 0x53).Issues 0 (BitVec.ofNat 32 (0x53 * 2 ^ 24 + 0x312000)) 0#32 ∧ (mirroring 0x53).sigKind 0x90005 = .mirror :=
  ⟨issues_of (by decide +kernel), by decide +kernel, issues_of (by decide +kernel), by decide +kernel, issues_of (by decide +kernel),
    by decide +kernel, issues_of (by decide +kernel), by decide +kernel⟩

/-- A window on node 3's signals, not mirrored; a device without the ring. -/
def remote (o : Nat) : State := setF (loadOf o 0x90005) 0 [(F.LK_PWIN_EN, 2, 1), (F.LK_PWIN_NODE, 2, 3), (F.LK_PWIN_BASE, 2, 1), (F.LK_PWIN_MLEN, 2, 0)]
def ringless (o : Nat) : State := { loadOf o 0x90005 with variant := .sv6420 }
/-- The calendar has updated 0x9000 in the cycle; a lane of a higher rank has written the signal. -/
def updated : State := { loadOf 0x52 0x9000 with cyc := { hwOld := [(0x9000, 5#32)] } }
def written (id : Nat) : State := { loadOf 0x53 id with cyc := { sigs := [(id, 10)] } }
/-- STSI to MSG_DST of node 7, of the node 40 that is none; to GPIO_OUT; to HOST_BELL. -/
def storing (id v : Nat) : State :=
  issuing (BitVec.ofNat 32 (0x53 * 2 ^ 24 + 0x312000)) 0#32 #v[0, BitVec.ofNat 32 id, BitVec.ofNat 32 v, 0, 0, 0, 0, 0, 0, 0, 0, 0, 0, 0, 0, 0]

theorem witness_SignalsAndTable_far : (∀ o ∈ [0x52, 0x53], (let s := remote o
      let w : Word := BitVec.ofNat 32 (o * 2 ^ 24 + 0x312000)
      (s.canIssue 0 = true ∧ s.misplaced 0 = false) ∧ s.fetch (s.ctx 0).bank (s.ctx 0).pc = .word w ∧ illegal w = false ∧ s.bkMatch 0 = false ∧
        s.second w (s.ctx 0).bank (s.ctx 0).pc = .word 0#32 ∧ (s.ctx 0).readyAt w ≤ s.now) ∧ (remote o).sigKind 0x90005 = .peer 3 0x1005) ∧
    (ringless 0x52).sigKind 0x90005 = .absent ∧ (ringless 0x53).sigKind 0x90005 = .absent ∧
    updated.sigKind 0x9000 = .op ∧ updated.cyc.hwOld.find? (fun e => e.1 == 0x9000) = some (0x9000, 5#32) ∧
    (written 0x9000).outranked ((written 0x9000).laneRank 0) 0x9000 = true ∧ (written 0x10000).sigKind 0x10000 = .ext ∧
    (written 0x10000).outranked ((written 0x10000).laneRank 0) 0x10000 = true ∧ bufVal (written 0x10000).eng.wbuf 0x10000 = none := by decide +kernel

theorem witness_SignalsAndTable_device : ∀ e ∈ [(0x308, 7), (0x308, 40), (0x501, 5), (0x502, 5)], ((storing e.1 e.2)).Issues 0 (BitVec.ofNat 32 (0x53 * 2 ^ 24 + 0x312000)) 0#32 ∧
    (storing e.1 e.2).canonical ∧ (storing e.1 e.2).cyc.gpio = [] ∧ (storing e.1 e.2).mem.seqOn = none ∧ (storing e.1 e.2).sigKind e.1 = .op := by
  intro e he
  have h : ∀ e ∈ [(0x308, 7), (0x308, 40), (0x501, 5), (0x502, 5)], (let s := storing e.1 e.2
      let w : Word := BitVec.ofNat 32 (0x53 * 2 ^ 24 + 0x312000)
      (s.canIssue 0 = true ∧ s.misplaced 0 = false) ∧ s.fetch (s.ctx 0).bank (s.ctx 0).pc = .word w ∧ illegal w = false ∧ s.bkMatch 0 = false ∧
        s.second w (s.ctx 0).bank (s.ctx 0).pc = .word 0#32 ∧ (s.ctx 0).readyAt w ≤ s.now) ∧
      (storing e.1 e.2).canonical ∧ (storing e.1 e.2).cyc.gpio = [] ∧ (storing e.1 e.2).mem.seqOn = none ∧ (storing e.1 e.2).sigKind e.1 = .op := by decide +kernel
  exact ⟨issues_of (h e he).1, (h e he).2⟩

/-- DBELL of context 5, which waits. -/
def bell : State := (issuing 0x79000005 0#32).updC 5 fun x => { x with st := .waiting }

theorem witness_TimeTriggerTrace_dbell : (bell).Issues 0 0x79000005 0#32 ∧ iOp 0x79000005#32 = 0x79 ∧ (5 : Fin 64) ≠ 0 ∧
    bell.hasCtx 5 = true ∧ (bell.ctx 5).st = .waiting ∧ (5 : Fin 64).val = (0x79000005#32).toNat % 64 ∧ (0x79000005#32).getLsbD 11 = false :=
  ⟨issues_of (by decide +kernel), by decide, by decide, by decide +kernel, by decide +kernel, by decide, by decide⟩

/-- The crow's nest records records of type 2. -/
def nest : State := { setF (issuing (opWord 0x7A) 0#32) 0 [(F.TRC_CTL_EN, 0, 1), (⟨R.TRC_CTL, 25, 25⟩, 0, 1)] with
  eng := { (issuing (opWord 0x7A) 0#32).eng with trcRun := true, trcTrig := true } }

theorem witness_TimeTriggerTrace_trace : (nest).Issues 0 (opWord 0x7A) 0#32 ∧ nest.canonical ∧ nest.flag F.TRC_CTL_EN = true ∧
    nest.eng.trcTrig = true ∧ nest.eng.trcRun = true ∧ (nest.rd R.TRC_CTL).getLsbD 25 = true ∧ nest.flag F.TRC_CTL_DEST = false :=
  ⟨issues_of (by decide +kernel), by decide +kernel, by decide +kernel, by decide +kernel, by decide +kernel, by decide +kernel, by decide +kernel⟩

def activated : State := (issuing (opWord 0x78) 0#32).updC 0 fun x => { x with act := some { kind := 7 } }

theorem witness_TimeTriggerTrace_actv : (activated).Issues 0 (opWord 0x78) 0#32 ∧ (activated.ctx 0).act = some { kind := 7 } :=
  ⟨issues_of (by decide +kernel), by decide +kernel⟩

/-! ### Witnesses: output instructions (ch. 7) -/

/-- OUTD, STGD, OUTV, STGV and STGP of mast 0 and, on the SV6420, of mast 15; every leg selected. -/
def outWord (o m : Nat) : Word := BitVec.ofNat 32 (o * 2 ^ 24 + 0x014000 + (if o < 0x62 then 0xF0 else 0) + m)

theorem witness_StagingRows : ∀ o ∈ [0x60, 0x61, 0x62, 0x63, 0x64], iOp (outWord o 0) = o ∧ (outWord o 0).getLsbD 11 = false ∧
    ((issuing (outWord o 0) 0#32)).Issues 0 (outWord o 0) 0#32 ∧ (issuing (outWord o 0) 0#32).canonical ∧
    (issuing (outWord o 0) 0#32).hasMast 0 = true ∧ ((issuing (outWord o 0) 0#32).mast 0).resetAt = none := by
  intro o ho
  have h : ∀ o ∈ [0x60, 0x61, 0x62, 0x63, 0x64], (iOp (outWord o 0) = o ∧ (outWord o 0).getLsbD 11 = false) ∧ (let s := (issuing (outWord o 0) 0#32)
      (s.canIssue 0 = true ∧ s.misplaced 0 = false) ∧ s.fetch (s.ctx 0).bank (s.ctx 0).pc = .word (outWord o 0) ∧ illegal (outWord o 0) = false ∧ s.bkMatch 0 = false ∧
      s.second (outWord o 0) (s.ctx 0).bank (s.ctx 0).pc = .word 0#32 ∧ (s.ctx 0).readyAt (outWord o 0) ≤ s.now) ∧
      (issuing (outWord o 0) 0#32).canonical ∧ (issuing (outWord o 0) 0#32).hasMast 0 = true ∧ ((issuing (outWord o 0) 0#32).mast 0).resetAt = none := by
    decide +kernel
  exact ⟨(h o ho).1.1, (h o ho).1.2, issues_of (h o ho).2.1, (h o ho).2.2⟩

theorem witness_StagingRows_absent : ((({ issuing (outWord 0x61 15) 0#32 with variant := .sv6420 } : State)).Issues 0 (outWord 0x61 15) 0#32) ∧
    ({ issuing (outWord 0x61 15) 0#32 with variant := .sv6420 } : State).hasMast 15 = false ∧ (outWord 0x61 15).toNat % 16 = 15 :=
  ⟨issues_of (by decide +kernel), by decide +kernel, by decide +kernel⟩

/-- Lane 3 has staged a PERIOD of mast 0 in this cycle. -/
def outstaged : State := { issuing (outWord 0x64 0) 0#32 with cyc := { stage := [{ rank := 9, key := keyI R.PWM_CTL 0, word := 5000#32 }] } }

theorem witness_StagingRows_rank : outstaged.Issues 0 (outWord 0x64 0) 0#32 ∧ outstaged.hasMast 0 = true ∧ (outstaged.mast 0).resetAt = none ∧
    stageTop outstaged.cyc.stage (keyI R.PWM_CTL 0) 10 = some { rank := 9, key := keyI R.PWM_CTL 0, word := 5000#32 } ∧ outstaged.laneRank 0 < 9 ∧
    (∀ o ∈ [0x60, 0x61, 0x64], ∀ e ∈ (issuing (outWord o 0) 0#32).cyc.stage, e.rank ≤ (issuing (outWord o 0) 0#32).laneRank 0) :=
  ⟨issues_of (by decide +kernel), by decide +kernel, by decide +kernel, by decide +kernel, by decide +kernel, by decide +kernel⟩

/-- Lane 3 has staged a duty of leg U in this cycle, a SPGP of lane 0 behind it. -/
def restaged : State :=
  { issuing (outWord 0x64 0) 0#32 with cyc := { stage := [{ rank := 9, key := keyI R.LEG_CMP_A 0, word := 5000#32, duty := some 0x3F000000#32 }] } }

theorem witness_StagingRows_duty : restaged.Issues 0 (outWord 0x64 0) 0#32 ∧ restaged.hasMast 0 = true ∧ (restaged.mast 0).resetAt = none ∧
    (∀ x ∈ restaged.cyc.stage, x.key ≠ keyI R.PWM_CTL 0) ∧ restaged.laneRank 0 < 9 ∧ restaged.canonical ∧
    stageTop restaged.cyc.stage (keyI R.LEG_CMP_A 0 + 8 * (0 : Fin 4)) 10 =
      some { rank := 9, key := keyI R.LEG_CMP_A 0, word := 5000#32, duty := some 0x3F000000#32 } :=
  ⟨issues_of (by decide +kernel), by decide +kernel, by decide +kernel, by decide +kernel, by decide +kernel, by decide +kernel, by decide +kernel⟩

/-- The activation is by a SAMPLE trigger of the mast committed to. -/
def sampled : State := (issuing (outWord 0x62 0) 0#32).updC 0 fun x => { x with act := some { kind := 1, a := 0, b := 3 } }

theorem witness_CommitRows : (sampled).Issues 0 (outWord 0x62 0) 0#32 ∧ sampled.canonical ∧ (outWord 0x62 0).getLsbD 11 = false ∧
    (outWord 0x62 0).toNat % 16 = 0 ∧ sampled.hasMast 0 = true ∧ (sampled.mast 0).resetAt = none ∧ iOp (outWord 0x62 0) = 0x62 ∧
    (∀ e ∈ sampled.cyc.stage, e.key / 0x2000 ≠ 0) ∧
    (∀ e ∈ (sampled.mast 0).pwm.untag ++ (sampled.mast 0).pwm.shadow, e.cyc = sampled.now / tSpar → e.rank ≤ sampled.laneRank 0) :=
  ⟨issues_of (by decide +kernel), by decide +kernel, by decide +kernel, by decide +kernel, by decide +kernel, by decide +kernel, by decide +kernel,
    by decide +kernel, by decide +kernel⟩

/-- 24 V, a vector of 12 V, a vector of 24 V that is limited; half a volt. -/
def vm (vbus : Word) (zseq : Nat) : VmIn := { vbus := vbus, zseq := zseq, modMax := 255, per := 3000, dtc := [0#32, 0#32, 0#32] }

theorem witness_CommitRows_vector : (∀ z ∈ [0, 1, 2, 3], (vm 0x41C00000 z).dtc = [0#32, 0#32, 0#32] ∧ fLt (vm 0x41C00000 z).vbus fOne = false ∧
      (vm 0x41C00000 z).per ≤ 65535) ∧ fLt (vm 0x3F000000 1).vbus fOne = true ∧ fGe (fAbs 0x41400000#32) fBig = false ∧
    (vmConvert (vm 0x41C00000 1) 0x41400000 0#32).2 = false ∧ (vmConvert (vm 0x41C00000 1) 0x41C00000 0#32).2 = true ∧
    (vmConvert (vm 0x41C00000 3) 0x41400000 0#32).1[0]? = some 0x1FFFFF := by decide +kernel

/-! ### Witnesses: masts (ch. 1–3) -/

/-- Mast 0 turns, its boundary has come; RUN is set, and with it clear. -/
def turning : State := setF (withM turningMast) 1000 [(F.PWM_CTL_RUN, 0, 1)]
def ending : State := setF (withM turningMast) 1000 []

theorem witness_BoundaryRow : (turning).boundaryDue 0 = true ∧ (turning.mast 0).sense.released = true ∧ turning.running 0 = true ∧
    (ending).boundaryDue 0 = true ∧ (ending.mast 0).sense.released = true ∧ ending.running 0 = false := by decide +kernel

/-- A committed set of a period of 100 is due at the boundary; one of 2000 at the first. -/
def dueSet (k per : Nat) : State :=
  setF (withM { turningMast with pwm := { counting := true, bNext := 1000, k := k, tLen := 192000
                                          untag := [{ set := { period := per }, doneAt := 0 }], hist := [{ set := { period := per }, doneAt := 0 }] } })
    1000 [(F.PWM_CTL_RUN, 0, 1), (⟨R.LEG_CFG + 8, 1, 0⟩, 0, 2), (⟨R.LEG_CFG + 16, 1, 0⟩, 0, 0)]

theorem witness_BoundaryRow_set : ∀ e ∈ [(3, 100), (0, 100), (3, 2000)], let s := dueSet e.1 e.2
    s.canonical ∧ s.boundaryDue 0 = true ∧ (s.mast 0).sense.released = true ∧ s.running 0 = true ∧ (s.mast 0).resetAt = none ∧
      (s.mast 0).seq.st = .off ∧ (s.mast 0).seq.reqs = [] ∧ s.flag F.PWM_ANCH_EN 0 = false ∧ s.deferred = [] ∧
      (s.legFld F.LEG_CFG_FUNC 0 0 = 1 ∧ s.legFld F.LEG_CFG_FUNC 0 1 = 2 ∧ s.legFld F.LEG_CFG_FUNC 0 2 = 0) ∧
      (if e.1 = 0 then s.firstSet 0 1000 else ((chooseEntry (s.mast 0).pwm 1000).map (·.set)).getD {}).period = e.2 := by decide +kernel

/-- Three legs that fall apart from one another, and three that fall together. -/
def planning (a b c : Int) (inl : Bool) : PlanIn :=
  { centre := true, inl := inl, tLen := 192000, mid := 96000, lim := 192000, times := { settle := 1000, sample := 500 }, pseq := 0#32, fix := (0, 0)
    legs := [(0, .pulse 60000 a 320 320, 64, 1), (1, .pulse 50000 b 320 320, 64, 1), (2, .pulse 40000 c 320 320, 64, 1)] }

theorem witness_BoundaryRow_plan : (∀ x ∈ [planning 130000 140000 150000 false, planning 130000 130000 130000 false, planning 130000 130000 130000 true],
      (x.legs.map (·.1)).Nodup ∧ (∀ e ∈ x.legs, e.1 < 3) ∧ 0 ≤ x.times.settle ∧ 0 ≤ x.times.sample) ∧
    (runPlanner (planning 130000 140000 150000 false)).plan.ok = true ∧ (runPlanner (planning 130000 140000 150000 false)).plan.order = [0, 1, 2] ∧
    (runPlanner (planning 130000 130000 130000 false)).evalOk = true ∧ (runPlanner (planning 130000 130000 130000 true)).plan.ok = false := by decide +kernel

/-- Mast 0 with a sensing unit, at instant 4000. -/
def sensing (x : Sense) : State := { withM { turningMast with sense := { x with pathNext := some (false, 0) } } with now := 4000 }
def convS (i : Nat) : State := sensing { adcS := some { startAt := 0, setNo := 0, idx := some i } }
def convP : State := sensing { adcP := some { startAt := 0, setNo := 0, pseq := 0#32, slot := 0 } }
def heldS : State := sensing { sHeld := some { startAt := 0, setNo := 0, idx := none } }
def heldP : State := sensing { pHeld := some { startAt := 0, setNo := 0, pseq := 0#32, slot := 0 } }
def ofsAux : State := sensing { cap := { plan := { ofsAt := some 100 } } }

theorem witness_ConverterRows : (ofsAux).auxtDue 0 4 = true ∧
    (convS 0 |>.mast 0).sense.adcS = some { startAt := 0, setNo := 0, idx := some 0 } ∧ 0 + 1536 ≤ (convS 0).now + 0 ∧ 0 = (convS 0 |>.mast 0).sense.cap.k ∧
    (convS 1 |>.mast 0).sense.adcS = some { startAt := 0, setNo := 0, idx := some 1 } ∧ 0 + 1536 ≤ (convS 1).now + 0 ∧
    (heldS.mast 0).sense.adcS = none ∧ (heldS.mast 0).sense.sHeld = some { startAt := 0, setNo := 0, idx := none } ∧
    (convP.mast 0).sense.adcP = some { startAt := 0, setNo := 0, pseq := 0#32, slot := 0 } ∧ 0 + (0 + 1) * 3072 ≤ convP.now + 0 ∧
    (heldP.mast 0).sense.adcP = none ∧ (heldP.mast 0).sense.pHeld = some { startAt := 0, setNo := 0, pseq := 0#32, slot := 0 } := by decide +kernel

/-- Mast 0 at a boundary. -/
def recAt (x : Sense) : State :=
  { withM { turningMast with pwm := { turningMast.pwm with bPrev := 4000, bNext := 196000 }, sense := { x with pathNext := some (false, 0) } } with now := 4000 }
def setEnd (old : Option Cap) : State := sensing { released := false, cap := { k := 3, nS := 2, pStarted := true }, capOld := old }
def xTest : State := setF (withM { turningMast with sense := { xPeriods := 256, pathNext := some (false, 0) } }) 0 [(F.SNS_CTL_INL_FIT, 0, 1), (F.XCHK_CFG_INT, 0, 1)]
def tripped : State := setF (withM { shr := { amp := 2000000 } }) 0 [(F.SHR_CTL_OCP_EN, 0, 1), (F.SHR_CTL_BLK_EN, 0, 0)]

theorem witness_SetRows : ((setEnd (some {}))).setDone 0 = true ∧ ((setEnd none)).setDone 0 = true ∧
    ((setEnd none).mast 0).sense.capOld = none ∧ (recAt { recInv := 4 }).recStartDue 0 = true ∧
    (recAt { recovery := true, recEnd := true }).recEndDue 0 = true ∧
    (xTest).xchkDue 0 = true ∧ (xTest.mast 0).sense.inline = false ∧ (xTest.mast 0).sense.reason = 0 ∧ (xTest.mast 0).sense.xRun = none ∧
    ((sensing { xRun := some 0, xN := 63 }).mast 0).sense.xRun = some 0 ∧ ((sensing { xRun := some 0, xN := 64 }).mast 0).sense.xRun = some 0 ∧
    tripped.hasMast 0 = true ∧ (tripped).ocBlank 0 = false ∧
    (tripped.ocLevel 0 0 && tripped.flag F.SHR_CTL_OCP_EN 0 && !tripped.flag F.SHR_CTL_OCP_CBC 0) = true := by decide +kernel

/-- A set with two conversions of a plan of legs U, V, W in this order of fall, and one with a single one of two legs. -/
def capOf (order : List Nat) (s2 : Option Int) (inl : Bool) : Cap :=
  { k := 3, nS := order.length - 1, s1 := some 2000, s2 := s2, t1 := 640, t2 := 1280, inline := inl, pStarted := true
    pSlots := [(0, 5, 2048), (1, 7, 2048), (2, 0, 2048), (3, 1, 2048)], plan := { active := true, ok := true, order := order } }
def setOf (order : List Nat) (s2 : Option Int) (inl : Bool) : State :=
  setF (withM { turningMast with pwm := { turningMast.pwm with fired := 15 }
                                 sense := { released := false, pathNext := some (false, 0), cap := capOf order s2 inl } })
    4000 [(F.SH_RSH_RSH, 0, 1000), (F.SNS_CTL_INL_FIT, 0, 1)]

theorem witness_SetRows_values : ∀ e ∈ [([0, 1, 2], some (100 : Int)), ([2, 0, 1], some 100), ([1, 2], none)], ∀ inl, let s := setOf e.1 e.2 inl
    s.canonical ∧ s.setDone 0 = true ∧ (s.mast 0).sense.nextSet = some (capOf e.1 e.2 inl) ∧ s.rsh 0 = 1000 ∧ (capOf e.1 e.2 inl).changed = false := by
  decide +kernel

/-! ### Witnesses: host commands of a mast, housekeeping -/

theorem boss_takes (n : Nat) (h : n ≤ 2) : boss.TakesWrites n := takes_of ⟨⟨rfl, rfl, rfl, rfl, rfl⟩, h, by decide⟩
theorem turning_takes : turning.TakesWrites 0 := takes_of (by decide +kernel)

def outputs : State := setF (withM { turningMast with seq := { st := .run, outEn := true } }) 500 [(F.PWM_CTL_RUN, 0, 1)]
/-- Six-step by STEP_WR, the event masks in force, step 0. -/
def sixStep : State := setF (withM { pwm := { counting := true, bNext := 9000, k := 3 }, com := { drive := 2 }, sense := { pathNext := some (false, 0) } }) 0
  [(F.COM_CTL_MODE, 0, 1), (F.COM_CTL_ASRC, 0, 0), (F.PWM_CTL_SH_SRC, 0, 1), (F.PWM_CTL_SH_SYNC, 0, 1)]
def stepWord : Word := BitVec.ofNat 32 (bitsOf (sixStep.rd (keyI R.COM_CTL 0)) 9 0 + 2 * 2 ^ 16 + 2 ^ 19)

theorem witness_MastCommands_run : boss.hasMast 0 = true ∧ boss.canonical ∧ (Instr.pwmRunSet 0 0 (-1)).wf = true ∧ boss.running 0 = false ∧
    boss.TakesWrites 0 ∧ (boss.mast 0).pwm.counting = false ∧ boss.flag F.PWM_ANCH_EN 0 = false :=
  ⟨by decide, by decide, by decide, by decide +kernel, boss_takes 0 (by decide), by decide +kernel, by decide +kernel⟩

theorem witness_MastCommands_stop : turning.hasMast 0 = true ∧ turning.canonical ∧ (Instr.pwmRunClear 0 0 0).wf = true ∧ turning.running 0 = true ∧
    turning.TakesWrites 0 ∧ turning.outputsOn 0 = false ∧ outputs.running 0 = true ∧ outputs.TakesWrites 0 ∧ outputs.outputsOn 0 = true ∧ outputs.canonical :=
  ⟨by decide, by decide +kernel, by decide, by decide +kernel, turning_takes, by decide +kernel, by decide +kernel, takes_of (by decide +kernel),
    by decide +kernel, by decide +kernel⟩

theorem witness_MastCommands_commit : (1#32).getLsbD 0 = true ∧ (boss.mast 0).resetAt = none ∧ (boss.mast 0).com.kindVec = false ∧ boss.TakesWrites 0 ∧
    boss.canonical ∧ ∀ e ∈ boss.cyc.stage, e.key / 0x2000 ≠ 0 := ⟨by decide, by decide, by decide, boss_takes 0 (by decide), by decide, by decide⟩

theorem witness_MastCommands_step : stepWord.getLsbD 19 = true ∧ bitsOf stepWord 18 16 < 6 ∧ bitsOf stepWord 9 0 = bitsOf (sixStep.rd (keyI R.COM_CTL 0)) 9 0 ∧
    sixStep.comMode 0 = 1 ∧ sixStep.asrc 0 = 0 ∧ (sixStep.mast 0).com.drive = 2 ∧ (sixStep.mast 0).pwm.counting = true ∧
    sixStep.efld F.PWM_CTL_SH_SRC 0 = 1 ∧ sixStep.efld F.PWM_CTL_SH_SYNC 0 = 1 ∧ (sixStep.mast 0).com.target ≠ bitsOf stepWord 18 16 ∧
    sixStep.canonical ∧ sixStep.TakesWrites 1 := by
  and_intros <;> first | decide +kernel | exact takes_of (by decide +kernel)

theorem witness_MastCommands_shroud : (1#32).getLsbD 0 = true ∧ (1#32).getLsbD 1 = false ∧ (2#32).getLsbD 1 = true ∧ (2#32).getLsbD 0 = false ∧
    (boss.mast 0).seq.outEn = false ∧ (boss.mast 0).shr.latch = false ∧ boss.TakesWrites 0 ∧ boss.canonical ∧ boss.hasMast 0 = true :=
  ⟨by decide, by decide, by decide, by decide, by decide, by decide, boss_takes 0 (by decide), by decide, by decide⟩

/-- Outputs are enabled, a brake pulses them, a latch is set. -/
theorem witness_MastCommands_refused : (∀ x ∈ [{ turningMast with seq := { outEn := true } }, { turningMast with seq := { brakeLow := true } },
      { turningMast with shr := { ocp := true } }], ((withM x).mast 0).seq.outEn = true ∨ ((withM x).mast 0).seq.brakeLow = true ∨ ((withM x).mast 0).shr.latch = true) ∧
    (withM turningMast).hasMast 0 = true ∧ (withM turningMast).canonical := by decide +kernel

theorem witness_MastCommands_refused_takes : ∀ x ∈ [{ turningMast with seq := { outEn := true } }, { turningMast with seq := { brakeLow := true } },
      { turningMast with shr := { ocp := true } }], (withM x).TakesWrites 0 := by
  intro x h
  simp only [List.mem_cons, List.not_mem_nil, or_false] at h
  rcases h with rfl | rfl | rfl <;> exact takes_of (by decide +kernel)

def round : State := { boss with hk := { running := true } }

theorem witness_Housekeeping : round.hk.running = true ∧ round.hk.slotAt ≤ round.now + 0 ∧ boss.clk.locked = true ∧ boss.clk.fastDone = false ∧
    boss.canonical ∧ boss.hk.supOut.testBit 0 = false ∧ (2#32).getLsbD 1 = true ∧ (1#32).getLsbD 0 = true ∧ boss.TakesWrites 1 :=
  ⟨by decide, by decide, by decide, by decide, by decide, by decide, by decide, by decide, boss_takes 1 (by decide)⟩

/-- Monitor 2 has been in range again for 1 ms, and for less. -/
def monitored (t : Nat) : State := { boss with now := t, hk := { supOut := 4, supAt := Vector.replicate 6 0 } }

theorem witness_Housekeeping_supply : (monitored tMs).hk.supOut.testBit 2 = true ∧ (monitored tMs).hk.supAt[2] + tMs ≤ (monitored tMs).now ∧
    (monitored 5).now < (monitored 5).hk.supAt[2] + tMs ∧ (monitored 5).canonical := by decide +kernel

/-! ### Witnesses: commutation, the start sequencer, the halyard (ch. 4, 5) -/

/-- Mast 0 with a commutation unit, the pins at `inp`, 100 ms after the start. -/
def comAt (c : Com) (inp : Nat) (l : List (Fld × Nat × Nat)) : State := { setF (withM { turningMast with com := c }) (100 * tMs) l with gpio := { inp := inp } }

theorem witness_PositionSensors_hall : (comAt {} 5 []).hasMast 0 = true ∧ ((comAt { hallRef := some 9 } 5 [])).hallDue 0 = true ∧
    ((comAt {} 7 [])).hallDue 0 = true ∧ (comAt {} 7 []).hallSector 0 7 = none ∧ ((comAt {} 7 [])).hallPins 0 = (7, 0) ∧
    ((comAt {} 5 []).hallSector 0 5).isSome = true ∧ ((comAt { hallRef := some 9 } 5 [])).hallPins 0 = (5, 0) ∧
    ((comAt { hallIllegal := some 0 } 0 []).mast 0).com.hallIllegal = some 0 ∧ 0 + 100 * tUs ≤ (comAt {} 0 []).now + 0 ∧
    ((comAt { hallSec := some 0, est := .track } 0 [(F.COM_CTL_ASRC, 0, 1)])).hallStillDue 0 = true ∧
    ((comAt { hallSec := some 0, est := .track } 0 [(F.COM_CTL_ASRC, 0, 1)]).mast 0).com.est = .track ∧
    (comAt { hallSec := some 0, est := .track } 0 [(F.COM_CTL_ASRC, 0, 1)]).asrc 0 = 1 := by decide +kernel

def zIndex : State := { comAt { quadPos := 3 } 4 [(F.QUAD_CFG_ZEN, 0, 1), (F.QUAD_CFG_FILT, 0, 0), (F.QUAD_CFG_PIN, 0, 0)] with
  gpio := { inp := 4, chg := (Vector.replicate 32 0).set 2 70 } }

theorem witness_PositionSensors_quad : ((comAt {} 1 [])).quadDue 0 = true ∧ (comAt {} 1 []).fld F.QUAD_CFG_CPR 0 = 0 ∧
    ((comAt {} 1 [(F.QUAD_CFG_CPR, 0, 4)])).quadDue 0 = true ∧ (comAt {} 1 [(F.QUAD_CFG_CPR, 0, 4)]).fld F.QUAD_CFG_CPR 0 = 4 ∧
    ((comAt {} 2 [(F.QUAD_CFG_CPR, 0, 4)])).quadDue 0 = true ∧
    ((comAt {} 3 [])).quadDue 0 = true ∧ quadNext 0 ≠ 3 ∧ quadNext 3 ≠ 0 ∧ (comAt {} 0 []).advDue 0 = true ∧ (zIndex).quadZDue 0 = true ∧
    (quadNext 0 = 1 ∨ quadNext 0 = 2) ∧ (quadNext 1 = 0 ∨ quadNext 2 = 0) := by decide +kernel

/-- The mask of step 0 is in force. -/
def crossingMast : Mast :=
  { turningMast with pwm := { turningMast.pwm with sheet := stepMask 0 }
                     com := { drive := 2, est := .high, zcSteer := true, stepHeld := true } }
def crossing : State := setF (withM crossingMast) (100 * tMs) [(F.COM_CTL_ASRC, 0, 3)]
def stepping : State := comAt { drive := 2, est := .high, zcSteer := true, zcNext := some 5 } 0 [(F.COM_CTL_ASRC, 0, 3)]
def missed : State := comAt { drive := 2, est := .high, stepT := 5 } 0 [(F.COM_CTL_ASRC, 0, 3)]

def lastMiss : State := comAt { drive := 2, est := .high, stepT := 5, missRun := 5 } 0 [(F.COM_CTL_ASRC, 0, 3)]

theorem witness_ZeroCrossingRows : crossing.hasMast 0 = true ∧ (crossing).zcDue 0 (crossRises false (stepSector false 0)) (10 * tMs) = true ∧ (crossing.mast 0).com.zcSteer = true ∧
    stepping.zcStepDue 0 = true ∧
    (missed).zcMissDue 0 = true ∧ (lastMiss).zcMissDue 0 = true ∧ 5 ≤ (lastMiss.mast 0).com.missRun := by decide +kernel

/-- Intervals between crossings, from a crossing to a forced step, between two forced steps. -/
theorem witness_ZeroCrossingRows_intervals : ∀ r ∈ [none, some (5, false), some (5, true)],
    let s := comAt { drive := 2, est := .high, stepT := 5, zcRef := r } 0 [(F.COM_CTL_ASRC, 0, 3)]
    s.zcMissDue 0 = true ∧ s.hasMast 0 = true ∧ (s.mast 0).com.missRun < 5 ∧ (s.mast 0).com.zcRef = r := by decide +kernel

def poling (p : Pol) : State := comAt { est := .polarity, pol := p } 0 []
def window : State := comAt { est := .low, cCnt := 2 ^ 20, cN := 4 } 0 [(F.INJ_CFG_EN, 0, 1)]

theorem witness_TransferAndPolarity : ((comAt { luff := some { n := 1, i := 1, fromS := 0, toS := 1 } } 0 [])).luffOver 0 = true ∧
    window.hasMast 0 = true ∧ (window).winDue 0 = true ∧
    ((poling { phase := .plus, n := 1000 })).polOver 0 = true ∧ ((poling { phase := .zero1 })).polOver 0 = true ∧
    ((poling { phase := .minus, n := 1000 })).polOver 0 = true ∧ ((poling { phase := .zero2 })).polOver 0 = true ∧
    ((poling { phase := .zero2, nPlus := 1, nMinus := 2, n := 2 })).polOver 0 = true ∧ polDecide { phase := .zero2, nPlus := 1, nMinus := 2 } = 1 ∧
    ((poling { phase := .zero2, nPlus := 2, nMinus := 1, n := 2 })).polOver 0 = true ∧ polDecide { phase := .zero2, nPlus := 2, nMinus := 1 } = 2 ∧
    polDecide { phase := .zero2 } = 0 := by decide +kernel

/-- The transfer's step lets another phase float, or the same ones; its end is of vector drive. -/
def transferring (x : Luff) (sheet : Nat) : State := withM { turningMast with pwm := { turningMast.pwm with sheet := sheet }, com := { luff := some x } }

theorem witness_TransferAndPolarity_floats :
    (transferring { n := 1, i := 1, fromS := 0, toS := 1 } (stepMask 0)).evMask 0 1 % 64 = stepMask 1 ∧
    (∃ n, n < 3 ∧ (stepMask 1 >>> (2 * n)) % 4 = 1 ∧ ¬(stepMask 0 >>> (2 * n)) % 4 = 1) ∧
    (∀ n, n < 3 → (stepMask 6 >>> (2 * n)) % 4 = 1 → (stepMask 0 >>> (2 * n)) % 4 = 1) ∧
    ((setF (transferring { n := 1, i := 1, fromS := 0, toS := 6 } (stepMask 0)) (100 * tMs) []).luffOver 0 = true) := by decide +kernel

def seqAt (q : Seq) (l : List (Fld × Nat × Nat)) : State := setF (withM { turningMast with seq := q }) (100 * tSec) l

theorem witness_SequencerTimers : ((seqAt { st := .brake, pulse := true, pulseCut := true } [])).pulseOver 0 = true ∧
    ((seqAt { st := .brake, cnt := 2 ^ 16, lastE := 0x7F000000#32 } [])).pauseOver 0 = true ∧
    (seqAt { st := .brake, cnt := 2 ^ 16, lastE := 0x7F000000#32 } []).brakeStops 0 = false ∧
    ((seqAt { st := .brake, cnt := 2 ^ 16, purpose := .reverse } [(F.CATCH_CFG_EMIN, 0, 1)])).pauseOver 0 = true ∧
    (seqAt { st := .brake, cnt := 2 ^ 16, purpose := .reverse } [(F.CATCH_CFG_EMIN, 0, 1)]).brakeStops 0 = true ∧
    ((seqAt { st := .align } [])).alignDue 0 = true ∧
    ((seqAt { st := .stopping } [(F.SEQ_CFG_STOP_TMO, 0, 1)])).stopTmoDue 0 = true ∧
    (∀ q ∈ [SeqSt.brake, .align, .stopping], ∀ g ∈ [SeqSt.off, .run], ((seqAt { st := q, goto := some g, purpose := .overspeed } []).mast 0).seq.st = q ∧
      ((seqAt { st := q, goto := some g, purpose := .overspeed } []).mast 0).seq.goto = some g ∧
      ((seqAt { st := q, goto := some g, purpose := .overspeed } []).mast 0).seq.purpose = .overspeed) ∧
    ((seqAt { st := .brake, goto := some .off, purpose := .stop } []).mast 0).seq.purpose = .stop := by decide +kernel

def halAt (h : Hal) (st : SeqSt) (l : List (Fld × Nat × Nat)) : State := setF (withM { turningMast with hal := h, seq := { st := st } }) (100 * tSec) l
def cmdAt (c : CmdPin) (mode : Nat) : State := setF (withM { turningMast with cmd := c }) (100 * tSec) [(F.CMD_CFG_PMODE, 0, mode)]

theorem witness_HalyardAndCommandPin : ((halAt { st := .dwell } .run [])).dwellDue 0 = true ∧
    ((halAt { stallAt := some 0 } .run [(F.STALL_CFG_JAM_N, 0, 3)])).stallDue 0 = true ∧
    0 < (halAt { stallAt := some 0 } .run [(F.STALL_CFG_JAM_N, 0, 3)]).fld F.STALL_CFG_JAM_N 0 ∧
    ((halAt { jamHold := some 0 } .run [])).jamHoldDue 0 = true ∧ ((halAt { jamCount := 1 } .run [])).jamClearDue 0 = true ∧
    (cmdAt {} 2).hasMast 0 = true ∧ (cmdAt {} 1).pmode 0 < 2 ∧ 2 ≤ (cmdAt {} 2).pmode 0 ∧ (cmdAt { riseAt := some 128, fallAt := some 256 } 2).pmode 0 = 2 ∧
    (cmdAt { riseAt := some 128 } 3).pmode 0 = 3 ∧ ((cmdAt {} 2)).lossDue 0 = true := by decide +kernel

/-- The command pin is high, or low, as last noted. -/
theorem witness_HalyardAndCommandPin_edges : (cmdAt { lvl := true } 2).canonical ∧ 2 ≤ (cmdAt { lvl := true } 2).pmode 0 ∧
    ((cmdAt { lvl := true } 2).mast 0).cmd.lvl = true ∧ ((cmdAt { riseAt := some 128, fallAt := some 256 } 2).mast 0).cmd.lvl = false ∧
    (cmdAt { riseAt := some 128, fallAt := some 256 } 2).canonical ∧ (cmdAt { lvl := true } 1).pmode 0 < 2 := by decide +kernel

/-- SEQ_CMD's word, and SEQ's for mast 0. -/
def seqWord (code : Nat) : Word := setBitsOf 0#32 F.SEQ_CMD_CMD.hi F.SEQ_CMD_CMD.lo code
def seqIns (code : Nat) : Word := BitVec.ofNat 32 (0x65 * 2 ^ 24 + code * 16)
def still (q : SeqSt) : State := withM { seq := { st := q } }

/-- Mast 0 turns; a START or a STOP has been taken in this cycle. -/
def asked0 (r : SeqReq) : State := setF (withM { turningMast with seq := { reqs := [(r, 1000 / tSpar)] } }) 1000 [(F.PWM_CTL_RUN, 0, 1)]

theorem witness_SequencerRequests : (turning.hasMast 0 = true ∧ (turning.mast 0).resetAt = none ∧ turning.unrigged 0 = false ∧ turning.canonical) ∧
    turning.TakesWrites 0 ∧ (∀ e ∈ (turning.mast 0).seq.reqs, e.2 ≠ turning.now / tSpar) ∧
    (Instr.seqStart 0 (.host 0 (seqWord 1))).wf = true ∧ (Instr.seqStop 0 (.host 0 (seqWord 2))).wf = true ∧ (Instr.seqClear 0 (.host 0 (seqWord 3))).wf = true :=
  ⟨by decide +kernel, turning_takes, by decide +kernel, by decide +kernel, by decide +kernel, by decide +kernel⟩

theorem witness_SequencerRequests_rank : ∀ r ∈ [SeqReq.start, .stop 2], (asked0 r).hasMast 0 = true ∧ ((asked0 r).mast 0).resetAt = none ∧
    (asked0 r).unrigged 0 = false ∧ (asked0 r).canonical ∧ ((asked0 r).mast 0).seq.st ≠ .fault ∧
    ((asked0 r).mast 0).seq.reqs = [(r, (asked0 r).now / tSpar)] ∧ (asked0 r).TakesWrites 0 := by
  intro r h
  simp only [List.mem_cons, List.not_mem_nil, or_false] at h
  rcases h with rfl | rfl <;> (and_intros <;> first | decide +kernel | exact takes_of (by decide +kernel))

/-- The timebase is stopped; a request of the cycle before waits. -/
theorem witness_SequencerRequests_turn : ∀ q ∈ [(SeqSt.off, SeqReq.start), (.run, .stop 0), (.fault, .clear)],
    let s := { withM { seq := { st := q.1, reqs := [(q.2, 0)] } } with now := 300 }
    s.hasMast 0 = true ∧ (s.mast 0).resetAt = none ∧ s.unrigged 0 = false ∧ s.canonical ∧ (s.mast 0).pwm.counting = false ∧
      (s.mast 0).seq.reqs = [(q.2, 0)] ∧ 0 < s.now / tSpar ∧ (s.mast 0).seq.st = q.1 ∧ s.mastSerious 0 = false := by decide +kernel

theorem witness_SequencerRequests_ins : ∀ k ∈ [1, 2, 3], ((issuing (seqIns k) 0#32)).Issues 0 (seqIns k) 0#32 ∧ iOp (seqIns k) = 0x65 ∧
    bitsOf (seqIns k) 6 4 = k ∧ (seqIns k).getLsbD 11 = false ∧ (seqIns k).toNat % 16 = 0 := by
  intro k hk
  simp only [List.mem_cons, List.not_mem_nil, or_false] at hk
  rcases hk with rfl | rfl | rfl <;> exact ⟨issues_of (by decide +kernel), by decide +kernel⟩

/-! ### Witnesses: the engine (ch. 6) -/

/-- Context 0 as given, on lane 0 where `on`; at one second. -/
def ctxAt (x : Ctx) (on : Bool) (l : List (Fld × Nat × Nat)) : State :=
  let s := setF boss tSec l
  { s with eng := { s.eng with ctxs := s.eng.ctxs.set 0 x, lanes := if on then s.eng.lanes.set 0 { ctx := some 0 } else s.eng.lanes } }

def ready : State := ctxAt { st := .runnable } false []
def quantum : State :=
  let s := ctxAt { st := .running, lane := some 0, qIss := 4096 } true [(F.CTX_CFG_CLASS, 0, 2), (F.CTX_CFG_CLASS, 1, 2)]
  s.updC 1 fun x => { x with st := .runnable }
def spent (pol : Nat) : State := ctxAt { st := .running, lane := some 0, issues := 5 } true [(F.CTX_BUDGET_ISSUES, 0, 5), (F.CTX_BUDGET_POL, 0, pol)]

theorem witness_Scheduling : ready.hasCtx 0 = true ∧ (ready.ctx 0).st = .runnable ∧ (ready.ctx 0).haltReq = false ∧
    ((ready).pickLane 0).isSome = true ∧ (∀ n, (ready).pickLane 0 = some n → (ready).firstFor 0 n = true) ∧
    (quantum).quantumDue 0 = true ∧ (quantum.ctx 0).lane = some 0 ∧ (quantum.lane 0).ctx = some 0 ∧
    ((ctxAt { st := .blocked, wait := some (.result 5) } false []).ctx 0).wait = some (.result 5) ∧ 5 ≤ (ctxAt {} false []).now + 0 ∧
    ((spent 1)).budgetDue 0 = true ∧ (spent 1).fld F.CTX_BUDGET_POL 0 = 1 ∧ ((spent 2)).budgetDue 0 = true ∧
    (∀ l ∈ [[], [({ kind := 7 } : Trig)]], let s := ctxAt { st := .blocked, wait := some (.ending 5), pend := l } false []
      (s.ctx 0).st = .blocked ∧ (s.ctx 0).wait = some (.ending 5) ∧ 5 ≤ s.now ∧ (s.ctx 0).disableReq = false ∧ s.flag F.TRC_CTL_EN = false ∧ (s.ctx 0).pend = l) ∧
    2 ≤ (spent 2).fld F.CTX_BUDGET_POL 0 ∧ (spent 2).canonical ∧ (spent 2).flag F.ENG_FAULT_VALID = false := by decide +kernel

/-- Context 1 of the same class became runnable at the instant the quantum of context 0 ends. -/
def equals : State := quantum.updC 1 fun x => { x with since := quantum.now }

theorem witness_Scheduling_turn : equals.quantumDue 0 = true ∧ (equals.ctx 0).lane = some 0 ∧ (equals.lane 0).ctx = some 0 ∧ 2 ≤ equals.ctxClass 1 ∧
    equals.ctxClass 0 = equals.ctxClass 1 ∧ (equals.ctx 1).since ≤ equals.now ∧ (equals.ctx 1).spent = false := by decide +kernel

def access (r : Option Nat) (done : Bool) : State := ctxAt { st := .blocked, wait := some (.access 0x10000 r 9 0 done) } false [(F.ENG_CTL_SIG_TMO, 0, 1)]
def fullBuf : State := let s := access none false; { s with eng := { s.eng with wbuf := List.replicate 16 (0x10001, 0#32) } }

theorem witness_SignalAccesses : ((access (some 3) true).ctx 0).st = .blocked ∧ ((access (some 3) true).ctx 0).disableReq = false ∧
    ((access (some 3) true).ctx 0).haltReq = false ∧ ((access (some 3) true).ctx 0).wait = some (.access 0x10000 (some 3) 9 0 true) ∧
    ((access none false).ctx 0).wait = some (.access 0x10000 none 9 0 false) ∧ (access none false).eng.wbuf.length < 16 ∧
    ((access (some 3) false).ctx 0).wait = some (.access 0x10000 (some 3) 9 0 false) ∧ (access (some 3) false).sigTmo ≠ 0 ∧
    0 + (access (some 3) false).sigTmo ≤ (access (some 3) false).now + 0 ∧ (fullBuf.ctx 0).wait = some (.access 0x10000 none 9 0 false) ∧
    16 ≤ fullBuf.eng.wbuf.length ∧ (fullBuf.ctx 0).st = .blocked := by decide +kernel

def timed (st : CtxSt) : State :=
  let s := ctxAt { st := st } false [(F.ETMR_PERIOD, 2, 7)]
  { s with eng := { s.eng with tmr := s.eng.tmr.set 2 (some 100) } }

theorem witness_TimersAndDoorbells : ∀ st ∈ [CtxSt.waiting, .runnable, .disabled], (timed st).hasCtx 0 = true ∧
    (timed st).eng.tmr[2] = some 100 ∧ 100 ≤ (timed st).now + 0 ∧ (timed st).fld F.ETMR_CTX 2 = 0 ∧ ((timed st).ctx 0).st = st ∧
    (timed st).TakesWrites 0 ∧ bitsOf 0#32 5 0 = 0 := by
  intro st h
  simp only [List.mem_cons, List.not_mem_nil, or_false] at h
  rcases h with rfl | rfl | rfl <;> (and_intros <;> first | decide +kernel | exact takes_of (by decide +kernel))

def onLane : State := ctxAt { st := .running, lane := some 0, pc := 6 } true []

theorem witness_EngineFaults : onLane.canonical ∧ onLane.flag F.ENG_FAULT_VALID = false ∧ (onLane).inService 0 = true ∧
    (onLane).laneStuck 0 = true ∧ (onLane.lane 0).ctx = some 0 ∧ (onLane.ctx 0).lane = some 0 ∧ (onLane.ctx 0).st = .running ∧
    (onLane).canIssue 0 = true ∧ (onLane).fetch (onLane.ctx 0).bank (onLane.ctx 0).pc = .word 0#32 ∧ illegal 0#32 = true ∧
    (onLane).bkMatch 0 = false ∧ onLane.misplaced 0 = false := by decide +kernel

def ctxWord (k : Nat) : Word := setBitsOf 0#32 F.CTX_CMD_CMD.hi F.CTX_CMD_CMD.lo k
def debug (st : CtxSt) : State := ctxAt { st := st, lane := if st = .running then some 0 else none } (decide (st = .running)) [(F.DBG_CTL_EN, 0, 1)]

theorem witness_ContextCommands : (∀ st ∈ [CtxSt.disabled, .waiting, .running, .blocked, .halted, .faulted], (debug st).hasCtx 0 = true ∧
      (debug st).fld F.ENG_SEL_CTX = 0 ∧ ((debug st).ctx 0).st = st ∧ (debug st).dbgEn = true ∧
      ((debug st)).mayHalt 0 = true ∧ (debug st).canonical ∧ (debug st).flag F.TRC_CTL_EN = false) ∧
    (Instr.ctxEnable 0 (ctxWord 1)).wf = true ∧ (Instr.ctxDisable 0 (ctxWord 2)).wf = true ∧ (Instr.ctxHalt 0 (ctxWord 3)).wf = true ∧
    (Instr.ctxResume 0 (ctxWord 4)).wf = true ∧ (Instr.ctxStep 0 (ctxWord 5)).wf = true ∧ (Instr.ctxRestart 0 (ctxWord 6)).wf = true ∧
    (Instr.traceEnable 0 (setBitsOf 0#32 F.TRC_CTL_EN.hi F.TRC_CTL_EN.lo 1)).wf = true := by decide +kernel

theorem witness_ContextCommands_takes : (debug .running).TakesWrites 0 ∧ (debug .halted).TakesWrites 0 :=
  ⟨takes_of (by decide +kernel), takes_of (by decide +kernel)⟩

/-! ### Witnesses: cells and data ports (ch. 6) -/

/-- CELL in mode `m` on cell 5 with vd = v3, va = v1; e = 1.0, or a NaN. -/
def cellWord_ (m : Nat) : Word := BitVec.ofNat 32 (0x58 * 2 ^ 24 + 0x310000 + m * 4096 + 5)
def cellIssuing (m : Nat) (e : Word) (ws : List (Nat × Word)) : State :=
  let s := issuing (cellWord_ m) 0#32 #v[0, e, 0, 0, 0, 0, 0, 0, 0, 0, 0, 0, 0, 0, 0, 0]
  { s with eng := { s.eng with cells := ws.foldl (fun c e => spSet 0#32 c (16 * 5 + e.1) e.2) [] } }

/-- A cell of form `f`, CLOSED where `cl`, its limits −2.0 and 2.0. -/
def formWords (f : Nat) (cl : Bool) : List (Nat × Word) :=
  [(0, BitVec.ofNat 32 (f + if cl then 2 ^ 31 else 0)), (1, 0x3F000000#32), (8, 0xC0000000#32), (9, 0x40000000#32)]

theorem cell_issues (m : Nat) (hm : m < 8) : ((cellIssuing m 0x3F800000 [])).Issues 0 (cellWord_ m) 0#32 := by
  interval_cases m <;> exact issues_of (by decide +kernel)

theorem witness_CellInstructions : (cellIssuing 0 0x3F800000 (formWords 2 true)).canonical ∧ iOp (cellWord_ 0) = 0x58 ∧
    (∀ m ∈ [0, 1, 2, 3, 4, 5, 6, 7], cellMode (cellWord_ m) = m) ∧ fFinite 0x3F800000#32 = true ∧ fFinite 0x7FC00000#32 = false ∧
    (cellIssuing 0 0x3F800000 (formWords 2 false)).cellClosed 5 = false ∧
    (∀ f ∈ [0, 2], (cellIssuing 0 0x3F800000 (formWords f true)).cellClosed 5 = true ∧ (cellIssuing 0 0x3F800000 (formWords f true)).cellMan 5 = false ∧
      (cellIssuing 0 0x3F800000 (formWords f true)).tinjOn 5 = false ∧ 5 ∉ (cellIssuing 0 0x3F800000 (formWords f true)).eng.preset ∧
      ((cellAuto ((cellIssuing 0 0x3F800000 (formWords f true)).cw 5 0) ((cellIssuing 0 0x3F800000 (formWords f true)).cw 5) 0x3F800000 none).mid.all fFinite) = true ∧
      (cellIssuing 0 0x3F800000 (formWords f true)).cellForm 5 = f) ∧
    ((cellIssuing 0 0x3F800000 (formWords 0 true)).cw 5 0).toNat / 2 ^ 18 % 4 = 0 ∧ (cellWord_ 0).toNat % 4096 = 5 := by decide +kernel

theorem witness_CellInstructions_issues : ((cellIssuing 0 0x3F800000 (formWords 2 true))).Issues 0 (cellWord_ 0) 0#32 ∧
    ((cellIssuing 0 0x3F800000 (formWords 0 true))).Issues 0 (cellWord_ 0) 0#32 ∧
    ((cellIssuing 0 0x7FC00000 (formWords 2 true))).Issues 0 (cellWord_ 0) 0#32 :=
  ⟨issues_of (by decide +kernel), issues_of (by decide +kernel), issues_of (by decide +kernel)⟩

theorem witness_CellGuard : ((cellIssuing 6 0x3F800000 (formWords 0 false))).Issues 0 (cellWord_ 6) 0#32 ∧
    (cellIssuing 6 0x3F800000 (formWords 0 false)).canonical ∧ (cellIssuing 6 0x3F800000 (formWords 0 false)).cellCloses 5 = true ∧
    (cellIssuing 6 0x3F800000 [(8, 0x3F800000)]).cellCloses 5 = false ∧ (cellIssuing 6 0x3F800000 [(8, 0x3F800000)]).flag F.ENG_FAULT_VALID = false :=
  ⟨issues_of (by decide +kernel), by decide +kernel, by decide +kernel, by decide +kernel, by decide +kernel⟩

/-- The host has written U1's upper limit of the cell in the cycle that opens it. -/
def opening : State := { cellIssuing 5 0x3F800000 (formWords 0 true) with cyc := { cells := [(8, 5, .data 8 0x41000000#32)] } }

theorem witness_CellGuard_host : opening.Issues 0 (cellWord_ 5) 0#32 ∧ opening.canonical ∧ cellMode (cellWord_ 5) = 5 ∧ iOp (cellWord_ 5) = 0x58 ∧
    opening.cyc.cells = [(8, (cellWord_ 5).toNat % 4096, .data 8 0x41000000#32)] :=
  ⟨issues_of (by decide +kernel), by decide +kernel, by decide, by decide, by decide +kernel⟩

def cellCmd (k : Nat) : Word := setBitsOf 0#32 F.CELL_CMD_CMD.hi F.CELL_CMD_CMD.lo k
def cellRig (ws : List (Nat × Word)) (k a : Nat) : State :=
  let s := setF boss 0 [(F.CELL_SEL_CELL, 0, 5), (F.CELL_SEL_WORD, 0, k), (F.CELL_SEL_AINC, 0, a)]
  { s with eng := { s.eng with cells := ws.foldl (fun c e => spSet 0#32 c (16 * 5 + e.1) e.2) [] } }

theorem witness_CellCommands : (∀ k ∈ [0, 5, 8, 10, 15], (cellRig (formWords 0 true) k 1).canonical ∧ (cellRig (formWords 0 true) k 1).fld F.CELL_SEL_CELL = 5 ∧
      (cellRig (formWords 0 true) k 1).fld F.CELL_SEL_WORD = k ∧ (cellRig (formWords 0 true) k 1).cellRole 5 ≤ 2) ∧
    (Instr.cellOpen 0 (.host (cellCmd 1)) false).wf = true ∧ (Instr.cellClose 0 (.host (cellCmd 2)) false).wf = true ∧
    (Instr.cellAuto 0 (.host (cellCmd 3)) false).wf = true ∧ (Instr.cellManual 0 (cellCmd 4)).wf = true ∧ (Instr.cellClear 0 (cellCmd 5)).wf = true ∧
    (cellRig (formWords 0 true) 5 1).cellCloses 5 = true ∧ (cellRig [(8, 0x3F800000)] 5 1).cellCloses 5 = false ∧
    (cellRig (formWords 0 false) 5 1).cellClosed 5 = false ∧ (cellRig (formWords 0 true) 5 0).flag F.CELL_SEL_AINC = false ∧
    (cellRig (formWords 0 true) 5 1).flag F.CELL_SEL_AINC = true ∧ (cellRig [(0, 0xC0000000)] 10 0).cellMan 5 = true := by decide +kernel

theorem witness_CellCommands_takes : (cellRig (formWords 0 true) 5 1).TakesWrites 2 := takes_of (by decide +kernel)

def portAt (id : Nat) : State := setF boss 0 [(F.SIG_ADDR_ID, 0, id), (F.SIG_ADDR_AINC, 0, 1)]
def busyBank : State := ctxAt { st := .waiting } false []

theorem witness_DataPorts : boss.canonical ∧ boss.bankUsed (boss.fld F.PRG_ADDR_BANK) = false ∧ busyBank.canonical ∧
    busyBank.bankUsed (busyBank.fld F.PRG_ADDR_BANK) = true ∧ (portAt 0x9000).sigKind 0x9000 = .op ∧ (portAt 0x400).sigKind 0x400 = .hw ∧
    (portAt 0x7FFFF).sigKind 0x7FFFF = .none_ ∧ (portAt 0x9000).fld F.SIG_ADDR_ID = 0x9000 ∧ (portAt 0x9000).canonical ∧
    (mirroring 0x53).sigKind 0x90005 = .mirror ∧ ({ portAt 0x8FFF with variant := .sv6420 } : State).sigKind 0x8FFF = .absent := by decide +kernel

theorem witness_DataPorts_takes : boss.TakesWrites 2 ∧ busyBank.TakesWrites 2 ∧ (portAt 0x9000).TakesWrites 0 :=
  ⟨boss_takes 2 (by decide), takes_of (by decide +kernel), takes_of (by decide +kernel)⟩

/-! ### Witnesses: shroud, furl, bus groups, the collector (ch. 8, 9) -/

def shrAt (h : Shroud) (l : List (Fld × Nat × Nat)) : State := setF (withM { turningMast with shr := h }) 100000 l
def guarded (cbc : Nat) : State := shrAt {} [(F.SHR_CTL_TRIP_EN, 0, 1), (F.SHR_CTL_OCP_EN, 0, 1), (F.SHR_CTL_OCN_EN, 0, 1), (F.SHR_CTL_BLK_EN, 0, 0),
  (F.SHR_CTL_OCP_CBC, 0, cbc), (F.SHR_CTL_OCN_CBC, 0, cbc)]

theorem witness_ShroudRows : (guarded 0).hasMast 0 = true ∧ (guarded 0).flag F.SHR_CTL_TRIP_EN 0 = true ∧ ((guarded 0)).tripBlank 0 = false ∧
    (guarded 0).flag F.SHR_CTL_OCP_EN 0 = true ∧ (guarded 0).flag F.SHR_CTL_OCN_EN 0 = true ∧ ((guarded 0)).ocBlank 0 = false ∧
    (guarded 0).flag F.SHR_CTL_OCP_CBC 0 = false ∧ (guarded 0).flag F.SHR_CTL_OCN_CBC 0 = false ∧ (guarded 1).flag F.SHR_CTL_OCP_CBC 0 = true ∧
    (guarded 1).flag F.SHR_CTL_OCN_CBC 0 = true ∧ ((guarded 1)).ocBlank 0 = false ∧ (guarded 1).clk.lost = false ∧
    ((guarded 1).mast 0).shr.cutAt = none ∧ ((guarded 1).mast 0).shr.ocOlds = [] ∧
    ocOver 0 (1562500 + 1 : Nat) ((guarded 1).rd (keyI R.SHR_OC 0)) = true ∧ ocOver 1 (-(1562500 + 1 : Nat)) ((guarded 1).rd (keyI R.SHR_OC 0)) = true ∧
    ocOver 0 (1562500 : Nat) ((guarded 1).rd (keyI R.SHR_OC 0)) = false ∧
    ((shrAt { cutAt := some 5, cutBy := 3, cbcRun := 4 } [(F.SHR_CBC_CBC_MAX, 0, 4)])).cbcDue 0 = true ∧
    ((shrAt { testAt := some 0 } []).mast 0).shr.testAt = some 0 ∧ 0 + 3 * tUs ≤ (shrAt { testAt := some 0 } []).now + 0 := by decide +kernel

def furlW (f : Fld) : Word := setBitsOf 0#32 f.hi f.lo 1
def furledS (low : Bool) : State := { boss with furl := { furled := true, pinLow := low, causes := 2 } }

theorem witness_FurlRows : (Instr.furlSet 0 (furlW F.FURL_CTL_SET)).wf = true ∧ (Instr.furlClear 0 (furlW F.FURL_CTL_CLR)).wf = true ∧
    (furlW F.FURL_CTL_CLR).getLsbD 30 = false ∧ (∀ low, (furledS low).furl.furled = true ∧ (furledS low).canonical ∧
      (furledS low).furl.pinLow = low ∧ (furledS low).hk.shut = false) := by decide +kernel

theorem witness_FurlRows_takes : (furledS false).TakesWrites 0 ∧ (furledS true).TakesWrites 0 ∧ boss.TakesWrites 0 :=
  ⟨takes_of (by decide +kernel), takes_of (by decide +kernel), boss_takes 0 (by decide)⟩

def group (v : Word) : State := let s := setF boss (100 * tSec) []; { s with bgs := s.bgs.set 0 { st := .refuse, vbg := some v } }
/-- No voltage of the group is known. -/
def unknown : State := { boss with bgs := boss.bgs.set 0 { st := .safe } }

theorem witness_BusGroups : ((group 0#32)).recoveryDue 0 = true ∧ (Instr.busGroupAck 0 (furlW F.BG_SEL_ACK)).wf = true ∧
    bitsOf (furlW F.BG_SEL_ACK) 2 0 = 0 ∧ ((group 0#32).bg 0).st = .refuse ∧ ((group 0#32).bg 0).vbg = some 0#32 ∧ (group 0#32).canonical ∧
    fLt 0#32 ((group 0#32).ov1 0) = true ∧ ((group 0x7F000000).bg 0).vbg = some 0x7F000000#32 ∧ fLt 0x7F000000#32 ((group 0x7F000000).ov1 0) = false ∧
    (unknown.bg 0).st = .safe ∧ (unknown.bg 0).vbg = none ∧ unknown.canonical := by
  decide +kernel

theorem witness_BusGroups_takes : (group 0#32).TakesWrites 1 ∧ (group 0x7F000000).TakesWrites 1 := ⟨takes_of (by decide +kernel), takes_of (by decide +kernel)⟩

/-- One event waits: `src` of the device, or a mast's source, with the reaction its FC_SRC_CFG gives at first. -/
def event1 (src : Nat) (m : Option Nat) (l : List (Fld × Nat × Nat)) : State :=
  let s := setF boss (100 * tSec) l
  { s with fc := { events := [{ src := src, detail := 9, mast := m }] } }

/-- What the collector makes of its first event. -/
def verdict (s : State) : Option Verdict := (State.classify (s.updFc fun f => { f with events := [] }) (s.fc.events.headD { src := 0, detail := 0 })).1

theorem witness_CollectorCycle : ∀ e ∈ [(DS.PARITY, none), (DS.SUPPLY, none), (0x40 + MS.OC_POS, some 0)],
    let s := event1 e.1 e.2 []
    s.fc.events = [{ src := e.1, detail := 9, mast := e.2 }] ∧ s.src F.FC_SRC_CFG_EN e.1 ≠ 0 ∧
      (verdict s).any (fun v => !(State.classify (s.updFc fun f => { f with events := [] }) { src := e.1, detail := 9, mast := e.2 }).2.suppressed v) = true := by
  decide +kernel

def tame : State := { boss with fc := { fullDue := true } }

theorem witness_EventsRecorded : tame.fc.fullDue = true ∧ srcPresent tame.variant (bitsOf 0x24#32 7 0) = true ∧ srcPresent tame.variant (bitsOf 0x30#32 7 0) = false ∧
    tame.TakesWrites 1 ∧ tame.canonical ∧ ({ src := 3, detail := 1 } : Ev).src = ({ src := 3, detail := 2 } : Ev).src :=
  ⟨by decide +kernel, by decide +kernel, by decide +kernel, takes_of (by decide +kernel), by decide +kernel, rfl⟩

/-- A parity error's detail is never that of a test. -/
theorem witness_EventsRecorded_parity : (5#8 : BitVec 8) ≠ 0xFF#8 ∧ tame.fc.events = [] ∧
    mergeEv { src := 3, detail := 2 } (mergeEv { src := 3, detail := 1 } []) = [{ src := 3, detail := 2 }] := by decide +kernel

def pended : State := { boss with fc := { pend := [{ seq := 5, sev := 3, src := 0x24 }, { seq := 6, sev := 2, src := 0x24 }] } }

theorem witness_CollectorCommands : ({ seq := 5, sev := 3, src := 0x24 } : Rec) ∈ pended.fc.pend ∧
    (∀ q ∈ pended.fc.pend, q.seq = (5#32).toNat → q = { seq := 5, sev := 3, src := 0x24 }) ∧ (∀ r ∈ pended.fc.pend, r.seq ≠ (7#32).toNat) ∧
    (Instr.ackAll 0 (furlW F.FC_CMD_ACK_ALL)).wf = true ∧ pended.store.audQ = [] ∧ pended.fc.pend.length ≤ 32 ∧
    (Instr.logClr 0 (furlW F.FC_CMD_LOG_CLR)).wf = true ∧ (furlW F.FC_CMD_LOG_CLR).getLsbD 2 = false ∧
    (Instr.firstClr 0 (furlW F.FC_CMD_FIRST_CLR)).wf = true ∧ (furlW F.FC_CMD_FIRST_CLR).getLsbD 2 = false ∧ pended.TakesWrites 1 := by
  and_intros <;> first | decide +kernel | exact takes_of (by decide +kernel)

/-- A snapshot of FC_LOG stands while the log is emptied. -/
theorem witness_CollectorCommands_log : ({ pended with fc := { pended.fc with logSnap := some (some { seq := 5 }) } } : State).fc.logSnap.isSome = true := by decide

/-! ### Witnesses: the ring, time and the calendar (ch. 11, 12) -/

/-- A node 1 with the given ports and ring, its LK_CTL.EN set unless the list clears it. -/
def ringAt (p0 p1 : Port) (r : Ring) (l : List (Fld × Nat × Nat)) : State :=
  { setF boss tSec ([(F.LK_CFG_NODE, 0, 1), (F.LK_CTL_EN, 0, 1), (F.LK_CTL_BYPASS, 0, 0)] ++ l) with ring := { r with ports := #v[p0, p1] } }
def upPort : Port := { st := .up, sig := true, lock := true, peerLock := true }

theorem witness_RingPorts : ((ringAt { st := .quiet } {} {} []).port 0).st = .quiet ∧ ((ringAt { st := .acquire } {} {} []).port 0).st = .acquire ∧
    ((ringAt { st := .locked } {} {} []).port 0).st = .locked ∧
    (ringAt { st := .quiet } { st := .locked } {} []).insertDue = true ∧ (ringAt {} {} { inserted := true } []).ring.inserted = true ∧
    0 + 100 * tUs ≤ (ringAt {} {} { inserted := true } []).now + 0 ∧ (ringAt {} {} { inserted := true } []).ring.everUp = false ∧
    ((ringAt upPort {} { inserted := true } []).port 0).st = .up ∧ ((ringAt upPort {} { inserted := true } []).port 1).st ≠ .up ∧
    (ringAt {} {} { retryAt := some 5 } []).ring.retryAt = some 5 ∧ ((ringAt upPort upPort { inserted := true } []).port 1).st = .up ∧
    ((ringAt { upPort with wrap := true } upPort {} []).port 0).wrap = true ∧ 0 + 10 * tMs ≤ (ringAt upPort upPort {} []).now + 0 := by decide +kernel

/-- T_Q is at most 1 ms and 255 steps of 4 µs. -/
theorem witness_RingPorts_quiet : ((ringAt { st := .acquire } {} {} []).port 0).since + ringTq ≤ (ringAt { st := .acquire } {} {} []).now + 0 := by
  have h : uid0 % 256 < 256 := Nat.mod_lt _ (by decide)
  have hs : ((ringAt { st := .acquire } {} {} []).port 0).since = 0 := by decide +kernel
  have hn : (ringAt { st := .acquire } {} {} []).now = 15360000000 := by decide +kernel
  rw [hs, hn, ringTq, show tMs = 15360000 from rfl, show tUs = 15360 from rfl]
  omega

/-- A signal is there, or has gone less than T_Q ago. -/
theorem witness_RingPorts_signal : (∀ p ∈ [{ st := .acquire, sig := true }, { st := .acquire, noSig := tSec }, { st := .up, sig := true }, { st := .quiet }],
      ((ringAt p {} {} []).port 0) = p ∧ ((ringAt p {} {} []).port 0).st ≠ .disabled) ∧
    ((ringAt { st := .acquire } {} {} []).port 0).sig = false ∧ ((ringAt { st := .acquire, sig := true } {} {} []).port 0).sig = true := by decide +kernel

theorem witness_RingPorts_recent : (ringAt { st := .acquire, noSig := tSec } {} {} []).now < ((ringAt { st := .acquire, noSig := tSec } {} {} []).port 0).noSig + ringTq := by
  have hs : ((ringAt { st := .acquire, noSig := tSec } {} {} []).port 0).noSig = tSec := by decide +kernel
  have hn : (ringAt { st := .acquire, noSig := tSec } {} {} []).now = tSec := by decide +kernel
  have ht : 0 < tMs := by decide
  rw [hs, hn, ringTq]
  omega

/-- Two STOPs are being repeated: of the one a repeat is due. -/
def repeating (ins : Bool) : State := ringAt upPort upPort { inserted := ins, stopReps := [(3, 2, 5), (4, 3, 2 * tSec)] } []

theorem witness_RingStops : ((ringAt upPort upPort { inserted := true } []).port 0).st = .up ∧ (3#5).toNat ≠ (ringAt upPort upPort { inserted := true } []).node ∧
    (∀ e ∈ (ringAt upPort upPort { inserted := true } []).ring.stopRx, e.1 ≠ 3) ∧ (∀ e ∈ (ringAt upPort upPort { inserted := true } []).ring.stopFwd, e.2.1 ≠ 3) ∧
    (ringAt upPort upPort { inserted := true } [(F.LK_CTL_STOP_RX, 0, 1)]).flag F.LK_CTL_STOP_RX = true ∧
    boss.variant.ring = true ∧ (Instr.stopSend 0 (furlW F.LK_STOP_SEND)).wf = true ∧ (Instr.loopbackTest 0 (furlW F.LK_DIAG_LOOP)).wf = true ∧
    (∃ e ∈ (repeating true).ring.stopReps, e.2.2 ≤ (repeating true).now) ∧ (∃ e ∈ (repeating true).ring.stopReps, (repeating true).now < e.2.2) ∧
    (3, 2, 5) ∈ (repeating false).ring.stopReps ∧ (repeating true).ring.inserted = true ∧ (repeating false).ring.inserted = false ∧
    (∃ e ∈ (ringAt upPort upPort { inserted := true, stopRx := [(3, 2, tSec)] } []).ring.stopRx, e.1 = (3#5).toNat ∧ e.2.1 = (2#3).toNat ∧
      (ringAt upPort upPort { inserted := true, stopRx := [(3, 2, tSec)] } []).now < e.2.2 + 100 * tUs) ∧
    boss.flag F.LK_CTL_EN = false ∧ (ringAt {} {} {} []).flag F.LK_CTL_EN = true ∧ (ringAt {} {} { loopAt := some 0 } []).ring.loopAt = some 0 ∧
    0 + 100 * tUs ≤ (ringAt {} {} {} []).now + 0 := by decide +kernel

theorem witness_RingStops_takes : boss.TakesWrites 1 ∧ (ringAt {} {} {} []).TakesWrites 1 := ⟨boss_takes 1 (by decide), takes_of (by decide +kernel)⟩

/-- A node whose peers may write, the bulk buckets full, a window on node 3's signals. -/
def peering (r : Ring) : State := ringAt upPort upPort { r with inserted := true, bucket := Vector.replicate 64 1000 }
  [(F.LK_CTL_PWR, 0, 1), (F.LK_POLICE_CYC_MAX, 0, 200), (F.LK_PWIN_EN, 2, 1), (F.LK_PWIN_NODE, 2, 3), (F.LK_PWIN_BASE, 2, 1), (F.LK_PWIN_MLEN, 2, 4)]

theorem witness_RingFrames : (peering {}).canonical ∧ (frameOf [0x80009000, 5]).wf = true ∧ ((peering {}).port 0).st = .up ∧ (peering {}).ring.inserted = true ∧
    (frameOf []).src.toNat ≠ (peering {}).node ∧ (frameOf []).dst.toNat = 63 ∧
    (peering {}).ring.first.contains (3, 0, 1, 0) = false ∧ (peering {}).ring.first.contains (3, 2, 1, 0) = false ∧ (peering {}).ring.first.contains (3, 3, 1, 0) = false ∧
    (peering { first := [(3, 0, 1, 0)] }).ring.first.contains (3, 0, 1, 0) = true ∧
    (((peering {})).police 0 0 1 (frameOf [0x80009000, 5])).1 = true ∧ (((peering {})).police 0 3 2 (frameOf [0x9000, 5])).1 = true ∧
    (((peering {})).police 0 0 2 (frameOf [])).1 = true ∧ (((peering {})).police 0 0 0 (frameOf [])).1 = true ∧
    (((peering {})).police 0 2 0 (frameOf [0x1005, 7])).1 = true ∧ (((peering {})).police 0 3 0 (frameOf [8, 0x9000])).1 = true ∧
    (((peering {})).police 0 3 1 (frameOf [0x80005, 7])).1 = true ∧
    (0x80009000#32).msb = true ∧ (peering {}).peerOk 0x9000 = true ∧ (peering {}).peerOk 0x400 = false ∧
    (peering {}).pwinOn 2 = true ∧ (peering {}).pwin F.LK_PWIN_NODE 2 = 3 ∧ (peering {}).pwin F.LK_PWIN_BASE 2 * 0x1000 ≤ 0x1005 ∧
    0x1005 - (peering {}).pwin F.LK_PWIN_BASE 2 * 0x1000 < 0x8000 ∧ (peering {}).mirrored 2 (0x1005 - (peering {}).pwin F.LK_PWIN_BASE 2 * 0x1000) = true := by
  decide +kernel

def asking : State := (peering {}).updC 0 fun x => { x with st := .blocked, wait := some (.access 0x80005 (some 3) 0 0 false) }

theorem witness_RingFrames_read : (asking.ctx 0).st = .blocked ∧ (asking.ctx 0).wait = some (.access 0x80005 (some 3) 0 0 false) ∧ asking.host.fifo = [] ∧
    bitsOf 0#32 6 0 = (0 : Fin 64).val ∧ bitsOf 0#32 31 7 = (asking.ctx 0).reqNo % 2 ^ 25 ∧ bitsOf 0x80#32 6 0 = (0 : Fin 64).val ∧
    bitsOf 0x80#32 31 7 ≠ (asking.ctx 0).reqNo % 2 ^ 25 ∧ asking.canonical ∧ ((asking).police 0 3 1 (frameOf [0, 7])).1 = true ∧
    ((asking).police 0 3 1 (frameOf [0x80, 7])).1 = true := by decide +kernel

/-- A READ_REQ of a mast that a smaller device lacks. -/
def peeringSmall : State := { peering {} with variant := .sv6440 }

theorem witness_RingFrames_absent : peeringSmall.canonical ∧ peeringSmall.sigKind 0x8FFF = .absent ∧ (peeringSmall.port 0).st = .up ∧
    peeringSmall.ring.inserted = true ∧ (peeringSmall.police 0 3 0 (frameOf [8, 0x8FFF])).1 = true ∧ (frameOf []).src.toNat ≠ peeringSmall.node ∧
    peeringSmall.ring.first.contains (3, 3, 1, 0) = false := by decide +kernel

/-- The cycle number is behind the local time. -/
def cycling : State := { ringAt upPort upPort { inserted := true, cycle := 7 } [(F.LK_CFG_CYC, 0, 100)] with tb := { total := nsSec } }

theorem witness_RingCycle : cycling.canonical ∧ (cycling.port 0).st = .up ∧ cycling.ring.inserted = true ∧ (cycling).cycleDue = true ∧
    (5#32).toNat < 32 ∧ (5#32).toNat ≠ cycling.node ∧ cycling.ring.slotUsed = false ∧ boss.ring.inserted = false ∧ (5#32).toNat ≠ boss.node := by decide +kernel

theorem witness_RingCycle_takes : cycling.TakesWrites 0 ∧ boss.TakesWrites 0 := ⟨takes_of (by decide +kernel), boss_takes 0 (by decide)⟩

/-- A message waits for the cycle; a locked port; another message goes before. -/
def messaging (r : Ring) : State := { ringAt upPort { st := .locked } { r with inserted := true, cycle := 7 } [(F.LK_CFG_CYC, 0, 100)] with tb := { total := nsSec } }

theorem witness_RingCycle_message : (messaging { msg := some (5, [1, 2]) }).cycleDue = true ∧ (messaging { msg := some (5, [1, 2]) }).ring.topo = false ∧
    (messaging { msg := some (5, [1, 2]) }).ring.msg = some (5, [1, 2]) ∧ (messaging {}).canonical ∧ ((messaging {}).port 1).st = .locked ∧
    (messaging { slotUsed := true }).ring.slotUsed = true ∧ (messaging { slotUsed := true }).node = 1 ∧ (40#32).toNat ≠ 63 ∧
    (messaging { msg := some (5, [1, 2]) }).canonical := by decide +kernel

/-- A message to this node itself, its last entry names a signal a peer may write. -/
def selfMessage : State :=
  let s := peering {}
  { s with sigs := spSet 0#32 s.sigs 0x303 0x80009000#32 }

theorem witness_RingCycle_self : (selfMessage.sig 0x303).msb = true ∧ selfMessage.peerOk ((selfMessage.sig 0x303).toNat % 2 ^ 20) = true ∧ selfMessage.node = 1 ∧
    selfMessage.canonical := by decide +kernel

/-- A slave of both domains, its link delay valid. -/
def slave : State := { ringAt upPort upPort { inserted := true } [(F.TB_CTL_MROLE, 0, 1), (F.TB_CTL_ZROLE, 0, 1)] with
  srv := { st := .track, ldOk := #v[true, false], pdReq := #v[some (7, 0), none] } }
def syncOf (z : Bool) (v : BitVec 4) : TimeFrame :=
  { timeOf (frameOf []) with mizzen := z, version := v, dom := BitVec.ofNat 8 (if z then slave.fld F.PTP_CFG_DOM_Z else slave.fld F.PTP_CFG_DOM_M) }

theorem witness_TimeFrames : slave.canonical ∧ (frameOf []).wf = true ∧ (slave.port 0).st = .up ∧ slave.ring.inserted = true ∧
    (∀ typ ∈ [0, 0x10, 2, 3], ((slave).police 0 1 typ (frameOf [])).1 = true) ∧ (syncOf false 2).dom.toNat = slave.fld F.PTP_CFG_DOM_M ∧
    (syncOf true 2).dom.toNat = slave.fld F.PTP_CFG_DOM_Z ∧ slave.srv.ldOk[0] = true ∧ (frameOf []).src.toNat ≠ slave.node ∧
    slave.ring.first.contains (3, 1, 1, 0) = false ∧ slave.mrole = 1 ∧ slave.zrole = 1 ∧ slave.srv.st ≠ .free ∧ (syncOf false 1).version ≠ 2#4 ∧
    slave.srv.pdReq[0] = some (7, 0) ∧ (timeOf (frameOf [])).seqId.toNat = 7 := by decide +kernel

/-- A request that asked at port 0; this node sends a Sync on both lanes. -/
theorem witness_TimeFrames_own : (slave.port (Fin.ofNat 2 (⟨0, 7, 5, 9#64, 1#16⟩ : PdAsk).port)).st = .up ∧ slave.lanesOut.length = 2 ∧
    (slave.srv.pdReq[1] : Option (Nat × Int)) = none ∧ (syncOf false 2).twoStep = false := by decide +kernel

def servo (v : Servo) (l : List (Fld × Nat × Nat)) : State := { setF boss (100 * tSec) l with srv := v }

theorem witness_TimeBase : ((servo { st := .track } [])).mainLost = true ∧ ((servo { st := .track } [])).mzValid = false ∧
    (servo { st := .mizzen } []).srv.st = .mizzen ∧ ((servo { st := .mizzen } [])).mzValid = false ∧ (servo { st := .hold } []).srv.st = .hold ∧
    0 + 8 * (servo { st := .hold } []).tsTaps ≤ (servo { st := .hold } []).now ∧ (2#32).getLsbD 1 = true ∧ (2#32).getLsbD 0 = false ∧
    ({ boss with tb := { load := some (.host (5 * nsSec)) } } : State).tb.load = some (.host (5 * nsSec)) ∧
    ({ slave with tb := { load := some (.host (5 * nsSec)) } } : State).mrole = 1 ∧ boss.fld F.SET_NS_NS < 1000000000 ∧ 1000000000 ≤ (servo {} [(F.SET_NS_NS, 0, 1000000000)]).fld F.SET_NS_NS ∧
    (servo {} [(⟨R.TSC_CFG, 7, 5⟩, 0, 5)]).capOn 0 true = true ∧ boss.canonical ∧
    (servo {} [(⟨R.TSC_STAT, 7, 7⟩, 0, 1)]).fld ⟨R.TSC_STAT, 8 * 0 + 7, 8 * 0 + 7⟩ = 1 := by decide +kernel

/-- The main or the mizzen master has been silent; the node owns the mizzen domain and was in TRACK. -/
def silent (st : SrvSt) (mr zr : Nat) (v : Servo) : State := servo { v with st := st } [(F.TB_CTL_MROLE, 0, mr), (F.TB_CTL_ZROLE, 0, zr)]

theorem witness_TimeBase_lost : (∀ st ∈ [SrvSt.acquire, .track, .hold, .revalidate, .freerun, .mizzen], let s := silent st 1 1 {}
      s.canonical ∧ s.srv.st = st ∧ s.srv.mainGone = false ∧ s.srv.mainAt + s.syncTmo ≤ s.now ∧ s.zrole = 1 ∧ s.srv.mzGone = false ∧
        s.srv.mzAt + s.syncTmo ≤ s.now) ∧
    (silent .track 1 2 { wasTrack := true }).mzValid = true ∧ (silent .track 1 2 { wasTrack := true }).mzOwn = true ∧
    (silent .freerun 1 2 { wasTrack := true }).mrole = 1 ∧ (silent .freerun 1 2 { wasTrack := true }).zrole = 2 ∧
    (silent .freerun 1 2 { wasTrack := true }).mzValid = true ∧ (silent .freerun 1 2 { wasTrack := true }).srv.st = .freerun := by decide +kernel

/-- A SET_TIME into the middle of a ring cycle; unit 1 captures the rise of GPIO 5, its unit full, and GPIO 5 is low. -/
def loading : State := { ringAt upPort upPort { inserted := true } [(F.LK_CFG_CYC, 0, 100), (F.TB_CTL_MROLE, 0, 1)] with
  tb := { load := some (.host (5 * nsSec + 7 * 2 ^ 32)) } }
def capturing : State := servo {} [(⟨R.TSC_CFG, 15, 8⟩, 0, 0xA5), (⟨R.TSC_STAT, 15, 15⟩, 0, 1)]

theorem witness_TimeBase_pins : loading.tb.load = some (.host (5 * nsSec + 7 * 2 ^ 32)) ∧ 0 < loading.cycNs ∧
    (5 * nsSec + 7 * 2 ^ 32) % tbWrap / 2 ^ 32 % loading.cycNs ≠ 0 ∧ loading.mrole = 1 ∧ loading.canonical ∧
    capturing.capOn 1 true = true ∧ bitsOf (capturing.rd R.TSC_CFG) 12 8 = 5 ∧ capturing.gpio.inp.testBit 5 ≠ true ∧
    capturing.fld ⟨R.TSC_STAT, 15, 15⟩ = 1 ∧ capturing.canonical := by decide +kernel

theorem witness_TimeBase_takes : boss.TakesWrites 1 ∧ (servo { st := .mizzen } []).TakesWrites 1 ∧ (servo {} [(F.SET_NS_NS, 0, 1000000000)]).TakesWrites 1 :=
  ⟨boss_takes 1 (by decide), takes_of (by decide +kernel), takes_of (by decide +kernel)⟩

/-- An entry of the given action for second `sec`; a calendar at second 2 whose entry words the host has written. -/
def entryOf (ix act sec late : Nat) : CalEntry :=
  { ix := ix, w0 := BitVec.ofNat 32 (late * 2 ^ 30), w1 := BitVec.ofNat 32 sec, w2 := BitVec.ofNat 32 (act * 2 ^ 20 + if act = 3 then 5 else 1), w3 := 0#32, ord := 0 }
def calAt (l : List CalEntry) (e : CalEntry) (fs : List (Fld × Nat × Nat)) : State :=
  let s := setF boss tSec ([(⟨R.CAL_W0, 31, 0⟩, 0, e.w0.toNat), (⟨R.CAL_W1, 31, 0⟩, 0, e.w1.toNat), (⟨R.CAL_W2, 31, 0⟩, 0, e.w2.toNat)] ++ fs)
  { s with cal := { entries := l, ord := 9 }, tb := { total := 2 * nsSec } }
def calDueS (act : Nat) : State := (calAt [entryOf 0 act 2 0] (entryOf 0 act 2 0) [(F.CAL_CTL_EN, 0, 1)]).updC 5 fun x => { x with st := .waiting }

theorem witness_Calendar_dispatch : ((calDueS 3)).calDue = some (entryOf 0 3 2 0) ∧ (calDueS 3).cyc.cal = false ∧ (entryOf 0 3 2 0).ival = 0 ∧ (entryOf 0 3 2 0).action = 3 ∧
    (calDueS 3).hasCtx ((entryOf 0 3 2 0).arg % 64) = true ∧ ((calDueS 3).ctx (Fin.ofNat 64 (entryOf 0 3 2 0).arg)).st = .waiting ∧
    -((calDueS 3).calD (entryOf 0 3 2 0)) ≤ (calDueS 3).calGuard ∧ (calDueS 3).canonical ∧ ({ calDueS 3 with cyc := { cal := true } } : State).cyc.cal = true ∧
    ((calDueS 5)).calDue = some (entryOf 0 5 2 0) ∧ (entryOf 0 5 2 0).action = 5 := by decide +kernel

/-- A calendar with every index taken. -/
def fullCal : List CalEntry := (List.range calSize).map fun i => entryOf i 3 9 0

/-- A host command waits for the end of its cycle. -/
def busyCal : State := { boss with cal := { jobs := [{ rank := 4, dest := none, cmd := 3, w0 := 0#32 }] } }

theorem witness_Calendar_insert : (∀ a ∈ [(3, 9), (7, 9), (1, 9)], (calAt [] (entryOf 0 a.1 a.2 0) []).canonical) ∧ (entryOf 0 7 9 0).bad = true ∧
    (entryOf 0 3 9 0).bad = false ∧ ((calAt [] (entryOf 0 3 9 0) [])).calAbsent (entryOf 0 3 9 0) = false ∧ freeIx 0 (calAt [] (entryOf 0 3 9 0) []).cal.entries < calSize ∧
    (calAt [] (entryOf 0 3 9 0) []).calBusy = false ∧ (busyCal).calBusy = true ∧ busyCal.canonical ∧
    ((calAt [] (entryOf 0 3 9 0) [])).calGuard ≤ ((calAt [] (entryOf 0 3 9 0) [])).calD (entryOf 0 3 9 0) ∧
    (entryOf 0 3 0 2).bad = false ∧ (entryOf 0 3 0 2).late = 2 ∧
    ((calAt [] (entryOf 0 3 0 2) [])).calD (entryOf 0 3 0 2) < ((calAt [] (entryOf 0 3 0 2) [])).calGuard ∧
    (entryOf 0 3 9 0).bad = false ∧ ({ calAt [] (entryOf 0 3 9 0) [] with variant := .sv6420 } : State).calAbsent { entryOf 0 3 9 0 with w2 := 0x30003F#32 } = true ∧
    bitsOf 0x40000000#32 31 30 = 1 ∧ bitsOf 0x80000005#32 31 30 = 2 ∧ bitsOf 0xC0000005#32 31 30 = 3 := by decide +kernel

theorem witness_Calendar_full : calSize ≤ freeIx 0 fullCal := by decide +kernel

/-- A command read as in progress in its cycle, which is carried out. -/
def busyWas : State := { boss with was := { boss.was with cal := busyCal.cal } }

theorem witness_Calendar_busy : busyWas.calBusy = false ∧ busyWas.before.calBusy = true ∧ busyWas.canonical ∧ boss.before.calBusy = false := by decide +kernel

theorem witness_Calendar_takes : (calAt [] (entryOf 0 3 9 0) []).TakesWrites 1 ∧ (calDueS 3).TakesWrites 1 := ⟨takes_of (by decide +kernel), takes_of (by decide +kernel)⟩

/-- CALI and CALD with vd = v3, va = v1. -/
def calIssuing (o : Nat) (l : List CalEntry) (v : Vector Word 16) : State := { issuing (opWord o) 0#32 v with cal := { entries := l }, tb := { total := 2 * nsSec } }

theorem witness_Calendar_ins : ((calIssuing 0x70 [] #v[0, 0, 9, 0x300005, 0, 0, 0, 0, 0, 0, 0, 0, 0, 0, 0, 0])).Issues 0 (opWord 0x70) 0#32 ∧
    ((calIssuing 0x71 [entryOf 0 3 9 0] #v[0, 0, 0, 0, 0, 0, 0, 0, 0, 0, 0, 0, 0, 0, 0, 0])).Issues 0 (opWord 0x71) 0#32 ∧ iOp (opWord 0x70) = 0x70 ∧
    iOp (opWord 0x71) = 0x71 :=
  ⟨issues_of (by decide +kernel), issues_of (by decide +kernel), by decide, by decide⟩

theorem witness_Calendar_removeRead : calSize ≤ bitsOf 0x80003FFF#32 13 0 ∧ bitsOf 0x80000005#32 13 0 < calSize ∧
    (∀ e ∈ (calDueS 3).cal.entries, e.ix ≠ 5) ∧ (∃ e ∈ (calDueS 3).cal.entries, e.ix = bitsOf 0x80000000#32 13 0) ∧
    findEntry (bitsOf 0xC0000000#32 13 0) (calDueS 3).cal.entries = some (entryOf 0 3 2 0) ∧ findEntry (bitsOf 0xC0000005#32 13 0) (calDueS 3).cal.entries = none ∧
    (0x80000000#32).getLsbD 31 = true ∧ (calDueS 3).flag F.CAL_CTL_EN = true ∧ (calAt [entryOf 0 3 0 1] (entryOf 0 3 0 1) [(F.CAL_CTL_EN, 0, 0)]).flag F.CAL_CTL_EN = false ∧
    [entryOf 0 3 0 1].Pairwise (fun a b => a.ix < b.ix) ∧ ((calAt [entryOf 0 3 0 1] (entryOf 0 3 0 1) [(F.CAL_CTL_EN, 0, 0)])).calD (entryOf 0 3 0 1) < 0 ∧
    (entryOf 0 3 0 1).late = 1 ∧ (entryOf 0 3 0 1).ival = 0 ∧ (entryOf 0 3 0 1).due = false := by decide +kernel

/-! ### Witnesses: the host port and the memory port (ch. 13) -/

theorem boss_idle : boss.HostIdle := ⟨rfl, rfl, rfl, rfl, rfl⟩

theorem witness_HostReads : boss.canonical ∧ boss.HostIdle ∧ boss.host.heldRegs = [] ∧ boss.host.rc = none ∧
    (BitVec.ofNat 13 R.CAL_W0).toNat ≠ R.SIG_DATA ∧ (BitVec.ofNat 13 R.CAL_W0).toNat ≠ R.MEM_DATA ∧
    (boss).snapRegs 0x10 = some [R.TB_STAT, R.TB_NS, R.TB_SEC_LO, R.TB_SEC_HI, R.TB_RATE] ∧ (boss).snapRegs 0x16 = none ∧
    (boss).sigKind 0x9000 = .op ∧ ((portAt 0x9000)).sigKind ((portAt 0x9000).fld F.SIG_ADDR_ID) = .op :=
  ⟨by decide, boss_idle, by decide, by decide, by decide +kernel, by decide +kernel, by decide +kernel, by decide +kernel, by decide +kernel, by decide +kernel⟩

def rowOf (a : Nat) : RegRow := (regRow a).getD ⟨0, false, 0, []⟩

/-- LOOP_OVR of mast 0 counts and is cleared by its read. -/
theorem witness_HostReads_regs : (boss).place R.LOOP_OVR = .reg R.LOOP_OVR 0 (rowOf R.LOOP_OVR) ∧ rcMask (rowOf R.LOOP_OVR) ≠ 0 ∧
    R.LOOP_OVR ≠ R.FC_SRC_STAT := by decide +kernel

/-- TB_NS lies in the snapshot hold. -/
def holding : State := { boss with host := { held := some 16, heldRegs := [(R.TB_NS, 5#32, false)] } }

theorem witness_HostReads_held : holding.canonical ∧ holding.host.rc = none ∧ (∀ e ∈ holding.host.heldRegs, e.2.2 = false) ∧
    holding.host.heldRegs.find? (fun e => e.1 == (BitVec.ofNat 13 R.TB_NS).toNat) = some ((BitVec.ofNat 13 R.TB_NS).toNat, 5#32, false) := by decide +kernel

theorem witness_HostReads_holdIdle : holding.HostIdle := ⟨rfl, rfl, rfl, rfl, rfl⟩

def received : State := { boss with mem := { rx := [7, 8] } }

theorem witness_HostReads_mem : received.mem.rx = 7#32 :: [8#32] ∧ boss.mem.rx = [] ∧ received.canonical ∧ received.host.rc = none := by decide

/-- A STATUS follows another; an RC register lies in the snapshot hold, or is live; HOST_CNT counts, DIE_MAX does not. -/
theorem witness_HostReads_status : ({ boss with host := { status := true, out := [5] } } : State).host.status = true ∧ boss.host.status = false ∧
    ({ boss with host := { status := true, out := [5] } } : State).HostIdle ∧ boss.hasRc R.LOOP_OVR = true ∧ boss.hasRc R.CAL_W0 = false ∧
    boss.cyc.host = false ∧ R.LOOP_OVR < addrPast ∧ boss.host.heldRegs = [] :=
  ⟨by decide, by decide, ⟨rfl, rfl, rfl, rfl, rfl⟩, by decide +kernel, by decide +kernel, by decide, by decide, by decide⟩

theorem witness_HostCommands : boss.TakesWrites 1 ∧ rig.HostIdle ∧ rig.role.role = 0 ∧ 5#32 ≠ rig.rd R.SET_SEC_LO ∧ boss.sigKind (0x9000#20).toNat = .op ∧
    (0x9000#20).toNat ∉ [0x308, 0x501, 0x502] ∧ traceSig (0x9000#20).toNat = false ∧ boss.host.rc = none ∧ boss.clk.locked = true ∧
    (Instr.hostStop 0 0xD555).wf = true ∧ (Instr.hostStop 0 0xD554).wf = true ∧ (Instr.reservedHeader 0 0xE000).wf = true ∧ boss.host.drop = false :=
  ⟨boss_takes 1 (by decide), rig_idle, by decide, by decide +kernel, by decide +kernel, by decide, by decide, by decide, by decide, by decide, by decide,
    by decide, by decide⟩

def lateS : State := { boss with host := { late := some { sig := false, addr := 5, since := 0, got := some 9 } } }
def cutS : State := { boss with host := { writing := true, cur := some (.swrite 0x9000) } }

/-- A signal of a mast the variant lacks (R1, R5). -/
theorem witness_HostCommands_absent : small.sigKind (0x8FFF#20).toNat = .absent ∧ small.TakesWrites 0 ∧ small.canonical :=
  ⟨by decide +kernel, takes_of (by decide), by decide⟩

theorem witness_HostCommands_late : lateS.host.late = some { sig := false, addr := 5, since := 0, got := some 9 } ∧ lateS.host.fifo = [] ∧
    (3 : Fin 32) ≠ 0 ∧ cutS.host.writing = true ∧ cutS.host.cur = some (.swrite 0x9000) ∧ cutS.cyc.host = false ∧ boss.host.writing = false ∧ cutS.HostIdle ∧ lateS.canonical :=
  ⟨by decide, by decide, by decide, by decide, by decide, by decide, by decide, ⟨rfl, rfl, rfl, rfl, rfl⟩, by decide⟩

/-- TRST_N holds the tap; a read was cut that had taken an RC field. -/
def tapHeld : State := { boss with tap := { trstLow := true } }
def cutRead : State := { boss with host := { rc := some (false, R.LOOP_OVR, 3#32), out := [3] } }

theorem witness_HostCommands_jtag : tapHeld.tap.trstLow = true ∧ boss.tap.trstLow = false ∧ boss = boss.hostTurn ∧ rig = rig.hostTurn ∧ boss.host.hold = none ∧
    boss.store.audQ.length < 32 ∧ rig.role.role = 0 ∧ 1 ≤ boss.role.role ∧ cutRead.host.rc = some (false, R.LOOP_OVR, 3#32) ∧ cutRead.host.ahead = none ∧
    cutRead.host.writing = false ∧ cutRead.HostIdle ∧ cutRead.host.drop = false :=
  ⟨by decide, by decide, rfl, rfl, by decide, by decide, by decide, by decide, by decide, by decide, by decide, ⟨rfl, rfl, rfl, rfl, rfl⟩, by decide⟩

def memAt (p : MemPort) (wb : List (Nat × Word)) : State :=
  let s := setF boss tSec [(F.MEM_CFG_EN, 0, 1), (F.MEM_XIP_EN, 0, 1), (F.MEM_PSRAM_EN, 0, 1)]
  { s with mem := p, eng := { s.eng with wbuf := wb } }
def reader (b : Bool) : State :=
  (memAt { busy := if b then some (.sread 0 0x10000, 0) else none, reads := if b then [] else [(0, 0x10000)] } []).updC 0 fun x =>
    { x with st := .blocked, wait := some (.access 0x10000 (some 3) 0 0 false) }
def fetcher : State := (memAt { busy := some (.fetch 2, 0) } []).updC 0 fun x => { x with st := .blocked, wait := some (.fetch 2) }
def seqS (kind : Nat) (tx : List Word) : State := memAt { busy := some (.seq, 0), seqOn := some ([{ kind := kind, left := 8 }], 0, 0), tx := tx } []

theorem witness_MemoryTransactions : (∀ s ∈ [reader true, reader false, fetcher], s.canonical ∧ s.host.fifo = []) ∧ (reader false).mem.busy = none ∧
    ((reader false)).memNext = some (.sread 0 0x10000) ∧ (reader false).flag F.MEM_CFG_EN = true ∧
    ((memAt { fetches := [2] } [])).memNext = some (.fetch 2) ∧ (memAt { fetches := [2] } []).flag F.MEM_XIP_EN = true ∧
    (reader true).mem.busy = some (.sread 0 0x10000, 0) ∧ ((reader true).ctx 0).wait = some (.access 0x10000 (some 3) 0 0 false) ∧
    ((reader true)).memTmoDue = true ∧ fetcher.mem.busy = some (.fetch 2, 0) ∧ fetcher.hasCtx 0 = true ∧ (fetcher.ctx 0).wait = some (.fetch 2) ∧
    (fetcher.ctx 0).disableReq = false ∧ (fetcher.ctx 0).haltReq = false ∧
    (memAt { busy := some (.swrite, 0), unmap := true } [(0x10000, 1)]).mem.busy = some (.swrite, 0) ∧
    (memAt { busy := some (.swrite, 0), unmap := true } [(0x10000, 1)]).eng.wbuf.length ≤ 1 ∧ (seqS 1 []).mem.busy = some (.seq, 0) ∧
    (seqS 1 []).mem.seqOn = some ([{ kind := 1, left := 8 }], 0, 0) ∧ (seqS 1 []).mem.rx.length < 16 ∧ (seqS 0 [7]).mem.tx ≠ [] ∧ (seqS 0 []).mem.tx = [] ∧
    ((seqS 1 [])).memTmoDue = true := by decide +kernel

/-- A line waits to be prefetched; the selects have been high for CSH, and not yet. -/
def resting (u : Nat) : State := memAt { pre := [3, 4], endAt := some u } []

theorem witness_MemoryTransactions_rest : (resting 0).memNext = some (.prefetch 3) ∧ (∀ u, (resting 0).mem.endAt = some u → u + (resting 0).selHigh ≤ (resting 0).now) ∧
    (∀ u, (resting tSec).mem.endAt = some u → (resting tSec).now < u + (resting tSec).selHigh) ∧ (resting tSec).mem.busy = none ∧ (resting 0).canonical ∧
    (resting tSec).memNext = some (.prefetch 3) := by
  refine ⟨by decide +kernel, fun u h => ?_, fun u h => ?_, by decide +kernel⟩
  · obtain rfl : 0 = u := Option.some.inj h
    decide +kernel
  · obtain rfl : tSec = u := Option.some.inj h
    decide +kernel

/-- The PSRAM works in mode `mode`, one write waits. -/
def psram (mode : Nat) : State := setF (memAt {} [(0x10000, 1)]) tSec [(F.MEM_PSRAM_MODE, 0, mode)]

theorem witness_MemoryTransactions_frames : (psram 0).fld F.MEM_PSRAM_MODE = 0 ∧ (psram 11).fld F.MEM_PSRAM_MODE = 11 ∧ (psram 11).canonical ∧
    (psram 11).eng.wbuf = (0x10000, 1#32) :: [] ∧ (psram 0).host.fifo = [] := by decide +kernel

def lateRead : State := { memAt { busy := some (.sread 64 0x10000, 0) } [] with host := { late := some { sig := true, addr := 0x10000, id := some 0x10000, since := 0 } } }

theorem witness_MemoryTransactions_host : lateRead.mem.busy = some (.sread 64 0x10000, 0) ∧ lateRead.host.fifo = [] ∧ lateRead.canonical ∧
    lateRead.host.late = some { sig := true, addr := 0x10000, id := some 0x10000, since := 0 } := by decide +kernel

def phased (p : MemPort) : State := memAt p []
def unmapWord (s : State) : Word := setBitsOf (s.rd R.MEM_PSRAM) 31 31 0

theorem witness_MemoryCommands : (phased {}).canonical ∧ (phased {}).fc.events = [] ∧ 8 ≤ (phased { phq := List.replicate 8 0 }).mem.phq.length ∧
    ¬(8 ≤ (phased {}).mem.phq.length ∨ bitsOf 8#32 31 30 = 3 ∨ (bitsOf 8#32 31 30 < 2 ∧ phLen 8#32 % phBits 8#32 ≠ 0)) ∧
    16 ≤ (phased { tx := List.replicate 16 0 }).mem.tx.length ∧ (phased {}).mem.tx.length < 16 ∧
    (0x80000001#32).getLsbD 31 = true ∧ (0x80000001#32).getLsbD 30 = false ∧ (phased {}).mem.phq.length < bitsOf 0x80000001#32 3 0 ∧
    ¬(bitsOf 0x80000001#32 3 0 = 0 ∨ (phased { phq := [8] }).mem.phq.length < bitsOf 0x80000001#32 3 0 ∨ bitsOf 0x80000001#32 29 28 = 3 ∨
      (phased { phq := [8] }).mem.seqOn.isSome = true ∨ (phased { phq := [8] }).flag F.MEM_CFG_EN = false) ∧ (0x40000000#32).getLsbD 30 = true ∧
    (phased {}).flag F.MEM_PSRAM_EN = true ∧ (unmapWord (phased {})).toNat % 256 = 0 ∧ (phased {}).eng.wbuf = [] ∧
    (memAt {} [(0x10000, 1)]).eng.wbuf ≠ [] ∧ (unmapWord (memAt {} [(0x10000, 1)])).toNat % 256 = 0 ∧ (phased {}).TakesWrites 1 := by
  and_intros <;> first | decide +kernel | exact takes_of (by decide +kernel)

/-! ### Witnesses: roles and the store (ch. 14) -/

def keyed (r : RoleSt) (q : List (List Word)) (l : List (Fld × Nat × Nat)) : State :=
  let s := setF boss (100 * tSec) l
  { s with role := { r with kMak := some (List.replicate 8 0#32) }, store := { s.store with audQ := q } }
/-- The answer to a challenge with an all-zero key (FIPS 198-1), computed outside the model. -/
def answer : List Word := [4292352036, 320092779, 521500864, 4078982415, 3152123309, 1944541809, 3517942441, 2975331632]
def asked (w : List Word) : State := keyed { chal := some ([1, 2, 3, 4, 5, 6, 1, 0], 2, 0), wbuf := w } [] []

theorem witness_RolesAndRigging : (keyed {} [] []).canonical ∧ bitsOf 0x18000000#32 31 28 = 1 ∧ bitsOf 0x18000000#32 27 26 = 2 ∧ bitsOf 0x14000000#32 27 26 = 1 ∧
    (keyed {} [] []).role.lockUntil = none ∧ ((keyed {} [] []).roleKey 2).isSome = true ∧ (keyed {} [] []).roleKey 1 = none ∧ bitsOf 0x20000000#32 31 28 = 2 ∧
    (asked answer).role.role = 0 ∧ (asked answer).role.chal = some ([1, 2, 3, 4, 5, 6, 1, 0], 2, 0) ∧ (asked answer).roleKey 2 = some (bytesOf (List.replicate 8 0#32)) ∧
    bitsOf 0x30000000#32 31 28 = 3 ∧ bitsOf 0x40000001#32 31 28 = 4 ∧ ((asked [])).chalOld = true ∧
    ((keyed { lockUntil := some 5 } [] [])).lockOver = true ∧ ((keyed { role := 1 } [] [(F.ROLE_CFG_IDLE, 0, 1)])).idleDue = true ∧
    (keyed { role := 1 } [] [(F.ROLE_CFG_IDLE, 0, 1)]).store.audQ.length < 32 ∧
    ((keyed { role := 1 } (List.replicate 32 []) [(F.ROLE_CFG_IDLE, 0, 1)])).idleDue = true ∧
    (keyed { role := 1 } (List.replicate 32 []) [(F.ROLE_CFG_IDLE, 0, 1)]).store.audQ.length = 32 := by decide +kernel

/-- CHAL for the operator and for role 3, and in lockout; a record of a JTAG write. -/
theorem witness_RolesAndRigging_refused : bitsOf 0x10000000#32 27 26 = 0 ∧ bitsOf 0x1C000000#32 27 26 = 3 ∧ bitsOf 0x1C000000#32 31 28 = 1 ∧
    (keyed { lockUntil := some 5 } [] []).role.lockUntil.isSome = true ∧ (keyed { jtag := true } [] []).role.jtag = true ∧
    (keyed {} [] []).TakesWrites 0 ∧ (keyed { lockUntil := some 5 } [] []).TakesWrites 0 :=
  ⟨by decide, by decide, by decide, by decide +kernel, by decide, takes_of (by decide +kernel), takes_of (by decide +kernel)⟩

/-- A mast that runs, one that is OFF, one that is unrigged already. -/
theorem witness_RolesAndRigging_rig : (outputs.hasMast 0 = true ∧ (outputs.mast 0).seq.st = .run ∧ outputs.fld F.RIG_CTL_UNRIG = 0 ∧ outputs.canonical) ∧
    ((outputs.mast 1).seq.st = .off) ∧ (setF boss 0 [(F.RIG_CTL_UNRIG, 0, 1)]).fld F.RIG_CTL_UNRIG = 1 := by decide +kernel

theorem witness_RolesAndRigging_takes : (keyed {} [] []).TakesWrites 0 ∧ (asked answer).TakesWrites 0 ∧ boss.TakesWrites 1 :=
  ⟨takes_of (by decide +kernel), takes_of (by decide +kernel), boss_takes 1 (by decide)⟩

/-- FIPS 198-1: the right answer is taken, another is not. -/
theorem test_hmac : hmacSha256 (bytesOf (List.replicate 8 0#32)) (bytesOf [1, 2, 3, 4, 5, 6, 1, 0]) = bytesOf answer := by decide +kernel

/-- FIPS 180-4, example B.1: SHA-256 of "abc". -/
theorem test_sha256 : sha256 [0x61, 0x62, 0x63] = bytesBE 32 0xBA7816BF8F01CFEA414140DE5DAE2223B00361A396177A9CB410FF61F20015AD := by decide +kernel

/-- An image of one empty section, signed with the key in `signed` (computed outside the model), and a commit record. -/
def image : List (Nat × Word) :=
  [(0, 0x4D495653#32), (1, 1#32), (2, 0#32), (3, 1#32), (4, 1#32), (5, 1#32), (8, 1#32), (9, 0#32), (10, 0#32), (11, 0#32)] ++
    (List.range 8).map (fun i => (40 + i, 0#32))
def signature : List Word := [1483338476, 3271132978, 3009146124, 1593897048, 2632468009, 1544671399, 2877196020, 2234601196] ++
  [4254153060, 464347372, 1148097641, 2066639286, 767994198, 509280406, 3478576549, 4125970675]
def record : List (Nat × Word) := [(49144, 0x54494D43#32), (49145, 1#32), (49146, 1#32), (49147, 418622572#32)]
def keyX : List Word := [4290349832, 438938402, 3329214580, 2072623735, 1893981866, 3089719756, 2735413037, 1547773692]
def keyY : List Word := [2812882244, 1450771990, 44703449, 164903609, 3448180297, 2794354014, 3735105955, 1185438647]

/-- The store with the given words in image bank 1, both image keys programmed, the commands' address `a`. -/
def storeAt (ws : List (Nat × Word)) (st : Store) (a : Nat) (l : List (Fld × Nat × Nat)) : State :=
  let s := setF boss (100 * tSec) ([(F.ST_ADDR_ADDR, 0, a)] ++ l)
  { s with role := { s.role with imgX := some keyX, imgY := some keyY }
           store := { st with mem := ws.foldl (fun m e => spSet stBlank m (bankWord 1 + e.1) e.2) [] } }
def signed : List (Nat × Word) := image ++ (signature.zipIdx.map fun e => (48 + e.2, e.1)) ++ record

theorem witness_StoreCommands_image : (storeAt signed {} 0 []).canonical ∧ (storeAt signed {} 0 []).imgKey.isSome = true ∧ (storeAt signed {} 0 []).idleBank = 1 ∧
    imgFormat ((storeAt signed {} 0 []).bankAt 1) = true ∧ (storeAt signed {} 0 []).imgSigned ((storeAt signed {} 0 []).bankAt 1) = true ∧
    (storeAt signed {} 0 []).imgNew ((storeAt signed {} 0 []).bankAt 1) = true ∧ (storeAt signed {} 0 []).imgForMe ((storeAt signed {} 0 []).bankAt 1) = true ∧
    (storeAt signed {} 0 []).newestBank = some 1 ∧ (storeAt signed {} 0 []).store.cmd = none ∧ (storeAt signed {} 0 []).fc.events = [] ∧
    (storeAt signed {} 0 []).hk.shut = false ∧ (storeAt signed {} 0 []).flashLow = false ∧ bitsOf 0x30000000#32 31 28 = 3 := by decide +kernel

/-- COMMIT's refusals: no key, no image, a forged one, one too old, one for another device. -/
theorem witness_StoreCommands_commit : boss.imgKey = none ∧ imgFormat ((storeAt [] {} 0 []).bankAt 1) = false ∧
    imgFormat ((storeAt (image ++ [(48, 1#32)]) {} 0 []).bankAt 1) = true ∧ (storeAt image {} 0 []).imgSigned ((storeAt image {} 0 []).bankAt 1) = false ∧
    (storeAt signed {} 0 [(⟨R.ST_MINVER, 31, 0⟩, 0, 2)]).imgNew ((storeAt signed {} 0 []).bankAt 1) = false ∧
    (storeAt signed {} 0 [(⟨R.ST_MINVER, 31, 0⟩, 0, 2)]).imgSigned ((storeAt signed {} 0 []).bankAt 1) = true ∧
    ({ storeAt signed {} 0 [] with variant := .sv6420 } : State).imgForMe ((storeAt signed {} 0 []).bankAt 1) = false := by decide +kernel

def fullJournal : Store := { jPos := 2048, jPend := List.replicate 2046 (0, 0, 0#32) }

theorem witness_StoreCommands : (storeAt [] { cmd := some (.load 0) } 0 []).store.cmd.isSome = true ∧ (storeAt [] { cmd := some (.load 0), pulse := some .cmd } 0 []).store.pulse = some .cmd ∧
    (∀ k ∈ List.range 10, bitsOf (BitVec.ofNat 32 (k * 2 ^ 28)) 31 28 = k) ∧
    (let s := storeAt [] { rowAt := 49152 * 4 } 0 []
     bankWord s.idleBank ≤ s.store.rowAt / 32 * 8 ∧ s.store.rowAt / 32 * 8 + 8 ≤ bankWord s.idleBank + 49152 ∧ s.stErased (s.store.rowAt / 32 * 8) 8 = true) ∧
    ¬ bankWord (storeAt [] {} 0 []).idleBank ≤ (storeAt [] {} 0 []).store.rowAt / 32 * 8 ∧
    (storeAt [] {} 0 []).bankUsed 0 = false ∧ ((storeAt [] {} 0 []).updC 0 fun x => { x with st := .waiting }).bankUsed 0 = true ∧ (storeAt [] {} 0 []).newestBank = none ∧
    (storeAt [] {} 1 []).jregOk 0x1 = false ∧ (storeAt [] {} R.SET_SEC_LO []).jregOk R.SET_SEC_LO = true ∧ (storeAt [] {} 0 []).jsigOk 0x400 = false ∧
    (storeAt [] {} 0 []).jsigOk 0x9000 = true ∧ (storeAt [] {} 0 []).jFull = false ∧ (storeAt [] fullJournal 0 []).jFull = true ∧
    (storeAt [] {} 0 []).jLiveAfter ≤ 1984 := by decide +kernel

theorem witness_StoreCommands_takes : (storeAt [] {} 0 []).TakesWrites 2 ∧ (storeAt [] { cmd := some (.load 0) } 0 []).TakesWrites 2 ∧ (storeAt [] fullJournal 0 []).TakesWrites 2 :=
  ⟨takes_of (by decide +kernel), takes_of (by decide +kernel), takes_of (by decide +kernel)⟩

def pulsing (p : Pulse) (c : Option StCmd) : State := storeAt signed { pulse := some p, cmd := c, begun := true } 0 []

theorem witness_StorePulses : (∀ p ∈ [Pulse.fault 3 [1, 2, 3, 4, 5, 6, 7, 8], .audit 3 [1, 2, 3, 4], .faultErase 224, .auditErase 240], (pulsing p none).canonical ∧
      (pulsing p none).fc.events = [] ∧ (pulsing p none).store.pulse = some p) ∧
    (∀ c ∈ [StCmd.prog 49160 [1, 2], .commit 1 [1, 2, 3, 4], .erase 1 [0], .erase 1 [0, 1], .load 0, .append 0 5 9, .append 2 0 0],
      (pulsing .cmd (some c)).store.cmd = some c ∧ (pulsing .cmd (some c)).store.pulse = some .cmd ∧ (pulsing .cmd (some c)).store.abort = false ∧
      (pulsing .cmd (some c)).canonical) ∧ (pulsing .cmd (some (.load 0))).newestBank = some 1 ∧
    (storeAt [] { compact := true, jPos := 2048 } 0 []).jDue = true := by decide +kernel

/-- A compaction at each kind of step, before and after its header. -/
def compacting (l : List JStep) : State := storeAt [] { compact := true, jPos := 2048, pulse := some .step, jSteps := l } 0 []

theorem witness_StorePulses_steps : (∀ l ∈ [[JStep.put 114696 [1, 2, 3, 4], .head 0 [5]], [.head 0 [5], .wipe 224], [.wipe 224, .wipe 225], [.wipe 224]],
      (compacting l).store.jSteps = l ∧ (compacting l).store.pulse = some .step ∧ (compacting l).canonical) ∧
    (∃ n ws, JStep.head n ws ∈ (compacting [JStep.put 114696 [1, 2, 3, 4], .head 0 [5]]).store.jSteps) ∧
    (∀ n ws, JStep.head n ws ∉ (compacting [.wipe 224]).store.jSteps) ∧
    (storeAt [] { compact := true, jPos := 2048 } 0 []).stErased (jHalfWord (1 - (storeAt [] { compact := true, jPos := 2048 } 0 []).store.jHalf)) 8192 = true := by
  refine ⟨by decide +kernel, ⟨0, [5], by decide⟩, fun n ws h => ?_, by decide +kernel⟩
  simp [compacting, storeAt] at h

/-- LOAD's copy has the digest of the image's sections, or has not. -/
theorem witness_StorePulses_load : (pulsing .cmd (some (.load 0))).newestBank = some 1 ∧
    (((pulsing .cmd (some (.load 0))).loadCopy ((pulsing .cmd (some (.load 0))).bankAt 1) 0).loadOk ((pulsing .cmd (some (.load 0))).bankAt 1) 0) = true := by decide +kernel

/-! ### Witnesses: clocks, resets and boot (ch. 15) -/

def clkAt (c : Clk) : State := { State.reset with now := 100 * tSec, clk := c }

theorem witness_DeviceResets : boss.canonical ∧ boss.clk.porLow = false ∧ (clkAt { porLow := true }).clk.porLow = true ∧ boss.clk.pinLow = false ∧
    (clkAt { pinLow := true }).clk.pinLow = true ∧ (clkAt { pinLow := true }).clk.locked = false ∧ (clkAt { pinLow := true }).fc.events = [] ∧
    boss.clk.inReset = false ∧ boss.clk.locked = true ∧ bitsOf 0x5A100000#32 31 24 = 0x5A ∧ bitsOf 0x5A100000#32 23 20 = 1 ∧
    bitsOf 0x5B100000#32 31 24 ≠ 0x5A ∧ bitsOf 0x5B100000#32 23 20 = 1 ∧ (({ boss with fc := { resetDue := some 0 } } : State)).reactDue = true ∧
    boss.store.pulse = none := by decide +kernel

/-- The power-on reset is asserted, every supply above its release level for 1 ms, or for less. -/
def powering (u : Option Nat) : State := clkAt { porLow := true, aboveAt := u, at_ := { vdd := 900, vddio := 3300, vdda := 3300 } }

theorem witness_DeviceResets_power : (∀ u ∈ [none, some 0, some (100 * tSec)], (powering u).clk.porLow = true ∧ (powering u).store.pulse = none ∧
      (powering u).canonical ∧ (powering u).clk.aboveAt = u ∧ (powering u).clk.pinLow = false) ∧ 0 + tMs ≤ (powering (some 0)).now ∧
    (powering (some (100 * tSec))).now < 100 * tSec + tMs ∧ boss.clk.porLow = false := by decide +kernel

/-- No edge in 16 ROSC cycles, a count 25 % off, one within, the reference 0.1 % off for 8 µs. -/
theorem witness_DeviceResets_monitor : (monNominal 2 < 4 * ((20 * (0 : Nat) : Int) - monNominal 2).natAbs) ∧
    ¬(16 ≤ 3 ∨ monNominal 2 < 4 * ((20 * (monNominal 2 / 20 : Nat) : Int) - monNominal 2).natAbs) := by decide +kernel

def resetting (h : Shroud) (r : Bool) : State := withM { turningMast with resetAt := some 0, restart := r, shr := h }
def testing : State := { boss with eng := { boss.eng with lanes := boss.eng.lanes.set 1 { testAt := some 0 } } }

theorem witness_BlockResets : boss.canonical ∧ boss.fc.events = [] ∧ bitsOf 0x5A200001#32 23 20 = 2 ∧ boss.hasMast 0 = true ∧ boss.rstOk 0x5A200001 = true ∧
    boss.rstOk 0x5B200001 = false ∧ bitsOf 0x5A340000#32 23 20 = 3 ∧ boss.rstOk 0x5A340000 = false ∧
    ({ boss with eng := { boss.eng with lanes := boss.eng.lanes.set 1 { act := false } } } : State).rstOk 0x5A340000 = true ∧
    ((resetting {} false).mast 0).resetAt.isSome = true ∧ ((resetting {} false).mast 0).restart = false ∧ (resetting {} false).comMode 0 = 0 ∧
    (resetting {} false).ocLevel 0 0 = false ∧ (resetting {} false).ocLevel 0 1 = false ∧ (testing.lane 1).testAt.isSome = true := by decide +kernel

theorem witness_BlockResets_lane : ({ testing with now := 20 * tUs } : State).laneTestDue 1 = true ∧
    ({ testing with now := 20 * tUs } : State).canonical ∧ ((resetting {} false).mast 0).shr.tripLvl = false := by decide +kernel

def phaseAt (p : Nat) (straps : Nat) (ws : List (Nat × Word)) (bank : Nat) (second : Bool) : State :=
  { storeAt ws {} 0 [] with clk := { locked := true, inReset := false, phase := p, straps := straps, bank := bank, second := second } }

def booting (p : Nat) (fast : Bool) (round : Nat) : State :=
  { boss with clk := { locked := true, inReset := false, phase := p, fastDone := fast }, hk := { round := round } }

theorem witness_Boot : ((clkAt {})).resetEndDue = true ∧ (clkAt {}).canonical ∧ ((clkAt { inReset := false })).countDue = true ∧
    (clkAt { inReset := false, ref := some true }).clk.ref.isSome = true ∧ (clkAt { inReset := false, ref := some true }).clk.locked = false ∧
    bootSrc 0 = 0 ∧ bootSrc 3 = 1 ∧ bootSrc 5 = 2 ∧ (phaseAt 3 0 signed 0 false).clk.ready = false ∧ (phaseAt 3 0 signed 0 false).clk.locked = true ∧
    (phaseAt 3 0 signed 0 false).newestBank = some 1 ∧ (phaseAt 3 0 [] 0 false).newestBank = none ∧
    (phaseAt 5 0 signed 1 false).imgValid (phaseAt 5 0 signed 1 false).bootImg = true ∧ (phaseAt 5 0 signed 0 false).imgValid (phaseAt 5 0 signed 0 false).bootImg = false ∧
    (phaseAt 5 0 signed 0 false).clk.second = false ∧ (phaseAt 5 0 signed 0 true).clk.second = true ∧
    (phaseAt 5 0 signed 0 true).imgValid (phaseAt 5 0 signed 0 true).bootImg = false ∧
    (booting 7 true 1).clk.locked = true ∧ (booting 7 true 1).clk.ready = false ∧ (booting 7 true 1).clk.phase = 7 ∧ (booting 7 true 1).clk.fastDone = true ∧
    1 ≤ (booting 7 true 1).hk.round ∧ (booting 6 true 1).clk.phase ≠ 7 ∧ (booting 7 false 1).clk.fastDone = false ∧ (booting 7 true 0).hk.round = 0 ∧
    bootSrc (clkAt { inReset := false, ref := some true, straps := 3 }).clk.straps = 1 := by decide +kernel

/-! ### Every one of these states is given in itself -/

/-- The states in which a context issues. -/
def engineStates : List State :=
  [rig, boss, small, endPend, endWait, bell, nest, activated, outstaged, sampled, mirroring 0x52, mirroring 0x53, buffered 0x52 [(0x10000, 9)],
    buffered 0x53 (List.replicate 16 (0x10001, 0)), issuing 0x14300000 0x3A83126F, cellIssuing 0 0x3F800000 (formWords 2 true),
    cellIssuing 0 0x7FC00000 (formWords 2 true), cellIssuing 6 0x3F800000 (formWords 0 false), cellIssuing 6 0x3F800000 [(8, 0x3F800000)],
    calIssuing 0x70 [] #v[0, 0, 9, 0x300005, 0, 0, 0, 0, 0, 0, 0, 0, 0, 0, 0, 0], calIssuing 0x71 [entryOf 0 3 9 0] (Vector.replicate 16 0#32),
    { issuing (outWord 0x61 15) 0#32 with variant := .sv6420 }, { loadOf 0x52 0x8FFF with variant := .sv6420 }, remote 0x52, remote 0x53, ringless 0x52,
    ringless 0x53, updated, written 0x9000, written 0x10000, storing 0x308 7, storing 0x308 40, storing 0x501 5, storing 0x502 5, restaged, opening] ++
    (oneWordOps.map fun o => issuing (opWord o) 0#32) ++
    ([0x60, 0x61, 0x62, 0x63, 0x64].map fun o => issuing (outWord o 0) 0#32) ++
    ([1, 2, 3].map fun k => issuing (seqIns k) 0#32) ++
    ([(0x52, 0x9000), (0x52, 0x400), (0x52, 0x10000), (0x53, 0x9000), (0x53, 0x400), (0x53, 0x7FFFF)].map fun e => loadOf e.1 e.2)

theorem witness_given_engine : ∀ s ∈ engineStates, s = s.elapse 0 ∧ s = (s.elapse 0).asked :=
  fun s hs => given ((by decide +kernel : ∀ s ∈ engineStates, stays s = true) s hs)

/-- Those in which a mast works. -/
def mastsStates : List State :=
  [turning, ending, ofsAux, convS 0, convS 1, convP, heldS, heldP, setEnd (some {}), setEnd none, recAt { recInv := 4 },
    recAt { recovery := true, recEnd := true }, xTest, sensing { xRun := some 0, xN := 63 }, sensing { xRun := some 0, xN := 64 }, tripped,
    outputs, sixStep, round, comAt { hallRef := some 9 } 5 [], comAt {} 7 [], comAt {} 0 [], comAt {} 1 [], comAt {} 3 [],
    comAt {} 1 [(F.QUAD_CFG_CPR, 0, 4)], comAt {} 2 [(F.QUAD_CFG_CPR, 0, 4)], comAt { hallIllegal := some 0 } 0 [],
    comAt { hallSec := some 0, est := .track } 0 [(F.COM_CTL_ASRC, 0, 1)], zIndex, crossing, stepping, missed, lastMiss, window,
    comAt { luff := some { n := 1, i := 1, fromS := 0, toS := 1 } } 0 [], poling { phase := .plus, n := 1000 }, poling { phase := .zero1 },
    poling { phase := .minus, n := 1000 }, poling { phase := .zero2 }, switching 9000 {}, dueSet 3 100, dueSet 0 100, dueSet 3 2000,
    setOf [0, 1, 2] (some 100) false, setOf [0, 1, 2] (some 100) true, setOf [1, 2] none false, monitored tMs, monitored 5,
    setF (transferring { n := 1, i := 1, fromS := 0, toS := 6 } (stepMask 0)) (100 * tMs) [],
    comAt { drive := 2, est := .high, stepT := 5, zcRef := some (5, true) } 0 [(F.COM_CTL_ASRC, 0, 3)], withM turningMast,
    withM { turningMast with seq := { outEn := true } }, withM { turningMast with seq := { brakeLow := true } }, withM { turningMast with shr := { ocp := true } }]

theorem witness_given_masts : ∀ s ∈ mastsStates, s = s.elapse 0 ∧ s = (s.elapse 0).asked :=
  fun s hs => given ((by decide +kernel : ∀ s ∈ mastsStates, stays s = true) s hs)

/-- Those of the start sequencer, the halyard, the command pin and the shroud. -/
def drivesStates : List State :=
  [seqAt { st := .brake, pulse := true, pulseCut := true } [], seqAt { st := .brake, cnt := 2 ^ 16, lastE := 0x7F000000#32 } [],
    seqAt { st := .brake, cnt := 2 ^ 16, purpose := .reverse } [(F.CATCH_CFG_EMIN, 0, 1)], seqAt { st := .align } [],
    seqAt { st := .stopping } [(F.SEQ_CFG_STOP_TMO, 0, 1)], halAt { st := .dwell } .run [],
    halAt { stallAt := some 0 } .run [(F.STALL_CFG_JAM_N, 0, 3)], halAt { jamHold := some 0 } .run [], halAt { jamCount := 1 } .run [], cmdAt {} 1,
    cmdAt {} 2, cmdAt { riseAt := some 128, fallAt := some 256 } 2, cmdAt { riseAt := some 128 } 3, cmdAt { lvl := true } 2, cmdAt { lvl := true } 1, asked0 .start, asked0 (.stop 2), guarded 0,
    guarded 1, shrAt { cutAt := some 5, cutBy := 3, cbcRun := 4 } [(F.SHR_CBC_CBC_MAX, 0, 4)], shrAt { testAt := some 0 } [], furledS true,
    furledS false, group 0#32, group 0x7F000000#32, unknown, tame, pended]

theorem witness_given_drives : ∀ s ∈ drivesStates, s = s.elapse 0 ∧ s = (s.elapse 0).asked :=
  fun s hs => given ((by decide +kernel : ∀ s ∈ drivesStates, stays s = true) s hs)

/-- Those of contexts, lanes, cells and the data ports. -/
def contextsStates : List State :=
  [ready, quantum, equals, spent 1, spent 2, access (some 3) true, access (some 3) false, access none false, fullBuf, timed .waiting, timed .runnable,
    timed .disabled, onLane, cellRig (formWords 0 true) 5 1, cellRig (formWords 0 false) 5 1, cellRig [(8, 0x3F800000)] 5 1,
    cellRig [(0, 0xC0000000)] 10 0, portAt 0x9000, portAt 0x400, portAt 0x7FFFF, busyBank, { portAt 0x8FFF with variant := .sv6420 }] ++
    ([CtxSt.disabled, .waiting, .running, .blocked, .halted, .faulted].map debug) ++
    ([0, 5, 8, 10, 15].map fun k => cellRig (formWords 0 true) k 1)

theorem witness_given_contexts : ∀ s ∈ contextsStates, s = s.elapse 0 ∧ s = (s.elapse 0).asked :=
  fun s hs => given ((by decide +kernel : ∀ s ∈ contextsStates, stays s = true) s hs)

/-- Those of the ring, time and the calendar. -/
def ringStates : List State :=
  [ringAt { st := .quiet } {} {} [], ringAt { st := .acquire } {} {} [], ringAt { st := .locked } {} {} [],
    ringAt { st := .quiet } { st := .locked } {} [], ringAt {} {} { inserted := true } [], ringAt upPort {} { inserted := true } [],
    ringAt {} {} { retryAt := some 5 } [], ringAt upPort upPort { inserted := true } [], ringAt { upPort with wrap := true } upPort {} [],
    ringAt upPort upPort { inserted := true, stopRx := [(3, 2, tSec)] } [], ringAt upPort upPort { inserted := true } [(F.LK_CTL_STOP_RX, 0, 1)],
    repeating true, repeating false, ringAt {} {} { loopAt := some 0 } [], ringAt {} {} {} [], peering {},
    peering { first := [(3, 0, 1, 0)] }, asking, cycling, slave, servo { st := .track } [], servo { st := .mizzen } [], servo { st := .hold } [],
    servo {} [(F.SET_NS_NS, 0, 1000000000)], servo {} [(⟨R.TSC_CFG, 7, 5⟩, 0, 5)], servo {} [(⟨R.TSC_STAT, 7, 7⟩, 0, 1)], calDueS 3, calDueS 5,
    { calDueS 3 with cyc := { cal := true } }, busyCal, calAt [] (entryOf 0 3 9 0) [],
    calAt [entryOf 0 3 0 1] (entryOf 0 3 0 1) [(F.CAL_CTL_EN, 0, 0)], peeringSmall, ringAt { st := .acquire, sig := true } {} {} [],
    ringAt { st := .acquire, noSig := tSec } {} {} [], messaging { msg := some (5, [1, 2]) }, messaging { slotUsed := true }, messaging {}, selfMessage,
    silent .freerun 1 1 {}, silent .mizzen 1 1 {}, silent .track 1 2 { wasTrack := true }, loading, capturing, busyWas]

theorem witness_given_ring : ∀ s ∈ ringStates, s = s.elapse 0 ∧ s = (s.elapse 0).asked :=
  fun s hs => given ((by decide +kernel : ∀ s ∈ ringStates, stays s = true) s hs)

/-- Those of the ports, the store and the clocks. -/
def portsStates : List State :=
  [small, holding, received, lateS, cutS, reader true, reader false, fetcher, memAt { fetches := [2] } [],
    memAt { busy := some (.swrite, 0), unmap := true } [(0x10000, 1)], seqS 1 [], seqS 0 [7], seqS 0 [], lateRead, phased {}, phased { phq := [8] },
    phased { phq := List.replicate 8 0 }, phased { tx := List.replicate 16 0 }, memAt {} [(0x10000, 1)], keyed {} [] [], asked answer, asked [],
    keyed { lockUntil := some 5 } [] [], keyed { role := 1 } [] [(F.ROLE_CFG_IDLE, 0, 1)],
    keyed { role := 1 } (List.replicate 32 []) [(F.ROLE_CFG_IDLE, 0, 1)], storeAt signed {} 0 [], storeAt [] {} 0 [], storeAt image {} 0 [],
    storeAt [] { cmd := some (.load 0) } 0 [], storeAt [] { cmd := some (.load 0), pulse := some .cmd } 0 [], storeAt [] fullJournal 0 [],
    storeAt [] { compact := true, jPos := 2048 } 0 [], pulsing .cmd (some (.load 0)), pulsing (.faultErase 224) none, clkAt { porLow := true },
    clkAt { pinLow := true }, clkAt {}, clkAt { inReset := false }, clkAt { inReset := false, ref := some true }, resetting {} false, testing,
    phaseAt 3 0 signed 0 false, phaseAt 5 0 signed 0 true, booting 7 true 1, booting 6 true 1, booting 7 false 1, booting 7 true 0,
    clkAt { inReset := false, ref := some true, straps := 3 }, { boss with host := { status := true, out := [5] } }, tapHeld, resting 0, resting tSec,
    keyed { jtag := true } [] [], compacting [.head 0 [5], .wipe 224], compacting [.wipe 224], powering none, powering (some 0), powering (some (100 * tSec)),
    { testing with now := 20 * tUs }]

theorem witness_given_ports : ∀ s ∈ portsStates, s = s.elapse 0 ∧ s = (s.elapse 0).asked :=
  fun s hs => given ((by decide +kernel : ∀ s ∈ portsStates, stays s = true) s hs)

end Sys2Proof.Tests
end

/-! What passing time leaves alone: the clocks and the test access port (R585). -/

namespace Sys2Proof.Machine

variable {s t z : State}

/-- From `s` to `t` the clocks and the test access port are as they were. -/
structure State.Wired (s t : State) : Prop where
  clk : t.clk = s.clk
  tap : t.tap = s.tap

theorem State.Wired.refl (s : State) : s.Wired s := ⟨rfl, rfl⟩

theorem State.Wired.trans {a b c : State} (h : a.Wired b) (k : b.Wired c) : a.Wired c := ⟨k.clk.trans h.clk, k.tap.trans h.tap⟩

theorem State.Wired.ite {c : Prop} [Decidable c] (h : z.Wired s) (k : z.Wired t) : z.Wired (if c then s else t) := by
  split <;> assumption

theorem State.Wired.iteP {α : Type} {c : Prop} [Decidable c] {x y : α} (p : α → State) (h : z.Wired (p x)) (k : z.Wired (p y)) :
    z.Wired (p (if c then x else y)) := by
  split <;> assumption

theorem State.Wired.when (h : z.Wired s) {c : Bool} {f : State → State} (hf : ∀ t, z.Wired t → z.Wired (f t)) : z.Wired (s.when c f) :=
  .ite (hf s h) h

theorem State.Wired.foldl {α : Type} {l : List α} {f : State → α → State} (h : z.Wired s) (hf : ∀ t x, z.Wired t → z.Wired (f t x)) :
    z.Wired (l.foldl f s) := by
  induction l generalizing s with
  | nil => exact h
  | cons x r ih => exact ih (hf s x h)

/-- The work of one mast. -/
theorem State.Wired.only {m : Fin 16} (h : z.Wired s) (k : OnlyMast m s t) : z.Wired t :=
  h.trans ⟨by have e := congrArg State.clk k.outside; exact e, by have e := congrArg State.tap k.outside; exact e⟩

/-- Triggers and the start of the crow's nest. -/
theorem State.Wired.watched (h : z.Wired s) (k : s.Watched t) : z.Wired t :=
  h.trans ⟨by have e := congrArg State.clk k.rest; exact e, by have e := congrArg State.tap k.rest; exact e⟩

theorem State.Wired.setFld (h : z.Wired s) {f : Fld} {i v : Nat} : z.Wired (s.setFld f i v) := ⟨h.clk, h.tap⟩
theorem State.Wired.bump (h : z.Wired s) {f : Fld} {i n : Nat} : z.Wired (s.bump f i n) := ⟨h.clk, h.tap⟩
theorem State.Wired.updFc (h : z.Wired s) {f : Fc → Fc} : z.Wired (s.updFc f) := ⟨h.clk, h.tap⟩
theorem State.Wired.updRing (h : z.Wired s) {f : Ring → Ring} : z.Wired (s.updRing f) := ⟨h.clk, h.tap⟩
theorem State.Wired.updM (h : z.Wired s) {m : Fin 16} {f : Mast → Mast} : z.Wired (s.updM m f) := ⟨h.clk, h.tap⟩

theorem State.Wired.raise (h : z.Wired s) {src detail : Nat} {q : Option Nat} {k : Bool} : z.Wired (s.raise src detail q k) :=
  .ite ⟨h.clk, h.tap⟩ h

theorem State.Wired.trigger (h : z.Wired s) {cn kind a b : Nat} : z.Wired (s.trigger cn kind a b) :=
  h.watched (State.trigger_watched (.refl s))

theorem State.Wired.putSig (h : z.Wired s) {id : Nat} {w : Word} : z.Wired (s.putSig id w) :=
  State.Wired.watched (s := { s with sigs := spSet (sigReset id) s.sigs id w }) ⟨h.clk, h.tap⟩ State.putSig_watched

theorem State.Wired.putNew (h : z.Wired s) {id : Nat} {w : Word} : z.Wired (s.putNew id w) := .ite h h.putSig

theorem State.Wired.gateMark (h : z.Wired s) {m : Fin 16} : z.Wired (s.gateMark m) := h.only (State.gateMark_only (.refl m s))
theorem State.Wired.seqFault (h : z.Wired s) {m : Fin 16} : z.Wired (s.seqFault m) := h.only (State.seqFault_only (.refl m s))

/-! ### The crow's nest (R262–R264) -/

theorem State.Wired.trcPut (h : z.Wired s) {e : TrcRec} : z.Wired (s.trcPut e) := .ite ⟨h.clk, h.tap⟩ ⟨h.clk, h.tap⟩

theorem State.Wired.trcOrder (h : z.Wired s) {l : List TrcRec} : z.Wired (s.trcOrder l) :=
  .foldl ⟨h.clk, h.tap⟩ fun _ _ k => k.trcPut

theorem State.Wired.trcJoin (h : z.Wired s) {e : TrcRec} {lost : Bool} : z.Wired (s.trcJoin e lost) := by
  have h1 : z.Wired (if lost then s else { s with cyc.trc := s.cyc.trc ++ [e] }) := .ite h ⟨h.clk, h.tap⟩
  exact .ite h1.trcOrder h1

theorem State.Wired.putFrom {id : Nat} {l : List Word} (h : z.Wired s) : z.Wired (Machine.putFrom s id l) := by
  induction l generalizing s id with
  | nil => exact h
  | cons w r ih => exact ih h.putSig

theorem State.Wired.trcRecord (h : z.Wired s) {typ ctx tag : Nat} {a b : Word} : z.Wired (s.trcRecord typ ctx tag a b) := by
  unfold State.trcRecord
  extract_lets rank room ws r _ s1 _ s2 _ s3
  have h1 : z.Wired s1 := ⟨h.clk, h.tap⟩
  have h2 : z.Wired s2 := .ite ⟨h1.clk, h1.tap⟩ h1.putFrom
  have h3 : z.Wired s3 := .ite ⟨h2.clk, h2.tap⟩ h2
  exact .ite (.ite (.ite h.bump.trcJoin h) h3.trcJoin) h

theorem State.Wired.trcCond (h : z.Wired s) {cond : Nat} : z.Wired (s.trcCond cond) := .ite ⟨h.clk, h.tap⟩ h

/-! ### The fault collector's cycle (R362–R381) -/

theorem State.Wired.stopOriginate (h : z.Wired s) : z.Wired s.stopOriginate := by
  have h1 : z.Wired (s.putStop [0, 1] (s.fld F.LK_CFG_NODE) s.ring.stopNo) := h.when fun _ k => ⟨k.clk, k.tap⟩
  exact .ite h ⟨h1.clk, h1.tap⟩

theorem State.Wired.furlBy (h : z.Wired s) {by_ : Nat} : z.Wired (s.furlBy by_) := by
  have h1 : z.Wired s.gateMarkAll := h.foldl fun _ _ k => k.gateMark
  have h2 : z.Wired { s.gateMarkAll with furl.furled := true, furl.causes := s.gateMarkAll.furl.causes ||| by_ } := ⟨h1.clk, h1.tap⟩
  exact .ite h (.ite ⟨h.clk, h.tap⟩ ((h2.raise.foldl fun _ _ k => k.seqFault).when fun _ k => k.stopOriginate))

theorem State.Wired.openWake (h : z.Wired s) {code : Nat} {mast : Option Nat} {named : Bool} : z.Wired (s.openWake code mast named) :=
  .ite h ⟨h.clk, h.tap⟩

theorem State.Wired.mastReset (h : z.Wired s) {m : Fin 16} {restart : Bool} : z.Wired (s.mastReset m restart) :=
  .ite h.updM h.gateMark.updM

theorem State.Wired.reactMast (h : z.Wired s) {m : Fin 16} {code : Nat} {restart : Bool} : z.Wired (s.reactMast m code restart) := by
  unfold State.reactMast
  refine State.Wired.openWake ?_
  split
  · exact h.gateMark.seqFault
  · exact h.gateMark.seqFault.updM.only (State.refreshSafe_only (.refl m _))
  · exact h.only (State.seqRamp_only (.refl m s))
  · exact h.mastReset
  · exact h

theorem State.Wired.react (h : z.Wired s) {vs : List Verdict} : z.Wired (s.react vs) := by
  unfold State.react
  extract_lets _ s0
  have h0 : z.Wired s0 := h.foldl fun _ _ k => .ite k.openWake k
  have h1 (d : Option Nat) : z.Wired { s0 with fc.resetDue := d } := ⟨h0.clk, h0.tap⟩
  refine .ite (h1 _).openWake (.ite h0.furlBy.openWake (h0.foldl fun _ _ k => ?_))
  split
  · exact k.reactMast
  · exact k

theorem State.Wired.count (h : z.Wired s) {src : Nat} : z.Wired (s.count src).2 := by
  unfold State.count
  dsimp only
  split
  · exact h
  · split <;> exact ⟨h.clk, h.tap⟩

theorem State.Wired.classify (h : z.Wired s) {e : Ev} : z.Wired (s.classify e).2 :=
  .iteP Prod.snd h (.iteP Prod.snd h (.iteP Prod.snd h h.count))

theorem State.Wired.classifyAll {l : List Ev} (h : z.Wired s) : z.Wired (s.classifyAll l).2 := by
  induction l generalizing s with
  | nil => exact h
  | cons e r ih =>
    unfold State.classifyAll
    dsimp only
    split <;> exact ih h.classify

theorem State.Wired.storeRec (h : z.Wired s) {r : Rec} : z.Wired (s.storeRec r) :=
  .ite h (.ite h.updFc (.ite h.updFc h.bump.setFld))

theorem State.Wired.writeRec (h : z.Wired s) {v : Verdict} {logOnly : Bool} : z.Wired (s.writeRec v logOnly).2.2 := by
  unfold State.writeRec
  extract_lets
  split
  extract_lets s1 s2 s3 s4 s5 s6 s7 s8
  have h2 : z.Wired s2 := h.updFc.when fun _ k => k.setFld
  have h3 : z.Wired s3 := h2.when fun _ k => k.updFc
  have h4 : z.Wired s4 := h3.bump.when fun _ k => k.bump
  have h5 : z.Wired s5 := h4.when fun _ k => k.setFld
  have h6 : z.Wired s6 := h5.when fun _ k => k.trcCond
  have h8 : z.Wired s8 := h6.trcRecord.when fun _ k => k.trigger
  exact .ite h8.updFc h8.storeRec

theorem State.Wired.beginEffect (h : z.Wired s) {m : Fin 16} {k detail : Nat} {held : Bool} : z.Wired (s.beginEffect m k detail held) := by
  unfold State.beginEffect
  split <;> exact ⟨h.clk, h.tap⟩

theorem State.Wired.eventEffect (h : z.Wired s) {e : Ev} {held : Bool} : z.Wired (s.eventEffect e held) := by
  unfold State.eventEffect
  split
  · exact h.beginEffect
  · exact h

theorem State.Wired.writeAll {l : List Verdict} (h : z.Wired s) : z.Wired (s.writeAll l).2 := by
  induction l generalizing s with
  | nil => exact h
  | cons v r ih =>
    unfold State.writeAll
    split
    · exact ih h.updFc.eventEffect
    · exact ih h.writeRec.eventEffect

theorem State.Wired.collect (h : z.Wired s) : z.Wired s.collect := by
  exact (h.updFc.foldl fun _ _ k => k.eventEffect).classifyAll.writeAll.react

theorem State.Wired.settle {n : Nat} (h : z.Wired s) : z.Wired (Machine.settle n s) := by
  induction n generalizing s with
  | zero => exact h
  | succ n ih => exact .ite h (ih ⟨h.collect.clk, h.collect.tap⟩)

theorem State.Wired.cycle (h : z.Wired s) {t : Nat} : z.Wired (s.cycle t) := by
  have h1 : z.Wired s.settled := h.settle
  exact ⟨h1.clk, h1.tap⟩

/-! ### What the ring is given (R35, R442–R451) -/

theorem State.Wired.emit (h : z.Wired s) {f : TxFrame} : z.Wired (s.emit f) := h.updRing

theorem State.Wired.sendBulk {l : List TxFrame} (h : z.Wired s) : z.Wired (Machine.sendBulk s l) := by
  induction l generalizing s with
  | nil => exact h.updRing
  | cons f l ih => exact .ite (ih h.updRing.emit) h.updRing

theorem State.Wired.ownFrame (h : z.Wired s) {cls typ dst : Nat} {ws : List Word} : z.Wired (s.ownFrame cls typ dst ws).2 :=
  ⟨h.clk, h.tap⟩

theorem State.Wired.queueBulk (h : z.Wired s) {typ dst : Nat} {ws : List Word} : z.Wired (s.queueBulk typ dst ws) :=
  .ite h.ownFrame.updRing.sendBulk h.ownFrame.updRing

theorem State.Wired.sendOwn (h : z.Wired s) {cls typ dst : Nat} {ws : List Word} : z.Wired (s.sendOwn cls typ dst ws) := .ite h.ownFrame.emit h

theorem State.Wired.flushMsg (h : z.Wired s) : z.Wired s.flushMsg := by
  unfold State.flushMsg
  split
  · exact .ite h.updRing.sendOwn h
  · exact h

theorem State.Wired.peerWrite (h : z.Wired s) {id : Nat} {v : Word} : z.Wired (s.peerWrite id v) := .ite h.putSig h.setFld.raise

theorem State.Wired.applyMsg : ∀ {l : List Word} {s : State}, z.Wired s → z.Wired (s.applyMsg l)
  | [], _, h => h
  | [_], _, h => h
  | i :: v :: l, s, h => by
    have h1 : z.Wired (if bitOf i 31 then s.peerWrite (bitsOf i 19 0) v else s) := .ite h.peerWrite h
    exact h1.applyMsg

theorem State.Wired.sendMsg (h : z.Wired s) {d : Nat} : z.Wired (s.sendMsg d) := by
  have h1 : z.Wired (s.when s.ring.msg.isSome fun s => s.setFld F.LK_STAT_MSG_OVR 0 1) := h.when fun _ k => k.setFld
  exact .ite (h.applyMsg.when fun _ k => k.trigger) h1.updRing.flushMsg

theorem State.Wired.sendPost (h : z.Wired s) {p : Post} : z.Wired (s.sendPost p) := by
  cases p with
  | message d => exact h.sendMsg
  | bulk typ dst ws => exact h.queueBulk

theorem State.Wired.sendPosts (h : z.Wired s) : z.Wired s.sendPosts := .foldl ⟨h.clk, h.tap⟩ fun _ _ k => k.sendPost

/-! ### The calendar and SET_TIME (R458, R480–R488) -/

theorem State.Wired.calPut (h : z.Wired s) {e : CalEntry} : z.Wired (s.calPut e) := by
  have h1 : z.Wired { s with cal.entries := putEntry e s.cal.entries } := ⟨h.clk, h.tap⟩
  exact h1.putSig

theorem State.Wired.calFree (h : z.Wired s) {ix : Nat} : z.Wired (s.calFree ix) := by
  have h1 : z.Wired { s with cal.entries := dropEntry ix s.cal.entries } := ⟨h.clk, h.tap⟩
  exact h1.putSig

theorem State.Wired.calFlag (h : z.Wired s) {f : Fld} : z.Wired (s.calFlag f) := by
  have h1 : z.Wired (s.when (s.fld f == 0) fun s => s.setFld F.HOST_IFLG_CAL 0 1) := h.when fun _ k => k.setFld
  exact h1.setFld

theorem State.Wired.calLate (h : z.Wired s) {e : CalEntry} {step : Bool} : z.Wired (s.calLate e step) :=
  .ite h.calPut.raise (.ite h.calPut.raise (.ite h.calFlag.raise.bump.calFree h.calFlag.raise.bump.calPut))

theorem State.Wired.calSweep (h : z.Wired s) {step : Bool} : z.Wired (s.calSweep step) := h.foldl fun _ _ k => k.calLate

theorem State.Wired.cycleSync (h : z.Wired s) : z.Wired s.cycleSync := ⟨h.clk, h.tap⟩

theorem State.Wired.loadTime (h : z.Wired s) {total detail : Nat} : z.Wired (s.loadTime total detail) := by
  unfold State.loadTime
  extract_lets fwd _ s1
  have h0 : z.Wired { s with tb.total := total % tbWrap / 2 ^ 32 * 2 ^ 32 } := ⟨h.clk, h.tap⟩
  have h1 : z.Wired s1 := h0.setFld.raise
  exact (h1.when fun _ k => k.calSweep).cycleSync

theorem State.Wired.acquire (h : z.Wired s) {noSet : Bool} : z.Wired (s.acquire noSet) := by
  have h0 (f : Servo → Servo) : z.Wired (s.updSrv f) := ⟨h.clk, h.tap⟩
  have h1 : z.Wired (s.enterSrv .acquire) := (h0 _).putSig
  exact ⟨h1.clk, h1.tap⟩

theorem State.Wired.tbLoad (h : z.Wired s) : z.Wired s.tbLoad := by
  have h0 : z.Wired { s with tb.load := none } := ⟨h.clk, h.tap⟩
  unfold State.tbLoad
  dsimp only
  split
  · exact h
  · exact h0.loadTime.when fun _ k => k.acquire
  · exact h0.loadTime

theorem State.Wired.calInsert (h : z.Wired s) {w0 w1 w2 w3 : Word} : z.Wired (s.calInsert w0 w1 w2 w3).1 := by
  have h1 : z.Wired { s with cal.ord := s.cal.ord + 1 } := ⟨h.clk, h.tap⟩
  exact .iteP Prod.fst h.setFld (.iteP Prod.fst h.raise.setFld (.iteP Prod.fst h.bump.raise.setFld (.iteP Prod.fst h.bump.setFld
    (.ite h1.calPut.calLate h1.calPut))))

theorem State.Wired.calRemove (h : z.Wired s) {ix : Nat} : z.Wired (s.calRemove ix).1 := by
  unfold State.calRemove
  split
  · exact h
  · split
    · exact h
    · exact h.calFree

theorem State.Wired.calRead (h : z.Wired s) {ix : Nat} : z.Wired (s.calRead ix).1 := by
  unfold State.calRead
  split
  · exact h
  · dsimp only
    split <;> exact ⟨h.clk, h.tap⟩

theorem State.Wired.calJob (h : z.Wired s) {j : CalJob} : z.Wired (s.calJob j) := by
  have h1 : z.Wired (s.calRun j).1 := by
    unfold State.calRun
    split
    · exact h.calInsert
    · exact h.calRemove
    · exact h.calRead
  unfold State.calJob
  dsimp only
  split <;> exact ⟨h1.clk, h1.tap⟩

/-! ### A cycle, and time -/

theorem State.Wired.letFree (h : z.Wired s) : z.Wired s.letFree := by
  have h1 : z.Wired ((s.deferred.filter (·.free)).foldl (fun s d => s.gateMark (Fin.ofNat 16 (d.key / 0x2000))) s) := h.foldl fun _ _ k => k.gateMark
  exact .ite ⟨h1.clk, h1.tap⟩ h

theorem State.Wired.sigTick (h : z.Wired s) : z.Wired s.sigTick := by
  have h1 : z.Wired ((s.putNew 0x407 (b2w s.mzValid)).putNew 0x309 (nat32 s.ring.nodes)) := h.putNew.putNew
  exact .ite (h1.watched (State.trcWatch_watched (fireWatches_watched (.refl _)))) h1

theorem State.Wired.look (h : z.Wired s) {t : Nat} : z.Wired (s.look t) := h.foldl fun t _ k => k.only (State.pathLook_only (.refl _ t))

theorem State.Wired.calCycle (h : z.Wired s) : z.Wired s.calCycle := .foldl ⟨h.clk, h.tap⟩ fun _ _ k => k.calJob

theorem State.Wired.seqCycle (h : z.Wired s) : z.Wired s.seqCycle := h.foldl fun t _ k => k.only (State.seqTurn_only (.refl _ t))

theorem State.Wired.nextCycle (h : z.Wired s) {c1 : Nat} : z.Wired (s.nextCycle c1) :=
  h.look.sendPosts.cycle.letFree.tbLoad.calCycle.seqCycle.sigTick

theorem State.Wired.laterCycle (h : z.Wired s) {c : Nat} : z.Wired (s.laterCycle c) :=
  .ite h.look.cycle.sigTick.sigTick h.look.cycle.sigTick

/-- Time that passes changes neither the clocks nor the test access port. -/
theorem State.Wired.elapse (h : z.Wired s) {dt : Nat} : z.Wired (s.elapse dt) := by
  have h1 (c1 : Nat) := h.nextCycle (c1 := c1)
  have h2 (c1 c : Nat) : z.Wired (if c1 < c then (s.nextCycle c1).laterCycle c else s.nextCycle c1) := .ite (h1 c1).laterCycle (h1 c1)
  exact .ite ⟨h.look.clk, h.look.tap⟩ ⟨(h2 _ _).look.clk, (h2 _ _).look.tap⟩

/-- Nor does the wait of the host port for a cycle of its own. -/
theorem State.hostTurn_wired (s : State) : s.Wired s.hostTurn := by
  have h := (State.Wired.refl s).elapse (dt := tSpar - s.now % tSpar)
  exact .ite ⟨h.clk, h.tap⟩ (.refl s)

end Sys2Proof.Machine

/-! Discarded writes and the addresses that read 0 (R3, R4, R39, R537). -/

namespace Sys2Proof.Machine

variable {s t z : State} {addr : Nat} {w : Word}

/-! ### The register table -/

theorem findRow_mem {a : Nat} {r : RegRow} : ∀ {l : List RegRow}, findRow l a = some r → r ∈ l ∧ r.addr = a
  | [], h => nomatch h
  | x :: l, h => by
    unfold findRow at h
    split at h
    · rename_i e
      cases h
      exact ⟨List.mem_cons_self, e.symm⟩
    · exact (findRow_mem h).imp_left (List.mem_cons_of_mem x)

theorem regRow_mem {a : Nat} {r : RegRow} (h : regRow a = some r) : r ∈ regRows ∧ r.addr = a := findRow_mem h

/-- Windows 0x0E and 0x0F hold no register (R38). -/
theorem regRow_reserved {a : Nat} (h : a / 256 = 14 ∨ a / 256 = 15) : regRow a = none := by
  have key : ∀ r ∈ regRows, r.addr / 256 ≠ 14 ∧ r.addr / 256 ≠ 15 := by decide +kernel
  rw [Option.eq_none_iff_forall_ne_some]
  intro r hr
  obtain ⟨hm, rfl⟩ := regRow_mem hr
  have := key r hm
  omega

theorem State.place_reserved (h : addr / 256 = 14 ∨ addr / 256 = 15) : s.place addr = .none_ := by
  unfold State.place
  dsimp only
  rw [if_neg (by omega), if_neg (by omega), regRow_reserved h]

/-- What an address that leads to a register says of it. -/
theorem State.place_reg {a i : Nat} {row : RegRow} (h : s.place addr = .reg a i row) :
    (16 ≤ addr / 256 ∧ s.hasMast (addr / 256 - 16) = true ∧ a = 0x1000 + addr % 256 ∧ regRow a = some row) ∨
    (addr / 256 < 16 ∧ ¬(addr / 256 = 5 ∧ s.variant.ring = false) ∧ a = addr ∧ s.regAbsent addr (s.regIdx addr) = false ∧
      ∃ r, regRow addr = some r ∧ row = rowAt addr i r) := by
  unfold State.place at h
  dsimp only at h
  by_cases hw : 16 ≤ addr / 256
  · rw [if_pos hw] at h
    cases hm : s.hasMast (addr / 256 - 16) with
    | false => rw [hm] at h; cases h
    | true =>
      rw [hm] at h
      cases hr : regRow (0x1000 + addr % 256) with
      | none => rw [hr] at h; cases h
      | some r =>
        rw [hr] at h
        cases h
        exact .inl ⟨hw, rfl, rfl, hr⟩
  · rw [if_neg hw] at h
    by_cases h5 : addr / 256 = 5 ∧ s.variant.ring = false
    · rw [if_pos h5] at h; cases h
    · rw [if_neg h5] at h
      cases hr : regRow addr with
      | none => rw [hr] at h; cases h
      | some r =>
        rw [hr] at h
        cases ha : s.regAbsent addr (s.regIdx addr) with
        | true => simp [ha] at h
        | false =>
          simp only [ha, Bool.false_eq_true, if_false, Place.reg.injEq] at h
          obtain ⟨rfl, rfl, rfl⟩ := h
          exact .inr ⟨by omega, h5, rfl, rfl, r, rfl, rfl⟩

/-- The registers with RC fields. -/
def countRegs : List Nat :=
  [R.RST_CNT, R.ROLE_FAILS, R.FC_SRC_STAT, R.FC_CNT, R.LK_ERR0, R.LK_ERR1, R.CAL_CNT, R.TRC_STAT, R.HOST_BELL, R.HOST_CNT, R.LOOP_OVR, R.SHR_CNT]

/-- Only they have RC fields to take. -/
theorem rcMask_rowAt {a i : Nat} {r : RegRow} (h : regRow a = some r) (ha : a ∉ countRegs) : rcMask (rowAt a i r) = 0#32 ∧ rcMask r = 0#32 := by
  have key : ∀ r ∈ regRows, r.addr ∈ countRegs ∨ (rcMask (rowAt r.addr 0 r) = 0#32 ∧ rcMask r = 0#32) := by decide +kernel
  have hi : rowAt a i r = rowAt a 0 r ∨ rowAt a i r = r := by
    unfold rowAt
    by_cases hc : a = R.SNS_CFG ∧ i < 24
    · exact .inl (by rw [if_pos hc, if_pos ⟨hc.1, by decide⟩])
    · exact .inr (if_neg hc)
  obtain ⟨hm, rfl⟩ := regRow_mem h
  obtain ⟨h0, h1⟩ := (key r hm).resolve_left ha
  rcases hi with e | e <;> rw [e]
  · exact ⟨h0, h1⟩
  · exact ⟨h1, h1⟩

/-- None of them is the first of its window, and the offset before each is a register too. -/
theorem countRegs_pred {b : Nat} (h : b + 1 ∈ countRegs) : (regRow b).isSome = true := by
  have key : ∀ x ∈ countRegs, (regRow (x - 1)).isSome = true := by decide +kernel
  exact key _ h

/-- That register is there where the one with RC fields is (R3). -/
theorem State.regAbsent_pred {b : Nat} (h : b + 1 ∈ countRegs) : s.regAbsent b (s.regIdx b) = s.regAbsent (b + 1) (s.regIdx (b + 1)) := by
  have key : ∀ x ∈ countRegs, s.regAbsent (x - 1) (s.regIdx (x - 1)) = s.regAbsent x (s.regIdx x) := by
    intro x hx
    fin_cases hx <;> rfl
  exact key _ h

/-- An address of the device's windows leads to the register it names where that is present. -/
theorem State.place_present {r : RegRow} (h : addr / 256 < 16) (h5 : ¬(addr / 256 = 5 ∧ s.variant.ring = false)) (hr : regRow addr = some r)
    (ha : s.regAbsent addr (s.regIdx addr) = false) : ∃ a i row, s.place addr = .reg a i row := by
  by_cases e : addr / 256 = 5
  · exact ⟨_, _, _, State.place_ring e (by simpa [e] using h5) hr ha⟩
  · exact ⟨_, _, _, State.place_dev h e hr ha⟩

/-- An address in mast m's window leads to the register of that offset. -/
theorem State.place_present_mast {r : RegRow} (h : 16 ≤ addr / 256) (hm : s.hasMast (addr / 256 - 16) = true)
    (hr : regRow (0x1000 + addr % 256) = some r) : ∃ a i row, s.place addr = .reg a i row := by
  refine ⟨0x1000 + addr % 256, addr / 256 - 16, r, ?_⟩
  unfold State.place
  dsimp only
  rw [if_pos h, hm, hr]
  rfl

/-- The address names no register that is present (R3, R39). -/
def State.Void (s : State) (addr : Nat) : Prop := s.place addr = .absent ∨ s.place addr = .none_

theorem State.Void.not_reg (h : s.Void addr) {a i : Nat} {row : RegRow} : s.place addr ≠ .reg a i row := by
  rcases h with e | e <;> rw [e] <;> exact nofun

/-- Behind an address that names no register stands none with RC fields. -/
theorem State.Void.next_rcMask (h : s.Void addr) (hl : addr % 256 ≠ 255) {a i : Nat} {row : RegRow} (hp : s.place (addr + 1) = .reg a i row) :
    rcMask row = 0#32 := by
  have hwin : (addr + 1) / 256 = addr / 256 := by omega
  rcases State.place_reg hp with ⟨hw, hm, rfl, hr⟩ | ⟨hw, h5, rfl, habs, r, hr, rfl⟩
  · have e : 0x1000 + (addr + 1) % 256 = 0x1000 + addr % 256 + 1 := by omega
    refine (rcMask_rowAt (i := 0) hr fun hc => ?_).2
    obtain ⟨r', hr'⟩ := Option.isSome_iff_exists.mp (countRegs_pred (e ▸ hc))
    rw [hwin] at hw hm
    obtain ⟨_, _, _, k⟩ := State.place_present_mast hw hm hr'
    exact h.not_reg k
  · refine (rcMask_rowAt hr fun hc => ?_).1
    obtain ⟨r', hr'⟩ := Option.isSome_iff_exists.mp (countRegs_pred hc)
    rw [hwin] at hw h5
    obtain ⟨_, _, _, k⟩ := State.place_present hw h5 hr' ((State.regAbsent_pred hc).trans habs)
    exact h.not_reg k

/-- So the access of the next address, made while its word is sent, takes nothing (R501). -/
theorem State.Void.accessPast (h : s.Void addr) : s.accessPast (nextAddr addr) = s := by
  unfold State.accessPast
  split
  · rename_i a i row hp
    refine if_pos ?_
    unfold nextAddr at hp ⊢
    split
    · exact .inl ‹_›
    · rename_i hlow
      rw [if_neg hlow] at hp
      split
      · exact .inl (le_refl _)
      · rename_i hl
        rw [if_neg hl] at hp
        exact .inr (.inl (h.next_rcMask hl hp))
  · rfl

/-! ### A write that is refused -/

theorem State.flag_of_rd {f : Fld} {i : Nat} (h : t.rd (keyI f.addr i) = s.rd (keyI f.addr i)) : t.flag f i = s.flag f i := by
  unfold State.flag State.fld
  rw [h]

/-- A discarded write sets DENIED; its event is the collector's. -/
theorem State.denied_updFc {d : Nat} : ∃ f, s.denied d = (s.setFld F.HOST_STAT_DENIED 0 1).updFc f := by
  unfold State.denied State.raise
  split
  · exact ⟨fun f => { f with events := f.events ++ [{ src := DS.ROLE_DENIED, detail := d, mast := none, marked := false }] }, rfl⟩
  · exact ⟨id, rfl⟩

/-- From `s` to `t` a write of the address has been discarded: HOST_STAT says why, and the store may have worked. -/
structure State.Discards (s t : State) (addr : Nat) : Prop where
  masts : t.masts = s.masts
  role : t.role.role = s.role.role
  regs : ∀ key, key ≠ R.HOST_STAT → key % 0x2000 ≠ R.ST_STAT → t.rd key = s.rd key
  absent : s.place addr = .absent → t.flag F.HOST_STAT_ABSENT = true
  silent : s.place addr = .none_ → t.rd R.HOST_STAT = s.rd R.HOST_STAT
  denied : (∃ a i row, s.place addr = .reg a i row) → t.flag F.HOST_STAT_DENIED = true

/-- What follows touches no mast, no role and no register but ST_STAT. -/
theorem State.Discards.trans {u : State} (h : s.Discards t addr) (hm : u.masts = t.masts) (hr : u.role.role = t.role.role)
    (hk : ∀ key, key % 0x2000 ≠ R.ST_STAT → u.rd key = t.rd key) : s.Discards u addr := by
  have hs : u.rd R.HOST_STAT = t.rd R.HOST_STAT := hk _ (by decide)
  exact ⟨hm.trans h.masts, hr.trans h.role, fun key h1 h2 => (hk key h2).trans (h.regs key h1 h2),
    fun hp => (State.flag_of_rd hs).trans (h.absent hp), fun hp => hs.trans (h.silent hp), fun hp => (State.flag_of_rd hs).trans (h.denied hp)⟩

theorem State.Discards.stores {u : State} (h : s.Discards t addr) (k : t.Stores u) : s.Discards u addr :=
  h.trans k.masts (congrArg RoleSt.role k.role) k.regs

/-- The machine while a word that arrived through a port is carried out (`j`: through JTAG, R546). -/
def State.writing (s : State) (h : HostPort) (j : Bool) : State := { s with host := h, role := { s.role with jtag := j }, cyc.host := true }

/-- The same, with the time of the write noted (R544). -/
def State.noted (s : State) (h : HostPort) (j : Bool) : State :=
  { s with host := h, role := { s.role with lastWrite := s.now, jtag := j }, cyc.host := true }

/-- The machine refuses a write of the address: no register is there, or the word would change a field above the session's role. -/
def State.Refuses (s : State) (addr : Nat) (w : Word) : Prop :=
  s.place addr = .absent ∨ s.place addr = .none_ ∨
    ∃ a i row, s.place addr = .reg a i row ∧ a ≠ R.SIG_DATA ∧ ∀ (h : HostPort) (j : Bool), s.role.role < (s.noted h j).writeNeed a i row w

section
variable {h : HostPort} {j : Bool}

theorem State.writing_regWrite : (s.writing h j).regWrite addr w = match s.place addr with
    | .absent => (s.noted h j).setFld F.HOST_STAT_ABSENT 0 1
    | .none_ => s.noted h j
    | .reg a i row =>
      if s.role.role < (s.noted h j).writeNeed a i row w then (s.noted h j).denied (addr / 256)
      else ((s.noted h j).recorded addr a i ((s.noted h j).writeNeed a i row w) row w).calAgain a i row := rfl

theorem State.noted_discards (hp : s.place addr = .none_) : s.Discards (s.noted h j) addr :=
  ⟨rfl, rfl, fun _ _ _ => rfl, fun k => absurd (hp.symm.trans k) nofun, fun _ => rfl, fun ⟨_, _, _, k⟩ => absurd (hp.symm.trans k) nofun⟩

theorem State.absent_discards (hp : s.place addr = .absent) (hw : s.regsWf) : s.Discards ((s.noted h j).setFld F.HOST_STAT_ABSENT 0 1) addr :=
  ⟨rfl, rfl, fun _ h1 _ => State.rd_setFld_other (s := s.noted h j) h1, fun _ => State.flag_setFld_one (s := s.noted h j) hw (by decide) rfl,
    fun k => absurd (hp.symm.trans k) nofun, fun ⟨_, _, _, k⟩ => absurd (hp.symm.trans k) nofun⟩

theorem State.denied_discards {d a i : Nat} {row : RegRow} (hp : s.place addr = .reg a i row) (hw : s.regsWf) :
    s.Discards ((s.noted h j).denied d) addr := by
  obtain ⟨f, hf⟩ := State.denied_updFc (s := s.noted h j) (d := d)
  have hflag : ((s.noted h j).setFld F.HOST_STAT_DENIED 0 1).flag F.HOST_STAT_DENIED = true :=
    State.flag_setFld_one (s := s.noted h j) hw (by decide) rfl
  rw [hf]
  exact ⟨rfl, rfl, fun _ h1 _ => State.rd_setFld_other (s := s.noted h j) h1, fun k => absurd (hp.symm.trans k) nofun,
    fun k => absurd (hp.symm.trans k) nofun, fun _ => (State.flag_of_rd State.updFc_rd).trans hflag⟩

/-- A refused write of a register, of whichever reason, is discarded in full. -/
theorem State.regWrite_discards (hr : s.Refuses addr w) (hw : s.regsWf) :
    s.Discards ((s.writing h j).regWrite addr w) addr ∧ ((s.writing h j).regWrite addr w).host = h := by
  rw [State.writing_regWrite]
  rcases hr with hp | hp | ⟨a, i, row, hp, -, hneed⟩
  · rw [hp]
    exact ⟨State.absent_discards hp hw, rfl⟩
  · rw [hp]
    exact ⟨State.noted_discards hp, rfl⟩
  · rw [hp]
    dsimp only
    rw [if_pos (hneed h j)]
    refine ⟨State.denied_discards hp hw, ?_⟩
    obtain ⟨f, hf⟩ := State.denied_updFc (s := s.noted h j) (d := addr / 256)
    rw [hf]
    rfl

end

/-- A write word the machine refuses, at a port that waits for nothing. -/
theorem State.writeWord_discards {q : HostPort} {j : Bool} (hc : s.cyc.host = false) (hready : s.clk.ready = true) (hq : q.hold = none)
    (ha : addr < 0x2000) (hr : s.Refuses addr w) (hw : s.regsWf) :
    ∃ t, ({ s with host := q, role := { s.role with jtag := j } } : State).writeWord addr w false = some t ∧ s.Discards t addr ∧ t.host = q := by
  have hcycle : ({ s with host := q, role := { s.role with jtag := j } } : State).hostCycle = s.writing q j := State.hostCycle_same hc
  have hpast : ¬addrPast ≤ addr := by unfold addrPast; omega
  obtain ⟨hd, hhost⟩ := State.regWrite_discards (h := q) (j := j) hr hw
  unfold State.writeWord
  dsimp only
  rw [hcycle, show (s.writing q j).clk.ready = true from hready, show (s.writing q j).host.hold = none from hq, if_neg (by decide), if_neg hpast,
    if_neg fun k => Bool.false_ne_true k]
  rcases hr with hp | hp | ⟨a, i, row, hp, hs, -⟩
  · rw [show (s.writing q j).place addr = .absent from hp]
    exact ⟨_, rfl, hd, hhost⟩
  · rw [show (s.writing q j).place addr = .none_ from hp]
    exact ⟨_, rfl, hd, hhost⟩
  · rw [show (s.writing q j).place addr = .reg a i row from hp]
    dsimp only
    rw [if_neg (by simp), if_neg fun k => hs k.1]
    exact ⟨_, rfl, hd.stores (State.finish_stores _), (State.finish_stores _).host.trans hhost⟩

/-! ### The transactions -/

/-- Where the host port waits for nothing, a transaction begins with nothing of an earlier one left. -/
theorem State.hostBegin_idle {z : State} {b : Bool} (e : s = z.asked) (h : s.HostIdle) :
    z.hostTurn.clk.locked = true ∧ ∃ p : HostPort, z.hostTurn.hostBegin b = s.withHost p ∧ p.fifo = [] ∧ p.late = none ∧ p.hold = none ∧
      p.drop = false ∧ p.heldRegs = s.host.heldRegs := by
  subst e
  obtain ⟨hlocked, -, hfifo, hlate, hhold⟩ := h
  refine ⟨?_, _, rfl, hfifo, hlate, hhold, rfl, rfl⟩
  rw [← hlocked]
  exact congrArg Clk.locked State.lastSent_same.2.1.symm

/-- A WRITE of one word, where the word has an effect that leaves the port alone. -/
theorem State.hostReg_word {z : State} {p : State → Prop} (e : s = z.asked) (h : s.HostIdle)
    (hw : ∀ q : HostPort, q.hold = none → ∃ t, (s.withHost q).writeWord addr w false = some t ∧ p t ∧ t.host = q) :
    ∃ t q, p t ∧ z.hostReg addr w = t.withHost q := by
  obtain ⟨hlocked, b, hb, hfifo, hlate, hhold, hdrop, -⟩ := State.hostBegin_idle (b := true) e h
  have hhdr : (s.withHost b).hostPush (.write addr false) = s.withHost { b with fifo := [], cur := some (.write addr false) } :=
    State.hostPush_does hdrop hfifo hlate rfl rfl
  obtain ⟨t, ht, hp, hhost⟩ := hw { b with fifo := [], cur := some (.write addr false) } hhold
  have hword : (s.withHost { b with fifo := [], cur := some (.write addr false) }).hostEntry (.word w false) =
      some (t.updHost fun h => { h with cur := h.cur.map fun _ => .write (nextAddr addr) false }) := by
    unfold State.hostEntry
    dsimp only [State.withHost]
    dsimp only [State.withHost] at ht
    rw [ht]
    rfl
  have hpush := State.hostPush_does (s := s.withHost { b with fifo := [], cur := some (.write addr false) }) hdrop rfl hlate hword
    (by unfold State.updHost; rw [hhost])
  have hreg : z.hostReg addr w = (s.withHost { b with fifo := [], cur := some (.write addr false) }).hostPush (.word w false) := by
    unfold State.hostReg State.hostWriteT
    dsimp only
    rw [hlocked, if_neg (by decide), hb, hhdr]
    rfl
  exact ⟨t, _, hp, hreg.trans hpush⟩

/-- A write through the host port that the machine refuses. -/
theorem State.hostReg_discards {z : State} (e : s = z.asked) (h : s.HostIdle) (ha : addr < 0x2000) (hr : s.Refuses addr w) (hw : s.regsWf) :
    s.Discards (z.hostReg addr w) addr := by
  have hc : s.cyc.host = false := by rw [e]; exact State.asked_cyc
  obtain ⟨t, q, ht, hreg⟩ := State.hostReg_word (p := fun t => s.Discards t addr) e h fun q hq =>
    State.writeWord_discards (j := s.role.jtag) hc h.ready hq ha hr hw
  rw [hreg]
  exact ht.trans rfl rfl fun _ _ => rfl

/-- A write through JTAG that the machine refuses. -/
theorem State.jtagReg_discards {z : State} (e : s = z.hostTurn) (h : s.HostIdle) (htrst : s.tap.trstLow = false) (ha : addr < 0x2000)
    (hr : s.Refuses addr w) (hw : s.regsWf) : s.Discards (z.jtagReg addr w) addr := by
  subst e
  obtain ⟨hclk, htap⟩ := State.hostTurn_wired z
  obtain ⟨t, ht, hd, -⟩ := State.writeWord_discards (q := z.hostTurn.host) (j := true) State.hostTurn_cyc h.ready h.hold ha hr hw
  have hopen : (z.tap.trstLow || !z.clk.locked) = false := by rw [← htap, ← hclk, htrst, h.locked]; rfl
  have ht' : (z.hostTurn.updRole fun r => { r with jtag := true }).writeWord addr w false = some t := ht
  unfold State.jtagReg
  dsimp only
  rw [hopen, if_neg (by decide), ht', Option.getD_some]
  exact hd.trans rfl rfl fun _ _ => rfl

/-! ### A read of no register -/

theorem State.Void.readLive (hv : s.Void addr) (hh : ∀ e ∈ s.host.heldRegs, e.1 ≠ addr) : s.readLive addr = (some 0#32, s) := by
  have hfind : (s.host.heldRegs.find? fun e => e.1 == addr) = none := List.find?_eq_none.mpr fun e he => by simpa using hh e he
  unfold State.readLive
  rw [hfind]
  rcases hv with hp | hp <;> rw [hp]

theorem State.Void.readWord {b : Bool} (hv : s.Void addr) (hc : s.cyc.host = false) (ha : addr < 0x2000) (hhold : s.host.hold = none)
    (hh : ∀ e ∈ s.host.heldRegs, e.1 ≠ addr) : s.readWord addr b = (some 0#32, s.onPort) := by
  have hlive : s.onPort.readLive addr = (some 0#32, s.onPort) := State.Void.readLive hv hh
  unfold State.readWord
  dsimp only
  rw [State.hostCycle_same hc, if_neg (by unfold addrPast; omega), show s.onPort.host.hold = none from hhold]
  exact hlive

theorem State.wordSent_withHost : ∃ p, s.wordSent = s.withHost p ∧ p.fifo = s.host.fifo := by
  unfold State.wordSent
  split <;> exact ⟨_, rfl, rfl⟩

/-- A READ of one word sends 0, and only the port has moved. -/
theorem State.Void.readWords {prev : Word} (hv : s.Void addr) (hc : s.cyc.host = false) (ha : addr < 0x2000) (hhold : s.host.hold = none)
    (hh : ∀ e ∈ s.host.heldRegs, e.1 ≠ addr) :
    ∃ p, s.readWords addr false true prev 1 = ([0#32], s.onPort.withHost p) ∧ p.fifo = s.host.fifo := by
  have hword : (s.updHost fun h => { h with rc := none }).readWord addr true = (some 0#32, (s.updHost fun h => { h with rc := none }).onPort) :=
    State.Void.readWord hv hc ha hhold hh
  obtain ⟨p, hp, hfifo⟩ := State.wordSent_withHost (s := s.onPort.withHost { s.host with ahead := none })
  have hside : s.aside (fun s => s.readWord addr true) = (some 0#32, s.onPort.withHost { s.host with ahead := none }) := by
    unfold State.aside
    dsimp only
    rw [hword]
    rfl
  have hpast : (s.onPort.withHost p).accessPast (nextAddr addr) = s.onPort.withHost p := State.Void.accessPast hv
  refine ⟨p, ?_, hfifo⟩
  unfold State.readWords
  rw [hside]
  dsimp only
  unfold State.readWords
  rw [hp]
  exact congrArg (Prod.mk [0#32]) hpast

theorem State.Void.hostReads {z : State} (e : s = z.asked) (h : s.HostIdle) (ha : addr < 0x2000) (hv : s.Void addr)
    (hh : ∀ e ∈ s.host.heldRegs, e.1 ≠ addr) : ∃ p : HostPort, z.hostReads addr false 1 = s.onPort.withHost p ∧ p.out = [0#32] := by
  obtain ⟨hlocked, b, hb, hfifo, hlate, hhold, hdrop, hheld⟩ := State.hostBegin_idle (b := false) e h
  have hc : s.cyc.host = false := by rw [e]; exact State.asked_cyc
  obtain ⟨p, hp, hpf⟩ := State.Void.readWords (s := s.withHost { b with fifo := [] }) (prev := 0#32) hv hc ha hhold (by rw [← hheld] at hh; exact hh)
  have hentry : (s.withHost { b with fifo := [] }).hostEntry (.read addr false 1) = some (s.onPort.withHost { p with out := [0#32] }) := by
    unfold State.hostEntry
    dsimp only
    rw [if_neg (by decide), hp]
    rfl
  have hpush := State.hostPush_does (s := s.withHost b) hdrop hfifo hlate hentry hpf
  refine ⟨{ p with out := [0#32] }, ?_, rfl⟩
  unfold State.hostReads State.hostReadT
  dsimp only
  rw [hlocked, if_neg (by decide), if_neg (by decide), hb, show (s.withHost b).host.fifo = [] from hfifo, show (s.withHost b).host.late = none from hlate]
  exact (if_pos rfl).trans hpush

/-! ### The rows -/

theorem exec_hostRead {dt n : Nat} {a : BitVec 13} : exec (.hostRead dt a n) z = done ((z.elapse dt).hostReads a.toNat false n) := rfl

theorem exec_hostRegisterWrite {dt : Nat} {a : BitVec 13} : exec (.registerWrite dt ⟨.host, a⟩ w) z = done ((z.elapse dt).hostReg a.toNat w) := rfl

theorem exec_jtagRegisterWrite {dt : Nat} {a : BitVec 13} : exec (.registerWrite dt ⟨.jtag, a⟩ w) z = done ((z.elapse dt).jtagReg a.toNat w) := rfl

/-- REGISTER_WRITE of a word the machine refuses, through either port. -/
theorem exec_registerWrite_discards {dt : Nat} {port : WritePort} {a : BitVec 13}
    (e : s = match port with | .host => (z.elapse dt).asked | .jtag => (z.elapse dt).hostTurn) (h : s.HostIdle) (hw : s.regsWf)
    (htrst : port = .jtag → s.tap.trstLow = false) (hr : s.Refuses a.toNat w) :
    ∃ t, exec (.registerWrite dt ⟨port, a⟩ w) z = .next t ∧ s.Discards t a.toNat := by
  cases port with
  | host =>
    rw [exec_hostRegisterWrite]
    exact done_gives fun t k => (State.hostReg_discards e h a.isLt hr hw).stores k
  | jtag =>
    rw [exec_jtagRegisterWrite]
    exact done_gives fun t k => (State.jtagReg_discards e h (htrst rfl) a.isLt hr hw).stores k

/-- Settles O7: a refused write changes HOST_STAT alone (`State.Discards`), and no RC field stands behind an address without a register, so that its read
takes nothing (`State.Void.accessPast`). -/
theorem discardedWrites : Obligations.DiscardedWrites := by
  intro dt port addr z s e h hcan
  refine ⟨State.place_reserved, fun hport hv hh => ?_, fun w htrst hr => ?_⟩
  · subst hport
    obtain ⟨p, hreads, hout⟩ := State.Void.hostReads e h addr.isLt hv hh
    rw [exec_hostRead, hreads]
    exact done_gives fun t k => ⟨(congrArg HostPort.out k.host).trans hout, k.regs _ (by decide)⟩
  · obtain ⟨t, ht, hd⟩ := exec_registerWrite_discards e h hcan.1 htrst hr
    exact ⟨t, ht, hd.masts, hd.role, fun key h1 h2 => hd.regs key h1 fun k => h2 (by rw [k]; decide), hd.absent, hd.silent, hd.denied⟩

end Sys2Proof.Machine

/-! What a boundary loads: the set that is due, its period raised to 1,200, and CFG_ERR where it was below (R24–R26, R50, R52). -/

namespace Sys2Proof.Machine

variable {s : State} {m j : Fin 16} {b : Nat}

/-! ### The set a boundary loads -/

/-- The set a reload at `b` makes active, before its period is clamped. -/
def State.dueSet (s : State) (m : Fin 16) (b : Nat) : PwmSet :=
  if (s.mast m).resetAt.isSome then (s.mast m).pwm.act.zeroed
  else (if (s.mast m).pwm.k = 0 then some (s.firstSet m b) else (chooseEntry (s.mast m).pwm b).map (·.set)).getD (s.mast m).pwm.act

/-- Period 0 starts from the first set. -/
theorem State.dueSet_first (hk : (s.mast m).pwm.k = 0) (hr : (s.mast m).resetAt = none) : s.dueSet m b = s.firstSet m b := by
  simp [State.dueSet, hk, hr]

/-- A later period starts from the entry chosen for it. -/
theorem State.dueSet_entry {e : Commit} (hk : (s.mast m).pwm.k ≠ 0) (hr : (s.mast m).resetAt = none)
    (he : chooseEntry (s.mast m).pwm b = some e) : s.dueSet m b = e.set := by
  simp [State.dueSet, hk, hr, he]

theorem clampPeriod_eq_max {per : Nat} : clampPeriod per = max 1200 per := by
  unfold clampPeriod
  split <;> omega

/-! ### The reload, in its three steps -/

/-- What the sets missing at a boundary do (R25). -/
def State.countOverruns (s : State) (m : Fin 16) (n : Nat) : State :=
  ((s.bump F.LOOP_OVR_COUNT m n).bump F.LOOP_OVR_TOTAL m n).raiseM m MS.LOOP_OVERRUN 0

/-- A reload loads the due set with its period clamped, then sets CFG_ERR where the period was too low, then counts what is missing. -/
theorem State.reload_steps : ∃ f : Pwm → Pwm,
    (f (s.mast m).pwm).act = { s.dueSet m b with period := clampPeriod (s.dueSet m b).period } ∧
    s.reload m b = ((s.updPwm m f).when (decide ((s.dueSet m b).period < 1200)) fun t => t.setFld F.PWM_STAT_CFG_ERR m 1).when
      (decide (0 < overruns (s.mast m).pwm b)) fun t => t.countOverruns m (overruns (s.mast m).pwm b) :=
  ⟨_, rfl, rfl⟩

/-- Missing sets leave every mast as it is. -/
theorem State.countOverruns_mast {n : Nat} : (s.countOverruns m n).mast j = s.mast j := State.raiseM_mast

/-- A raised event leaves the registers as they are. -/
theorem State.raiseM_rd {k detail key : Nat} : (s.raiseM m k detail).rd key = s.rd key := by
  unfold State.raiseM State.raise
  split <;> rfl

theorem State.rd_bump_other {f : Fld} {i n key : Nat} (h : key ≠ keyI f.addr i) : (s.bump f i n).rd key = s.rd key :=
  State.rd_wr_other (s := s) h

/-- The counts of the missing sets stand in a register of their own. -/
theorem State.countOverruns_cfgErr {n : Nat} : (s.countOverruns m n).flag F.PWM_STAT_CFG_ERR m = s.flag F.PWM_STAT_CFG_ERR m := by
  have hkey : keyI F.PWM_STAT_CFG_ERR.addr m ≠ keyI 0x1004 m := keyI_ne (by decide) (by decide) (.inl (by decide))
  unfold State.flag State.fld State.countOverruns
  rw [State.raiseM_rd, State.rd_bump_other hkey, State.rd_bump_other hkey]

/-- The active set after a reload. -/
theorem State.reload_act : ((s.reload m b).mast m).pwm.act = { s.dueSet m b with period := max 1200 (s.dueSet m b).period } := by
  obtain ⟨f, hact, hreload⟩ := State.reload_steps (s := s) (m := m) (b := b)
  rw [hreload, State.when_reads (·.mast m) fun _ => State.countOverruns_mast, State.when_reads (·.mast m) fun _ => State.setFld_mast,
    State.updPwm_pwm, hact, clampPeriod_eq_max]

/-- A due set whose period is below 1,200 sets CFG_ERR. -/
theorem State.reload_cfgErr (hw : s.regsWf) (hlow : (s.dueSet m b).period < 1200) : (s.reload m b).flag F.PWM_STAT_CFG_ERR m = true := by
  obtain ⟨f, -, hreload⟩ := State.reload_steps (s := s) (m := m) (b := b)
  rw [hreload, State.when_reads (·.flag F.PWM_STAT_CFG_ERR m) fun _ => State.countOverruns_cfgErr, State.when, if_pos (decide_eq_true hlow)]
  exact State.flag_setFld_one (s := s.updPwm m f) hw (by decide) rfl

/-! ### The set period 0 starts from -/

/-- The most recent commit of those that came early enough. -/
theorem State.firstSet_commit {e : Commit} (h : ((s.mast m).pwm.hist.filter fun e => decide (e.doneAt + 256 ≤ b)).getLast? = some e) :
    s.firstSet m b = e.set := by
  unfold State.firstSet Commit.ripe
  rw [h]

/-- With no commit early enough, the staging set with zero compares. -/
theorem State.firstSet_staged (h : ∀ e ∈ (s.mast m).pwm.hist, b < e.doneAt + 256) : s.firstSet m b = (s.staged m).zeroed := by
  have hnone : ((s.mast m).pwm.hist.filter fun e => e.ripe b) = [] :=
    List.filter_eq_nil_iff.mpr fun e he hripe => absurd (h e he) (Nat.not_lt.mpr (of_decide_eq_true hripe))
  unfold State.firstSet
  rw [hnone]
  rfl

theorem State.staged_leg {l : Fin 4} : (s.staged m).legs[l] = s.stagedLeg m l := by
  fin_cases l <;> rfl

theorem PwmSet.zeroed_leg {x : PwmSet} {l : Fin 4} : x.zeroed.legs[l] = { x.legs[l] with a := 0, b := 0 } :=
  Vector.getElem_map ..

/-- Settles O6: a reload makes the due set active with its period clamped (`State.reload_act`), and what it counts afterwards leaves the CFG_ERR it
set (`State.reload_cfgErr`). -/
theorem periodFloor : Obligations.PeriodFloor := by
  intro s m b hcan
  refine ⟨?_, fun e hk hr he => ?_, fun hk hr => ?_, fun e h => State.firstSet_commit h, fun h => ?_⟩
  · rw [State.reload_act]
    exact Nat.le_max_left ..
  · rw [State.reload_act, State.dueSet_entry hk hr he]
    exact ⟨rfl, fun hlow => State.reload_cfgErr hcan.1 (by rwa [State.dueSet_entry hk hr he])⟩
  · rw [State.reload_act, State.dueSet_first hk hr]
    exact ⟨rfl, fun hlow => State.reload_cfgErr hcan.1 (by rwa [State.dueSet_first hk hr])⟩
  · rw [State.firstSet_staged h]
    exact ⟨rfl, fun l => by rw [PwmSet.zeroed_leg, State.staged_leg]⟩

end Sys2Proof.Machine

/-! The bitwise, shift, minimum, bit-field and move rows (R300–R302). -/

namespace Sys2Proof.Machine

variable {s : State} {c : Fin 64} {w : Word}

/-! ### Fields of a word as the rules name them -/

theorem bitOf_eq_getLsbD {i : Nat} : bitOf w i = w.getLsbD i := rfl

theorem bfPos_eq : bfPos w = w.toNat % 32 := rfl

/-- The width of a bit field: its field of the modifier, plus 1 (R301). -/
def bfWidth (w : Word) : Nat := w.toNat / 32 % 32 + 1

theorem bfMask_eq : bfMask w = BitVec.ofNat 32 (2 ^ bfWidth w - 1) := by
  unfold bfMask bitsOf
  rw [Nat.shiftRight_eq_div_pow]
  rfl

theorem bfMask_getLsbD {i : Nat} : (bfMask w).getLsbD i = (decide (i < 32) && decide (i < bfWidth w)) := by
  rw [bfMask_eq, BitVec.getLsbD_ofNat, Nat.testBit_two_pow_sub_one]

theorem sextNat_toNat {n : Nat} {x : BitVec (n + 1)} : sextNat (n + 1) x.toNat = x.toInt := by
  unfold sextNat
  rw [BitVec.toInt_eq_toNat_cond, Nat.mod_eq_of_lt x.isLt, Nat.add_sub_cancel]
  have hcond : x.toNat < 2 ^ n ↔ 2 * x.toNat < 2 ^ (n + 1) := by rw [Nat.pow_succ]; omega
  simp only [hcond]

theorem iImm_eq_toNat : iImm w = (w.extractLsb' 0 20).toNat := by
  rw [BitVec.extractLsb'_toNat]
  rfl

/-- Two's complement of the 20-bit field is its sign extension (R281). -/
theorem iImmS_eq : iImmS w = (w.extractLsb' 0 20).signExtend 32 := by
  unfold iImmS wordOfInt BitVec.signExtend
  rw [iImm_eq_toNat, sextNat_toNat]

/-- The 20-bit field in bits 31:12, zeros below (R302). -/
theorem upper_iImm : nat32 (iImm w * 2 ^ 12) = w.extractLsb' 0 20 ++ 0#12 := by
  refine BitVec.eq_of_toNat_eq ?_
  have hlt := (w.extractLsb' 0 20).isLt
  unfold nat32
  rw [iImm_eq_toNat, BitVec.toNat_ofNat, BitVec.toNat_append, Nat.mod_eq_of_lt (by omega), Nat.shiftLeft_eq]
  exact (Nat.or_zero _).symm

/-! ### The operations -/

theorem Flags.zn_eq {f : Flags} {r : Word} : f.zn r = { f with z := decide (r = 0#32), n := r.msb } := by
  unfold Flags.zn
  rw [bitOf_eq_getLsbD, BitVec.msb_eq_getLsbD_last]

theorem minOf_eq {a b : Word} : minOf a b = BitVec.ofInt 32 (min a.toInt b.toInt) := by
  unfold minOf
  rw [BitVec.slt_eq_decide]
  by_cases h : a.toInt < b.toInt
  · rw [if_pos (decide_eq_true h), min_eq_left h.le, BitVec.ofInt_toInt]
  · rw [if_neg (by simpa using h), min_eq_right (not_lt.mp h), BitVec.ofInt_toInt]

theorem maxOf_eq {a b : Word} : maxOf a b = BitVec.ofInt 32 (max a.toInt b.toInt) := by
  unfold maxOf
  rw [BitVec.slt_eq_decide]
  by_cases h : a.toInt < b.toInt
  · rw [if_pos (decide_eq_true h), max_eq_right h.le, BitVec.ofInt_toInt]
  · rw [if_neg (by simpa using h), max_eq_left (not_lt.mp h), BitVec.ofInt_toInt]

theorem bfxOf_eq {a : Word} : bfxOf a w = BitVec.ofNat 32 (a.toNat / 2 ^ (w.toNat % 32) % 2 ^ bfWidth w) := by
  refine BitVec.eq_of_getLsbD_eq fun i hi => ?_
  unfold bfxOf
  rw [BitVec.getLsbD_and, bfMask_getLsbD, BitVec.getLsbD_ushiftRight, BitVec.getLsbD_ofNat, Nat.testBit_mod_two_pow, Nat.testBit_div_two_pow,
    bfPos_eq, Bool.and_comm, Bool.and_assoc, Nat.add_comm i]
  rfl

theorem bfiOf_eq {a d : Word} : bfiOf a d w = BitVec.ofFnLE fun i : Fin 32 =>
    if w.toNat % 32 ≤ i.val ∧ i.val < w.toNat % 32 + bfWidth w then a.getLsbD (i.val - w.toNat % 32) else d.getLsbD i.val := by
  refine BitVec.eq_of_getLsbD_eq fun i hi => ?_
  unfold bfiOf
  rw [bfPos_eq, BitVec.getLsbD_ofFnLE]
  simp only [BitVec.getLsbD_or, BitVec.getLsbD_and, BitVec.getLsbD_not, BitVec.getLsbD_shiftLeft, bfMask_getLsbD, hi, dif_pos, decide_true, Bool.true_and]
  by_cases hlo : i < w.toNat % 32
  · simp [hlo, Nat.not_le.mpr hlo]
  · by_cases hhi : i < w.toNat % 32 + bfWidth w
    · have hin : i - w.toNat % 32 < bfWidth w := by omega
      have h32 : i - w.toNat % 32 < 32 := by omega
      simp [hlo, hhi, hin, h32, Nat.not_lt.mp hlo]
    · have hout : ¬ i - w.toNat % 32 < bfWidth w := by omega
      simp [hhi, hout]

/-! ### The rows -/

theorem Ctx.reg_congr {x y : Ctx} (h : x.v = y.v) : x.reg = y.reg := by
  funext r
  unfold Ctx.reg
  rw [h]

/-- The shift amount of a shift row (R301). -/
def Ctx.shAmt (x : Ctx) (w : Word) : Nat := if w.getLsbD 11 then w.toNat % 32 else (x.reg (iB w)).toNat % 32

theorem State.shAmt_eq : s.shAmt c w = (s.ctx c).shAmt w := rfl

theorem Ctx.shAmt_congr {x y : Ctx} (h : x.v = y.v) : x.shAmt w = y.shAmt w := by
  unfold Ctx.shAmt
  rw [Ctx.reg_congr h]

section
variable {i : Nat → Fin 64 → Instr} {o : Nat} {body : Fin 64 → State → Word → Word → State}

/-- A row whose result, a function `r` of the registers and the word, gives Z and N and leaves the other flags. -/
theorem RowGives.of_zn {r : (Nat → Word) → Word → Word} (he : ∀ dt c s, exec (i dt c) s = instr dt c o (body c) s)
    (hb : ∀ c s w l, body c s w l = s.result c w 1 (r (s.ctx c).reg w) fun f => f.zn (r (s.ctx c).reg w)) :
    RowGives i o 1 (fun x w _ => r x.reg w) (fun x w f => { f with z := decide (r x.reg w = 0#32), n := (r x.reg w).msb }) :=
  RowGives.of_result he (fun c s w l _ => by simp only [hb, Flags.zn_eq])
    (fun _ _ _ _ h => by rw [Ctx.reg_congr h]) (fun _ _ _ h => by rw [Ctx.reg_congr h])

/-- A shift row: `sh` of va and the amount; bit `out` of va is the last one shifted out, and goes to C where the amount is not 0. -/
theorem RowGives.of_shift {sh : Word → Nat → Word} {out : Nat → Nat} (he : ∀ dt c s, exec (i dt c) s = instr dt c o (body c) s)
    (hb : ∀ c s w l, body c s w l = s.result c w 1 (sh (s.vA c w) (s.shAmt c w)) fun f =>
      f.shiftOf (sh (s.vA c w) (s.shAmt c w)) (if s.shAmt c w = 0 then none else some (bitOf (s.vA c w) (out (s.shAmt c w))))) :
    RowGives i o 1 (fun x w _ => sh (x.reg (iA w)) (x.shAmt w))
      (fun x w f =>
        { f with z := decide (sh (x.reg (iA w)) (x.shAmt w) = 0#32), n := (sh (x.reg (iA w)) (x.shAmt w)).msb,
                 c := if x.shAmt w = 0 then f.c else (x.reg (iA w)).getLsbD (out (x.shAmt w)) }) := by
  refine RowGives.of_result he (fun c s w l _ => ?_) (fun _ _ _ _ h => by rw [Ctx.reg_congr h, Ctx.shAmt_congr h])
    (fun _ _ _ h => by rw [Ctx.reg_congr h, Ctx.shAmt_congr h])
  rw [hb, State.shAmt_eq]
  congr 1
  funext f
  unfold Flags.shiftOf
  rw [Flags.zn_eq]
  split <;> rfl

end

/-- Settles O9: each row's effect is `result` or `setReg` of an operation on the registers (`RowGives.of_zn`, `RowGives.of_shift`,
`RowGives.of_move`), and each operation is the one the rules name (`minOf_eq`, `bfxOf_eq`, `bfiOf_eq`, `iImmS_eq`, `upper_iImm`). -/
theorem logicAndMoves : Obligations.LogicAndMoves := by
  refine ⟨?and, ?or, ?xor, ?shl, ?shr, ?sar, ?min, ?max, ?bfx, ?bfi, ?mov, ?movi, ?movhi, ?lit, fun _ => rfl⟩
  case and => exact RowGives.of_zn (r := fun v w => v (iA w) &&& v (iB w)) (fun _ _ _ => rfl) (fun _ _ _ _ => rfl)
  case or => exact RowGives.of_zn (r := fun v w => v (iA w) ||| v (iB w)) (fun _ _ _ => rfl) (fun _ _ _ _ => rfl)
  case xor => exact RowGives.of_zn (r := fun v w => v (iA w) ^^^ v (iB w)) (fun _ _ _ => rfl) (fun _ _ _ _ => rfl)
  case shl => exact RowGives.of_shift (sh := (· <<< ·)) (out := (32 - ·)) (fun _ _ _ => rfl) (fun _ _ _ _ => rfl)
  case shr => exact RowGives.of_shift (sh := (· >>> ·)) (out := (· - 1)) (fun _ _ _ => rfl) (fun _ _ _ _ => rfl)
  case sar => exact RowGives.of_shift (sh := BitVec.sshiftRight) (out := (· - 1)) (fun _ _ _ => rfl) (fun _ _ _ _ => rfl)
  case min =>
    simp only [← minOf_eq]
    exact RowGives.of_zn (r := fun v w => minOf (v (iA w)) (v (iB w))) (fun _ _ _ => rfl) (fun _ _ _ _ => rfl)
  case max =>
    simp only [← maxOf_eq]
    exact RowGives.of_zn (r := fun v w => maxOf (v (iA w)) (v (iB w))) (fun _ _ _ => rfl) (fun _ _ _ _ => rfl)
  case bfx =>
    have hrow := RowGives.of_zn (i := .bfx) (r := fun v w => bfxOf (v (iA w)) w) (fun _ _ _ => rfl) (fun _ _ _ _ => rfl)
    simp only [bfxOf_eq] at hrow
    exact hrow
  case bfi =>
    have hrow := RowGives.of_zn (i := .bfi) (r := fun v w => bfiOf (v (iA w)) (v (iD w)) w) (fun _ _ _ => rfl) (fun _ _ _ _ => rfl)
    simp only [bfiOf_eq] at hrow
    exact hrow
  case mov => exact RowGives.of_move (fun _ _ _ => rfl) (fun _ _ _ _ _ => rfl) (fun _ _ _ _ h => by rw [Ctx.reg_congr h])
  case movi =>
    simp only [← iImmS_eq]
    exact RowGives.of_move (fun _ _ _ => rfl) (fun _ _ _ _ _ => rfl) (fun _ _ _ _ _ => rfl)
  case movhi =>
    simp only [← upper_iImm]
    exact RowGives.of_move (fun _ _ _ => rfl) (fun _ _ _ _ _ => rfl) (fun _ _ _ _ _ => rfl)
  case lit => exact RowGives.of_move (fun _ _ _ => rfl) (fun _ _ _ _ _ => rfl) (fun _ _ _ _ _ => rfl)

end Sys2Proof.Machine
